-- ==== Sys2Proof/Word.lean ====
section
/-! DEFINITION. The word types of the block and their plainest arithmetic. -/

namespace Sys2Proof

/-- One byte of memory or of a packet. -/
abbrev Byte := BitVec 8
/-- A 32-bit register or docket word (00 R8, 21 R482). -/
abbrev Word := BitVec 32
/-- A 64-bit count, time or ledger word. -/
abbrev Word64 := BitVec 64
/-- A local or global address: 48 bits (21 R473). -/
abbrev Addr := BitVec 48

end Sys2Proof
end

