-- ==== Sys2Proof/Syntax.lean ====
section
/-! DEFINITION. The commands the block takes: one constructor of `Instr` for each row of spec/opcode_table.json,
with the operands its rule names, and the plain data those operands are made of. -/

namespace Sys2Proof

/-- Mill 0-15 (01 R11). -/
abbrev MillId := Fin 16
/-- Physical Quern 0-6 of a Mill (03 R66). -/
abbrev QuernId := Fin 7
/-- Chute 0-127 (06 R156). -/
abbrev ChuteId := Fin 128
/-- Bell 0-255 (06 R155). -/
abbrev BellId := Fin 256
/-- Network interface 0-63 (11 Table 11.2). -/
abbrev NiId := Fin 64
/-- Quad 0-3. -/
abbrev QuadId := Fin 4
/-- Logical Granary bank 0-127 (05 R100). -/
abbrev BankId := Fin 128
/-- Plot 0-95 (05 R101). -/
abbrev PlotId := Fin 96
/-- Weir 0-1. -/
abbrev WeirId := Fin 2
/-- Camera port 0-7. -/
abbrev CamId := Fin 8
/-- Spigot channel 0-255 (10 R228). -/
abbrev ChanId := Fin 256
/-- Boom node 0-7. -/
abbrev BoomId := Fin 8
/-- Ethernet MAC 0-1. -/
abbrev MacId := Fin 2
/-- CAN controller 0-1. -/
abbrev CanId := Fin 2
/-- Flume port FL0-FL5. -/
abbrev FlumeId := Fin 6
/-- Node of a group, 0-31 (12 R288). -/
abbrev NodeId := Fin 32
/-- Ledger line of a region, 0-16383 (13 R304). -/
abbrev LineId := Fin 16384
/-- Unit identifier (17 Table 17.1): an 8-bit value, 43-255 reserved. -/
abbrev UnitId := Fin 256
/-- A memory bank that grants slots (05 R103): a logical Granary bank, or bank `b` of a Mill's Hopper. -/
inductive BankRef where
  | gran (b : BankId) | hop (m : MillId) (b : Fin 16)
deriving DecidableEq, Repr

/-- A docket: sixteen little-endian words (06 R130). -/
abbrev DocketWords := Vector Word 16

/-- The masters of the Tally tree (11 R272). -/
inductive TreeMaster where
  | pairA | pairB | pcie
deriving DecidableEq, Repr

/-- Network status of a response (11 Table 11.7). -/
inductive NetStatus where
  | ok | offline | timeout | uncorr | linkDown | bound | reserved
deriving DecidableEq, Repr

/-- What a receiver finds in a protected word or sideband (11 R257). -/
inductive Ecc where
  | good | corrected | bad
deriving DecidableEq, Repr

/-- What a bank's ECC finds on a row read (05 R107, R108): nothing, a correctable error in 64-byte word `word`, an
uncorrectable error there, or (class 1) a row parity mismatch. -/
inductive RowEcc where
  | clean | correctable (word : Fin 8) | uncorrectable (word : Fin 8) | rowParity
deriving DecidableEq, Repr

/-- A Millrace packet: the head-flit sideband of 11 Table 11.3 and its payload. -/
structure Packet where
  route : BitVec 24
  rptr : BitVec 3
  rlen : BitVec 3
  vn : Fin 5
  sub : Bool
  lane : Bool
  kind : BitVec 4
  src : NiId
  dst : NiId
  gen : BitVec 4
  slot : Fin 256
  epoch : BitVec 8
  status : NetStatus
  addr : Addr
  xinfo : BitVec 12
  payload : List Byte
deriving DecidableEq, Repr

/-- A HANDOUT message (19 Table 19.2). -/
structure HandoutMsg where
  docket : DocketWords
  granBase : Word
  granBound : Word
  hop : Word
  cls : Fin 4
  chute : ChuteId
  tenant : Fin 8
  slot : Fin 8
deriving DecidableEq, Repr

/-- A DONE message (19 Table 19.2): the receipt of this Mill, and its slot. -/
structure DoneMsg where
  chute : ChuteId
  status : BitVec 8
  tag : BitVec 16
  detail : Word
  doneTime : Word64
  startTime : Word64
  tiles : Word
  sat : Word
  slot : Fin 8
deriving DecidableEq, Repr

/-- The REASON of an ABORT message (19 Table 19.2). -/
inductive AbortReason where
  | overrun | offline | faultElsewhere
deriving DecidableEq, Repr

/-- One converted edge (10 R234, 19 Table 19.2): channel, action (0 OFF, 1 ON, 2 DUTY, 3 refused), duty, time. -/
structure Edge where
  chan : ChanId
  action : Fin 4
  duty : BitVec 10
  time : Word64
deriving DecidableEq, Repr

/-- One measurement record (08 Table 8.3). -/
structure Record where
  src : Fin 64
  mask : BitVec 4
  seq : Word
  time : Word64
  v0 : Word
  v1 : Word
  v2 : Word
  v3 : Word
deriving DecidableEq, Repr

/-- A CSI-2 long packet as a port's receiver sees it (09 R207): its header, the length it measures in bytes, its CRC,
and the pixel values (one per pixel, or per byte for YUV422). -/
structure LongPacket where
  hdr : Ecc
  vc : Fin 4
  dt : BitVec 6
  measured : Nat
  crcErr : Bool
  pixels : List Nat
deriving DecidableEq, Repr

/-- A transition seen by an encoder's decoder (09 R222). -/
inductive QuadStep where
  | up | down | both
deriving DecidableEq, Repr

/-- An Ethernet frame at the MAC's receiver (10 R244). -/
structure EthFrame where
  bytes : List Byte
  vlan : BitVec 16
  pcp : Fin 8
deriving DecidableEq, Repr

/-- A CAN frame (10 R246, R247). -/
structure CanFrame where
  ext : Bool
  id : BitVec 29
  flags : BitVec 2
  data : List Byte
deriving DecidableEq, Repr

/-- A Flume packet with its transfer header (12 Table 12.6). -/
structure FlumePacket where
  dstNode : NodeId
  srcNode : NodeId
  hptr : Nat
  hops : Nat
  ports : BitVec 24
  kind : BitVec 4
  sub : Bool
  vn : Fin 5
  origNi : NiId
  origTag : BitVec 12
  status : NetStatus
  addr : Addr
  xinfo : BitVec 12
  data : List Byte
deriving DecidableEq, Repr

/-- A data or control flit at a Flume receiver (12 R279, R280): header fields and what the FEC and CRC found. -/
structure Flit where
  seq : BitVec 10
  ack : BitVec 10
  nak : Bool
  ctrl : Bool
  vn : Fin 5
  crVn : Fin 5
  crCnt : BitVec 8
  fecOk : Bool
  fecCorr : Bool
  crcOk : Bool
  packets : List FlumePacket
deriving DecidableEq, Repr

/-- How an attempt to decode one LDPC codeword ends (14 R331), with the bits it corrected. -/
inductive Codeword where
  | hard (bits : Nat) | retry (bits : Nat) | soft (bits : Nat) | uncorr
deriving DecidableEq, Repr

/-- What the NAND's parameter pages report (14 R329): chip enables, LUNs and planes, the cell type and page size, the blocks of
all targets together, the raw capacity in 4 KiB units of the native mode, and whether every populated target reports the
same. -/
structure NandGeom where
  ce : BitVec 4
  luns : BitVec 4
  planes : BitVec 4
  tlc : Bool
  page16 : Bool
  blocks : Nat
  rawUnits : Nat
  identical : Bool
deriving DecidableEq, Repr

/-- The outcome of the reset test (16 R385): failed pairs, an unrepaired critical array, the Mills and other units with
an unrepaired array, the Granary banks beyond their spare rows, the Querns with an unrepaired bank, soft repairs, and the time
taken in microseconds. -/
structure ResetTest where
  millerA : Bool
  millerB : Bool
  critical : Bool
  unitsOff : List UnitId
  banks : List BankId
  querns : List (MillId × QuernId)
  repairs : Nat
  us : Word
deriving DecidableEq, Repr

/-- The outcome of a memory BIST (16 R370, Table 16.6): failing rows repaired, whether a bank stays unrepaired, whether
the unrepaired array is Quern `quern`, and the first failing read. -/
structure MbistOutcome where
  repairs : List Word
  unrepaired : Bool
  quern : Option QuernId
  firstFail : Word
  firstBit : BitVec 12
deriving DecidableEq, Repr

/-- What a Sluice's program-and-verify finds for one field (04 R76): the cells still out of band, as (row, pair, error). -/
structure FieldOutcome where
  outOfBand : List (Fin 1024 × Fin 1024 × BitVec 8)
deriving DecidableEq, Repr

/-- What a refresh or verify finds for one field (04 R81, R85): cells outside the refresh band, the cells it pulsed, and
those still out of the program band. -/
structure FieldScan where
  oob : BitVec 15
  pulsed : Nat
  outOfBand : List (Fin 1024 × Fin 1024 × BitVec 8)
deriving DecidableEq, Repr

/-- What one scrub read of a Quern row finds (03 R60, R61). -/
inductive ScrubFind where
  | clean | parity (seg : Fin 8) | goldMismatch
deriving DecidableEq, Repr

/-- A command of the block: one constructor per row of spec/opcode_table.json, in the table's order. -/
inductive Instr where
  -- registers, doorbells, chutes and Bells (00, 06)
  | csrWrite (master : TreeMaster) (addr : Word) (value : Word)
  | rcRead (master : TreeMaster) (addr : Word) (incs : Nat)
  | dbTail (c : ChuteId) (v : BitVec 16)
  | dbRcpt (c : ChuteId) (v : BitVec 16)
  | docketRead (c : ChuteId) (net : NetStatus)
  | handOut
  | waitTimeoutExpire (c : ChuteId)
  | chuteEnable (c : ChuteId) (v : Word)
  | chuteDisable (c : ChuteId) (v : Word)
  | chuteReconfigure (c : ChuteId) (v : Word)
  | phaseHiWrite (c : ChuteId) (v : Word)
  | periodNsWrite (c : ChuteId) (v : Word)
  | timerRelease (c : ChuteId)
  | heldReleaseStart (c : ChuteId)
  | bellSetWrite (g : Fin 8) (v : Word)
  | bellClrWrite (g : Fin 8) (v : Word)
  | fence (c : ChuteId)
  | waitEvent (c : ChuteId)
  | signal (c : ChuteId)
  | tenantSwitch
  | tenantClearDone (m : MillId)
  -- the Mill's messages (19)
  | handout (m : MillId) (src : NiId) (msg : HandoutMsg)
  | done (m : MillId) (msg : DoneMsg)
  | abort (m : MillId) (src : NiId) (tag : BitVec 16) (chute : ChuteId) (reason : AbortReason)
  | bell (m : MillId) (b : BellId)
  | edges (m : MillId) (chute : ChuteId) (slot : Fin 8) (es : List Edge)
  -- the dispatcher and the tile sequencer (06, 07)
  | dispatch (m : MillId)
  | docketResume (m : MillId)
  | l2Stage (m : MillId)
  | tileIssue (m : MillId)
  | tileComplete (m : MillId)
  | matmul (m : MillId)
  | matmulAcc (m : MillId)
  | fuse2 (m : MillId)
  | winnow (m : MillId)
  | hist (m : MillId)
  | loadw (m : MillId)
  -- Querns (03)
  | bankFillStart (m : MillId)
  | bankFillDone (m : MillId)
  | bankSwap (m : MillId)
  | quernVector (m : MillId) (q : Fin 6)
  | quernPartialsOut (m : MillId)
  | scrubRead (m : MillId) (p : QuernId) (bankB : Bool) (find : ScrubFind)
  | rowRepairDone (m : MillId) (p : QuernId) (bankB : Bool)
  | qmapWrite (m : MillId) (v : Word)
  | remapDone (m : MillId)
  -- Sluice and Tally (04)
  | sluiceVector (m : MillId)
  | sluicePartialsOut (m : MillId)
  | sluProg (m : MillId)
  | sluFieldDone (m : MillId) (o : FieldOutcome)
  | sluVerify (m : MillId) (scans : List FieldScan)
  | sluRefresh (m : MillId) (scan : FieldScan)
  | sensorPoll (m : MillId) (t : Vector Int 4)
  | compUpdate (m : MillId) (resid : BitVec 16)
  | histClear (m : MillId) (h : Fin 4) (v : Word) (samples : List Word)
  | sigWindowEnd (m : MillId) (b : Fin 8)
  | vppSluRise (mv : Nat)
  | vppSluFall (mv : Nat)
  -- memory (05)
  | rdRow (pkt : Packet)
  | wrRow (pkt : Packet) (ecc : Ecc)
  | bankSlotGrant (bank : BankRef) (ecc : RowEcc)
  | ceWriteback (bank : BankRef)
  | patrolScrubRead (bank : BankId) (ecc : RowEcc)
  | fill (q : QuadId)
  | copy (q : QuadId) (net : NetStatus)
  | bankEngineNext (q : QuadId)
  | plotCfgWrite (p : PlotId) (v : Word)
  | plotClearDone (q : QuadId)
  | granModeWrite (v : Word)
  | modeSwitchDone
  | spareGo (q : QuadId) (v : Word)
  | migrationDone (q : QuadId) (ecc : RowEcc)
  -- Weirs (08)
  | weirBind (w : WeirId)
  | bindComplete (w : WeirId)
  | measurementRecord (w : WeirId) (r : Record)
  | solve (w : WeirId)
  | solveDelta (w : WeirId)
  | solveComplete (w : WeirId)
  | weirTenantWrite (w : WeirId) (v : Word)
  -- Gauge and device time (09)
  | csiLongPacket (c : CamId) (p : LongPacket)
  | bandComplete (c : CamId)
  | frameStart (c : CamId) (vc : Fin 4) (frame : BitVec 16)
  | frameEnd (c : CamId) (vc : Fin 4)
  | gaugeArm
  | relAddWrite (c : CamId) (v : Word)
  | slewWrite (v : Word)
  | timeLoad (hi : Word)
  | timeLoRead (master : TreeMaster)
  | ppsEdge (p : Fin 2)
  | ppsHoldover
  | encoderEdge (e : Fin 8) (step : QuadStep)
  | imuDrdyEdge (i : Fin 2)
  | imuTimer (i : Fin 2)
  | imuBurstDone (i : Fin 2) (bursts : Vector (List Byte) 2)
  | recordPendingServe
  | recInjWrite (w7 : Word)
  -- Spigot (10)
  | spigotSchedule (m : MillId)
  | edgeAccept
  | edgeDue (ch : ChanId)
  | pwmHitEnd (ch : ChanId)
  | pwmPeriodStart (ch : ChanId)
  | safePinFall
  | safePinRise
  | forceSafeWrite (v : Word)
  | holdLimitExpire (ch : ChanId)
  -- field networks (10)
  | gateEntryStart (mac : MacId)
  | heartbeatTimer (k : BoomId)
  | gateListChange (mac : MacId) (v : Word)
  | adminListSwitch (mac : MacId)
  | ethTxDoorbell (mac : MacId) (r : Fin 8) (tail : Word)
  | ethTxDone (mac : MacId) (r : Fin 8)
  | ethRxFrame (mac : MacId) (f : EthFrame)
  | canRxFrame (n : CanId) (f : CanFrame)
  | canTxDoorbell (n : CanId) (r : Fin 2) (tail : Word)
  | canTxDone (n : CanId)
  | canBusOff (n : CanId)
  | canRecover (n : CanId) (v : Word)
  -- Millrace and Tally tree (11)
  | routerPacket (q : QuadId) (pkt : Packet) (sideband : Ecc)
  | rdResp (pkt : Packet) (ecc : Ecc)
  | wrResp (pkt : Packet)
  | msgResp (pkt : Packet)
  | niTimeout (n : NiId) (slot : Fin 256)
  | rejoin (n : NiId)
  | flush (n : NiId)
  | routeWrite (n : NiId) (d : NiId) (v : Word)
  | routeTakeEffect (n : NiId) (d : NiId)
  | treeRead (master : TreeMaster) (addr : Word) (prompt : Bool)
  | treeWrite (master : TreeMaster) (addr : Word) (v : Word) (prompt : Bool)
  | treeTimeout (master : TreeMaster)
  | treeAnswer (master : TreeMaster) (late : Bool)
  -- Flume (12)
  | flumePortEnable (p : FlumeId) (v : Word)
  | flumePortDisable (p : FlumeId) (v : Word)
  | peerDetect (p : FlumeId)
  | adaptDone (p : FlumeId)
  | alignDone (p : FlumeId) (map : Vector (Fin 17 × Bool) 17)
  | param (p : FlumeId) (group : BitVec 16) (node : NodeId) (port : Fin 8)
  | trainTimeout (p : FlumeId)
  | retrainTimer (p : FlumeId)
  | recoverDone (p : FlumeId) (width8 : Bool) (ok : Bool)
  | flitReceive (p : FlumeId) (f : Flit)
  | nak (p : FlumeId) (ack : BitVec 10)
  | idleTimer (p : FlumeId)
  | laneSwap (p : FlumeId) (lane : Fin 16) (immediate : Bool) (seq : BitVec 16)
  | swapAck (p : FlumeId) (lane : Fin 16) (immediate : Bool) (seq : BitVec 16)
  | disable (p : FlumeId)
  | swapThreshold (p : FlumeId) (lane : Fin 16) (errors : Nat)
  | swapReq (p : FlumeId) (v : Word)
  | immediateSwapTrigger (p : FlumeId) (lane : Fin 16)
  | swapSwitch (p : FlumeId)
  | flumeEgressPacket (p : FlumeId) (pkt : Packet)
  | flumeIngressPacket (p : FlumeId) (pkt : FlumePacket)
  | ingressIssue (p : FlumeId)
  | groupCfgWrite (v : Word)
  | flumeRouteWrite (n : NodeId) (v : Word)
  | windowOpen
  -- ledger (13)
  | getS (node : NodeId) (line : LineId)
  | getM (node : NodeId) (line : LineId)
  | evictClean (node : NodeId) (line : LineId)
  | evictDirty (node : NodeId) (line : LineId) (data : Vector Word64 8)
  | homeOp (node : NodeId) (line : LineId) (op : Fin 16) (word : Fin 8) (operand compare : Word64)
  | homeTxnStart (line : LineId)
  | snpShare (home : NodeId) (line : LineId)
  | snpInv (home : NodeId) (line : LineId)
  | snpAck (node : NodeId) (line : LineId) (crossed : Bool)
  | snpData (node : NodeId) (line : LineId) (crossed : Bool) (data : Vector Word64 8)
  | dataS (home : NodeId) (line : LineId) (data : Vector Word64 8)
  | dataM (home : NodeId) (line : LineId) (data : Vector Word64 8)
  | evictAck (home : NodeId) (line : LineId)
  | homeResult (home : NodeId) (line : LineId) (old : Word64) (status : BitVec 8)
  | ledgerOpGo (slot : Fin 4) (v : Word)
  | ledgerOpTimeout (slot : Fin 4)
  | nodeGoneSet (v : Word)
  | goneDone
  -- Vault (14)
  | vaultRead (cws : List Codeword)
  | vaultWrite (cws : List Codeword)
  | vaultFormat (v : Word) (factoryBad : List Nat)
  | vaultEnable (v : Word)
  | wearLevelMove (boot : Bool)
  | readDisturbReloc (block : Nat)
  | retentionPatrol (block : Nat) (cw : Codeword)
  | chunkVerify (section_ : Fin 64) (chunk : Nat) (cws : List Codeword)
  -- reset and boot (18)
  | porAssert
  | porRelease
  | spindleLock
  | fuseLoad
  | resetTest (o : ResetTest)
  | granaryBootClear
  | bootRomNandInit (g : NandGeom)
  | firmwareVerify (cws : Vector Bool 16)
  | firmwareInit
  | vaultMount
  | gristSelect
  | sluiceCheck
  | bootStream
  | bootSluiceProgram
  | bootSluiceRefresh (m : MillId)
  | softReset (v : Word)
  | lockLost
  | thermalTrip (tj : Int)
  | thermWarn (tj : Int)
  | perst
  -- Clapper (15)
  | clpTrigEdge (p : Fin 4)
  | trig (c : Fin 2)
  | stop (c : Fin 2)
  | attackEnd (c : Fin 2)
  | sustainEnd (c : Fin 2)
  | brakeEmfSample (v : BitVec 16)
  | brakingEnd (c : Fin 2)
  | clapLoad
  | touchReading (r : BitVec 16)
  | evtPop
  -- Assay, lifecycle and test access (16)
  | assayRun
  | lbistComplete (signature expected : Word64)
  | mbistComplete (o : MbistOutcome)
  | prbsComplete (errors bits : Word64)
  | fieldSliceTimer
  | urgentMillsWrite (v : Word)
  | advance (v : Word)
  | newNonce (v : Word) (random : BitVec 256)
  | tokenGo (v : Word)
  | tokenVerifyDone
  | bootDoorbell (v : Word)
  | idcode
  | samplePreload (pins preload : List Bool)
  | extest (pins preload : List Bool)
  | extestPulse (pins preload : List Bool)
  | extestTrain (pins preload : List Bool)
  | clamp
  | highz
  | assayAccess
  | lcAdvance (target : Fin 8)
  | bypass (code : BitVec 8)
  -- service (17)
  | unitState
  | resetUnit
  | drainComplete (u : UnitId)
  | drainTimeout (u : UnitId)
  | svcIsolate (u : UnitId)
  | svcReset (u : UnitId)
  | svcReinit (u : UnitId)
  | svcRejoin (u : UnitId)
  | unitMgmtForce (master : TreeMaster) (u : UnitId) (v : Word)
  | stateAudit
  | fwStage
  | millerFailover
  -- Millblock (19)
  | mbPorstRelease (m : MillId) (strap : NiId) (flat : Bool)
  | mbRstAssert (m : MillId)
  | mbRstRelease (m : MillId) (flat : Bool)
  | mbIso (m : MillId) (level : Bool)
  | mbClear (m : MillId) (v : Word)
  | grResponse (m : MillId) (tag : Fin 16) (st : Fin 4) (row : List Byte) (parityOk : Bool)
  | recordRamWrite (m : MillId) (off : BitVec 12) (v : Word)
  -- PCI Express (21)
  | bar0Read (off : Word) (dws : Nat) (be : BitVec 4) (prompt : Bool)
  | bar0Write (off : Word) (dws : Nat) (be : BitVec 4) (v : Word) (prompt : Bool)
  | bar2Read (off : Word) (len : Nat)
  | bar2Write (off : Word) (data : List Byte)
  -- rows the table lists last
  | conv2d (m : MillId)
  | mbPorstAssert (m : MillId)
  | ckSluTick
  | busOffRecoveryDone (n : CanId)
  | standbyReady
  | perstRelease
deriving DecidableEq, Repr

end Sys2Proof
end

