-- ==== Sys2Proof/Decode.lean ====
section
/-! DEFINITION. What a word of the command table spells: the table gives no row any bits, so no word spells a command. -/

namespace Sys2Proof

/-- The command that a word of `nbits` bits spells: the table states no bits for any row. -/
def decodeTableWord (_nbits _w : Nat) : Option Instr := none

end Sys2Proof
end

