-- ==== Sys2Proof/Config.lean ====
section
/-! DEFINITION. The values the spec leaves open: constants without a body, so that nothing can be proved about which value
a run sees. A value drawn afresh takes the state's own count of draws as its argument. -/

namespace Sys2Proof.Config

/-- A fresh unspecified value of `w` bits (00 R6): the argument is the number of the draw. -/
opaque fresh (w : Nat) : Nat → BitVec w

/-- EXP of the Winnow: one fixed evaluation sequence of FP32 operations that the spec does not list (07 R177). -/
opaque exp : Word → Word

/-- SIGMOID of the Winnow (07 R177). -/
opaque sigmoid : Word → Word

/-- SOFTMAX of a row (07 R177). -/
opaque softmax : List Word → List Word

/-- ROWSUM of a row: the spec fixes no order of its FP32 additions (07 Table 7.4). -/
opaque rowSum : List Word → Word

/-- FP32 dot product of two vectors of the Weir's vector unit: the spec fixes no order of its additions (08 R198). -/
opaque dot : List Word → List Word → Word

/-- SHA-384 of a byte string, named by the spec and not defined in it (14 R342, 16 R391). -/
opaque sha384 : List Byte → BitVec 384

/-- ECDSA P-384 verification: public key, digest, signature (16 R389, R392). -/
opaque ecdsaOk : BitVec 768 → BitVec 384 → BitVec 768 → Bool

/-- What the 6-bit SEC-DED check of a fuse repair entry finds: the data bits 31:6 it delivers, or none where it is
uncorrectable; the spec does not give the code (16 R371). -/
opaque fuseCheck : Word → Option (BitVec 26)

/-- The CHECK bits of a repair entry's data bits (16 Table 16.3). -/
opaque fuseEncode : BitVec 26 → BitVec 6

/-- What a Sluice's converter measures of a column pair, in 1/16 slice units, for a draw and the ideal sum (04 R69, R91). -/
opaque analog : Nat → Int → Int

end Sys2Proof.Config
end

