-- ==== Sys2Proof/Machine/Bits.lean ====
section
/-! DEFINITION. Bit fields, counters and byte order: the helpers every register and operand reader uses. -/

namespace Sys2Proof.Machine

/-- A counter of the spec: it stops at its maximum (00 R9, "Counters stop at 0xFFFF_FFFF"). -/
def satAdd (w : Nat) (c : BitVec w) (n : Nat) : BitVec w :=
  if c.toNat + n < 2 ^ w then BitVec.ofNat w (c.toNat + n) else BitVec.allOnes w

/-- A 32-bit counter after `n` more events. -/
def bump (c : Word) (n : Nat := 1) : Word := satAdd 32 c n

/-- Bits `hi` down to `lo` of a word, as a number. -/
def bitsOf {w : Nat} (x : BitVec w) (hi lo : Nat) : Nat := (x.toNat >>> lo) % 2 ^ (hi - lo + 1)

/-- Bit `i` of a word. -/
def bitOf {w : Nat} (x : BitVec w) (i : Nat) : Bool := x.getLsbD i

/-- One flag as a number, to be shifted into a register image. -/
def flag (b : Bool) (lo : Nat := 0) : Nat := if b then 2 ^ lo else 0

/-- A field placed at bit `lo` of a register image. -/
def at_ {w : Nat} (x : BitVec w) (lo : Nat) : Nat := x.toNat * 2 ^ lo

/-- A register image from the sum of its fields. -/
def img (n : Nat) : Word := BitVec.ofNat 32 n

/-- Low and high words of a 64-bit value. -/
def lo32 {w : Nat} (x : BitVec w) : Word := BitVec.ofNat 32 x.toNat
/-- Bits above 31 of a value, as a word. -/
def hi32 {w : Nat} (x : BitVec w) : Word := BitVec.ofNat 32 (x.toNat / 2 ^ 32)

/-- A 64-bit value with its low word replaced. -/
def withLo {w : Nat} (x : BitVec w) (v : Word) : BitVec w :=
  BitVec.ofNat w (x.toNat / 2 ^ 32 * 2 ^ 32 + v.toNat)
/-- A 64-bit (or 48-bit) value with its high word replaced. -/
def withHi {w : Nat} (x : BitVec w) (v : Word) : BitVec w :=
  BitVec.ofNat w (x.toNat % 2 ^ 32 + v.toNat * 2 ^ 32)

/-- The number of a little-endian byte list. -/
def leNat : List Byte → Nat
  | [] => 0
  | b :: bs => b.toNat + 256 * leNat bs

/-- The `n` little-endian bytes of a number. -/
def leBytes : Nat → Nat → List Byte
  | 0, _ => []
  | n + 1, x => BitVec.ofNat 8 x :: leBytes n (x / 256)

/-- `ceil (a / b)`. -/
def ceilDiv (a b : Nat) : Nat := (a + b - 1) / b

/-- A value limited to a range. -/
def clampNat (lo hi x : Nat) : Nat := if x < lo then lo else if hi < x then hi else x

/-- The value of a signed field of `w` bits. -/
def sx {w : Nat} (x : BitVec w) : Int := x.toInt

/-- Replace element `i` of a list (nothing where there is none). -/
def listSet {α : Type} (l : List α) (i : Nat) (f : α → α) : List α := l.modify i f

/-- The indexes of the set bits of a word, ascending. -/
def setBits {w : Nat} (x : BitVec w) : List Nat := (List.range w).filter fun i => x.getLsbD i

end Sys2Proof.Machine
end

