-- ==== Sys2Proof/Machine/Memory.lean ====
section
/-! DEFINITION. Sparse storage in one canonical form, and byte memory over it: addresses strictly rising, no entry equal
to what an unlisted address reads as (zero). -/

namespace Sys2Proof.Machine

/-- Sparse cells of `w` bits; an unlisted key reads zero. -/
abbrev SMem (w : Nat) := List (Nat × BitVec w)

/-- Byte memory: the cells of `Host.Cell`. -/
abbrev Memory := List Host.Cell

/-- The value at a key. What an unlisted key reads as is zero: the Granary's boot clear (01 R20); log entry 11 on
the other arrays. -/
def sGet {w : Nat} (m : SMem w) (a : Nat) : BitVec w :=
  match m with
  | [] => 0
  | (k, v) :: rest => if k = a then v else sGet rest a

/-- The cells with the value at a key replaced; writing zero removes the entry. -/
def sSet {w : Nat} (m : SMem w) (a : Nat) (x : BitVec w) : SMem w :=
  match m with
  | [] => if x = 0 then [] else [(a, x)]
  | (k, v) :: rest =>
    if a < k then (if x = 0 then (k, v) :: rest else (a, x) :: (k, v) :: rest)
    else if a = k then (if x = 0 then rest else (a, x) :: rest)
    else (k, v) :: sSet rest a x

/-- Keys rise strictly from `lo`, and no entry is zero. -/
def sWfFrom {w : Nat} (lo : Nat) : SMem w → Bool
  | [] => true
  | (k, v) :: rest => decide (lo ≤ k) && decide (v ≠ 0) && sWfFrom (k + 1) rest

/-- The canonical form of sparse cells. -/
def sWf {w : Nat} (m : SMem w) : Bool := sWfFrom 0 m

/-- The canonical form of the memory. -/
def Memory.wf (m : Memory) : Bool := sWf (w := 8) m

/-- One byte. -/
def readByte (m : Memory) (a : Nat) : Byte := sGet m a

/-- `n` bytes from an address. -/
def readBytes (m : Memory) (a : Nat) : Nat → List Byte
  | 0 => []
  | n + 1 => readByte m a :: readBytes m (a + 1) n

/-- Bytes written from an address on. -/
def writeBytes (m : Memory) (a : Nat) : List Byte → Memory
  | [] => m
  | b :: bs => writeBytes (sSet m a b) (a + 1) bs

/-- `n` little-endian bytes as a number. -/
def readLe (m : Memory) (a n : Nat) : Nat := leNat (readBytes m a n)

/-- A 32-bit little-endian word. -/
def readW (m : Memory) (a : Nat) : Word := BitVec.ofNat 32 (readLe m a 4)

/-- Every cell from `a` to `a + n - 1` back to zero, in one pass over the listed cells. -/
def zeroRange {w : Nat} (m : SMem w) (a n : Nat) : SMem w :=
  m.filter fun c => !(decide (a ≤ c.1) && decide (c.1 < a + n))

end Sys2Proof.Machine
end

