-- ==== Sys2Proof/Machine/StateChute.lean ====
section
/-! DEFINITION. The state of the chute controller: chutes, Bells, contexts, scoreboard and queues (06, 05 Table 5.8). -/

namespace Sys2Proof.Machine

/-- A docket handed to a unit other than a Mill: its words and the window registers sampled at hand-out (05 R119). -/
structure Job where
  id : Nat
  chute : ChuteId
  cls : Fin 4
  words : DocketWords
  granBase : Word
  granBound : Word
  hop : Word
  tenant : Fin 8
deriving DecidableEq, Repr

/-- A docket the controller has read and not handed out (06 R140). An unreadable ring row keeps its network status. -/
structure Pending where
  words : DocketWords
  fault : NetStatus
  /-- The docket's wait has been satisfied (and consumed). -/
  waitOk : Bool
  /-- Device time at which its unsatisfied wait was first evaluated (06 R155). -/
  waitFrom : Option Word64
  /-- Instance it belongs to, in REL_MODE 1 and 2. -/
  inst : Bool
deriving DecidableEq, Repr

/-- A docket handed out: its targets still to finish and the parts merged so far (06 R138, R140, 19 R440). -/
structure Outstanding where
  id : Nat
  words : DocketWords
  /-- Mills that have not sent DONE; other targets count as one. -/
  mills : List MillId
  others : Nat
  status : BitVec 8
  subcode : BitVec 8
  operand : BitVec 8
  detail : BitVec 16
  start : Option Word64
  doneAt : Word64
  tiles : Nat
  sat : Nat
  inst : Bool
  /-- The docket has been told to stop at its next tile boundary. -/
  stop : Option AbortReason
  /-- Dockets of its instance dropped by ABORT_OLD, for DETAIL 23:16. -/
  dropped : Nat
deriving DecidableEq, Repr

/-- A write range of the scoreboard (06 R153). -/
structure SbRange where
  id : Nat
  lo : Nat
  hi : Nat
deriving DecidableEq, Repr

/-- The running instance of a periodic program (06 R148): slots still to read, and the dockets of it that the controller
has not completed. -/
structure Instance where
  next : BitVec 16
  stop : BitVec 16
  /-- The instance is being aborted under ABORT_OLD. -/
  aborting : Bool
deriving DecidableEq, Repr

/-- One chute (06 Table 6.8). -/
structure Chute where
  cfg : Word
  ring : Addr
  rcpt : Addr
  head : BitVec 16
  tail : BitVec 16
  rcptHead : BitVec 16
  rcptTail : BitVec 16
  period : Word
  phase : Word64
  /-- Low word of PHASE as last written: it acts when the high word is written (06 R149). -/
  phaseLo : Word
  waitTimeout : BitVec 24
  held : Bool
  dbRej : Bool
  cfgRej : Bool
  rcptFail : Bool
  releases : Word
  overruns : Word
  /-- Next ring slot the controller reads. -/
  readAt : BitVec 16
  /-- Dockets read and not handed out, oldest first. -/
  pending : List Pending
  out : List Outstanding
  /-- Receipts that wait for a free slot of the receipt ring (06 R140). -/
  rcptWait : List DoneMsg
  nextRel : Option Word64
  inst : Option Instance
  /-- A release that waits for an aborted instance to stop: its ordinal. -/
  pendRel : Option (BitVec 16)
  ordinal : BitVec 16
deriving DecidableEq, Repr

/-- One task context: its tenant and its windows (05 Table 5.8, 06 CTX_TENANT). -/
structure Context where
  granBase : BitVec 20
  granBound : BitVec 20
  hop : Word
  valid : Bool
  tenant : Fin 8
deriving DecidableEq, Repr

/-- The chute controller. -/
structure Control where
  chutes : Vector Chute 128
  ctx : Vector Context 64
  urgentMills : BitVec 16
  bells : BitVec 256
  bellLost : Word
  millTenant : Vector (Fin 8) 16
  scoreboard : Vector (List SbRange) 16
  /-- Chute at which the round robin of PERIODIC, BULK and MAINT continues (06 R143). -/
  rrNext : Vector Nat 3
  /-- The docket that holds each dispatcher slot credit of each Mill. -/
  credits : Vector (Vector (Option Nat) 8) 16
  /-- Firmware-path dockets, the running one first (06 R146). -/
  fwQueue : List Job
  /-- A TENANT_SWITCH whose clear runs (06 R147). -/
  tenantJob : Option Job
  nextId : Nat
  /-- HANDOUT messages on their way, and DONE messages. -/
  toMills : List (MillId × HandoutMsg)
  toControl : List (MillId × DoneMsg)
  /-- ABORT messages on their way: Mill, tag, chute, reason. -/
  aborts : List (MillId × BitVec 16 × ChuteId × AbortReason)
  /-- MSI-X messages sent, newest first: the vector. -/
  msix : List Byte
deriving DecidableEq, Repr

/-- A chute after reset (06 Table 6.8). -/
def Chute.reset : Chute :=
  { cfg := 0x04300000, ring := 0, rcpt := 0, head := 0, tail := 0, rcptHead := 0, rcptTail := 0, period := 0,
    phase := 0, phaseLo := 0, waitTimeout := 0, held := false, dbRej := false, cfgRej := false, rcptFail := false, releases := 0,
    overruns := 0, readAt := 0, pending := [], out := [], rcptWait := [], nextRel := none, inst := none, pendRel := none, ordinal := 0 }

/-- The chute controller after reset: every chute disabled, every context invalid, every Bell clear. -/
def Control.reset : Control :=
  { chutes := .replicate 128 .reset, ctx := .replicate 64 { granBase := 0, granBound := 0, hop := 0, valid := false, tenant := 0 },
    urgentMills := 0, bells := 0, bellLost := 0, millTenant := .replicate 16 0, scoreboard := .replicate 16 [],
    rrNext := .replicate 3 0, credits := .replicate 16 (.replicate 8 none), fwQueue := [], tenantJob := none, nextId := 0, toMills := [],
    toControl := [], aborts := [], msix := [] }

end Sys2Proof.Machine
end

