-- ==== Sys2Proof/Machine/StateAssay.lean ====
section
/-! DEFINITION. The state of Assay, the Lifecycle block, the fuses and the test access port (16). -/

namespace Sys2Proof.Machine

/-- A running test (16 R377): its unit, partition or lane, w5, start time and docket; a field slice has none. -/
structure Test where
  unit : UnitId
  part : Nat
  sel : Word
  started : Word64
  job : Option Job
deriving DecidableEq, Repr

/-- One fuse repair entry with its COMMIT fuse (16 R371). -/
structure FuseEntry where
  word : Word
  commit : Bool
deriving DecidableEq, Repr

/-- The TAP's selected instruction (16 Table 16.4). -/
inductive TapInstr where
  | idcode | samplePreload | extest | extestPulse | extestTrain | clamp | highz | assayAccess | lcAdvance | bypass
deriving DecidableEq, Repr

/-- The fuses (16 R371, R387, R391). -/
structure Fuses where
  /-- Burned entries, in order; entries beyond the list are blank. -/
  repair : List FuseEntry
  lc : Fin 8
  uid : BitVec 128
  keyHash : Vector (BitVec 384) 4
  keyValid : BitVec 4
  keyRevoked : BitVec 4
  imageKey : BitVec 768
  imageKeySet : Bool
  serviceKey : BitVec 768
  serviceKeySet : Bool
  svn : BitVec 7
  visits : BitVec 9
  /-- Fused AVS limits (18 R422). -/
  vidMin : BitVec 5
  vidMax : BitVec 5
deriving DecidableEq, Repr

/-- Assay, Lifecycle and the TAP (16 Tables 16.10, 16.11). -/
structure Assay where
  held : Bool
  bootFail : Bool
  bell : BellId
  reportBase : Addr
  reportTail : BitVec 16
  reportCfg : BitVec 16
  /-- Report records written and not yet taken by REPORT_HEAD. -/
  reportHeld : Nat
  sched : Word
  schedMills : BitVec 16
  schedOther : BitVec 13
  slicesRun : Word
  slicesFailed : Word
  repairsSoft : Word
  fuseBad : Word
  bootResult : Word
  bootTestUs : Word
  test : Option Test
  /-- The field rotation (16 R381): next entry of it (Mills 0-15, then the bits of SCHED_OTHER), next slice there, slices
  skipped for the next pass (entry, slice), and when the last slice was taken. -/
  rotUnit : Nat
  rotSlice : Nat
  skipped : List (Nat × Nat)
  sliceFrom : Word64
  /-- Units that have run logic BIST since their last reset. -/
  dirty : List UnitId
  fuses : Fuses
  lcState : Fin 8
  lcRej : Bool
  target : BitVec 3
  challenge : BitVec 256
  nonceValid : Bool
  token : Vector Word 40
  tokenStat : BitVec 4
  tap : TapInstr
  /-- Boundary register, the bits last captured (the pins; under IDCODE the device's code, bit 0 first), and whether the pins
  follow the boundary register; high impedance. -/
  boundary : List Bool
  captured : List Bool
  driving : Bool
  highz : Bool
deriving DecidableEq, Repr

/-- Fuses of a part on which nothing has been burned (BLANK). -/
def Fuses.blank : Fuses :=
  { repair := [], lc := 0, uid := 0, keyHash := .replicate 4 0, keyValid := 0, keyRevoked := 0, imageKey := 0,
    imageKeySet := false, serviceKey := 0, serviceKeySet := false, svn := 0, visits := 0, vidMin := 0, vidMax := 30 }

/-- Assay and Lifecycle after reset. -/
def Assay.reset : Assay :=
  { held := false, bootFail := false, bell := 0, reportBase := 0, reportTail := 0, reportCfg := 4, reportHeld := 0, sched := 0x3C,
    schedMills := 0xFFFF, schedOther := 0x1FFF, slicesRun := 0, slicesFailed := 0, repairsSoft := 0, fuseBad := 0,
    bootResult := 0, bootTestUs := 0, test := none, rotUnit := 0, rotSlice := 0, skipped := [], sliceFrom := 0, dirty := [],
    fuses := .blank, lcState := 0, lcRej := false, target := 0, challenge := 0, nonceValid := false,
    token := .replicate 40 0, tokenStat := 0, tap := .idcode, boundary := [], captured := [], driving := false, highz := false }

end Sys2Proof.Machine
end

