-- ==== Sys2Proof/Machine/StateClapper.lean ====
section
/-! DEFINITION. The state of the Clapper (15). -/

namespace Sys2Proof.Machine

/-- Channel states (15 CH_CTL.STATE). -/
inductive ClapState where
  | idle | attack | sustain | braking
deriving DecidableEq, Repr

/-- Touch states (15 CLP_STAT.TSTATE). -/
inductive TouchState where
  | boot | deferred | settling | idle | touched
deriving DecidableEq, Repr

/-- A channel (15 Table 15.4). -/
structure ClapChannel where
  state : ClapState
  /-- The latched effect, and the braking sample at which it was latched. -/
  latched : Option (Fin 64 × Nat)
  trigFx : Fin 64
  brake : Word
  brakeStop : BitVec 16
  /-- The effect being played, and whether its samples are negated (R356). -/
  fx : Fin 64
  negate : Bool
  /-- Device time of the first sample of the present segment. -/
  since : Word64
  /-- Voice coil braking: last back-EMF sample, quiet samples in a row, and the drive in force. -/
  emf : Option (BitVec 16)
  quiet : Nat
  drive : Int
  /-- Voice coil braking: the end that the second quiet sample has set. -/
  endAt : Option Word64
  /-- The last trigger that acted: its device time and its source in the order of R354. -/
  trigAt : Option (Word64 × Nat)
deriving DecidableEq, Repr

/-- A touch event (15 R361): TYPE 0 PRESS, 1 END, 2 STUCK. -/
structure TouchEvent where
  time : Word64
  force : BitVec 16
  rel : Bool
  type : BitVec 2
deriving DecidableEq, Repr

/-- The Clapper. -/
structure Clapper where
  ctl : Word
  loading : Bool
  libValid : Bool
  panelPresent : Bool
  stuck : Bool
  relative : Bool
  tstate : TouchState
  deltas : Word
  timing : Word
  untouched : Word
  probe : Word
  reading : BitVec 16
  baseline : BitVec 16
  /-- Working values of R360: peak and timer, readings left to settle, consecutive readings, largest r - b of the touch. -/
  peak : BitVec 16
  t0 : Word64
  settle : Nat
  run : Nat
  force : BitVec 16
  events : List TouchEvent
  /-- TRIG_DROPPED, TRIG_REFUSED, EVT_LOST. -/
  counters : Vector Word 3
  chans : Vector ClapChannel 2
  pins : Vector Word 4
  library : Memory
deriving DecidableEq, Repr

/-- A channel after reset. -/
def ClapChannel.reset : ClapChannel :=
  { state := .idle, latched := none, trigFx := 0, brake := 0x10000640, brakeStop := 0x100, fx := 0, negate := false,
    since := 0, emf := none, quiet := 0, drive := 0, endAt := none, trigAt := none }

/-- The Clapper after reset (15 Table 15.4). -/
def Clapper.reset : Clapper :=
  { ctl := 0, loading := false, libValid := false, panelPresent := false, stuck := false, relative := false,
    tstate := .boot, deltas := 0x01800200, timing := 0x7800000C, untouched := 0, probe := 0x02000008, reading := 0,
    baseline := 0, peak := 0, t0 := 0, settle := 0, run := 0, force := 0, events := [], counters := .replicate 3 0,
    chans := .replicate 2 .reset, pins := .replicate 4 0x1400, library := [] }

end Sys2Proof.Machine
end

