-- ==== Sys2Proof/Machine/StateFlume.lean ====
section
/-! DEFINITION. The state of the Flume ports and of the group registers (12). -/

namespace Sys2Proof.Machine

/-- Training states (12 Table 12.2). -/
inductive TrainState where
  | off | detect | adapt | align | param | active | recover | down
deriving DecidableEq, Repr

/-- A lane swap under way (12 R285): lane, whether immediate, and SWAP_SEQ once known. -/
structure Swap where
  lane : Fin 16
  immediate : Bool
  acked : Bool
  seq : BitVec 16
  /-- Asked by the peer: this end's transmitter switches. -/
  fromPeer : Bool
deriving DecidableEq, Repr

/-- A control flit sent (12 Table 12.3): type, the lane, mode and SWAP_SEQ of a swap, GROUP_ID, NODE_ID and port number of a
PARAM, and the header's ACK, NAK and credit count. -/
structure CtrlOut where
  kind : Nat
  lane : Fin 16
  immediate : Bool
  seq : BitVec 16
  param : Option (BitVec 16 × NodeId × FlumeId)
  ack : BitVec 10
  nak : Bool
  crVn : Fin 5
  crCnt : Byte
deriving DecidableEq, Repr

/-- A data flit in the retry buffer: SEQ, VN, LEN, the packets that end in it, times replayed. -/
structure TxFlit where
  seq : BitVec 10
  vn : Fin 5
  len : Nat
  packets : List FlumePacket
  replays : Nat
deriving DecidableEq, Repr

/-- A lane's register (12 LANE_l): physical lane idle, inverted, logical lane carried; and its SYM_ERR. -/
structure LaneReg where
  idle : Bool
  pol : Bool
  logical : Fin 17
  symErr : Word
deriving DecidableEq, Repr

/-- One Flume port (12 Table 12.7) with its link layer. -/
structure FlumePort where
  ctl : Word
  state : TrainState
  rateNow : Bool
  widthNow : Bool
  spareUsed : Bool
  spareFor : Fin 16
  fail : BitVec 4
  peerPort : BitVec 3
  peerNode : BitVec 5
  /-- FEC_CORR, FEC_UNCORR, CRC_ERR, REPLAYS, LANE_SWAPS, LINK_DOWNS, MISROUTE, BOUND_REFUSED. -/
  counters : Vector Word 8
  /-- Transmit credits held, per VN; the peer's cumulative counts; buffers this end freed. -/
  credits : Vector Nat 5
  crSeen : Vector Byte 5
  freed : Vector Byte 5
  lanes : Vector LaneReg 17
  attempts112 : Nat
  /-- Device time at which the port entered DOWN. -/
  downAt : Word64
  txSeq : BitVec 10
  retry : List TxFlit
  rxNext : BitVec 10
  /-- A NAK has been sent since the last flit accepted. -/
  nakSent : Bool
  swap : Option Swap
  /-- Control flits sent, newest first. -/
  ctrlOut : List CtrlOut
  /-- Egress queues of packets by VN. -/
  egress : Vector (List FlumePacket) 5
  /-- Bytes already sent of the first packet of each queue. -/
  headSent : Vector Nat 5
  /-- Non-VN3 grants that went to other VNs while the head flit of each VN waited (11 R264). -/
  waits : Vector Nat 5
  /-- Accepted data flits whose credit has not been freed, oldest first: VN, and the packets that end in them and have not
  left the port. -/
  arrived : List (Fin 5 × List FlumePacket)
  /-- Packets delivered and waiting for a slot of the port's interface. -/
  ingress : List FlumePacket
  /-- Requests of this node sent over the port and unanswered, for LINK_DOWN (12 R300). -/
  routed : List FlumePacket
  /-- The VN whose credit count the next header carries. -/
  crNext : Fin 5
deriving DecidableEq, Repr

/-- An inbound window (12 Table 12.8). -/
structure Window where
  base : Addr
  size : BitVec 13
deriving DecidableEq, Repr

/-- The Flume ports and the group registers. -/
structure Flume where
  ports : Vector FlumePort 6
  groupId : BitVec 16
  grpRej : Bool
  routeRej : Bool
  nodeId : NodeId
  routes : Vector Word 32
  /-- The Flume port each network interface uses for a node (12 R289). -/
  niPort : Vector (Option FlumeId) 32
  windows : Vector Window 16
  dbAllow : BitVec 128
deriving DecidableEq, Repr

/-- A port after reset (12 Table 12.7): RATE 2, WIDTH8_EN, SPARE_EN and AUTO_RETRAIN 1, SWAP_THRESH 0x3E8. -/
def FlumePort.reset : FlumePort :=
  { ctl := 0x170003E8, state := .off, rateNow := false, widthNow := false, spareUsed := false, spareFor := 0, fail := 0,
    peerPort := 0, peerNode := 0, counters := .replicate 8 0, credits := .replicate 5 0, crSeen := .replicate 5 0,
    freed := .replicate 5 0, lanes := .replicate 17 { idle := false, pol := false, logical := 0, symErr := 0 },
    attempts112 := 0, downAt := 0, txSeq := 0, retry := [], rxNext := 0, nakSent := false, swap := none,
    ctrlOut := [], egress := .replicate 5 [], headSent := .replicate 5 0, waits := .replicate 5 0, arrived := [], ingress := [], routed := [], crNext := 0 }

/-- The Flume block after reset (12 Table 12.8). -/
def Flume.reset : Flume :=
  { ports := .replicate 6 .reset, groupId := 0, grpRej := false, routeRej := false, nodeId := 0, routes := .replicate 32 0,
    niPort := .replicate 32 none, windows := .replicate 16 { base := 0, size := 0 }, dbAllow := 0 }

end Sys2Proof.Machine
end

