-- ==== Sys2Proof/Machine/StateGauge.lean ====
section
/-! DEFINITION. The state of the Gauge: device time, camera ports, encoders, IMUs and record sources (09). -/

namespace Sys2Proof.Machine

/-- A band ring (09 R210, R211). -/
structure BandRing where
  base : Nat
  rowStride : Nat
  batches : Nat
  batchStride : Nat
deriving DecidableEq, Repr

/-- A band being received: its slot (none: dropped), its index in the frame, and what its stamp block will say. -/
structure BandRun where
  slot : Option Nat
  index : Nat
  line : Nat
  valid : BitVec 64
  stamps : Vector Word64 64
  flags : BitVec 8
deriving DecidableEq, Repr

/-- An ended band whose BAND_BELL waits for its row writes and records (09 R212, R226). -/
structure BandEnd where
  seq : Word
  /-- Records of this band end, by number and Weir, whose credit has not been returned. -/
  waits : List (Nat × WeirId)
deriving DecidableEq, Repr

/-- One camera port (09 Table 9.4). -/
structure CamPort where
  cfg : Word
  laneMap : Word
  cropX : Word
  cropY : Word
  lineOffset : Word
  bells : Word
  bandSeq : Word
  /-- BAND_DROPPED, LOST_LINE, HDR_CORR, HDR_UNCORR, CRC_ERR, OTHER_PKT, WRITE_FAIL, REL_ERR. -/
  counters : Vector Word 8
  ring : Option BandRing
  /-- A GAUGE_ARM that waits for the next frame start: the new ring, or a disarm. -/
  arm : Option (Option BandRing)
  heldSlots : Nat
  nextSlot : Nat
  inFrame : Bool
  frameNo : BitVec 16
  /-- Lines taken in this frame. -/
  lines : Nat
  band : Option BandRun
  ended : List BandEnd
  droppedSince : Word
  /-- Length in bytes of the last long packet taken (09 R207). -/
  expected : Option Nat
  /-- VAL0 to VAL2 of the camera record of the last band end (09 Table 9.3). -/
  recVals : List Word
deriving DecidableEq, Repr

/-- One encoder (09 R222, R224). -/
structure Encoder where
  cfg : Word
  count : Word
  err : Word
  lastEdge : Option Word64
  recEdge : Option Word64
  recCount : Word
deriving DecidableEq, Repr

/-- One slot of an IMU. -/
structure ImuSlot where
  cfg : Word
  fieldOff : Word
  scale : Word
deriving DecidableEq, Repr

/-- One IMU master (09 R223): a slot whose burst is under way keeps its trigger's time and its record's number. -/
structure Imu where
  cfg : Word
  slots : Vector ImuSlot 2
  trigger : Vector (Option (Word64 × Nat)) 2
deriving DecidableEq, Repr

/-- The Gauge. -/
structure Gauge where
  time : Word64
  frac : BitVec 32
  timeHi : Word
  rate : Word
  /-- Correction not yet applied, in units of 2^-32 ns (09 R217). -/
  slew : Int
  locked : Bool
  holdover : Bool
  ppsLost : Bool
  loadRej : Bool
  ctl : Word
  loadLo : Word
  servoCfg : Word
  ppsOffset : Word
  ppsCap : Vector Word64 2
  ppsErr : Word
  ppsGlitch : Word
  ppsLoss : Word
  /-- Consecutive accepted edges within LOCK_NS, the time of the last accepted edge, and the fallback in use. -/
  lockRun : Nat
  lastPps : Word64
  otherInput : Bool
  seqCam : Fin 8
  recLate : Word
  recInj : Vector Word 8
  /-- An injected record held for credit, and injections waiting behind it (09 R225). -/
  injHeld : List Record
  /-- Sources pending for credit, ascending, each with the number its record will have. -/
  pendingSrc : List (Fin 64 × Nat)
  /-- Records sent and not yet taken by their Weir, with their numbers. -/
  sent : List (WeirId × Nat × Record)
  /-- The model's own count of records, which numbers them; no rule of the spec names it. -/
  recNo : Nat
  ports : Vector CamPort 8
  encs : Vector Encoder 8
  imus : Vector Imu 2
  queue : List Job
deriving DecidableEq, Repr

/-- A camera port after reset (09 Table 9.4). -/
def CamPort.reset : CamPort :=
  { cfg := 0x00000A82, laneMap := 0xE4, cropX := 0, cropY := 0, lineOffset := 0, bells := 0, bandSeq := 0,
    counters := .replicate 8 0, ring := none, arm := none, heldSlots := 0, nextSlot := 0, inFrame := false, frameNo := 0,
    lines := 0, band := none, ended := [], droppedSince := 0, expected := none, recVals := [0, 0, 0] }

/-- An encoder after reset. -/
def Encoder.reset : Encoder := { cfg := 0, count := 0, err := 0, lastEdge := none, recEdge := none, recCount := 0 }

/-- An IMU after reset: DIV 3, SCALE 1.0. -/
def Imu.reset : Imu :=
  { cfg := 0x00000300, slots := .replicate 2 { cfg := 0, fieldOff := 0, scale := 0x3F800000 }, trigger := .replicate 2 none }

/-- The Gauge after reset (09 Table 9.4). -/
def Gauge.reset : Gauge :=
  { time := 0, frac := 0, timeHi := 0, rate := 0, slew := 0, locked := false, holdover := false, ppsLost := false,
    loadRej := false, ctl := 0, loadLo := 0, servoCfg := 0x000A0A02, ppsOffset := 0, ppsCap := .replicate 2 0,
    ppsErr := 0, ppsGlitch := 0, ppsLoss := 0, lockRun := 0, lastPps := 0, otherInput := false, seqCam := 0,
    recLate := 0, recInj := .replicate 8 0, injHeld := [], pendingSrc := [], sent := [], recNo := 0, ports := .replicate 8 .reset,
    encs := .replicate 8 .reset, imus := .replicate 2 .reset, queue := [] }

end Sys2Proof.Machine
end

