-- ==== Sys2Proof/Machine/StateLedger.lean ====
section
/-! DEFINITION. The state of the ledger engine: home store and directory, cache, transactions, slots (13). -/

namespace Sys2Proof.Machine

/-- A directory entry (13 Table 13.1). -/
inductive DirState where
  | unowned | shared (v : BitVec 32) | owned (n : NodeId)
deriving DecidableEq, Repr

/-- A directory entry with its LOST flag; a line that is not listed is UNOWNED and not LOST. -/
structure DirEntry where
  line : LineId
  state : DirState
  lost : Bool
deriving DecidableEq, Repr

/-- A request at the home (13 R309). -/
inductive HomeReq where
  | getS | getM
  | op (op : Fin 16) (word : Fin 8) (operand compare : Word64)
deriving DecidableEq, Repr

/-- A transaction on a BUSY line: requester, request, and the nodes whose snoop answers are awaited. -/
structure Txn where
  line : LineId
  node : NodeId
  req : HomeReq
  /-- Nodes snooped at its start, and those not yet answered. -/
  snooped : List NodeId
  awaiting : List NodeId
  /-- The owner the transaction snooped, whose data the store takes. -/
  owner : Option NodeId
deriving DecidableEq, Repr

/-- A request waiting for a BUSY line, in arrival order. -/
structure Waiting where
  line : LineId
  node : NodeId
  req : HomeReq
deriving DecidableEq, Repr

/-- State of a cached line (13 Table 13.1). -/
inductive CacheState where
  | s | m
deriving DecidableEq, Repr

/-- A cached line of home `home`; the list of them runs from most to least recently used. -/
structure CacheLine where
  home : NodeId
  line : LineId
  state : CacheState
  dirty : Bool
  data : Vector Word64 8
deriving DecidableEq, Repr

/-- An evict-pending entry (13 R306). -/
structure EvictPend where
  home : NodeId
  line : LineId
  dirty : Bool
  data : Vector Word64 8
deriving DecidableEq, Repr

/-- A request entry: what the cache asked a home for, and the slot it serves (none: timed out, or HEAD_WORD). -/
structure ReqEntry where
  home : NodeId
  line : LineId
  req : HomeReq
  slot : Option (Fin 4)
  /-- Waiting for an EVICT_ACK before it is sent. -/
  blocked : Bool
deriving DecidableEq, Repr

/-- An operation slot (13 Table 13.6). -/
structure LedgerSlot where
  addr : Addr
  operand : Word64
  compare : Word64
  busy : Bool
  status : Byte
  op : BitVec 4
  result : Word64
  since : Word64
deriving DecidableEq, Repr

/-- A ledger message sent (13 Table 13.2): kind and LMSG as there, to a node. -/
structure LedgerMsg where
  target : NodeId
  kind : BitVec 4
  lmsg : BitVec 4
  line : LineId
  crossed : Bool
  req : Option HomeReq
  data : Option (Vector Word64 8)
  value : Word64
  status : Byte
deriving DecidableEq, Repr

/-- The ledger engine of this node. -/
structure Ledger where
  cfg : Word
  goneBusy : Bool
  /-- SNOOPS_SENT, CROSSED, EVICT_DISCARDED, OP_TIMEOUTS, LOST_LINES, DIRTY_DROPPED. -/
  counters : Vector Word 6
  goneDiscarded : Word
  nodeGone : BitVec 32
  /-- Home store: word `w` of line `l` at key `8 * l + w`. -/
  store : SMem 64
  /-- Directory entries that are not (UNOWNED, not LOST), by rising line. -/
  dir : List DirEntry
  txns : List Txn
  waiting : List Waiting
  cache : List CacheLine
  evicts : List EvictPend
  reqs : List ReqEntry
  slots : Vector LedgerSlot 4
  watches : Vector (Word × Word) 8
  chuteWords : Vector (Word × Word) 128
  /-- Messages sent, newest first. -/
  sent : List LedgerMsg
deriving DecidableEq, Repr

/-- The ledger engine after reset (13 R327): store zero, every entry UNOWNED, cache empty. -/
def Ledger.reset : Ledger :=
  { cfg := 0x64, goneBusy := false, counters := .replicate 6 0, goneDiscarded := 0, nodeGone := 0, store := [], dir := [],
    txns := [], waiting := [], cache := [], evicts := [], reqs := [],
    slots := .replicate 4 { addr := 0, operand := 0, compare := 0, busy := false, status := 0, op := 0, result := 0, since := 0 },
    watches := .replicate 8 (0, 0), chuteWords := .replicate 128 (0, 0), sent := [] }

end Sys2Proof.Machine
end

