-- ==== Sys2Proof/Machine/StateMemory.lean ====
section
/-! DEFINITION. The state of the Granary, the Hoppers and their banks and engines (05). -/

namespace Sys2Proof.Machine

/-- One plot (05 PLOT_CFG). -/
structure Plot where
  clearing : Bool
  owner : Fin 8
  cls : Bool
deriving DecidableEq, Repr

/-- The spare bank of a quad (05 SPARE_q). -/
structure Spare where
  used : Bool
  migrating : Bool
  rej : Bool
  progress : Nat
  lbank : Fin 32
deriving DecidableEq, Repr

/-- A request waiting at a bank (05 R103): wide over the row port of a Mill, for a bank row; or narrow from the Millrace. -/
inductive BankReq where
  | wide (mill : MillId) (write : Bool) (row : Nat)
  | narrow (pkt : Packet)
deriving DecidableEq, Repr

/-- One Granary bank's arbiter: waiting requests oldest first, slots counted, wide grants since a narrow request waits,
the round-robin port, rows waiting for a CE write-back, and the patrol's progress. -/
structure Bank where
  queue : List BankReq
  slots : Nat
  wideRun : Nat
  rr : Fin 4
  ceRows : List Nat
  patrolRow : Nat
  patrolFrom : Word64
deriving DecidableEq, Repr

/-- A FILL or COPY at a bank engine (05 R113): the docket, effective addresses, length and rows done. -/
structure EngineJob where
  job : Job
  src : Option Addr
  dst : Addr
  rows : Nat
  doneRows : Nat
  started : Word64
deriving DecidableEq, Repr

/-- The Granary, its registers, banks and engines, and the Hopper banks. -/
structure Granary where
  modeRej : Bool
  busy : Bool
  flat : Bool
  scrubCfg : Word
  errBell : Word
  ceCount : Word
  ueCount : Word
  errLog : Word
  errTime : Word64
  /-- An error has been recorded whose ERR_BELL is raised at the end of this command. -/
  errPend : Bool
  spares : Vector Spare 4
  plots : Vector Plot 96
  banks : Vector Bank 128
  hopBanks : Vector (Vector Bank 16) 16
  /-- Rows (address / 512) written poisoned (05 R109). -/
  poison : List Nat
  engineQ : Vector (List Job) 4
  engine : Vector (Option EngineJob) 4
  /-- Quads refused after a bank beyond repair (16 Table 16.2). -/
  quadDead : Vector Bool 4
deriving DecidableEq, Repr

/-- A bank after reset. -/
def Bank.reset : Bank :=
  { queue := [], slots := 0, wideRun := 0, rr := 0, ceRows := [], patrolRow := 0, patrolFrom := 0 }

/-- The Granary after reset (05 Table 5.6). -/
def Granary.reset : Granary :=
  { modeRej := false, busy := false, flat := false, scrubCfg := 0x800003E8, errBell := 0, ceCount := 0, ueCount := 0,
    errLog := 0, errTime := 0, errPend := false,
    spares := .replicate 4 { used := false, migrating := false, rej := false, progress := 0, lbank := 0 },
    plots := .replicate 96 { clearing := false, owner := 0, cls := false }, banks := .replicate 128 .reset,
    hopBanks := .replicate 16 (.replicate 16 .reset), poison := [], engineQ := .replicate 4 [],
    engine := .replicate 4 none, quadDead := .replicate 4 false }

end Sys2Proof.Machine
end

