-- ==== Sys2Proof/Machine/StateMill.lean ====
section
/-! DEFINITION. The state of one Mill: Querns, Sluice, Tally, memory and sequencer registers, dispatcher, the running
docket, and the Millblock boundary. -/

namespace Sys2Proof.Machine

/-- State of a Quern bank (03 R51). -/
inductive BankState where
  | empty | filling | full | repair
deriving DecidableEq, Repr

/-- Where a bank's weights came from, as a fill, a repair or a golden comparison reads it (03 R53, R60): `addr` is the
byte address from which the bank is read, `first` the bit offset there of the weight of bank row 0 and channel 0, and
`rowStride` and `chanStride` the distances in bits between bank rows and between channels; `rows` and `chans` lie inside the
matrix; then the format code and the Mint table. -/
structure GoldSrc where
  addr : Nat
  first : Nat
  rowStride : Nat
  chanStride : Nat
  rows : Nat
  chans : Nat
  fmt : Nat
  mintAddr : Nat
  mintType : Nat
deriving DecidableEq, Repr

/-- One bank of a Quern: bit-cells, parity, state, golden record and scrub progress (03 R45, R53, R59, R60). -/
structure QBank where
  state : BankState
  wfmt : BitVec 2
  rows : Vector (BitVec 512) 256
  parity : Vector (BitVec 8) 256
  gold : Addr
  gvalid : Bool
  goldMint : Word
  src : Option GoldSrc
  /-- Row the next scrub read visits, and passes begun. -/
  scrubRow : Nat
  scrubPass : Nat
  /-- Device time of each row's last clean check. -/
  checked : Vector Word64 256
  /-- The row being rewritten, while the bank is in REPAIR or an active row repair waits. -/
  repairRow : Option Nat
deriving DecidableEq, Repr

/-- One physical Quern (03 Table 3.5). -/
structure Quern where
  a : QBank
  b : QBank
  /-- True: bank B is active. -/
  active : Bool
  parLog : Word
  parCount : Word
  expose : Word64
  swapStall : Word
deriving DecidableEq, Repr

/-- State of a Sluice field (04 Table 4.2). -/
inductive FieldState where
  | valid | programming | invalid | failed
deriving DecidableEq, Repr

/-- One field of a Sluice: its non-volatile state and the count shown by verify. -/
structure SField where
  state : FieldState
  wear : Word
  oob : BitVec 15
deriving DecidableEq, Repr

/-- One entry of the defect table (04 R72). -/
structure Defect where
  valid : Bool
  row : Fin 1024
  pair : Fin 1024
  err : BitVec 8
deriving DecidableEq, Repr

/-- A Sluice operation (04 SLU_STAT.OP). -/
inductive SluOp where
  | prog | verify | refresh
deriving DecidableEq, Repr

/-- A Sluice operation in progress: the masked fields still to do, and what its receipt will say. -/
structure SluJob where
  op : SluOp
  todo : List (Fin 128)
  /-- SLU_PROG: INT8 weights of the operand, row-major 1024 x 512, as they were read. -/
  weights : SMem 8
  gHi : BitVec 3
  gLo : BitVec 3
  failed : Nat
  added : Nat
  worst : Nat
deriving DecidableEq, Repr

/-- A vector in an array's pipeline: which input row of the tile, from which logical Quern, and its partial sums: one list
for integer inputs; one list for each 32-row block for BX10, with the block's scale exponent. -/
structure Flight where
  vec : Nat
  quern : Nat
  parts : List (Int × List Int)
deriving DecidableEq, Repr

/-- The Sluice (04 Table 4.5) with its non-volatile contents. -/
structure Sluice where
  /-- INT8 weight of row `k`, channel `n` at key `512 * k + n`: both slices of R67. -/
  weights : SMem 8
  fields : Vector SField 128
  gHi : BitVec 3
  gLo : BitVec 3
  defects : Vector Defect 256
  worn : Bool
  compFault : Bool
  vppOk : Bool
  compCtl : Word
  /-- Sensor codes T3..T0 as the TEMP register shows them; 0xFF: failed. -/
  temp : Vector Byte 4
  tempAtComp : Vector Byte 4
  /-- A poll saw a sensor move 2 degrees, or fail, since the last update. -/
  moved : Bool
  refResid : BitVec 16
  adcClip : Word
  lastComp : Word64
  /-- The first compensation update after reset has completed (04 R90). -/
  compDone : Bool
  fieldSel : Fin 128
  defectSel : Fin 256
deriving DecidableEq, Repr

/-- One Tally histogram (04 Table 4.6). -/
structure Hist where
  mode : Bool
  en : Bool
  lo : Word
  width : Word
  count : Word
  min : Word
  max : Word
  sum : Word64
  sumsq : Word64
  bins : Vector Word 64
  under : Word
  overs : Word
deriving DecidableEq, Repr

/-- One signature band (04 R94). -/
structure SigBand where
  cfg : Word
  window : Word
  fracMin : Word
  fracMax : Word
  viol : Word
  lastFrac : Word
  seen : Nat
  hits : Nat
deriving DecidableEq, Repr

/-- The format, memory and sequencer registers of a Mill block (02 Table 2.5, 05 Table 5.7, 07 Table 7.5). -/
structure MillRegs where
  nanIn : Word
  infIn : Word
  satOut : Word
  accSat : Word
  nanOut : Word
  fmtFault : Word
  fmtFaultInfo : Word
  hopClearing : Bool
  hopPowered : Bool
  hopCe : Word
  hopUe : Word
  purseCe : Word
  purseUe : Word
  memErrLog : Word
  portRd : Word
  portWr : Word
  tileCap : BitVec 13
  tilesIssued : Word
  stageWait : Word
  ovfLog : Word
  ovfBh : Word
  ovfM : Word
  ovfN : Word
  ovfK : Word
  tbound : Word
  qmap : BitVec 18
  remapRej : Bool
  remapBusy : Bool
  scrubCtl : Word
deriving DecidableEq, Repr

/-- A matrix descriptor as read at dispatch (06 Table 6.3), its base already an effective local address, with its length
word and Mint entries (02 R30, 06 R135). -/
structure Desc where
  base : Nat
  fmt : BitVec 16
  rows : Nat
  cols : Nat
  rowStride : Nat
  batchStride : Nat
  headStride : Nat
  heads : Nat
  batches : Nat
  len : Option Nat
  lenDim : BitVec 2
  mintType : Nat
  mint : List (BitVec 16)
  mintOff : Word
  scale : Word
  zpad : Word
  /-- The base lies in the own-Hopper range of R116. -/
  ownHop : Bool
deriving DecidableEq, Repr

/-- A plan descriptor (07 Table 7.2). -/
structure Plan where
  sluice : Bool
  setN : Nat
  setK : Nat
  orderL0 : Bool
  orderL1 : BitVec 8
  orderL2 : BitVec 8
  n2 : Nat
  m2 : Nat
  kt : Nat
  n1 : Nat
  m1 : Nat
  stgIn : Word
  stgW : Word
  spill : Word
  epi : BitVec 8
  epiImm : Word
  qOff : Word
deriving DecidableEq, Repr

/-- A tile of a walk (07 R158, R162): loop indices, its first streamed row and their number, its K-blocks, its N-blocks,
and whether it ends the K range. -/
structure Tile where
  b : Nat
  h : Nat
  m : Nat
  n : Nat
  kr : Nat
  row0 : Nat
  rows : Nat
  k0 : Nat
  ks : Nat
  n0 : Nat
  ns : Nat
  lastK : Bool
deriving DecidableEq, Repr

/-- An accumulator entry (02 R35, 07 R158): a 48-bit sum with its sticky flag, or an FP32 value. -/
inductive Acc where
  | int (v : Int) (sat : Bool)
  | fp (bits : Word)
deriving DecidableEq, Repr

/-- Bank fills still to start, under way or wanted by a tile: logical Quern, K-block, N-block. -/
structure FillReq where
  quern : Fin 6
  kblk : Nat
  nblk : Nat
  /-- FUSE2: the fill takes the K (false) or V (true) operand. -/
  vOperand : Bool
deriving DecidableEq, Repr

/-- The tile in an array: its sets still to run, the vectors each logical Quern has taken, and its accumulators. -/
structure TileRun where
  tile : Tile
  /-- Sets still to run, the first of them current; each a list of fills. -/
  sets : List (List FillReq)
  /-- The current set has been swapped in and computes. -/
  swapped : Bool
  vecDone : Vector Nat 6
  outDone : Nat
  flight : List Flight
  acc : List Acc
  /-- FUSE2 row state: running maximum and sum of each row. -/
  rowM : List Word
  rowL : List Word
  /-- Logical Querns whose bank was refilled after a weight error while a swap was pending (03 Table 3.4). -/
  refilled : List (Fin 6)
deriving DecidableEq, Repr

/-- A docket held in a dispatcher slot (06 R143, 19 R439). -/
structure Held where
  msg : HandoutMsg
  order : Nat
deriving DecidableEq, Repr

/-- How a docket is to end at its next tile boundary. -/
structure Ending where
  status : BitVec 8
  subcode : BitVec 8
  operand : BitVec 8
deriving DecidableEq, Repr

/-- The docket a dispatcher runs, or has preempted (06 R144, 07). -/
structure Run where
  slot : Fin 8
  msg : HandoutMsg
  descs : List (Nat × Desc)
  plan : Option Plan
  start : Option Word64
  dispatched : Word64
  /-- The opcode's own command has built the walk. -/
  walked : Bool
  todo : List Tile
  /-- L2 tiles staged: (batch, head, M index, N index). -/
  staged : List (Nat × Nat × Nat × Nat)
  /-- Staged copies of source rows: bytes by source address. -/
  stagedMem : Memory
  /-- L2 tiles staged so far: the staging buffer alternates with it. -/
  stageCount : Nat
  issued : List Tile
  cur : Option TileRun
  tiles : Nat
  sat : Nat
  nan : Nat
  refused : Nat
  seqUsed : Word
  detail : Word
  ending : Option Ending
  abort : Option AbortReason
  /-- The Sluice operation this docket runs, once it has begun. -/
  slu : Option SluJob
deriving DecidableEq, Repr

/-- A request on the row port (19 R444). -/
structure RowReq where
  write : Bool
  addr : Nat
deriving DecidableEq, Repr

/-- The Millblock boundary of a Mill (19). -/
structure Millblock where
  ctrlNi : BitVec 6
  rowportWin : Word
  rtCe : Word
  rtUe : Word
  protoErr : Word
  grPar : Word
  recordRam : Memory
  porstN : Bool
  rstN : Bool
  iso : Bool
  flat : Bool
  niId : NiId
  /-- Cycles of CK_RACE since MB_PORST_N rose have passed the 8 of R437: credits granted. -/
  credited : Bool
  tags : Vector (Option RowReq) 16
  /-- The Tally port still owes the answer to a transaction (R441). -/
  tallyBusy : Bool
  /-- TT_UP_ERR of the answer to the last record-RAM write (R442). -/
  ttErr : Bool
deriving DecidableEq, Repr

/-- One Mill. -/
structure Mill where
  regs : MillRegs
  querns : Vector Quern 7
  sluice : Sluice
  hists : Vector Hist 4
  bands : Vector SigBand 8
  slots : Vector (Option Held) 8
  arrivals : Nat
  running : Option Run
  preempted : List Run
  /-- Fills pending at the weight-fill port, and the one under way. -/
  fills : List FillReq
  filling : Option FillReq
  /-- Purse contents, Purse `u` at key `65536 * u`. -/
  purses : Memory
  purseCeWrite : List Nat
  mb : Millblock
deriving DecidableEq, Repr

/-- A Quern bank after reset: EMPTY. The spec gives its cells no reset value (log entry 10). -/
def QBank.reset : QBank :=
  { state := .empty, wfmt := 0, rows := .replicate 256 0, parity := .replicate 256 0, gold := 0, gvalid := false,
    goldMint := 0, src := none, scrubRow := 0, scrubPass := 0, checked := .replicate 256 0, repairRow := none }

/-- A Quern after reset (03 Table 3.5). -/
def Quern.reset : Quern :=
  { a := .reset, b := .reset, active := false, parLog := 0, parCount := 0, expose := 0, swapStall := 0 }

/-- The volatile registers of a Sluice after reset (04 Table 4.5), over a never-programmed array: every field INVALID
(Table 4.2), no defect, no wear. -/
def Sluice.reset : Sluice :=
  { weights := [], fields := .replicate 128 { state := .invalid, wear := 0, oob := 0 }, gHi := 0, gLo := 0,
    defects := .replicate 256 { valid := false, row := 0, pair := 0, err := 0 }, worn := false, compFault := false,
    vppOk := false, compCtl := 0x0003E840, temp := .replicate 4 0, tempAtComp := .replicate 4 0, moved := false,
    refResid := 0, adcClip := 0, lastComp := 0, compDone := false, fieldSel := 0, defectSel := 0 }

/-- A histogram after reset (04 Table 4.6). -/
def Hist.reset : Hist :=
  { mode := false, en := false, lo := 0, width := 0x3F800000, count := 0, min := 0x7F800000, max := 0xFF800000,
    sum := 0, sumsq := 0, bins := .replicate 64 0, under := 0, overs := 0 }

/-- A signature band after reset (04 Table 4.6). -/
def SigBand.reset : SigBand :=
  { cfg := 0x0FC00000, window := 0x4000, fracMin := 0, fracMax := 0x3F800000, viol := 0, lastFrac := 0, seen := 0,
    hits := 0 }

/-- Mill registers after reset (02 Table 2.5, 03 Table 3.5, 05 Table 5.7, 07 Table 7.5). -/
def MillRegs.reset : MillRegs :=
  { nanIn := 0, infIn := 0, satOut := 0, accSat := 0, nanOut := 0, fmtFault := 0, fmtFaultInfo := 0,
    hopClearing := false, hopPowered := true, hopCe := 0, hopUe := 0, purseCe := 0, purseUe := 0, memErrLog := 0,
    portRd := 0, portWr := 0, tileCap := 0x0FA0, tilesIssued := 0, stageWait := 0, ovfLog := 0, ovfBh := 0, ovfM := 0,
    ovfN := 0, ovfK := 0, tbound := 0, qmap := 0x2C688, remapRej := false, remapBusy := false,
    scrubCtl := 0x00401001 }

/-- The boundary of Mill `m` after reset (19 Table 19.8): MB_CTRL_NI 0x33, and ROWPORT_WIN the plots of its quad. -/
def Millblock.reset (m : MillId) : Millblock :=
  { ctrlNi := 0x33, rowportWin := BitVec.ofNat 32 ((24 * (m.val / 4) + 24) * 65536 + 24 * (m.val / 4)), rtCe := 0,
    rtUe := 0, protoErr := 0, grPar := 0, recordRam := [], porstN := true, rstN := true, iso := false, flat := false,
    niId := ⟨m.val, by omega⟩, credited := true, tags := .replicate 16 none, tallyBusy := false,
    ttErr := false }

/-- Mill `m` after reset. -/
def Mill.reset (m : MillId) : Mill :=
  { regs := .reset, querns := .replicate 7 .reset, sluice := .reset, hists := .replicate 4 .reset,
    bands := .replicate 8 .reset, slots := .replicate 8 none, arrivals := 0, running := none, preempted := [],
    fills := [], filling := none, purses := [], purseCeWrite := [], mb := .reset m }

end Sys2Proof.Machine
end

