-- ==== Sys2Proof/Machine/StateNet.lean ====
section
/-! DEFINITION. The state of the Millrace, its network interfaces and the Tally tree (11), and of the PCIe endpoint (21). -/

namespace Sys2Proof.Machine

/-- An outstanding request of an NI (11 R263, R268). -/
structure OutSlot where
  slot : Fin 256
  dst : NiId
  kind : BitVec 4
  vn : Fin 5
  addr : Addr
  /-- Device time at issue, for its timer. -/
  since : Word64
  /-- Issued for a Flume port on behalf of a remote initiator: origin node, interface and tag (12 R292). -/
  origin : Option (NodeId × NiId × BitVec 12)
deriving DecidableEq, Repr

/-- One network interface (11 Table 11.9). -/
structure Ni where
  admits : Bool
  routeRej : Bool
  epoch : Byte
  timeoutUs : BitVec 20
  timeouts : Word
  lateResp : Word
  staleEpoch : Word
  offlineSent : Word
  errLog : Word
  e2eUe : Word
  epv : Vector Byte 64
  /-- Entries in effect, as ROUTE_d shows them. -/
  routes : Vector Word 64
  /-- Route writes not yet in effect (11 R261), and requests held for them. -/
  routePend : Vector (Option Word) 64
  waiting : List Packet
  out : List OutSlot
  gens : Vector (BitVec 4) 256
  /-- Requests accepted and not yet answered, and tags whose later responses are suppressed (11 R270). -/
  accepted : List Packet
  suppressed : List Packet
  /-- Responses delivered to the unit, newest first. -/
  delivered : List Packet
deriving DecidableEq, Repr

/-- A router's counters (11 Table 11.10). -/
structure Router where
  ce : Word
  ue : Word
  misroute : Word
deriving DecidableEq, Repr

/-- A Tally tree transaction of a master (11 R272). -/
structure TreeTxn where
  addr : Word
  write : Bool
  /-- Data of a write; of a read, what the leaf has read. -/
  data : Word
  /-- The leaf acts on the beat as it arrives. -/
  prompt : Bool
  /-- The root has granted it and forwarded it to its leaf, at device time `since`. -/
  granted : Bool
  since : Word64
  /-- The leaf has acted; the leaf ignores the beat and never answers (19 R441). -/
  acted : Bool
  dead : Bool
  /-- A BAR0 access of the host waits for it. -/
  host : Bool
deriving DecidableEq, Repr

/-- What a master received: ERR or a timeout, and the data. -/
structure TreeAns where
  err : Bool
  data : Word
deriving DecidableEq, Repr

/-- A BAR0 access waiting at the endpoint (11 R273): CSR address, data of a write, and whether its leaf will act promptly. -/
structure BarReq where
  write : Bool
  addr : Word
  data : Word
  prompt : Bool
deriving DecidableEq, Repr

/-- The networks on chip. -/
structure Net where
  nis : Vector Ni 64
  routers : Vector Router 4
  /-- Packets on a router output: (router, port, packet), oldest first. -/
  wires : List (QuadId × Fin 16 × Packet)
  /-- Responses and requests on their way that no command has carried yet, oldest first. -/
  sent : List Packet
  treeLog : Bool
  treeMaster : BitVec 2
  treeWrite : Bool
  treeTimeoutUs : BitVec 24
  treeErrAddr : Word
  treeTimeouts : Word
  treeLate : Word
  treeDecodeErr : Word
  txns : Vector (Option TreeTxn) 3
  /-- Master at which the root's round robin continues (11 R272). -/
  treeNext : Fin 3
  /-- Last answer each master received. -/
  answers : Vector TreeAns 3
  /-- Timed-out transactions whose leaf answer may still come (11 R274), by master, oldest first. -/
  abandoned : List (Fin 3 × TreeTxn)
  /-- BAR0 accesses waiting at the endpoint, oldest first (11 R273). -/
  posted : List BarReq
  /-- Data the endpoint returned for the last BAR read; none: Completer Abort or Unsupported Request. -/
  barRead : Option (List Byte)
  /-- AER events logged. -/
  aer : Nat
  msixTable : Memory
  msixPba : BitVec 256
  /-- PERST_N low: the endpoint is in reset (18 R426). -/
  perst : Bool
deriving DecidableEq, Repr

/-- The quad an interface attaches to (11 Table 11.1, 11.2). -/
def niQuad (n : NiId) : Nat :=
  if n.val < 16 then n.val / 4
  else if n.val < 32 then (n.val - 16) / 4
  else if n.val < 36 then n.val - 32
  else if n.val < 48 then ((n.val - 36) / 2) / 3 + 2 * ((n.val - 36) % 2)
  else if n.val = 48 then 2
  else if n.val = 49 then 3
  else if n.val < 54 then 0
  else 1

/-- The port of its router an interface attaches to (11 Table 11.1). -/
def niPort (n : NiId) : Nat :=
  if n.val < 16 then n.val % 4
  else if n.val < 32 then 4 + (n.val - 16) % 4
  else if n.val < 36 then 11
  else if n.val < 48 then 12 + ((n.val - 36) / 2) % 3
  else 15

/-- The entry of the direct route (11 R258): VALID 1 but for the reserved identifiers 57-63. -/
def directRoute (src dst : NiId) : Word :=
  if 57 ≤ dst.val then 0
  else if niQuad src = niQuad dst then BitVec.ofNat 32 (2 ^ 31 + 2 ^ 28 + niPort dst)
  else
    let chord := 8 + (if niQuad dst < niQuad src then niQuad dst else niQuad dst - 1)
    BitVec.ofNat 32 (2 ^ 31 + 2 * 2 ^ 28 + niPort dst * 16 + chord)

/-- An interface after reset (11 R258, R271). -/
def Ni.reset (n : NiId) : Ni :=
  { admits := (16 ≤ n.val && n.val ≤ 35) || (50 ≤ n.val && n.val ≤ 53), routeRej := false, epoch := 0, timeoutUs := 0x14,
    timeouts := 0, lateResp := 0, staleEpoch := 0, offlineSent := 0, errLog := 0, e2eUe := 0, epv := .replicate 64 0,
    routes := .ofFn fun d => directRoute n d, routePend := .replicate 64 none, waiting := [], out := [],
    gens := .replicate 256 0, accepted := [], suppressed := [], delivered := [] }

/-- The networks after reset (11 Tables 11.9, 11.10). -/
def Net.reset : Net :=
  { nis := .ofFn fun n => Ni.reset n, routers := .replicate 4 { ce := 0, ue := 0, misroute := 0 }, wires := [], sent := [],
    treeLog := false, treeMaster := 0, treeWrite := false, treeTimeoutUs := 0x3E8, treeErrAddr := 0, treeTimeouts := 0,
    treeLate := 0, treeDecodeErr := 0, txns := .replicate 3 none, treeNext := 0,
    answers := .replicate 3 { err := false, data := 0 }, abandoned := [], posted := [],
    barRead := none, aer := 0, msixTable := [], msixPba := 0, perst := false }

end Sys2Proof.Machine
end

