-- ==== Sys2Proof/Machine/StateSpigot.lean ====
section
/-! DEFINITION. The state of the Spigot, the Ethernet MACs and the CAN controllers (10). -/

namespace Sys2Proof.Machine

/-- One Spigot channel (10 Table 10.6) and its 32-edge FIFO. -/
structure Channel where
  cfg : Word
  leads : Word
  pwm : Word
  level : Bool
  holding : Bool
  forced : Bool
  dutyNow : BitVec 10
  /-- The duty of the next PWM period (10 R230). -/
  dutyNext : BitVec 10
  /-- Start of the HIT_US interval or of the PWM period. -/
  since : Word64
  /-- MODE 1: the channel is on; a HIT_US interval runs; the PWM runs. -/
  on : Bool
  hit : Bool
  running : Bool
  fifo : List Edge
  holdFrom : Option Word64
deriving DecidableEq, Repr

/-- A boom node (10 Table 10.6). -/
structure BoomNode where
  cfg : Word
  dst : BitVec 48
  timing : Word
  dropPend : BitVec 24
  seq : BitVec 16
  lastSent : Word64
deriving DecidableEq, Repr

/-- A SPIGOT_SCHEDULE docket in the schedule queue (10 R232-R236): what is left of its edges, and what it has counted. -/
structure SchedJob where
  id : Nat
  words : DocketWords
  start : Word64
  mill : MillId
  slot : Fin 8
  chute : ChuteId
  urgent : Bool
  edges : List Edge
  /-- Converted edges still on their way from the Mill. -/
  awaiting : Nat
  taken : Nat
  refused : Nat
  /-- Accepted remote edges, and CANCEL entries, for the boom frames (10 R239). -/
  remote : List (ChanId × Fin 4 × BitVec 10 × Word64)
  seqUsed : Word
  noSpeed : Bool
deriving DecidableEq, Repr

/-- A frame queued on a MAC: for a boom node its edges (channel, action with 3 CANCEL, duty, time), else a descriptor
of a transmit ring. -/
inductive TxFrame where
  | boom (k : BoomId) (edges : List (ChanId × Fin 4 × BitVec 10 × Word64)) (held : Bool)
  | ring (r : Fin 8) (desc : Nat) (held : Bool)
deriving DecidableEq, Repr

/-- A descriptor ring of a MAC, or an entry ring of a CAN controller. -/
structure IoRing where
  base : Addr
  log2 : Word
  head : Nat
  tail : Nat
deriving DecidableEq, Repr

/-- A gate-list entry (10 R243). -/
structure Gate where
  gates : Byte
  interval : Word
deriving DecidableEq, Repr

/-- One MAC (10 Table 10.7). -/
structure Mac where
  ctl : Word
  addr : BitVec 48
  pcpMap : BitVec 24
  tasEn : Bool
  operList : Bool
  changePend : Bool
  adminLen : BitVec 9
  adminBase : Word64
  cycleNs : Word
  tasHeld : Word
  rxNospace : Word
  rings : Vector IoRing 12
  admin : Vector Gate 256
  oper : Vector Gate 256
  operLen : Nat
  operBase : Word64
  operCycle : Word
  entry : Nat
  queues : Vector (List TxFrame) 8
  sending : List TxFrame
  /-- Frames put on the wire, newest first, from the destination address on, without FCS. -/
  wire : List (List Byte)
deriving DecidableEq, Repr

/-- One CAN controller (10 Table 10.7). -/
structure Can where
  ctl : Word
  nbt : Word
  dbt : Word
  busOff : Bool
  recovering : Bool
  errPassive : Bool
  tec : Byte
  rxErr : Byte
  filtered : Word
  rxNospace : Word
  rings : Vector IoRing 4
  filters : Vector (Word × Word) 32
  /-- Frames transmitted, newest first: the 80 bytes of their entries. -/
  wire : List (List Byte)
deriving DecidableEq, Repr

/-- The Spigot and the field networks. -/
structure Spigot where
  ctl : Word
  safePinLow : Bool
  speedBase : Addr
  speedStride : Word
  speedCfg : Word
  etype : BitVec 16
  /-- EDGES_APPLIED, LATE_EDGES, REFUSED_ORDER, REFUSED_BIND, MERGED, SPIGOT_LATE, NO_SPEED. -/
  counters : Vector Word 7
  nodes : Vector BoomNode 8
  chans : Vector Channel 256
  queue : List SchedJob
  /-- EDGES messages on their way: Mill, chute, slot, edges. -/
  flying : List (MillId × ChuteId × Fin 8 × List Edge)
  macs : Vector Mac 2
  cans : Vector Can 2
deriving DecidableEq, Repr

/-- A channel after reset: at its reset SAFE_LEVEL, low (10 R231, Table 10.6). -/
def Channel.reset : Channel :=
  { cfg := 0x13E80000, leads := 0, pwm := 0x00640000, level := false, holding := false, forced := false, dutyNow := 0, dutyNext := 0,
    since := 0, on := false, hit := false, running := false, fifo := [], holdFrom := none }

/-- A MAC after reset. -/
def Mac.reset : Mac :=
  { ctl := 0, addr := 0, pcpMap := 0xFAC688, tasEn := false, operList := false, changePend := false, adminLen := 0,
    adminBase := 0, cycleNs := 0, tasHeld := 0, rxNospace := 0,
    rings := .replicate 12 { base := 0, log2 := 0, head := 0, tail := 0 },
    admin := .replicate 256 { gates := 0, interval := 0 }, oper := .replicate 256 { gates := 0, interval := 0 },
    operLen := 0, operBase := 0, operCycle := 0, entry := 0, queues := .replicate 8 [], sending := [], wire := [] }

/-- A CAN controller after reset. -/
def Can.reset : Can :=
  { ctl := 0, nbt := 0, dbt := 0, busOff := false, recovering := false, errPassive := false, tec := 0, rxErr := 0,
    filtered := 0, rxNospace := 0, rings := .replicate 4 { base := 0, log2 := 0, head := 0, tail := 0 },
    filters := .replicate 32 (0, 0), wire := [] }

/-- The Spigot after reset (10 Table 10.6). -/
def Spigot.reset : Spigot :=
  { ctl := 0x00320007, safePinLow := false, speedBase := 0, speedStride := 0, speedCfg := 0x00640000, etype := 0x88B5,
    counters := .replicate 7 0,
    nodes := .replicate 8 { cfg := 0, dst := 0, timing := 0x03E800C8, dropPend := 0, seq := 0, lastSent := 0 },
    chans := .replicate 256 .reset, queue := [], flying := [], macs := .replicate 2 .reset, cans := .replicate 2 .reset }

end Sys2Proof.Machine
end

