-- ==== Sys2Proof/Machine/StateWeir.lean ====
section
/-! DEFINITION. The state of a Weir solver engine (08). -/

namespace Sys2Proof.Machine

/-- An assembly rule of a template (08 Table 8.2). -/
structure WRule where
  src : Fin 64
  val : Fin 4
  op : Fin 4
  row : Nat
  col : Nat
  coef : Word
deriving DecidableEq, Repr

/-- A stored matrix (08 R182-R185): mantissas by key `1024 * row + column`, one exponent a row; in MODE 2 also the
transpose with its own exponents; the inverted diagonal; the blocks of MODE 1. -/
structure Matrix where
  mode : Nat
  n : Nat
  m : Nat
  headroom : Nat
  ents : SMem 16
  exps : List Byte
  tEnts : SMem 16
  tExps : List Byte
  blocks : List (Nat × Nat)
  dinv : List Word
deriving DecidableEq, Repr

/-- A record held by the assembler: the next rule to apply (08 R191), and the Gauge's number of it, if it has one. -/
structure HeldRecord where
  record : Record
  rule : Nat
  no : Option Nat
deriving DecidableEq, Repr

/-- A bind that runs: what it will write at its completion (08 R189), with the saturated entries. -/
structure WeirBinding where
  job : Job
  mat : Matrix
  rules : List WRule
  sat : Nat
  started : Word64
deriving DecidableEq, Repr

/-- A solve that has run its iterations and waits for its formula time (08 R201): what it will write and report. -/
structure WeirRun where
  job : Job
  k : Nat
  x : List Word
  residual : Word
  /-- Every iterate was finite (08 R199). -/
  finite : Bool
  sat : Nat
  seq : Word
  cycles : Nat
  started : Word64
  /-- Address of the solution batch it writes. -/
  solAt : Nat
  /-- No bind has completed since its start, so its solution is the next initial iterate (08 R189, R197). -/
  keep : Bool
deriving DecidableEq, Repr

/-- One Weir (08 Table 8.8). -/
structure Weir where
  cfg : Word
  resTarget : Word
  bound : Bool
  activePair : Bool
  mat : Matrix
  /-- A completed bind in the shadow pair, taken by the next solve. -/
  shadow : Option Matrix
  binding : Option WeirBinding
  running : Option WeirRun
  rules : List WRule
  x : List Word
  rhs : List Word
  /-- Right-hand-side rule applications since the last commit: (add, row, value). -/
  rhsOps : List (Bool × Nat × Word)
  /-- Pending entries: (row, column, value), in order of first use. -/
  pending : List (Nat × Nat × Word)
  held : List HeldRecord
  /-- SEQ of the last commit, and the largest BAND_SEQ applied since (08 R192). -/
  seq : Word
  seqNew : Option Word
  lastRes : Word
  lastSeq : Word
  solves : Word
  refused : Word
  nonfinite : Word
  solveLate : Word
  nanIn : Word
  /-- Docket slots: slot 0 only URGENT; oldest first (08 R194). -/
  queue : List Job
deriving DecidableEq, Repr

/-- The empty matrix of an unbound Weir. -/
def Matrix.empty : Matrix :=
  { mode := 0, n := 0, m := 0, headroom := 0, ents := [], exps := [], tEnts := [], tExps := [], blocks := [], dinv := [] }

/-- A Weir after reset (08 Table 8.8). -/
def Weir.reset : Weir :=
  { cfg := 0x40000000, resTarget := 0x7F800000, bound := false, activePair := false, mat := .empty, shadow := none,
    binding := none, running := none, rules := [], x := [], rhs := [], rhsOps := [], pending := [], held := [],
    seq := 0, seqNew := none, lastRes := 0, lastSeq := 0, solves := 0, refused := 0, nonfinite := 0, solveLate := 0, nanIn := 0,
    queue := [] }

end Sys2Proof.Machine
end

