-- ==== Sys2Proof/Machine/StateService.lean ====
section
/-! DEFINITION. The state of the service registers, unit records, clocks, power and boot (17, 18). -/

namespace Sys2Proof.Machine

/-- Unit states (17 Table 17.2). -/
inductive UnitState where
  | offline | isolated | testing | standby | online | draining | degraded
deriving DecidableEq, Repr

/-- A management record (17 UNIT_MGMT). -/
structure UnitRec where
  powered : Bool
  cause : Byte
  epoch : Byte
  step : BitVec 3
  state : UnitState
  /-- Firmware's own: the time of its last REJOIN step (R407), and that its RESET is done by a power-up (R410). -/
  rejoined : Option Word64
  resetDone : Bool
deriving DecidableEq, Repr

/-- A step of a service sequence (17 Table 17.4), or the Assay slice it isolates its unit for (16 R381). -/
inductive SvcStep where
  | drain | isolate | test | reset | reinit | rejoin
deriving DecidableEq, Repr

/-- Register values that firmware holds of a unit it has reset (17 Table 17.5). -/
inductive Shadow where
  | mill (x : Mill) | weir (x : Weir) | port (x : FlumePort) | fields (macs : Vector Mac 2) (cans : Vector Can 2) | none
deriving DecidableEq, Repr

/-- A service sequence firmware runs (17 R400, R404). -/
structure Sequence where
  unit : UnitId
  /-- The docket it serves; none for a field slice. -/
  job : Option Job
  /-- Steps still to end, the present one first, and steps ended. -/
  todo : List SvcStep
  done : Nat
  /-- STATE after REJOIN. -/
  target : UnitState
  /-- Device time at which the present DRAIN began; dockets stopped; the drain timed out. -/
  since : Word64
  stopped : Nat
  expired : Bool
  /-- RE-INIT has restored the registers. -/
  restored : Bool
  shadow : Shadow
  /-- A QMAP that RE-INIT writes (17 Table 17.6, 16 R382). -/
  qmap : Option (BitVec 18)
  /-- The slice: partition and w5. -/
  slice : Option (Nat × Word)
deriving DecidableEq, Repr

/-- A Sluice docket that firmware itself issued to a Mill (18 R430, R431): its number, whether it is the refresh of R431, and
the status its DONE carried. -/
structure FwSluice where
  id : Nat
  refresh : Bool
  result : Option (BitVec 8)
deriving DecidableEq, Repr

/-- Service and clock registers (17 Table 17.7, 18 Table 18.7). -/
structure Service where
  auditEn : Bool
  skewBell : BellId
  drainTimeout : BitVec 20
  stateSkew : Word
  skewLog : Word
  millerB : Bool
  standbyReady : Bool
  failover : Bool
  millerBell : BellId
  handovers : Word
  lastPause : Word
  units : Vector UnitRec 43
  sequences : List Sequence
  /-- The image the standby pair runs (17 R412), and that the pair which is not active is booting (R413). -/
  standbyFw : List Byte
  booting : Bool
  /-- No pair can serve firmware-path dockets (17, failure with no standby). -/
  noFirmware : Bool
  locked : Bool
  rstCause : BitVec 5
  vid : BitVec 5
  /-- Highest reading since reset, and the last Tj reported. -/
  tempMax : Int
  tj : Int
  thermBell : BellId
  tripC : Byte
  warnC : Byte
  warned : Bool
  perstCount : Word
  bootBell : BellId
  bootPhase : BitVec 4
  bootT : Vector Word 11
  bootFrom : Word64
  /-- PORST_N level, full reset in force, thermal trip latched. -/
  porstN : Bool
  inReset : Bool
  thermTrip : Bool
  /-- Mills whose Sluice the boot check found to need programming. -/
  sluNeeds : BitVec 16
  /-- The Sluice docket firmware has issued to each Mill. -/
  sluBoot : Vector (Option FwSluice) 16
  /-- A firmware image has been verified and runs: its bytes' place is the boot copy. -/
  firmware : List Byte
  firmwareOk : Bool
deriving DecidableEq, Repr

/-- Service and clock state right after PORST_N rises: units not yet tested are OFFLINE (log entry 15). -/
def Service.reset : Service :=
  { auditEn := true, skewBell := 0, drainTimeout := 0x7D0, stateSkew := 0, skewLog := 0, millerB := false,
    standbyReady := false, failover := false, millerBell := 0, handovers := 0, lastPause := 0,
    units := .replicate 43 { powered := true, cause := 0, epoch := 0, step := 0, state := .offline, rejoined := none, resetDone := false }, sequences := [],
    standbyFw := [], booting := false, noFirmware := false, locked := false, rstCause := 1, vid := 0x0E, tempMax := 0, tj := 0, thermBell := 0,
    tripC := 0x82, warnC := 0x73, warned := false, perstCount := 0, bootBell := 0, bootPhase := 0,
    bootT := .replicate 11 0, bootFrom := 0, porstN := true, inReset := false, thermTrip := false, sluNeeds := 0, sluBoot := .replicate 16 none,
    firmware := [], firmwareOk := false }

end Sys2Proof.Machine
end

