-- ==== Sys2Proof/Machine/StateVault.lean ====
section
/-! DEFINITION. The state of the Vault and its NAND (14). -/

namespace Sys2Proof.Machine

/-- One NAND block as the translation layer knows it: its partition, erases and reads (reads since its last erase), whether
it is bad, units programmed since its erase, units that are still the present copy, and one more than the number of the last
patrol interval in which it was read. -/
structure NandBlock where
  boot : Bool
  erases : Nat
  reads : Nat
  bad : Bool
  used : Nat
  live : Nat
  patrol : Nat
deriving DecidableEq, Repr

/-- A section entry of a Grist header (14 Table 14.4). -/
structure Section where
  type : Nat
  priority : Nat
  bootLoad : Bool
  bell : BellId
  srcOff : Nat
  len : Nat
  dest : Nat
  digOff : Nat
  mills : BitVec 16
deriving DecidableEq, Repr

/-- A section still to stream: its index in the header, and the chunks already written and verified (14 R342). -/
structure Stream where
  index : Nat
  chunk : Nat
deriving DecidableEq, Repr

/-- The Sluice record firmware keeps for a Mill in the format record (18 R429): GENERATION and the section's digest list. -/
structure SluRecord where
  present : Bool
  generation : Word
  digests : List (BitVec 384)
deriving DecidableEq, Repr

/-- The Vault (14 Table 14.6). -/
structure Vault where
  en : Bool
  mounted : Bool
  readOnly : Bool
  noImage : Bool
  bootedB : Bool
  gristFail : Bool
  fail : BitVec 4
  bells : BitVec 16
  slotSize : BitVec 16
  mts : BitVec 16
  wlDelta : BitVec 16
  rdLimit : Word
  patrol : Word
  /-- CW_READ, CW_RETRY, CW_SOFT, CW_UNCORR, GROWN_BAD, RD_RELOC, RET_RELOC, JOURNAL_REPLAYS, BAD_BLOCKS, SPARE_FREE. -/
  counters : Vector Word 10
  maxBits : BitVec 16
  eraseMax : Word
  eraseMin : Word
  fillTime : Word
  formatting : Bool
  fmtRej : Bool
  fmtSlotMb : BitVec 16
  /-- A Grist image is booted: SLOT names its slot, which is then the active slot of Table 14.5. -/
  booted : Bool
  /-- What the parameter pages reported at the last initialisation. -/
  nand : NandGeom
  /-- NAND contents: BOOT, DATA and the 16 anchor blocks (channel 0 first), as bytes by offset; never-written reads zero
  (R333). -/
  boot : Memory
  dataPart : Memory
  anchors : Vector Memory 16
  /-- The format record: that it is there, BOOT_SLOT_SIZE, the units of DATA, the spare blocks left of BOOT and DATA, and the
  Sluice records. -/
  formatted : Bool
  slotNv : BitVec 16
  dataUnits : Nat
  spareBoot : Nat
  spareData : Nat
  sluRecords : Vector SluRecord 16
  blocks : List NandBlock
  /-- The map: key 2u for unit u of BOOT, 2u + 1 for unit u of DATA; one more than the block that holds it. -/
  map : SMem 32
  /-- Blocks being filled, of BOOT and of DATA. -/
  openBoot : Option Nat
  openData : Option Nat
  /-- Header of the booted image: GENERATION and sections. -/
  generation : Word
  sections : List Section
  /-- Sections still to stream at boot, the present one first, with the time streaming began; SLUICE sections that are
  complete and not yet acted on (18 R430). -/
  streams : List Stream
  streamFrom : Word64
  sluReady : List Nat
deriving DecidableEq, Repr

/-- The Vault after reset over a NAND set that was never formatted. -/
def Vault.reset : Vault :=
  { en := false, mounted := false, readOnly := false, noImage := false, bootedB := false, gristFail := false, fail := 0,
    bells := 0, slotSize := 0, mts := 0x4B0, wlDelta := 0x1F4, rdLimit := 0x002800C8, patrol := 0x001E6010,
    counters := .replicate 10 0, maxBits := 0, eraseMax := 0, eraseMin := 0, fillTime := 0, formatting := false,
    fmtRej := false, fmtSlotMb := 0,
    booted := false,
    nand := { ce := 0, luns := 0, planes := 0, tlc := false, page16 := false, blocks := 0, rawUnits := 0, identical := true },
    boot := [], dataPart := [], anchors := .replicate 16 [], formatted := false, slotNv := 0, dataUnits := 0,
    spareBoot := 0, spareData := 0, sluRecords := .replicate 16 { present := false, generation := 0, digests := [] },
    blocks := [], map := [], openBoot := none, openData := none, generation := 0, sections := [], streams := [],
    streamFrom := 0, sluReady := [] }

/-- The Vault after a full reset: registers at their reset values, the NAND contents and what they hold untouched
(18 R426). -/
def Vault.afterReset (v : Vault) : Vault :=
  { Vault.reset with boot := v.boot, dataPart := v.dataPart, anchors := v.anchors, formatted := v.formatted,
                     slotNv := v.slotNv, dataUnits := v.dataUnits, spareBoot := v.spareBoot, spareData := v.spareData,
                     sluRecords := v.sluRecords, blocks := v.blocks, map := v.map, openBoot := v.openBoot,
                     openData := v.openData }

end Sys2Proof.Machine
end

