-- ==== Sys2Proof/Machine/State.lean ====
section
/-! DEFINITION. The state of the whole block, the ways a step can stop, and the state right after reset. -/

namespace Sys2Proof.Machine

/-- Why a step stops with a fault. -/
inductive Fault where
  /-- Raised by VPP_SLU_RISE and VPP_SLU_FALL when the rail is driven beyond its rating: the later behaviour of the
  device is unspecified (20 R461). Safe: the machine stops where the hardware goes on in an unspecified way. -/
  | ratingExceeded
deriving DecidableEq, Repr

/-- Why a step has no meaning. -/
inductive Refusal where
  /-- Raised by a row that has no meaning yet, by its mnemonic. Safe. -/
  | notModelled (mnemonic : String)
deriving DecidableEq, Repr

/-- The state of the MH-1640, every unit of 01 Table 1.1, with the queue of waiting commands. -/
structure State where
  /-- Commands waiting, first in, first out. -/
  pending : List Instr
  /-- Granary and Hoppers, by local byte address (21 Table 21.1). -/
  mem : Memory
  mills : Vector Mill 16
  control : Control
  granary : Granary
  weirs : Vector Weir 2
  gauge : Gauge
  spigot : Spigot
  net : Net
  flume : Flume
  ledger : Ledger
  vault : Vault
  clapper : Clapper
  assay : Assay
  service : Service
  /-- The model's own count of free values drawn (log entry 5); no rule of the spec names it. -/
  free : Nat
deriving DecidableEq, Repr

/-- The machine right after PORST_N has risen, before the first boot step (18 R426, R428). -/
def State.reset : State :=
  { pending := [], mem := [], mills := .ofFn fun m => Mill.reset m, control := .reset, granary := .reset,
    weirs := .replicate 2 .reset, gauge := .reset, spigot := .reset, net := .reset, flume := .reset, ledger := .reset,
    vault := .reset, clapper := .reset, assay := .reset, service := .reset, free := 0 }

end Sys2Proof.Machine
end

