-- ==== Sys2Proof/Machine/Flags.lean ====
section
/-! DEFINITION. Statuses, subcodes and the fields of receipts (06 Tables 6.5, 6.6; 11 Table 11.7). -/

namespace Sys2Proof.Machine

/-! Status codes (06 R138). -/
def stOk : Byte := 0x00
def stSat : Byte := 0x01
def stOverflow : Byte := 0x10
def stBound : Byte := 0x11
def stFormat : Byte := 0x12
def stAborted : Byte := 0x20
def stSkipped : Byte := 0x21
def stOffline : Byte := 0x30
def stTimeout : Byte := 0x31
def stUncorr : Byte := 0x32
def stNotConv : Byte := 0x40
def stLinkDown : Byte := 0x50
def stInternal : Byte := 0xFF

/-- A status that tells of no fault (06 R131). -/
def okStatus (st : Byte) : Bool := st = stOk || st = stSat || st = stNotConv

/-- The receipt status and subcode a network status maps to (11 R269). -/
def netReceipt : NetStatus → Byte × Nat
  | .ok => (stOk, 0)
  | .offline => (stOffline, 0)
  | .timeout => (stTimeout, 0)
  | .uncorr => (stUncorr, 0)
  | .linkDown => (stLinkDown, 0)
  | .bound => (stBound, 0)
  | .reserved => (stInternal, 0x0F)

/-- DETAIL from its three fields (06 R139). -/
def mkDetail (sub mid low : Nat) : Word := img (sub % 256 * 2 ^ 24 + mid % 256 * 2 ^ 16 + low % 65536)

/-- A count limited to a field's maximum. -/
def stopAt (hi n : Nat) : Nat := if hi < n then hi else n

/-- The status an ABORT message's REASON names (19 Table 19.2); for a fault elsewhere the controller keeps the fault that
reached it first. -/
def abortStatus : AbortReason → Byte
  | .overrun => stAborted
  | .offline => stOffline
  | .faultElsewhere => stOffline

/-- One 64-bit value as two words. -/
def words64 (x : Word64) : List Word := [lo32 x, hi32 x]

/-- The bytes of words in order, each little-endian. -/
def wordBytes (ws : List Word) : List Byte := ws.flatMap fun w => leBytes 4 w.toNat

/-- The 32 bytes of a receipt (06 Table 6.4), with its PHASE bit. -/
def receiptBytes (phase : Bool) (r : DoneMsg) : List Byte :=
  wordBytes ([img (flag phase 31 + r.chute.val * 2 ^ 24 + r.status.toNat * 2 ^ 16 + r.tag.toNat), r.detail]
    ++ words64 r.doneTime ++ words64 r.startTime ++ [r.tiles, r.sat])

end Sys2Proof.Machine
end

