-- ==== Sys2Proof/Machine/Float.lean ====
section
/-! DEFINITION. Element formats and floating-point arithmetic (02): every value is a dyadic number held exactly, rounded
once by the rule that applies. -/

namespace Sys2Proof.Machine

/-- A value read from a format: NaN, an infinity, or `(-1)^neg * m * 2^e`. -/
inductive FVal where
  | nan
  | inf (neg : Bool)
  | fin (neg : Bool) (m : Nat) (e : Int)
deriving DecidableEq, Repr

/-- A floating-point layout (02 Table 2.2): exponent bits, mantissa bits, and whether the top exponent codes infinity
and NaN (E4M3 has no infinity and one NaN mantissa). -/
structure FFmt where
  eb : Nat
  mb : Nat
  ieee : Bool
deriving DecidableEq, Repr

def fE4M3 : FFmt := { eb := 4, mb := 3, ieee := false }
def fE5M2 : FFmt := { eb := 5, mb := 2, ieee := true }
def fFP16 : FFmt := { eb := 5, mb := 10, ieee := true }
def fBF16 : FFmt := { eb := 8, mb := 7, ieee := true }
def fFP32 : FFmt := { eb := 8, mb := 23, ieee := true }
def fFP64 : FFmt := { eb := 11, mb := 52, ieee := true }

/-- Exponent bias. -/
def FFmt.bias (f : FFmt) : Nat := 2 ^ (f.eb - 1) - 1
/-- Exponent of the least significant subnormal bit. -/
def FFmt.emin (f : FFmt) : Int := 1 - (f.bias : Int) - f.mb
/-- Largest finite magnitude: mantissa and exponent. -/
def FFmt.maxM (f : FFmt) : Nat := if f.ieee then 2 ^ (f.mb + 1) - 1 else 2 ^ (f.mb + 1) - 2
def FFmt.maxE (f : FFmt) : Int := ((2 ^ f.eb : Nat) : Int) - (if f.ieee then 2 else 1) - f.bias - f.mb

/-- Decode a code of the format (02 R24). -/
def FFmt.decode (f : FFmt) (x : Nat) : FVal :=
  let neg := (x >>> (f.eb + f.mb)) % 2 = 1
  let e := (x >>> f.mb) % 2 ^ f.eb
  let m := x % 2 ^ f.mb
  if f.ieee && e = 2 ^ f.eb - 1 then (if m = 0 then .inf neg else .nan)
  else if !f.ieee && e = 2 ^ f.eb - 1 && m = 2 ^ f.mb - 1 then .nan
  else if e = 0 then .fin neg m f.emin
  else .fin neg (2 ^ f.mb + m) ((e : Int) - f.bias - f.mb)

/-- `m / 2^k` rounded to the nearest integer, ties to even or away from zero. -/
def roundShift (away : Bool) (m k : Nat) : Nat :=
  if k = 0 then m
  else
    let q := m >>> k
    let r := m % 2 ^ k
    let half := 2 ^ (k - 1)
    if half < r || (r = half && (away || q % 2 = 1)) then q + 1 else q

/-- A magnitude on the grid of the format, with no upper limit on the exponent. -/
def FFmt.round (f : FFmt) (away : Bool) (m : Nat) (e : Int) : Nat × Int :=
  if m = 0 then (0, f.emin)
  else
    let top := e + Nat.log2 m
    let lsb := max f.emin (top - f.mb)
    if lsb ≤ e then (m <<< (e - lsb).toNat, lsb) else (roundShift away m (lsb - e).toNat, lsb)

/-- Whether `m1 * 2^e1 < m2 * 2^e2`. -/
def magLt (m1 : Nat) (e1 : Int) (m2 : Nat) (e2 : Int) : Bool :=
  if e1 ≤ e2 then m1 < m2 <<< (e2 - e1).toNat else m1 <<< (e1 - e2).toNat < m2

/-- The code of a magnitude on the grid that lies within range. -/
def FFmt.encodeMag (f : FFmt) (m : Nat) (e : Int) : Nat :=
  let (m, e) := if 2 ^ (f.mb + 1) ≤ m then (m / 2, e + 1) else (m, e)
  if m < 2 ^ f.mb then m else (e + f.bias + f.mb).toNat <<< f.mb ||| (m - 2 ^ f.mb)

/-- Sign bit of the format. -/
def FFmt.sign (f : FFmt) (neg : Bool) : Nat := flag neg (f.eb + f.mb)
/-- Largest finite code of a sign. -/
def FFmt.maxCode (f : FFmt) (neg : Bool) : Nat := f.sign neg + f.encodeMag f.maxM f.maxE
/-- Infinity of a sign. -/
def FFmt.infCode (f : FFmt) (neg : Bool) : Nat := f.sign neg + (2 ^ f.eb - 1) <<< f.mb
/-- The canonical quiet NaN (02 R26). -/
def FFmt.nanCode (f : FFmt) : Nat :=
  if f.ieee then (2 ^ f.eb - 1) <<< f.mb + 2 ^ (f.mb - 1) else 2 ^ (f.eb + f.mb) - 1

/-- IEEE conversion with round to nearest even: beyond the largest finite value lies infinity (02 R27). -/
def FFmt.encode (f : FFmt) : FVal → Nat
  | .nan => f.nanCode
  | .inf neg => f.infCode neg
  | .fin neg m e =>
    let (m, e) := f.round false m e
    if magLt f.maxM f.maxE m e then f.infCode neg else f.sign neg + f.encodeMag m e

/-- Conversion with saturation (02 R36 step 3, R37, R38): the code, and whether it is counted as a saturation. -/
def FFmt.quantise (f : FFmt) (away : Bool) (toInf : Bool) : FVal → Nat × Bool
  | .nan => (f.nanCode, false)
  | .inf neg => (if toInf then f.infCode neg else f.maxCode neg, true)
  | .fin neg m e =>
    let (m, e) := f.round away m e
    if magLt f.maxM f.maxE m e then (if toInf then f.infCode neg else f.maxCode neg, true)
    else (f.sign neg + f.encodeMag m e, false)

/-- The value as an integer, rounded to nearest. -/
def FVal.roundInt (away : Bool) (neg : Bool) (m : Nat) (e : Int) : Int :=
  let r : Nat := if 0 ≤ e then m <<< e.toNat else roundShift away m (-e).toNat
  if neg then -(r : Int) else r

/-- Conversion to a signed integer of `w` bits (02 R36, R37, R39): value, saturated, NaN written as 0. -/
def quantiseInt (w : Nat) (away : Bool) : FVal → Int × Bool × Bool
  | .nan => (0, false, true)
  | .inf neg => (if neg then -(2 ^ (w - 1) : Nat) else ((2 ^ (w - 1) : Nat) : Int) - 1, true, false)
  | .fin neg m e =>
    let v := FVal.roundInt away neg m e
    let hi : Int := ((2 ^ (w - 1) : Nat) : Int) - 1
    let lo : Int := -((2 ^ (w - 1) : Nat) : Int)
    if hi < v then (hi, true, false) else if v < lo then (lo, true, false) else (v, false, false)

/-- An integer scaled by a power of two. -/
def FVal.ofInt (v : Int) (e : Int := 0) : FVal := .fin (decide (v < 0)) v.natAbs e

/-- Sum of two values, exact. -/
def FVal.add : FVal → FVal → FVal
  | .nan, _ => .nan
  | _, .nan => .nan
  | .inf a, .inf b => if a = b then .inf a else .nan
  | .inf a, _ => .inf a
  | _, .inf b => .inf b
  | .fin n1 m1 e1, .fin n2 m2 e2 =>
    let e := min e1 e2
    let a : Int := m1 <<< (e1 - e).toNat
    let b : Int := m2 <<< (e2 - e).toNat
    let s := (if n1 then -a else a) + (if n2 then -b else b)
    if s = 0 then .fin (n1 && n2) 0 e else .fin (decide (s < 0)) s.natAbs e

/-- The value with its sign changed. -/
def FVal.neg : FVal → FVal
  | .nan => .nan
  | .inf a => .inf (!a)
  | .fin n m e => .fin (!n) m e

/-- Product of two values, exact. -/
def FVal.mul : FVal → FVal → FVal
  | .nan, _ => .nan
  | _, .nan => .nan
  | .inf a, .inf b => .inf (a != b)
  | .inf a, .fin n m _ => if m = 0 then .nan else .inf (a != n)
  | .fin n m _, .inf b => if m = 0 then .nan else .inf (n != b)
  | .fin n1 m1 e1, .fin n2 m2 e2 => .fin (n1 != n2) (m1 * m2) (e1 + e2)

/-- Bits kept beyond the operands by a quotient or a root before its one rounding. -/
def guardBits : Nat := 64

/-- Quotient of two values; a last bit that tells whether anything was cut off keeps the later rounding right. -/
def FVal.div : FVal → FVal → FVal
  | .nan, _ => .nan
  | _, .nan => .nan
  | .inf _, .inf _ => .nan
  | .inf a, .fin n _ _ => .inf (a != n)
  | .fin n _ e, .inf b => .fin (n != b) 0 e
  | .fin n1 m1 e1, .fin n2 m2 e2 =>
    if m2 = 0 then (if m1 = 0 then .nan else .inf (n1 != n2))
    else
      let k := guardBits + Nat.log2 m2
      let q := (m1 <<< k) / m2
      let r := (m1 <<< k) % m2
      .fin (n1 != n2) (2 * q + (if r = 0 then 0 else 1)) (e1 - e2 - k - 1)

/-- Integer square root, one result bit a step from bit `k - 1` down. -/
def isqrtGo (n : Nat) : Nat → Nat → Nat
  | 0, r => r
  | k + 1, r => let t := r + 2 ^ k; isqrtGo n k (if t * t ≤ n then t else r)

/-- `floor (sqrt n)`. -/
def isqrt (n : Nat) : Nat := isqrtGo n (Nat.log2 n / 2 + 1) 0

/-- Square root of a value. -/
def FVal.sqrt : FVal → FVal
  | .nan => .nan
  | .inf neg => if neg then .nan else .inf false
  | .fin neg m e =>
    if m = 0 then .fin neg 0 e
    else if neg then .nan
    else
      let k := 2 * guardBits + (if e % 2 = 0 then 0 else 1)
      let v := m <<< k
      let r := isqrt v
      .fin false (2 * r + (if r * r = v then 0 else 1)) ((e - k) / 2 - 1)

/-- `a < b`; false where either is NaN. -/
def FVal.lt : FVal → FVal → Bool
  | .nan, _ => false
  | _, .nan => false
  | .inf a, .inf b => a && !b
  | .inf a, .fin _ _ _ => a
  | .fin _ _ _, .inf b => !b
  | .fin n1 m1 e1, .fin n2 m2 e2 =>
    if m1 = 0 && m2 = 0 then false
    else if n1 && m1 ≠ 0 then (if n2 && m2 ≠ 0 then magLt m2 e2 m1 e1 else true)
    else if n2 && m2 ≠ 0 then false
    else magLt m1 e1 m2 e2

/-- The value of an FP32 word. -/
def fval (x : Word) : FVal := fFP32.decode x.toNat
/-- The FP32 word nearest to a value, ties to even. -/
def fword (v : FVal) : Word := BitVec.ofNat 32 (fFP32.encode v)

def fadd (a b : Word) : Word := fword ((fval a).add (fval b))
def fsub (a b : Word) : Word := fword ((fval a).add (fval b).neg)
def fmul (a b : Word) : Word := fword ((fval a).mul (fval b))
def fdiv (a b : Word) : Word := fword ((fval a).div (fval b))
def fsqrt (a : Word) : Word := fword (fval a).sqrt
def flt (a b : Word) : Bool := (fval a).lt (fval b)
def fle (a b : Word) : Bool :=
  match fval a, fval b with
  | .nan, _ => false
  | _, .nan => false
  | x, y => !(y.lt x)
/-- Sign bit flipped. -/
def fneg (a : Word) : Word := a ^^^ 0x80000000
/-- Sign bit cleared. -/
def fabs (a : Word) : Word := a &&& 0x7FFFFFFF
def fisNan (a : Word) : Bool := match fval a with | .nan => true | _ => false
def fisFinite (a : Word) : Bool := match fval a with | .fin _ _ _ => true | _ => false
def fisZero (a : Word) : Bool := a &&& 0x7FFFFFFF = 0
/-- FP32 of an integer times a power of two, half to even. -/
def fofInt (v : Int) (e : Int := 0) : Word := fword (FVal.ofInt v e)

def fNaN : Word := 0x7FC00000
def fOne : Word := 0x3F800000
def fInf : Word := 0x7F800000
def fNegInf : Word := 0xFF800000

end Sys2Proof.Machine
end

