-- ==== Sys2Proof/Machine/Operands.lean ====
section
/-! DEFINITION. Operand forms: docket words, opcodes, element formats, descriptors, plans and windows (02, 05, 06, 07). -/

namespace Sys2Proof.Machine

/-- A number as an index below `n`, modulo `n`. -/
def fin (n : Nat) [NeZero n] (x : Nat) : Fin n := Fin.ofNat n x

/-- Element `i` replaced through a function. -/
def vmod {α : Type} {n : Nat} (v : Vector α n) (i : Fin n) (f : α → α) : Vector α n := v.set i.val (f v[i.val]) i.isLt

/-! ### Docket words (06 Table 6.1) -/

def wOp (w : DocketWords) : Nat := bitsOf w[0] 7 0
def wTag (w : DocketWords) : BitVec 16 := BitVec.ofNat 16 (bitsOf w[0] 31 16)
def wZeroSkipped (w : DocketWords) : Bool := bitOf w[0] 11
def wPreemptible (w : DocketWords) : Bool := bitOf w[0] 10
def wReceiptAlways (w : DocketWords) : Bool := bitOf w[0] 9
def wFence (w : DocketWords) : Bool := bitOf w[0] 8
def wMask (w : DocketWords) : BitVec 16 := BitVec.ofNat 16 (bitsOf w[1] 31 16)
def wContext (w : DocketWords) : Fin 64 := fin 64 (bitsOf w[1] 5 0)
def wSigOnFault (w : DocketWords) : Bool := bitOf w[3] 14
def wConsume (w : DocketWords) : Bool := bitOf w[3] 13
def wWaitAny (w : DocketWords) : Bool := bitOf w[3] 12
def wSigEn (w : DocketWords) : Bool := bitOf w[3] 8
def wSigBell (w : DocketWords) : BellId := fin 256 (bitsOf w[3] 7 0)

/-- 32 Bells of a group, in the set of all Bells. -/
def groupBells (g : Nat) (mask : Word) : BitVec 256 := mask.zeroExtend 256 <<< (32 * (g % 8))

/-- The Bells a docket waits on (06 w2, WAIT_GROUP). -/
def waitedBells (w : DocketWords) : BitVec 256 := groupBells (bitsOf w[3] 11 9) w[2]

/-- One Bell as a set. -/
def oneBell (b : BellId) : BitVec 256 := BitVec.twoPow 256 b.val

/-- Mills of a mask, ascending. -/
def maskMills (mask : BitVec 16) : List MillId := (List.finRange 16).filter fun m => mask.getLsbD m.val

/-- The Mill whose Hopper window the docket's operands use: the lowest of its mask. -/
def jobMill (w : DocketWords) : Nat := ((maskMills (wMask w)).headD 0).val

/-- The opcodes of 06 Table 6.2. -/
inductive Opcode where
  | matmul | matmulAcc | conv2d | fuse2 | loadw | sluProg | sluVerify | sluRefresh | solve | solveDelta | weirBind
  | copy | fill | hist | winnow | fence | waitEvent | signal | spigotSchedule | gaugeArm
  | unitState | resetUnit | assayRun | fwStage | vaultRead | vaultWrite | windowOpen | tenantSwitch | clapLoad
deriving DecidableEq, Repr

/-- The opcode of a code; none: not listed (06 R133). -/
def Opcode.ofCode (c : Nat) : Option Opcode :=
  if c = 0x01 then some .matmul else if c = 0x02 then some .matmulAcc else if c = 0x04 then some .conv2d
  else if c = 0x08 then some .fuse2 else if c = 0x10 then some .loadw else if c = 0x11 then some .sluProg
  else if c = 0x12 then some .sluVerify else if c = 0x13 then some .sluRefresh else if c = 0x18 then some .solve
  else if c = 0x19 then some .solveDelta else if c = 0x1A then some .weirBind else if c = 0x20 then some .copy
  else if c = 0x21 then some .fill else if c = 0x22 then some .hist else if c = 0x23 then some .winnow
  else if c = 0x30 then some .fence else if c = 0x31 then some .waitEvent else if c = 0x32 then some .signal
  else if c = 0x38 then some .spigotSchedule else if c = 0x39 then some .gaugeArm else if c = 0x40 then some .unitState
  else if c = 0x41 then some .resetUnit else if c = 0x42 then some .assayRun else if c = 0x43 then some .fwStage
  else if c = 0x44 then some .vaultRead else if c = 0x45 then some .vaultWrite else if c = 0x46 then some .windowOpen
  else if c = 0x47 then some .tenantSwitch else if c = 0x48 then some .clapLoad else none

def wOpcode (w : DocketWords) : Option Opcode := Opcode.ofCode (wOp w)

/-- Opcodes whose DETAIL 23:16 names the faulting operand (06 Table 6.6, first row). -/
def Opcode.namesOperand : Opcode → Bool
  | .matmul | .matmulAcc | .conv2d | .fuse2 | .winnow | .hist => true
  | _ => false

/-- Firmware-path opcodes (06 Table 6.2, codes 0x40 to 0x7F). -/
def Opcode.isFirmware : Opcode → Bool
  | .unitState | .resetUnit | .assayRun | .fwStage | .vaultRead | .vaultWrite | .windowOpen | .tenantSwitch
  | .clapLoad => true
  | _ => false

/-- Opcodes that run on the Mills of MILL_MASK (06 R141). -/
def Opcode.onMills : Opcode → Bool
  | .matmul | .matmulAcc | .conv2d | .fuse2 | .loadw | .sluProg | .sluVerify | .sluRefresh | .hist | .winnow
  | .spigotSchedule => true
  | _ => false

/-- LOADW, the Sluice opcodes and HIST run on one Mill only (06 R134). -/
def Opcode.oneMill : Opcode → Bool
  | .loadw | .sluProg | .sluVerify | .sluRefresh | .hist => true
  | _ => false

/-- The default of DETAIL 23:16 of an opcode: 0xFF, no operand, where the field names one (06 Table 6.6). -/
def noOperand (w : DocketWords) : Nat :=
  match wOpcode w with
  | some o => if o.namesOperand then 0xFF else 0
  | none => 0

/-! ### Element formats (02 Table 2.1) -/

inductive Fmt where
  | int4 | int8 | int16 | e4m3 | e5m2 | fp16 | bf16 | fp32 | cb4 | cb8 | int32
deriving DecidableEq, Repr

/-- The format of a code; none: reserved. -/
def Fmt.ofCode (c : Nat) : Option Fmt :=
  [Fmt.int4, .int8, .int16, .e4m3, .e5m2, .fp16, .bf16, .fp32, .cb4, .cb8, .int32][c]?

def Fmt.bits : Fmt → Nat
  | .int4 | .cb4 => 4
  | .int8 | .e4m3 | .e5m2 | .cb8 => 8
  | .int16 | .fp16 | .bf16 => 16
  | .fp32 | .int32 => 32

/-- Input planes (02 Table 2.1); none: not an array input. -/
def Fmt.planes : Fmt → Option Nat
  | .int4 => some 4
  | .int8 => some 8
  | .int16 => some 16
  | .e4m3 | .e5m2 | .cb4 | .cb8 => some 10
  | _ => none

/-- Inputs that pass through BX10. -/
def Fmt.viaBx10 : Fmt → Bool
  | .e4m3 | .e5m2 | .cb4 | .cb8 => true
  | _ => false

def Fmt.isCodebook : Fmt → Bool
  | .cb4 | .cb8 => true
  | _ => false

/-- The floating-point layout of a format. -/
def Fmt.float : Fmt → Option FFmt
  | .e4m3 => some fE4M3
  | .e5m2 => some fE5M2
  | .fp16 => some fFP16
  | .bf16 => some fBF16
  | .fp32 => some fFP32
  | _ => none

/-- Two's complement value of a `w`-bit code. -/
def sval (w code : Nat) : Int := (BitVec.ofNat w code).toInt

/-- The FMT field of a format field (02 Table 2.3). -/
def fmtOf (f : BitVec 16) : Option Fmt := Fmt.ofCode (bitsOf f 3 0)
def fmtAway (f : BitVec 16) : Bool := bitOf f 4
def fmtE5Inf (f : BitVec 16) : Bool := bitOf f 5
def fmtTallyEn (f : BitVec 16) : Bool := bitOf f 6
def fmtTallyH (f : BitVec 16) : Nat := bitsOf f 8 7

/-- The value of a Mint entry of a type (02 R34, Table 2.4). -/
def mintValue (type : Nat) (e : BitVec 16) : FVal :=
  if type = 1 then .ofInt (sval 8 (e.toNat % 256))
  else if type = 2 then .ofInt e.toInt
  else fFP16.decode e.toNat

/-- The value of an element code, a codebook code looked up in its Mint table (02 R24, R30). -/
def Fmt.value (f : Fmt) (type : Nat) (mint : List (BitVec 16)) (code : Nat) : FVal :=
  match f.float with
  | some ff => ff.decode code
  | none => if f.isCodebook then mintValue type (mint.getD code 0) else .ofInt (sval f.bits code)

/-- Convert to an output format (02 R36 step 3, R37-R39): code, counted as saturated, NaN written as 0. -/
def Fmt.quantise (f : Fmt) (away toInf : Bool) (v : FVal) : Nat × Bool × Bool :=
  match f.float with
  | some ff => let (c, s) := ff.quantise away (toInf && f = .e5m2) v; (c, s, false)
  | none =>
    let (x, s, n) := quantiseInt f.bits away v
    ((BitVec.ofInt f.bits x).toNat, s, n)

/-- The bytes of one row of elements. -/
def rowLen (bits cols : Nat) : Nat := ceilDiv (cols * bits) 8

/-- Element `i` of a row in memory (02 R24, R25). -/
def elemCode (m : Memory) (row bits i : Nat) : Nat :=
  if bits = 4 then
    let b := (readByte m (row + i / 2)).toNat
    if i % 2 = 0 then b % 16 else b / 16
  else readLe m (row + i * (bits / 8)) (bits / 8)

/-- The bytes of a row of codes; an unused nibble is 0 (02 R25). -/
def packRow (bits : Nat) : List Nat → List Byte
  | [] => []
  | a :: rest =>
    if bits = 4 then
      match rest with
      | [] => [BitVec.ofNat 8 a]
      | b :: rest => BitVec.ofNat 8 (a + 16 * b) :: packRow bits rest
    else leBytes (bits / 8) a ++ packRow bits rest

/-! ### Windows (05 R116) -/

/-- The windows a docket runs under, as sampled at hand-out (05 R119). -/
structure Win where
  granBase : Word
  granBound : Word
  hop : Word
deriving DecidableEq, Repr

def granTop : Nat := 0x18000000
def hopTop : Nat := 0x1000000000
def ledgerTop : Nat := 0x2000000000
def Win.base (w : Win) : Nat := bitsOf w.granBase 19 0 * 512
def Win.bound (w : Win) : Nat := stopAt 0xC0000 (bitsOf w.granBound 19 0) * 512
def Win.hopBase (w : Win) : Nat := bitsOf w.hop 15 0
def Win.hopBound (w : Win) (flat : Bool) : Nat := stopAt (if flat then 49152 else 16384) (bitsOf w.hop 31 16)

/-- Where offset 0 of Mill `m`'s Hopper lies, or of its slice in flat mode (05 R101, R116). -/
def hopStart (flat : Bool) (m : Nat) : Nat := if flat then m * 0x01800000 else hopTop + m * 0x01000000

/-- An address in the own-Hopper range of R116. -/
def inOwnHop (a : Nat) : Bool := decide (hopTop ≤ a) && decide (a < ledgerTop)

/-- The effective address of `len` bytes at a descriptor address, when they lie inside the window (05 R116, R117). -/
def effRange (flat : Bool) (m : Nat) (w : Win) (a len : Nat) : Option Nat :=
  if a < granTop then
    if w.base + a + len ≤ w.bound ∧ w.base + a < w.bound then some (w.base + a) else none
  else if inOwnHop a then
    let x := a - hopTop
    let off := w.hopBase * 512 + x
    let lim := if flat then 0x01800000 else 0x00800000
    if x < lim ∧ x + len ≤ lim ∧ off < w.hopBound flat * 512 ∧ off + len ≤ w.hopBound flat * 512 then
      some (hopStart flat m + off)
    else none
  else none

/-- The effective address of a FILL or COPY address, whether or not it lies inside its window; none outside both ranges
(05 R114, R116). -/
def effAddr (flat : Bool) (m : Nat) (w : Win) (a : Nat) : Option Nat :=
  if a < granTop then some (w.base + a)
  else if inOwnHop a then some (hopStart flat m + w.hopBase * 512 + (a - hopTop))
  else none

/-- The local part of a 48-bit address: REMOTE 0, or REMOTE 1 with this node's number (21 R473, 12 R298); none: remote. -/
def localPart (node : NodeId) (a : Nat) : Option Nat :=
  if a < 2 ^ 47 then some a
  else if a / 2 ^ 42 % 32 = node.val then some (a % 2 ^ 42)
  else none

/-! ### Matrix descriptors (06 Table 6.3) and plans (07 Table 7.2) -/

/-- Zero acts as one. -/
def atLeast1 (n : Nat) : Nat := if n = 0 then 1 else n

/-- The sixteen words of a descriptor in memory. -/
def readWords (m : Memory) (a n : Nat) : List Word := (List.range n).map fun i => readW m (a + 4 * i)

/-- Word `i` of a list of words. -/
def nthW (ws : List Word) (i : Nat) : Word := ws.getD i 0

/-- A descriptor's fields before its base is translated: base address, and the rest with no length and no Mint table. -/
def descOf (ws : List Word) : Desc :=
  { base := (nthW ws 0).toNat + bitsOf (nthW ws 1) 15 0 * 2 ^ 32, fmt := BitVec.ofNat 16 (bitsOf (nthW ws 1) 31 16),
    rows := atLeast1 (nthW ws 2).toNat, cols := (nthW ws 3).toNat, rowStride := (nthW ws 4).toNat,
    batchStride := (nthW ws 5).toNat, headStride := (nthW ws 6).toNat, heads := atLeast1 (bitsOf (nthW ws 7) 31 16),
    batches := atLeast1 (bitsOf (nthW ws 7) 15 0), len := none, lenDim := BitVec.ofNat 2 (bitsOf (nthW ws 12) 1 0),
    mintType := 0, mint := [], mintOff := nthW ws 9, scale := nthW ws 10, zpad := nthW ws 11, ownHop := false }

/-- Element width of a descriptor's format. -/
def Desc.bits (d : Desc) : Nat := match fmtOf d.fmt with | some f => f.bits | none => 8

/-- The extent in bytes (06 R136). -/
def Desc.extent (d : Desc) : Nat :=
  (d.batches - 1) * d.batchStride + (d.heads - 1) * d.headStride + (d.rows - 1) * d.rowStride + rowLen d.bits d.cols

/-- First byte of row `r` of batch `b` and head `h`; one batch or head serves all (07 R167). -/
def Desc.row (d : Desc) (b h r : Nat) : Nat :=
  d.base + (if d.batches = 1 then 0 else b * d.batchStride) + (if d.heads = 1 then 0 else h * d.headStride)
    + r * d.rowStride

/-- ZPAD fields (06 d11). -/
def Desc.padTop (d : Desc) : Nat := bitsOf d.zpad 7 0
def Desc.padBottom (d : Desc) : Nat := bitsOf d.zpad 15 8
def Desc.padLeft (d : Desc) : Nat := bitsOf d.zpad 23 16
def Desc.padRight (d : Desc) : Nat := bitsOf d.zpad 31 24

/-- Rows and columns after a runtime length (07 R168). -/
def Desc.effRows (d : Desc) : Nat :=
  match d.len with | some n => if d.lenDim = 1 then stopAt d.rows n else d.rows | none => d.rows
def Desc.effCols (d : Desc) : Nat :=
  match d.len with | some n => if d.lenDim = 2 then stopAt d.cols n else d.cols | none => d.cols

/-- A plan descriptor (07 R161). -/
def planOf (ws : List Word) : Plan :=
  let p0 := nthW ws 0; let p1 := nthW ws 1; let p2 := nthW ws 2
  { sluice := bitOf p0 28, setN := bitsOf p0 26 24, setK := bitsOf p0 22 20, orderL0 := bitOf p0 16,
    orderL1 := BitVec.ofNat 8 (bitsOf p0 15 8), orderL2 := BitVec.ofNat 8 (bitsOf p0 7 0), n2 := bitsOf p1 31 16,
    m2 := bitsOf p1 15 0, kt := bitsOf p2 31 24, n1 := bitsOf p2 23 16, m1 := bitsOf p2 12 0, stgIn := nthW ws 3,
    stgW := nthW ws 4, spill := nthW ws 5, epi := BitVec.ofNat 8 (bitsOf (nthW ws 6) 7 0), epiImm := nthW ws 7,
    qOff := nthW ws 8 }

end Sys2Proof.Machine
end

