-- ==== Sys2Proof/Machine/Channels.lean ====
section
/-! DEFINITION. Spigot channels: levels, PWM, safe levels and hold policies (10 R228-R231, R238). -/

namespace Sys2Proof.Machine

/-! ### Fields (10 Table 10.6) -/

def Channel.any (c : Channel) : Bool := bitOf c.cfg 31
def Channel.safeLevel (c : Channel) : Bool := bitOf c.cfg 30
def Channel.pwmMode (c : Channel) : Bool := bitOf c.cfg 27
def Channel.chute (c : Channel) : ChuteId := fin 128 (bitsOf c.cfg 6 0)
/-- A duty above 1,000 acts as 1,000. -/
def dutyOf (n : Nat) : BitVec 10 := BitVec.ofNat 10 (stopAt 1000 n)
/-- PERIOD_US values below 50 act as 50. -/
def Channel.periodUs (c : Channel) : Nat := max 50 (bitsOf c.pwm 31 16)
def Channel.hitUs (c : Channel) : Nat := bitsOf c.pwm 15 0
/-- A channel on the chip's own ball (R228). -/
def direct (ch : ChanId) : Bool := decide (ch.val < 64)
/-- The boom node of a remote channel, and its channel there (R228). -/
def boomOf (ch : ChanId) : BoomId := fin 8 ((ch.val - 64) / 24)
def boomChan (ch : ChanId) : Nat := (ch.val - 64) % 24

/-! ### Levels (R230, R231) -/

/-- An edge acts on a channel at a moment. -/
def Channel.act (c : Channel) (action : Fin 4) (duty : BitVec 10) (t : Word64) (own : Bool) : Channel :=
  if action = 0 then { c with level := false, on := false, hit := false, running := false }
  else if action = 1 then
    let d := if duty = 0 then dutyOf (bitsOf c.cfg 25 16) else dutyOf duty.toNat
    let pwm := own && c.pwmMode
    { c with level := true, on := true, dutyNow := d, dutyNext := d, since := t, hit := pwm && c.hitUs ≠ 0,
             running := pwm && c.hitUs = 0 }
  else if action = 2 then
    if own && c.pwmMode && c.on then { c with dutyNext := dutyOf duty.toNat }
    else { c with dutyNow := dutyOf duty.toNat, dutyNext := dutyOf duty.toNat }
  else c

/-- A PWM period starts, high, at the duty last set. -/
def Channel.startPeriod (c : Channel) (t : Word64) : Channel :=
  { c with hit := false, running := true, level := true, dutyNow := c.dutyNext, since := t }

/-- Within a period the level is high for DUTY / 1,000 of PERIOD_US. -/
def Channel.pwmLevel (c : Channel) (t : Word64) : Channel :=
  if c.running && c.dutyNow ≠ 1000 && decide (c.since.toNat + c.dutyNow.toNat * c.periodUs ≤ t.toNat) then { c with level := false }
  else c

/-- A channel goes to its safe level and discards its queued edges (R231). -/
def Channel.toSafe (c : Channel) : Channel :=
  { c with level := c.safeLevel, fifo := [], on := false, hit := false, running := false, forced := true,
           holding := false, holdFrom := none }

/-- Apply the queued edges whose time is before a moment: how many. -/
def Channel.applyDue (own : Bool) (t : Word64) : Nat → Channel → Nat × Channel
  | 0, c => (0, c)
  | n + 1, c =>
    match c.fifo with
    | [] => (0, c)
    | e :: rest =>
      if e.time < t then
        let (k, c) := Channel.applyDue own t n ({ c with fifo := rest }.act e.action e.duty e.time own)
        (k + 1, c)
      else (0, c)

/-- Change a channel. -/
def Spigot.onChan (sp : Spigot) (ch : ChanId) (f : Channel → Channel) : Spigot := { sp with chans := vmod sp.chans ch f }
/-- Count an event: EDGES_APPLIED, LATE_EDGES, REFUSED_ORDER, REFUSED_BIND, MERGED, SPIGOT_LATE, NO_SPEED. -/
def Spigot.count (sp : Spigot) (i : Fin 7) (n : Nat := 1) : Spigot := { sp with counters := vmod sp.counters i fun x => bump x n }

/-- Edges of a remote channel were dropped: its bit of DROP_PEND (Table 10.3, R240). -/
def Spigot.dropPend (sp : Spigot) (ch : ChanId) : Spigot :=
  if direct ch then sp
  else { sp with nodes := vmod sp.nodes (boomOf ch) fun k => { k with dropPend := k.dropPend ||| BitVec.twoPow 24 (boomChan ch) } }

/-- A channel goes safe; discarded edges of a remote channel are told to its node. -/
def Spigot.safe (sp : Spigot) (ch : ChanId) : Spigot :=
  let lost := !(sp.chans[ch.val]).fifo.isEmpty
  let sp := sp.onChan ch Channel.toSafe
  if lost then sp.dropPend ch else sp

/-- Every channel goes safe. -/
def Spigot.allSafe (sp : Spigot) : Spigot := (List.finRange 256).foldl Spigot.safe sp

/-- A cause holds every channel safe: FORCE_SAFE, or SPG_SAFE_N low (R231). -/
def Spigot.cause (sp : Spigot) : Bool := bitOf sp.ctl 29 || sp.safePinLow

/-- The notice of R151 at one channel (R238). -/
def Spigot.noticeChan (t : Word64) (sp : Spigot) (ch : ChanId) : Spigot :=
  let (n, c) := Channel.applyDue (direct ch) (t + 10) 32 sp.chans[ch.val]
  let sp := (sp.onChan ch fun _ => c).count 0 n
  if bitsOf c.cfg 29 28 = 0 then sp.onChan ch fun c => { c with holding := true, holdFrom := some t } else sp.safe ch

/-- The notice of R151 for a chute. -/
def Spigot.notice (sp : Spigot) (c : ChuteId) (t : Word64) : Spigot :=
  ((List.finRange 256).filter fun ch => (sp.chans[ch.val]).chute = c).foldl (Spigot.noticeChan t) sp

end Sys2Proof.Machine
end

