-- ==== Sys2Proof/Machine/Ops.lean ====
section
/-! DEFINITION. The operations every family of commands is built from: parts of the state, row accesses, Bells, releases,
receipts and the completion of dockets. -/

namespace Sys2Proof.Machine

/-- What a command answers. -/
abbrev Result := Host.Outcome State Fault Refusal

/-! ### Parts of the state -/

def onControl (s : State) (f : Control → Control) : State := { s with control := f s.control }
def onChute (s : State) (c : ChuteId) (f : Chute → Chute) : State :=
  { s with control := { s.control with chutes := vmod s.control.chutes c f } }
def onMill (s : State) (m : MillId) (f : Mill → Mill) : State := { s with mills := vmod s.mills m f }
def onRegs (s : State) (m : MillId) (f : MillRegs → MillRegs) : State :=
  onMill s m fun x => { x with regs := f x.regs }
def onGran (s : State) (f : Granary → Granary) : State := { s with granary := f s.granary }
def onNi (s : State) (n : NiId) (f : Ni → Ni) : State := { s with net := { s.net with nis := vmod s.net.nis n f } }
def onNet (s : State) (f : Net → Net) : State := { s with net := f s.net }
def onSpigot (s : State) (f : Spigot → Spigot) : State := { s with spigot := f s.spigot }
def onGauge (s : State) (f : Gauge → Gauge) : State := { s with gauge := f s.gauge }
def onWeir (s : State) (w : WeirId) (f : Weir → Weir) : State := { s with weirs := vmod s.weirs w f }
def onService (s : State) (f : Service → Service) : State := { s with service := f s.service }
def onAssay (s : State) (f : Assay → Assay) : State := { s with assay := f s.assay }
def onVault (s : State) (f : Vault → Vault) : State := { s with vault := f s.vault }
def onFlume (s : State) (f : Flume → Flume) : State := { s with flume := f s.flume }
def onPort (s : State) (p : FlumeId) (f : FlumePort → FlumePort) : State :=
  { s with flume := { s.flume with ports := vmod s.flume.ports p f } }
def onLedger (s : State) (f : Ledger → Ledger) : State := { s with ledger := f s.ledger }
def onClapper (s : State) (f : Clapper → Clapper) : State := { s with clapper := f s.clapper }

/-- Device time (09 R216). -/
def now (s : State) : Word64 := s.gauge.time

/-- A fresh unspecified value of `w` bits. -/
def draw (s : State) (w : Nat) : BitVec w × State := (Config.fresh w s.free, { s with free := s.free + 1 })

/-- A command that acts unless a full reset is in force (18 R426). -/
def live (s : State) (f : State → State) : Result := .next (if s.service.inReset then s else f s)

/-- `a <= b` in device time, with the difference in ns at least `n`. -/
def elapsed (s : State) (t : Word64) (n : Nat) : Bool := decide (t.toNat + n ≤ (now s).toNat)

/-- A timer of `n` us that started at `t` has expired: the (n + 1)-th tick of a free-running 1 us counter of device time
(11 R268). -/
def usElapsed (s : State) (t : Word64) (n : Nat) : Bool := decide (t.toNat / 1000 + n + 1 ≤ (now s).toNat / 1000)

/-! ### Units -/

/-- The record of a unit (17 Table 17.1); none for the reserved identifiers. -/
def unitRec (s : State) (u : Nat) : Option UnitRec := s.service.units[u]?

/-- A unit takes dockets (17 R397). -/
def unitTakes (s : State) (u : Nat) : Bool :=
  match unitRec s u with
  | some r => r.state = .online || r.state = .degraded
  | none => false

/-! ### Row accesses (05 R98, R106; 21 R474, R476) -/

/-- The logical bank of a Granary address and its bank row (05 R100). -/
def granBank (a : Nat) : BankId := fin 128 (32 * (a / 0x06000000) + a % 0x06000000 / 512 % 32)
def granRow (a : Nat) : Nat := a % 0x06000000 / 512 / 32
def granQuad (a : Nat) : QuadId := fin 4 (a / 0x06000000)
def plotOf (a : Nat) : PlotId := fin 96 (a / 0x400000)
/-- The address of row `r` of logical bank `b`. -/
def bankAddr (b : BankId) (r : Nat) : Nat := b.val / 32 * 0x06000000 + (r * 32 + b.val % 32) * 512

/-- The Mill whose Hopper an address lies in, and the offset there (21 Table 21.1). -/
def hopOf (a : Nat) : Option (MillId × Nat) :=
  if hopTop ≤ a ∧ a < hopTop + 16 * 0x01000000 ∧ (a - hopTop) % 0x01000000 < 0x00800000 then
    some (fin 16 ((a - hopTop) / 0x01000000), (a - hopTop) % 0x01000000)
  else none

/-- The network interface that serves an address (11 Table 11.2). -/
def niOf (a : Nat) : NiId :=
  match hopOf a with
  | some (m, _) => fin 64 m.val
  | none => fin 64 (16 + 4 * (a / 0x06000000 % 4) + (granBank a).val % 4)

/-- Why the row at an address cannot be accessed by the Mill `own` (none: another initiator): a CLEARING plot or a dead
quad (05 R121, 16 Table 16.2), a Hopper in flat mode or during a switch (05 R124), an interface that does not admits
(11 R270), an unmapped address (21 R476). -/
def placeStatus (s : State) (own : Option MillId) (a : Nat) : NetStatus :=
  if a < granTop then
    let near := match own with | some m => decide (m.val / 4 = (granQuad a).val) | none => false
    if (s.granary.plots[(plotOf a).val]).clearing || s.granary.quadDead[(granQuad a).val] then .offline
    else if !near && !(s.net.nis[(niOf a).val]).admits then .offline
    else .ok
  else
    match hopOf a with
    | some (m, _) =>
      if s.granary.flat || s.granary.busy then .offline
      else if own ≠ some m && !(s.net.nis[m.val]).admits then .offline
      else .ok
    | none => .bound

/-- A row that was written poisoned (05 R109). -/
def poisoned (s : State) (a : Nat) : Bool := s.granary.poison.contains (a / 512)

/-- What a read of the row answers. -/
def rowStatus (s : State) (own : Option MillId) (a : Nat) : NetStatus :=
  match placeStatus s own a with
  | .ok => if poisoned s a then .uncorr else .ok
  | st => st

/-- ERR_LOG of an error at a Granary address (05 Table 5.6). -/
def errLogImg (s : State) (a : Nat) (uncorr poison rowpar : Bool) (word : Nat) : Word :=
  img (2 ^ 31 + flag uncorr 30 + flag (s.granary.plots[(plotOf a).val]).cls 29 + flag poison 28 + flag rowpar 27
    + word % 8 * 2 ^ 20 + (granBank a).val * 2 ^ 13 + granRow a)

/-- MEM_ERR_LOG of an error in a Hopper row (05 Table 5.7). -/
def hopLogImg (off : Nat) (uncorr poison : Bool) (word : Nat) : Word :=
  img (2 ^ 31 + flag uncorr 30 + off / 512 % 16 * 2 ^ 25 + flag poison 24 + word % 64 * 2 ^ 10 + off / 512 / 16)

/-- Count and log a memory error at an address: Granary errors in the Spindle registers, with the Bell to be raised at
the end of the command (05 R108); Hopper errors in the Mill's (05 R111). -/
def logError (s : State) (a : Nat) (uncorr poison rowpar : Bool) (word : Nat) : State :=
  if a < granTop then
    onGran s fun g =>
      { g with
        ceCount := if uncorr then g.ceCount else bump g.ceCount
        ueCount := if uncorr then bump g.ueCount else g.ueCount
        errLog := if bitOf g.errLog 31 then g.errLog else errLogImg s a uncorr poison rowpar word
        errTime := if bitOf g.errLog 31 then g.errTime else now s
        errPend := g.errPend || bitOf g.errBell 31 }
  else
    match hopOf a with
    | some (m, off) =>
      onRegs s m fun r =>
        { r with
          hopCe := if uncorr then r.hopCe else bump r.hopCe
          hopUe := if uncorr then bump r.hopUe else r.hopUe
          memErrLog := if bitOf r.memErrLog 31 then r.memErrLog else hopLogImg off uncorr poison word }
    | none => s

/-- The rows that a range of bytes touches, by first address. -/
def rowsOf (a len : Nat) : List Nat := (List.range ((a % 512 + len + 511) / 512)).map fun i => a / 512 * 512 + 512 * i

/-- Read whole rows and answer their bytes: the first row that cannot be read gives the status (05 R108, 11 R269). -/
def readRange (s : State) (own : Option MillId) (a len : Nat) : NetStatus × List Byte × State :=
  match (rowsOf a len).find? fun r => rowStatus s own r ≠ .ok with
  | none => (.ok, readBytes s.mem a len, s)
  | some r =>
    let st := rowStatus s own r
    (st, [], if st = .uncorr then logError s r true true false 0 else s)

/-- The whole row at an address has been written: it is no longer poisoned, and a CE write-back of it is cancelled. -/
def rowWritten (s : State) (a : Nat) : State :=
  onGran s fun g =>
    { g with
      poison := g.poison.filter (· ≠ a / 512)
      banks := if a < granTop then vmod g.banks (granBank a) fun b => { b with ceRows := b.ceRows.filter (· ≠ granRow a) }
        else g.banks }

/-- Write one row's bytes, or a part of a row as a read, a merge and a whole-row write (05 R98, R99, R486). -/
def writeRowPart (s : State) (own : Option MillId) (a : Nat) (bs : List Byte) : NetStatus × State :=
  let whole := decide (a % 512 = 0) && decide (bs.length = 512)
  match (if whole then placeStatus s own a else rowStatus s own a) with
  | .ok => (.ok, rowWritten { s with mem := writeBytes s.mem a bs } a)
  | .uncorr => (.uncorr, logError s a true true false 0)
  | st => (st, s)

/-- Write bytes row by row, `n` rows at most; the first status that is not OK is answered, and a refused row keeps its
contents. -/
def writeRows (s : State) (own : Option MillId) (a : Nat) (bs : List Byte) : Nat → NetStatus × State
  | 0 => (.ok, s)
  | n + 1 =>
    match bs with
    | [] => (.ok, s)
    | _ :: _ =>
      let k := 512 - a % 512
      let (st, s) := writeRowPart s own a (bs.take k)
      let (st', s) := writeRows s own (a + k) (bs.drop k) n
      (if st = .ok then st' else st, s)

/-- Write a range of bytes. -/
def writeRange (s : State) (own : Option MillId) (a : Nat) (bs : List Byte) : NetStatus × State :=
  writeRows s own a bs (bs.length / 512 + 2)

/-! ### Chutes (06) -/

def Chute.en (ch : Chute) : Bool := bitOf ch.cfg 31
def Chute.cls (ch : Chute) : Fin 4 := fin 4 (bitsOf ch.cfg 30 29)
def Chute.sync (ch : Chute) : Bool := bitOf ch.cfg 28
def Chute.depth (ch : Chute) : Nat := 2 ^ clampNat 4 12 (bitsOf ch.cfg 27 24)
def Chute.relMode (ch : Chute) : Nat := let r := bitsOf ch.cfg 23 22; if r = 3 then 0 else r
def Chute.irqEn (ch : Chute) : Bool := bitOf ch.cfg 19
def Chute.tenant (ch : Chute) : Fin 8 := fin 8 (bitsOf ch.cfg 18 16)
def Chute.vec (ch : Chute) : Byte := BitVec.ofNat 8 (bitsOf ch.cfg 15 8)
def Chute.relBell (ch : Chute) : BellId := fin 256 (bitsOf ch.cfg 7 0)

/-- OVR_POLICY: 0 ABORT_OLD, 1 SKIP_NEW, 2 RUN_LATE; 3 is the class default (06 R150). -/
def Chute.policy (ch : Chute) : Nat :=
  let p := bitsOf ch.cfg 21 20
  if p = 3 then (if ch.cls = 3 then 0 else if ch.cls = 2 then 1 else 2) else p

/-- Receipts not yet consumed. -/
def Chute.unconsumed (ch : Chute) : Nat := (ch.rcptTail - ch.rcptHead).toNat

/-- Outstanding dockets: handed out, or with a receipt the host has not consumed (06 R140 item 4). -/
def Chute.outstanding (ch : Chute) : Nat := ch.out.length + ch.unconsumed + ch.rcptWait.length

/-- Free docket slots (06 CH_STAT.CREDITS). -/
def Chute.credits (ch : Chute) : Nat := ch.depth - (ch.tail - ch.head).toNat

/-- Chutes of a class that are enabled, in the order in which the controller takes them: URGENT ascending, the others in
round robin (06 R143). -/
def classOrder (k : Control) (cls : Fin 4) : List ChuteId :=
  let l := (List.finRange 128).filter fun c => (k.chutes[c.val]).en && (k.chutes[c.val]).cls = cls
  if h : cls.val < 3 then
    let n := k.rrNext[cls.val]
    l.filter (fun c => decide (n ≤ c.val)) ++ l.filter (fun c => decide (c.val < n))
  else l

/-- All enabled chutes in hand-out order. -/
def handOutOrder (k : Control) : List ChuteId := classOrder k 3 ++ classOrder k 2 ++ classOrder k 1 ++ classOrder k 0

/-- A docket's wait is satisfied by the Bells as they stand (06 w2, WAIT_ANY). -/
def waitSat (bells : BitVec 256) (w : DocketWords) : Bool :=
  let m := waitedBells w
  if wWaitAny w then m &&& bells ≠ 0 else m &&& bells = m

/-- Evaluate the wait of a chute's head docket, once its FENCE_BEFORE condition is met: a satisfied wait consumes its
Bells under CONSUME; an unsatisfied one starts the timeout interval (06 R146, R155). -/
def checkWait (s : State) (c : ChuteId) : State :=
  let ch := s.control.chutes[c.val]
  match ch.pending with
  | [] => s
  | p :: rest =>
    if p.waitOk || p.fault ≠ .ok || (wFence p.words && !ch.out.isEmpty) then s
    else if p.words[2] = 0 || waitSat s.control.bells p.words then
      let s := onChute s c fun ch => { ch with pending := { p with waitOk := true } :: rest }
      if wConsume p.words && p.words[2] ≠ 0 then
        onControl s fun k => { k with bells := k.bells &&& ~~~(waitedBells p.words) }
      else s
    else if p.waitFrom.isNone then
      onChute s c fun ch => { ch with pending := { p with waitFrom := some (now s) } :: rest }
    else s

/-- Check the waiting dockets in hand-out order (06 R155). -/
def checkWaits (s : State) : State := (handOutOrder s.control).foldl checkWait s

/-- Write a receipt at RCPT_TAIL; MSI-X only once it is visible; a refused row write sets RCPT_FAIL and advances too
(06 R142). A message is lost while the endpoint is in reset (18 R426). -/
def writeReceipt (s : State) (r : DoneMsg) : State :=
  let ch := s.control.chutes[r.chute.val]
  let phase := ch.rcptTail.toNat / ch.depth % 2 = 0
  let a := ch.rcpt.toNat + ch.rcptTail.toNat % ch.depth * 32
  let (st, s) := writeRange s none a (receiptBytes phase r)
  let s := onChute s r.chute fun ch =>
    { ch with rcptTail := ch.rcptTail + 1, rcptFail := ch.rcptFail || st ≠ .ok }
  if st = .ok && ch.irqEn && !s.net.perst then onControl s fun k => { k with msix := ch.vec :: k.msix } else s

/-- Post a receipt, or hold it while the ring has no free slot: an unconsumed receipt is never overwritten
(06 R140 item 5). -/
def postReceipt (s : State) (r : DoneMsg) : State :=
  let ch := s.control.chutes[r.chute.val]
  if ch.unconsumed < ch.depth && ch.rcptWait.isEmpty then writeReceipt s r
  else onChute s r.chute fun ch => { ch with rcptWait := ch.rcptWait ++ [r] }

/-- Write held receipts while the ring has room, at most `n`. -/
def drainReceipts (s : State) (c : ChuteId) : Nat → State
  | 0 => s
  | n + 1 =>
    let ch := s.control.chutes[c.val]
    match ch.rcptWait with
    | [] => s
    | r :: rest =>
      if ch.unconsumed < ch.depth then
        drainReceipts (writeReceipt (onChute s c fun ch => { ch with rcptWait := rest }) r) c n
      else s

/-- The tag of the docket in a ring slot, as the ring row reads. -/
def ringTag (s : State) (ch : Chute) (slot : BitVec 16) : BitVec 16 :=
  BitVec.ofNat 16 (readLe s.mem (ch.ring.toNat + slot.toNat % ch.depth * 64 + 2) 2)

/-- The receipt of a dropped release (06 Table 6.7, Table 6.6). -/
def skipReceipt (s : State) (c : ChuteId) (ordinal : BitVec 16) : State :=
  let ch := s.control.chutes[c.val]
  postReceipt s { chute := c, status := stSkipped, tag := ringTag s ch ch.head, detail := mkDetail 0 0 ordinal.toNat,
                  doneTime := now s, startTime := now s, tiles := 0, sat := 0, slot := 0 }

/-- Start one instance of a chute's program: the slots from HEAD to TAIL - 1 (06 R148). -/
def startInstance (s : State) (c : ChuteId) : State :=
  onChute s c fun ch =>
    if ch.head = ch.tail || !ch.en then ch
    else { ch with inst := some { next := ch.head, stop := ch.tail, aborting := false }, readAt := ch.head }

/-! ### Spigot notices (06 R151, 10 R238) -/

/-- The notice of an aborted or faulted instance: every channel bound to the chute applies its hold policy, after the edges
whose time falls in the tick of the notice. -/
def holdNotice (s : State) (c : ChuteId) : State := onSpigot s fun sp => sp.notice c (now s)

/-! ### Releases (06 R148-R150) -/

/-- The receipt of the docket that an aborted instance stops, when none of its dockets runs. -/
def abortReceipt (s : State) (c : ChuteId) (tag : BitVec 16) (dropped : Nat) : State :=
  holdNotice (postReceipt s { chute := c, status := stAborted, tag := tag, detail := mkDetail 0 (stopAt 255 dropped) 0,
                              doneTime := now s, startTime := now s, tiles := 0, sat := 0, slot := 0 }) c

/-- ABORT_OLD: the running docket of the instance stops at its next tile boundary, and the dockets not yet issued are
dropped; with none running, the first unfinished docket is the stopped one (06 Table 6.7). -/
def abortInstance (s : State) (c : ChuteId) (i : Instance) (ordinal : BitVec 16) : State :=
  let ch := s.control.chutes[c.val]
  let unread := (i.stop - i.next).toNat
  let waiting := ch.pending.filter (·.inst)
  let running := ch.out.filter (·.inst)
  let left := waiting.length + unread
  if running.isEmpty then
    let tag := match waiting with
      | p :: _ => if p.fault = .ok then wTag p.words else 0
      | [] => ringTag s ch i.next
    let s := onChute s c fun ch => { ch with pending := ch.pending.filter (!·.inst), inst := none }
    startInstance (abortReceipt s c tag (left - 1)) c
  else
    let s := onChute s c fun ch =>
      { ch with
        pending := ch.pending.filter (!·.inst)
        inst := some { i with next := i.stop, aborting := true }
        pendRel := some ordinal
        out := ch.out.map fun o => if o.inst then { o with stop := some .overrun, dropped := left } else o }
    onControl s fun k =>
      { k with aborts := k.aborts ++ running.flatMap fun o => o.mills.map fun m => (m, wTag o.words, c, .overrun) }

/-- A release of a chute in REL_MODE 1 or 2: a new instance, or an overrun (06 R148, R150). -/
def release (s : State) (c : ChuteId) : State :=
  let s := onChute s c fun ch => { ch with releases := bump ch.releases, ordinal := ch.ordinal + 1 }
  let ch := s.control.chutes[c.val]
  match ch.inst with
  | none =>
    if ch.held then skipReceipt (onChute s c fun ch => { ch with overruns := bump ch.overruns }) c ch.ordinal
    else startInstance s c
  | some i =>
    let s := onChute s c fun ch => { ch with overruns := bump ch.overruns }
    if ch.policy = 0 then
      if i.aborting then
        let s := match ch.pendRel with | some old => skipReceipt s c old | none => s
        onChute s c fun ch => { ch with pendRel := some ch.ordinal }
      else abortInstance s c i ch.ordinal
    else if ch.policy = 1 || ch.held then skipReceipt s c ch.ordinal
    else onChute s c fun ch => { ch with held := true, pendRel := some ch.ordinal }

/-- An instance whose dockets have all completed ends; the release that waited for an aborted one starts (06 R150). -/
def settleInstance (s : State) (c : ChuteId) : State :=
  let ch := s.control.chutes[c.val]
  match ch.inst with
  | none => s
  | some i =>
    if i.next = i.stop && !(ch.pending.any (·.inst)) && !(ch.out.any (·.inst)) then
      let s := onChute s c fun ch => { ch with inst := none }
      if i.aborting then startInstance (onChute s c fun ch => { ch with pendRel := none }) c else s
    else s

/-! ### Bells (06 R155) -/

/-- Free slots of a band ring by a release of `n` (09 R213): a release of more than are held is ignored and counted. -/
def releaseSlots (p : CamPort) (n : Nat) : CamPort :=
  if n = 0 then p
  else if p.heldSlots < n then { p with counters := vmod p.counters (7 : Fin 8) fun x => bump x }
  else { p with heldSlots := p.heldSlots - n }

/-- REL_BELL, DROP_BELL and BAND_BELL of a camera port (09 Table 9.4). -/
def CamPort.relBell (p : CamPort) : BellId := fin 256 (bitsOf p.bells 15 8)
def CamPort.dropBell (p : CamPort) : BellId := fin 256 (bitsOf p.bells 23 16)
def CamPort.bandBell (p : CamPort) : BellId := fin 256 (bitsOf p.bells 7 0)

/-- Raise Bells: those already set count BELL_LOST; the releases of REL_MODE 2 chutes and of armed band rings are made;
the waiting dockets are checked once; the Bells that released are then cleared (06 R148, R155; 09 R213). -/
def raiseBells (s : State) (set : BitVec 256) : State :=
  let lost := set &&& s.control.bells
  let fresh := set &&& ~~~s.control.bells
  let s := onControl s fun k =>
    { k with bells := k.bells ||| set, bellLost := bump k.bellLost (setBits lost).length }
  let chutes := (handOutOrder s.control).filter fun c =>
    let ch := s.control.chutes[c.val]; ch.relMode = 2 && fresh.getLsbD ch.relBell.val
  let s := chutes.foldl release s
  let armed := fun (p : CamPort) => p.ring.isSome && fresh.getLsbD p.relBell.val
  let s := onGauge s fun g => { g with ports := g.ports.map fun p => if armed p then releaseSlots p 1 else p }
  let s := checkWaits s
  let done := chutes.foldl (fun acc c => acc ||| oneBell (s.control.chutes[c.val]).relBell) 0
  let done := s.gauge.ports.toList.foldl (fun acc p => if armed p then acc ||| oneBell p.relBell else acc) done
  onControl s fun k => { k with bells := k.bells &&& ~~~done }

/-- Raise one Bell. -/
def raiseBell (s : State) (b : BellId) : State := raiseBells s (oneBell b)

/-- Clear Bells. -/
def clearBells (s : State) (set : BitVec 256) : State := onControl s fun k => { k with bells := k.bells &&& ~~~set }

/-- Raise ERR_BELL for the memory errors this command recorded (05 R108). -/
def settleErr (s : State) : State :=
  if s.granary.errPend then
    raiseBell (onGran s fun g => { g with errPend := false }) (fin 256 (bitsOf s.granary.errBell 7 0))
  else s

/-- A command that may access rows. -/
def liveRows (s : State) (f : State → State) : Result := live s fun s => settleErr (f s)

/-! ### Completion (06 R131, R138, R140, R142, R151) -/

/-- A docket handed out has finished on every target: its receipt is posted when RECEIPT_ALWAYS or its status asks for
one, the Spigot is notified of a faulted or aborted instance, SIG_BELL is raised, its scoreboard ranges are freed. -/
def complete (s : State) (c : ChuteId) (o : Outstanding) : State :=
  let s := onChute s c fun ch => { ch with out := ch.out.filter (·.id ≠ o.id) }
  let s := onControl s fun k => { k with scoreboard := k.scoreboard.map fun l => l.filter (·.id ≠ o.id) }
  let mid := if o.status = stAborted then stopAt 255 o.dropped else o.operand.toNat
  let r : DoneMsg :=
    { chute := c, status := o.status, tag := wTag o.words, detail := mkDetail o.subcode.toNat mid o.detail.toNat,
      doneTime := o.doneAt, startTime := o.start.getD o.doneAt, tiles := img (stopAt 0xFFFFFFFF o.tiles),
      sat := img (stopAt 0xFFFFFFFF o.sat), slot := 0 }
  let s := if wReceiptAlways o.words || o.status ≠ stOk then postReceipt s r else s
  let s := if o.inst && !okStatus o.status then holdNotice s c else s
  let s := settleInstance s c
  let s := if wSigEn o.words && (okStatus o.status || wSigOnFault o.words) then raiseBell s (wSigBell o.words) else s
  checkWaits s

/-- The record of a docket at its hand-out. -/
def outOf (id : Nat) (w : DocketWords) (mills : List MillId) (others : Nat) (inst : Bool) (t : Word64) : Outstanding :=
  { id := id, words := w, mills := mills, others := others, status := stOk, subcode := 0,
    operand := BitVec.ofNat 8 (noOperand w), detail := 0, start := none, doneAt := t, tiles := 0, sat := 0,
    inst := inst, stop := none, dropped := 0 }

/-- Merge one target's part: the first fault stands; TILES, SAT and DETAIL 15:0 add up (06 R138, 19 R440). -/
def merge (o : Outstanding) (r : DoneMsg) : Outstanding :=
  let takes := okStatus o.status && !okStatus r.status
  let st := if takes then r.status
    else if okStatus o.status && r.status ≠ stOk then r.status else o.status
  { o with
    status := st
    subcode := if takes || o.subcode = 0 && okStatus o.status then BitVec.ofNat 8 (bitsOf r.detail 31 24) else o.subcode
    operand := if takes || (okStatus o.status && bitsOf r.detail 23 16 ≠ noOperand o.words) then BitVec.ofNat 8 (bitsOf r.detail 23 16) else o.operand
    detail := BitVec.ofNat 16 (stopAt 0xFFFF (o.detail.toNat + bitsOf r.detail 15 0))
    start := match o.start with
      | some t => some (if r.startTime < t then r.startTime else t)
      | none => some r.startTime
    doneAt := if o.doneAt < r.doneTime then r.doneTime else o.doneAt
    tiles := o.tiles + r.tiles.toNat
    sat := o.sat + r.sat.toNat }

/-- A unit that is no Mill has finished its part of docket `id`: the docket completes (06 R140). -/
def unitDone (s : State) (c : ChuteId) (id : Nat) (r : DoneMsg) : State :=
  let ch := s.control.chutes[c.val]
  match ch.out.find? (·.id = id) with
  | none => s
  | some o =>
    let o := merge { o with others := o.others - 1 } r
    if o.mills.isEmpty && o.others = 0 then complete s c o
    else onChute s c fun ch => { ch with out := ch.out.map fun x => if x.id = id then o else x }

/-- The part a unit reports of its job. -/
def jobPart (j : Job) (st : Byte) (sub mid low : Nat) (start done : Word64) (tiles sat : Nat) : DoneMsg :=
  { chute := j.chute, status := st, tag := wTag j.words, detail := mkDetail sub mid low, doneTime := done,
    startTime := start, tiles := img tiles, sat := img sat, slot := 0 }

/-- A unit completes its job now. -/
def finishJob (s : State) (j : Job) (st : Byte) (sub mid low : Nat) (start : Word64) (tiles sat : Nat) : State :=
  unitDone s j.chute j.id (jobPart j st sub mid low start (now s) tiles sat)

/-- The stop a job has been told, if any (06 R138, R150). -/
def jobStop (s : State) (j : Job) : Option AbortReason :=
  match (s.control.chutes[j.chute.val]).out.find? (·.id = j.id) with
  | some o => o.stop
  | none => none

/-- The windows a job was handed out with. -/
def Job.win (j : Job) : Win := { granBase := j.granBase, granBound := j.granBound, hop := j.hop }

/-- The head docket of a firmware queue, FILL and COPY queue or Weir queue, when it is of the command's opcode. -/
def headJob (q : List Job) (o : Opcode) : Option (Job × List Job) :=
  match q with
  | [] => none
  | j :: rest => if wOpcode j.words = some o then some (j, rest) else none

/-- The firmware runs the docket at the head of its queue, when it is of the command's opcode (06 R146). -/
def fwJob (s : State) (o : Opcode) (f : State → Job → State) : State :=
  match headJob s.control.fwQueue o with
  | some (j, rest) => f (onControl s fun k => { k with fwQueue := rest }) j
  | none => s

/-- A firmware docket ends with a status, subcode and the rest of DETAIL. -/
def fwDone (s : State) (j : Job) (st : Byte) (sub : Nat) (mid low tiles : Nat := 0) : State :=
  finishJob s j st sub mid low (now s) tiles 0

end Sys2Proof.Machine
end

