-- ==== Sys2Proof/Machine/Chutes.lean ====
section
/-! DEFINITION. Chutes, hand-out, releases, Bells and tenants: the commands of 06 and the clear of 05 R120. -/

namespace Sys2Proof.Machine

/-! ### Rings and doorbells (06 R140) -/

/-- A write of DB_TAIL, over any of its paths. -/
def dbTailWrite (s : State) (c : ChuteId) (v : BitVec 16) : State :=
  onChute s c fun ch =>
    if (v - ch.tail).toNat ≤ ch.depth - (ch.tail - ch.head).toNat then { ch with tail := v } else { ch with dbRej := true }

/-- A write of DB_RCPT; receipts that waited for room are then written. -/
def dbRcptWrite (s : State) (c : ChuteId) (v : BitVec 16) : State :=
  let ch := s.control.chutes[c.val]
  if (v - ch.rcptHead).toNat ≤ (ch.rcptTail - ch.rcptHead).toNat then
    drainReceipts (onChute s c fun ch => { ch with rcptHead := v }) c ch.rcptWait.length
  else onChute s c fun ch => { ch with dbRej := true }

/-- HEAD advances past one docket; with HEAD_EN the controller sends an HWRITE of it to HEAD_WORD, through a request entry
of its own (13 R324). -/
def advanceHead (s : State) (c : ChuteId) : State :=
  let s := onChute s c fun ch => { ch with head := ch.head + 1 }
  let hw := (s.ledger.chuteWords[c.val]).2
  if bitOf hw 31 then
    let x := bitsOf hw 16 0
    let line : LineId := fin 16384 (x / 8)
    let req : HomeReq := .op 9 (fin 8 x) ((s.control.chutes[c.val]).head.zeroExtend 64) 0
    onLedger s fun l =>
      { l with
        reqs := l.reqs ++ [{ home := s.flume.nodeId, line := line, req := req, slot := none, blocked := false }]
        sent := { target := s.flume.nodeId, kind := 8, lmsg := 4, line := line, crossed := false, req := some req,
                  data := none, value := 0, status := 0 } :: l.sent }
  else s

/-- Take the head docket of a chute off the list of those read; HEAD advances in doorbell mode only (06 R148). -/
def popHead (s : State) (c : ChuteId) : State :=
  match (s.control.chutes[c.val]).pending with
  | [] => s
  | p :: rest =>
    let s := onChute s c fun ch => { ch with pending := rest }
    if p.inst then s else advanceHead s c

/-- The controller completes a docket itself, with TILES 0. -/
def controllerDone (s : State) (c : ChuteId) (p : Pending) (st : Byte) (sub : Nat) : State :=
  let o := outOf s.control.nextId p.words [] 0 p.inst (now s)
  complete (onControl s fun k => { k with nextId := k.nextId + 1 }) c
    { o with status := st, subcode := BitVec.ofNat 8 sub }

/-- Complete unreadable dockets that have come to the head of their chute: the mapped status, subcode RING_READ, TAG 0
(06 R140 item 7). -/
def settleFaults (s : State) (c : ChuteId) : Nat → State
  | 0 => s
  | n + 1 =>
    match (s.control.chutes[c.val]).pending with
    | [] => s
    | p :: _ =>
      if p.fault = .ok then s
      else settleFaults (controllerDone (popHead s c) c p (netReceipt p.fault).1 0x17) c n

/-- What follows when a docket has left the head of a chute. -/
def settleHead (s : State) (c : ChuteId) : State :=
  checkWaits (settleFaults s c ((s.control.chutes[c.val]).pending.length))

/-- The slot the controller reads next, if a doorbell or a release covers one. -/
def nextSlot (ch : Chute) : Option (BitVec 16) :=
  if !ch.en then none
  else if ch.relMode = 0 then (if ch.readAt = ch.tail then none else some ch.readAt)
  else match ch.inst with
    | some i => if i.next = i.stop then none else some i.next
    | none => none

/-- Read the next docket of a chute from its ring row: `net` is what the network answered. -/
def readDocket (s : State) (c : ChuteId) (net : NetStatus) : State :=
  let ch := s.control.chutes[c.val]
  match nextSlot ch with
  | none => s
  | some slot =>
    let a := ch.ring.toNat + slot.toNat % ch.depth * 64
    let (st, bs, s) := readRange s none a 64
    let fault := if st = .ok then net else st
    let words : DocketWords :=
      if fault = .ok then .ofFn fun i => BitVec.ofNat 32 (leNat ((bs.drop (4 * i.val)).take 4)) else .replicate 16 0
    let p : Pending := { words := words, fault := fault, waitOk := false, waitFrom := none, inst := ch.relMode ≠ 0 }
    let s := onChute s c fun ch =>
      { ch with
        pending := ch.pending ++ [p]
        readAt := if ch.relMode = 0 then ch.readAt + 1 else ch.readAt
        inst := ch.inst.map fun i => { i with next := i.next + 1 } }
    settleHead s c

/-! ### Hand-out (06 R143, R485) -/

/-- A FILL or COPY operand names the docket's own Hopper (05 R114). -/
def hopperOperand (w : DocketWords) : Bool :=
  let src := w[4].toNat + w[5].toNat % 65536 * 2 ^ 32
  let dst := w[6].toNat + w[7].toNat % 65536 * 2 ^ 32
  match wOpcode w with
  | some .copy => inOwnHop src || inOwnHop dst
  | some .fill => inOwnHop dst
  | _ => false

/-- Number of set bits of a Mill mask. -/
def maskCount (m : BitVec 16) : Nat := (maskMills m).length

/-- MILL_MASK cases of R134. -/
def badMask (o : Opcode) (mask : BitVec 16) : Bool :=
  o.onMills && o ≠ .spigotSchedule && (mask = 0 || (o.oneMill && 1 < maskCount mask))

/-- The tenant checks of R141: the context's tenant against the chute's and, for a docket that targets Mills, theirs. -/
def badTenant (s : State) (ch : Chute) (o : Opcode) (w : DocketWords) : Bool :=
  let t := (s.control.ctx[(wContext w).val]).tenant
  t ≠ ch.tenant ||
    ((o.onMills || hopperOperand w) && (maskMills (wMask w)).any fun m => s.control.millTenant[m.val] ≠ t)

/-- Units a docket is handed to, for R397: Mills, a Weir, the Spigot. -/
def targetUnits (o : Opcode) (w : DocketWords) : List Nat :=
  (if o.onMills then (maskMills (wMask w)).map (·.val) else [])
  ++ (if o = .solve || o = .solveDelta || o = .weirBind then [20 + w[4].toNat % 2] else [])
  ++ (if o = .spigotSchedule then [32] else [])

/-- The controller's checks in their fixed order: status and subcode of the first that fails (06 R485). -/
def docketCheck (s : State) (c : ChuteId) (w : DocketWords) : Option (Byte × Nat) :=
  let ch := s.control.chutes[c.val]
  match wOpcode w with
  | none => some (stFormat, 0x02)
  | some o =>
    if o.isFirmware && ch.cls = 3 then some (stFormat, 0x06)
    else if badMask o (wMask w) then some (stFormat, 0x15)
    else if !wPreemptible w && ch.cls ≠ 3 && wMask w &&& s.control.urgentMills ≠ 0 then some (stFormat, 0x05)
    else if !(s.control.ctx[(wContext w).val]).valid then some (stBound, 0x03)
    else if badTenant s ch o w then some (stBound, 0x04)
    else if !((targetUnits o w).all fun u => unitTakes s u) then some (stOffline, 0)
    else if o.isFirmware && s.service.noFirmware then some (stOffline, 0)
    else if o = .spigotSchedule && maskCount (wMask w) ≠ 1 then some (stFormat, 0x0D)
    else none

/-- A dispatcher slot takes a class (06 R143). -/
def slotTakes (slot : Nat) (cls : Fin 4) : Bool :=
  if slot < 2 then cls = 3 else if slot = 2 then cls = 3 || cls = 2 else true

/-- The slot whose credit a docket of a class takes at Mill `m`. -/
def slotFor (k : Control) (m : MillId) (cls : Fin 4) : Option (Fin 8) :=
  (List.finRange 8).find? fun i => slotTakes i.val cls && (k.credits[m.val])[i.val].isNone

/-- A Weir credit is free for a class: four slots, slot 0 only URGENT (08 R194). -/
def weirCredit (w : Weir) (cls : Fin 4) : Bool :=
  let held := w.queue ++ (w.running.map (·.job)).toList ++ (w.binding.map (·.job)).toList
  decide (held.length < 4) && (cls = 3 || decide ((held.filter (·.cls ≠ 3)).length < 3))

/-- The windows of the context a docket names (05 R119). -/
def ctxWin (k : Control) (w : DocketWords) : Win :=
  let x := k.ctx[(wContext w).val]
  { granBase := x.granBase.zeroExtend 32, granBound := x.granBound.zeroExtend 32, hop := x.hop }

/-- The words of a descriptor operand that lies inside the Granary window (06 R132). -/
def descWords (s : State) (win : Win) (desc : Word) : Option (List Word) :=
  let a := win.base + desc.toNat * 64
  if a + 64 ≤ win.bound then some (readWords s.mem a 16) else none

/-- Rows of a descriptor's extent on Mill `m`, as a half-open range of row numbers (06 R136, R153). -/
def descRange (s : State) (win : Win) (m : Nat) (desc : Word) : List (Nat × Nat) :=
  if desc = 0xFFFFFFFF then []
  else match descWords s win desc with
    | none => []
    | some ws =>
      let d := descOf ws
      match effRange s.granary.flat m win d.base d.extent with
      | some a => [(a / 512, ceilDiv (a + d.extent) 512)]
      | none => []

/-- Rows of a FILL or COPY range. -/
def rangeRows (s : State) (win : Win) (m : Nat) (lo hi : Word) (rows : Nat) : List (Nat × Nat) :=
  match effRange s.granary.flat m win (lo.toNat + hi.toNat % 65536 * 2 ^ 32) (rows * 512) with
  | some a => [(a / 512, a / 512 + rows)]
  | none => []

/-- Read and write ranges of a docket's operands (06 R153). -/
def docketRanges (s : State) (w : DocketWords) (win : Win) (m : Nat) : List (Nat × Nat) × List (Nat × Nat) :=
  let d := descRange s win m
  match wOpcode w with
  | some .matmul | some .conv2d => (d w[4] ++ d w[5] ++ d w[8], d w[6])
  | some .matmulAcc => (d w[4] ++ d w[5] ++ d w[6] ++ d w[8], d w[6])
  | some .fuse2 => (d w[4] ++ d w[5] ++ d w[6], d w[7])
  | some .loadw | some .sluProg | some .hist | some .spigotSchedule => (d w[4], [])
  | some .winnow => (d w[4] ++ d w[7], d w[5])
  | some .solve => (d w[7] ++ d w[9], d w[6])
  | some .solveDelta => (d w[7], d w[6])
  | some .weirBind => (d w[5] ++ d w[6], [])
  | some .copy => (rangeRows s win m w[4] w[5] w[8].toNat, rangeRows s win m w[6] w[7] w[8].toNat)
  | some .fill => ([], rangeRows s win m w[6] w[7] w[8].toNat)
  | _ => ([], [])

/-- Two half-open ranges overlap. -/
def overlaps (a b : Nat × Nat) : Bool := decide (a.1 < b.2) && decide (b.1 < a.2)

/-- A scoreboard-mode docket must wait: a range overlaps a pending write range, or one of its Mills lacks an entry for
each of its outputs (06 R153). -/
def scoreboardHolds (s : State) (w : DocketWords) (mills : List MillId) : Bool :=
  let win := ctxWin s.control w
  let pend := s.control.scoreboard.toList.flatMap fun l => l.map fun r => (r.lo, r.hi)
  let ms := if mills.isEmpty then (maskMills (wMask w)).take 1 else mills
  let ms := if ms.isEmpty then [(0 : MillId)] else ms
  ms.any fun m =>
    let (rd, wr) := docketRanges s w win m.val
    (rd ++ wr).any (fun r => pend.any (overlaps r))
      || (mills.contains m && decide (32 < (s.control.scoreboard[m.val]).length + wr.length))

/-- The docket is one that the controller executes by a command of its own (06 R146, R155). -/
def ownCommand (o : Opcode) : Bool := o = .fence || o = .waitEvent || o = .signal

/-- Wait, fence and credit of the head docket allow it to go on (06 R140 item 4, R146, R155). -/
def headReady (ch : Chute) (p : Pending) : Bool :=
  p.fault = .ok && p.waitOk && !(wFence p.words && !ch.out.isEmpty)

/-- The docket as a unit's job. -/
def jobOf (s : State) (c : ChuteId) (w : DocketWords) : Job :=
  let win := ctxWin s.control w
  { id := s.control.nextId, chute := c, cls := (s.control.chutes[c.val]).cls, words := w, granBase := win.granBase,
    granBound := win.granBound, hop := win.hop, tenant := (s.control.ctx[(wContext w).val]).tenant }

/-- Record a docket as handed out to Mills and to other targets. -/
def recordOut (s : State) (c : ChuteId) (p : Pending) (mills : List MillId) (others : Nat) : State :=
  let id := s.control.nextId
  let s := onControl s fun k => { k with nextId := id + 1 }
  onChute (popHead s c) c fun ch => { ch with out := ch.out ++ [outOf id p.words mills others p.inst (now s)] }

/-- Hand a docket to one Mill: a slot credit is taken and a HANDOUT message sent (06 R143, 19 R438). -/
def sendHandout (c : ChuteId) (id : Nat) (j : Job) (s : State) (m : MillId) : State :=
  match slotFor s.control m j.cls with
  | none => s
  | some slot =>
    let msg : HandoutMsg := { docket := j.words, granBase := j.granBase, granBound := j.granBound, hop := j.hop,
                              cls := j.cls, chute := c, tenant := j.tenant, slot := slot }
    onControl s fun k =>
      { k with credits := vmod k.credits m fun v => vmod v slot fun _ => some id, toMills := k.toMills ++ [(m, msg)] }

/-- Source and destination addresses of COPY, or the destination of FILL (06 Table 6.2). -/
def copySrc (w : DocketWords) : Nat := w[4].toNat + w[5].toNat % 65536 * 2 ^ 32
def copyDst (w : DocketWords) : Nat := w[6].toNat + w[7].toNat % 65536 * 2 ^ 32

/-- The quad whose bank engine runs a FILL or COPY: that of the destination, or of the source when the destination is
remote (05 FILL and COPY, 12 R298). An address outside both ranges is left to quad 0, whose engine refuses it. -/
def engineQuad (s : State) (j : Job) : QuadId :=
  let w := j.words
  let a := match localPart s.flume.nodeId (copyDst w) with
    | some a => some a
    | none => localPart s.flume.nodeId (copySrc w)
  let m := jobMill w
  match a with
  | none => 0
  | some a =>
    if inOwnHop a then fin 4 (m / 4)
    else match effAddr s.granary.flat m { granBase := j.granBase, granBound := j.granBound, hop := j.hop } a with
      | some x => granQuad x
      | none => 0

/-- Hand the head docket of a chute to its targets, or complete it by a failing check; none: it must wait. -/
def handOutAt (s : State) (c : ChuteId) : Option State :=
  let ch := s.control.chutes[c.val]
  match ch.pending with
  | [] => none
  | p :: _ =>
    if !headReady ch p then none
    else match docketCheck s c p.words with
      | some (st, sub) => some (settleHead (controllerDone (popHead s c) c p st sub) c)
      | none =>
        let w := p.words
        let j := jobOf s c w
        let mills := match wOpcode w with | some o => if o.onMills then maskMills (wMask w) else [] | none => []
        if ch.depth ≤ ch.outstanding then none
        else if ch.sync && scoreboardHolds s w mills then none
        else match wOpcode w with
          | none => none
          | some o =>
            if ownCommand o then none
            else if o.onMills then
              if mills.all fun m => (slotFor s.control m ch.cls).isSome then
                let s' := mills.foldl (sendHandout c j.id j) (recordOut s c p mills 0)
                let s' := if ch.sync then
                    onControl s' fun k =>
                      { k with scoreboard := .ofFn fun m =>
                          if mills.contains m then
                            k.scoreboard[m.val] ++ (docketRanges s w j.win m.val).2.map fun r => { id := j.id, lo := r.1, hi := r.2 }
                          else k.scoreboard[m.val] }
                  else s'
                some (settleHead s' c)
              else none
            else if o.isFirmware then
              if s.control.fwQueue.length < 16 then
                some (settleHead (onControl (recordOut s c p [] 1) fun k => { k with fwQueue := k.fwQueue ++ [j] }) c)
              else none
            else if o = .copy || o = .fill then
              some (settleHead (onGran (recordOut s c p [] 1) fun g =>
                { g with engineQ := vmod g.engineQ (engineQuad s j) fun q => q ++ [j] }) c)
            else if o = .gaugeArm then
              some (settleHead (onGauge (recordOut s c p [] 1) fun g => { g with queue := g.queue ++ [j] }) c)
            else
              let wi : WeirId := fin 2 w[4].toNat
              if weirCredit s.weirs[wi.val] ch.cls then
                some (settleHead (onWeir (recordOut s c p [] 1) wi fun x => { x with queue := x.queue ++ [j] }) c)
              else none

/-- After a hand-out, the round robin of the chute's class goes on behind it (06 R143). -/
def rotate (s : State) (c : ChuteId) : State :=
  let cls := (s.control.chutes[c.val]).cls
  onControl s fun k => { k with rrNext := .ofFn fun i => if i.val = cls.val then (c.val + 1) % 128 else k.rrNext[i.val] }

/-- Hand out one docket: the first in hand-out order whose chute allows it. -/
def handOut (s : State) : State :=
  match (handOutOrder s.control).findSome? fun c => (handOutAt s c).map fun t => rotate t c with
  | some t => t
  | none => s

/-- Execute a docket of the controller itself at the head of a chute: FENCE, WAIT_EVENT or SIGNAL. -/
def controllerOp (s : State) (c : ChuteId) (o : Opcode) (ready : Chute → Bool) (act : State → DocketWords → State) :
    State :=
  let ch := s.control.chutes[c.val]
  match ch.pending with
  | [] => s
  | p :: _ =>
    if ch.en && wOpcode p.words = some o && headReady ch p then
      match docketCheck s c p.words with
      | some (st, sub) => settleHead (controllerDone (popHead s c) c p st sub) c
      | none =>
        if ready ch && decide (ch.outstanding < ch.depth) then
          settleHead (controllerDone (act (popHead s c) p.words) c p stOk 0) c
        else s
    else s

/-- A docket whose WAIT_TIMEOUT interval has ended before its wait was satisfied (06 R155). -/
def expireWait (s : State) (c : ChuteId) : State :=
  let ch := s.control.chutes[c.val]
  match ch.pending with
  | [] => s
  | p :: _ =>
    match p.waitFrom with
    | none => s
    | some t =>
      if !p.waitOk && ch.waitTimeout ≠ 0 && usElapsed s t ch.waitTimeout.toNat then
        settleHead (controllerDone (popHead s c) c p stTimeout 0x07) c
      else s

/-! ### Configuration (06 R141, R149) -/

/-- The smallest PHASE + n * PERIOD_NS at or after the present device time, or strictly after it (06 R149). -/
def relTime (ch : Chute) (t : Nat) (strict : Bool) : Option Word64 :=
  let p := ch.period.toNat
  let f := ch.phase.toNat
  if p = 0 then none
  else
    let t := if strict then t + 1 else t
    some (BitVec.ofNat 64 (if t ≤ f then f else f + ceilDiv (t - f) p * p))

/-- Set the next release time of a chute in REL_MODE 1. -/
def setNextRel (s : State) (ch : Chute) : Chute :=
  { ch with nextRel := if ch.relMode = 1 && ch.en then relTime ch (now s).toNat false else none }

/-- EN goes from 0 to 1: the four counters and the receipt ring are zeroed (06 R141). -/
def enableChute (s : State) (c : ChuteId) (v : Word) : State :=
  let s := onChute s c fun ch =>
    setNextRel s { ch with cfg := v, head := 0, tail := 0, rcptHead := 0, rcptTail := 0, readAt := 0, pending := [],
                           rcptWait := [], inst := none, pendRel := none, held := false, ordinal := 0 }
  let ch := s.control.chutes[c.val]
  (writeRange s none ch.rcpt.toNat (List.replicate (32 * ch.depth) 0)).2

/-- EN goes from 1 to 0: hand-out and releases stop, a held release is dropped, and every docket read and not handed out
completes with CHUTE_DISABLED (06 R141). -/
def disableChute (s : State) (c : ChuteId) (v : Word) : State :=
  let ps := (s.control.chutes[c.val]).pending
  let s := onChute s c fun ch => { ch with cfg := v, inst := none, held := false, pendRel := none, nextRel := none }
  ps.foldl (fun s p => controllerDone (popHead s c) c p
    (if p.fault = .ok then stOffline else (netReceipt p.fault).1) (if p.fault = .ok then 0x16 else 0x17)) s

/-- CLASS, SYNC, RING_LOG2, REL_MODE, OVR_POLICY and TENANT of CH_CFG. -/
def cfgFields : Word := 0x7FF70000

/-- A write of CH_CFG (06 R141). -/
def chCfgWrite (s : State) (c : ChuteId) (v : Word) : State :=
  let ch := s.control.chutes[c.val]
  let enables := !ch.en && bitOf v 31
  let changes := v &&& cfgFields ≠ ch.cfg &&& cfgFields
  if (enables || changes) && (ch.en || ch.outstanding ≠ 0) then onChute s c fun ch => { ch with cfgRej := true }
  else if enables then enableChute s c v
  else if ch.en && !bitOf v 31 then disableChute s c v
  else onChute s c fun ch => { ch with cfg := v }

/-- A write of the high word of PHASE (06 R149). -/
def phaseHi (s : State) (c : ChuteId) (v : Word) : State :=
  onChute s c fun ch => setNextRel s { ch with phase := withHi (withLo ch.phase ch.phaseLo) v }

/-- A write of PERIOD_NS (06 R149). -/
def periodWrite (s : State) (c : ChuteId) (v : Word) : State := onChute s c fun ch => setNextRel s { ch with period := v }

/-- A timer release: one release, and the next release time after it (06 R149). -/
def timerFire (s : State) (c : ChuteId) : State :=
  let ch := s.control.chutes[c.val]
  match ch.nextRel with
  | none => s
  | some t =>
    if ch.en && ch.relMode = 1 && t ≤ now s then
      let s := onChute s c fun ch =>
        { ch with nextRel :=
            if t.toNat + ch.period.toNat < (now s).toNat then relTime ch (now s).toNat true
            else if ch.period = 0 then none else some (t + ch.period.zeroExtend 64) }
      checkWaits (release s c)
    else s

/-- A held RUN_LATE release starts (06 R150). -/
def heldStart (s : State) (c : ChuteId) : State :=
  let ch := s.control.chutes[c.val]
  if ch.held && ch.inst.isNone then startInstance (onChute s c fun ch => { ch with held := false, pendRel := none }) c
  else s

/-! ### Tenants (06 R147, 05 R120) -/

/-- A Quern bank zeroed and EMPTY (03 R58). -/
def QBank.zeroed (_ : QBank) : QBank := QBank.reset

/-- Both banks of a Quern zeroed; its registers stand. -/
def Quern.zeroed (q : Quern) : Quern := { q with a := .reset, b := .reset }

/-- The Mill holds no docket. -/
def Mill.idle (m : Mill) : Bool := m.slots.all (·.isNone) && m.running.isNone && m.preempted.isEmpty

/-- Start the clear of a Mill: Hopper, nine Purses and Quern banks read zero, and CLEARING is set (05 R120). -/
def clearMill (s : State) (m : MillId) : State :=
  let s := onMill s m fun x =>
    { x with
      regs := { x.regs with hopClearing := true }
      querns := x.querns.map Quern.zeroed
      purses := []
      purseCeWrite := [] }
  if s.granary.flat then s
  else
    onGran { s with mem := zeroRange s.mem (hopTop + m.val * 0x01000000) 0x00800000 } fun g =>
      { g with poison := g.poison.filter fun r =>
          !(decide ((hopTop + m.val * 0x01000000) / 512 ≤ r) && decide (r < (hopTop + m.val * 0x01000000 + 0x00800000) / 512)) }

/-- No docket is held by a Mill or on its way to it. -/
def drained (s : State) (m : MillId) : Bool :=
  (s.mills[m.val]).idle && !(s.control.toMills.any fun x => x.1 = m)

/-- The clear of a TENANT_SWITCH has ended on all its Mills: MILL_TENANT is written and the docket completes
(06 R147). -/
def settleTenant (s : State) : State :=
  match s.control.tenantJob with
  | none => s
  | some j =>
    let ms := maskMills (wMask j.words)
    if ms.all fun m => !(s.mills[m.val]).regs.hopClearing then
      let t : Fin 8 := fin 8 j.words[4].toNat
      let s := onControl s fun k =>
        { k with tenantJob := none
                 millTenant := .ofFn fun m => if ms.contains m then t else k.millTenant[m.val] }
      fwDone s j stOk 0
    else s

/-- TENANT_SWITCH: once its Mills are drained their clears start; it waits while they still hold dockets. -/
def tenantStart (s : State) : State :=
  match headJob s.control.fwQueue .tenantSwitch with
  | none => s
  | some (j, rest) =>
    let ms := maskMills (wMask j.words)
    if s.control.tenantJob.isNone && ms.all (drained s) then
      settleTenant (ms.foldl clearMill (onControl s fun k => { k with fwQueue := rest, tenantJob := some j }))
    else s

/-- A Mill's clear ends. -/
def tenantCleared (s : State) (m : MillId) : State :=
  settleTenant (onRegs s m fun r => { r with hopClearing := false })

/-! ### Meanings -/

def execDbTail (c : ChuteId) (v : BitVec 16) (s : State) : Result := live s fun s => dbTailWrite s c v
def execDbRcpt (c : ChuteId) (v : BitVec 16) (s : State) : Result := liveRows s fun s => dbRcptWrite s c v
def execDocketRead (c : ChuteId) (net : NetStatus) (s : State) : Result := liveRows s fun s => readDocket s c net
def execHandOut (s : State) : Result := liveRows s handOut
def execWaitTimeoutExpire (c : ChuteId) (s : State) : Result := liveRows s fun s => expireWait s c
def execChuteEnable (c : ChuteId) (v : Word) (s : State) : Result := liveRows s fun s => chCfgWrite s c v
def execChuteDisable (c : ChuteId) (v : Word) (s : State) : Result := liveRows s fun s => chCfgWrite s c v
def execChuteReconfigure (c : ChuteId) (v : Word) (s : State) : Result := liveRows s fun s => chCfgWrite s c v
def execPhaseHiWrite (c : ChuteId) (v : Word) (s : State) : Result := live s fun s => phaseHi s c v
def execPeriodNsWrite (c : ChuteId) (v : Word) (s : State) : Result := live s fun s => periodWrite s c v
def execTimerRelease (c : ChuteId) (s : State) : Result := liveRows s fun s => timerFire s c
def execHeldReleaseStart (c : ChuteId) (s : State) : Result := live s fun s => heldStart s c
def execBellSetWrite (g : Fin 8) (v : Word) (s : State) : Result := liveRows s fun s => raiseBells s (groupBells g.val v)
def execBellClrWrite (g : Fin 8) (v : Word) (s : State) : Result := live s fun s => clearBells s (groupBells g.val v)
def execFence (c : ChuteId) (s : State) : Result :=
  liveRows s fun s => controllerOp s c .fence (fun ch => ch.out.isEmpty) fun s _ => s
def execWaitEvent (c : ChuteId) (s : State) : Result :=
  liveRows s fun s => controllerOp s c .waitEvent (fun _ => true) fun s _ => s
def execSignal (c : ChuteId) (s : State) : Result :=
  liveRows s fun s => controllerOp s c .signal (fun _ => true) fun s w =>
    let b := groupBells (bitsOf w[4] 2 0) w[5]
    if bitOf w[4] 31 then clearBells s b else raiseBells s b
def execTenantSwitch (s : State) : Result := liveRows s tenantStart
def execTenantClearDone (m : MillId) (s : State) : Result := liveRows s fun s => tenantCleared s m

end Sys2Proof.Machine
end

