-- ==== Sys2Proof/Machine/FlumeLink.lean ====
section
/-! DEFINITION. How a Flume port fills flits from its egress queues (12 R280-R282). -/

namespace Sys2Proof.Machine

/-! ### Data flits (R280-R282) -/

/-- Bytes of a packet with its transfer header (R290). -/
def flumeBytes (x : FlumePacket) : Nat := 16 + 128 * ceilDiv x.data.length 128

/-- What one flit takes from a queue: the packets that end in it, the bytes then sent of the first packet left, the queue left,
and the payload bytes left over. -/
structure Fill where
  packets : List FlumePacket
  sent : Nat
  rest : List FlumePacket
  left : Nat
deriving DecidableEq, Repr

/-- Fill `room` payload bytes from a queue of whose first packet `sent` bytes are gone. -/
def takeFlit (room sent : Nat) : List FlumePacket → Fill
  | [] => { packets := [], sent := 0, rest := [], left := room }
  | x :: rest =>
    let need := flumeBytes x - sent
    if need ≤ room then
      let r := takeFlit (room - need) 0 rest
      { r with packets := x :: r.packets }
    else { packets := [], sent := sent + room, rest := x :: rest, left := 0 }

/-- A VN has a flit to send, a credit for it and room in the retry buffer (R280, R281). -/
def FlumePort.canSend (f : FlumePort) (vn : Fin 5) : Bool :=
  !(f.egress[vn.val]).isEmpty && decide (0 < f.credits[vn.val]) && decide (f.retry.length < 512)

/-- The VN that takes the next grant (R282, 11 R264): VN3; a VN that waited 15 grants; VN2, VN1, VN0, VN4. -/
def FlumePort.grant (f : FlumePort) : Option (Fin 5) :=
  if f.canSend 3 then some 3
  else
    match [2, 1, 0, 4].find? fun v : Fin 5 => f.canSend v && decide (15 ≤ f.waits[v.val]) with
    | some v => some v
    | none => [2, 1, 0, 4].find? f.canSend

/-- Send one data flit of a VN: it takes a credit, the next SEQ and a place in the retry buffer. -/
def FlumePort.sendFlit (f : FlumePort) (vn : Fin 5) : FlumePort :=
  let t := takeFlit 240 f.headSent[vn.val] f.egress[vn.val]
  { f with
    egress := vmod f.egress vn fun _ => t.rest
    headSent := vmod f.headSent vn fun _ => t.sent
    credits := vmod f.credits vn fun c => c - 1
    retry := f.retry ++ [{ seq := f.txSeq, vn := vn, len := 240 - t.left, packets := t.packets, replays := 0 }]
    txSeq := f.txSeq + 1
    crNext := f.crNext + 1
    waits :=
      if vn = 3 then f.waits
      else .ofFn fun u => if u = vn || u = 3 || (f.egress[u.val]).isEmpty then 0 else f.waits[u.val] + 1 }

/-- Send flits while one may go, at most `n`. -/
def FlumePort.sendFlits : Nat → FlumePort → FlumePort
  | 0, f => f
  | n + 1, f =>
    match f.grant with
    | none => f
    | some vn => FlumePort.sendFlits n (f.sendFlit vn)

/-- Send what the link takes; the retry buffer holds 512 flits. -/
def FlumePort.pump (f : FlumePort) : FlumePort :=
  if f.state = .active then f.sendFlits 512 else f

end Sys2Proof.Machine
end

