-- ==== Sys2Proof/Machine/NetOps.lean ====
section
/-! DEFINITION. What every command on packets shares: issue at an interface, admission, responses, slots and error logs
(11 R256-R271; 12 R290-R292). -/

namespace Sys2Proof.Machine

/-- Code of a network status (11 Table 11.7). -/
def netCode : NetStatus → Nat
  | .ok => 0
  | .offline => 1
  | .timeout => 2
  | .uncorr => 3
  | .linkDown => 4
  | .bound => 5
  | .reserved => 6

/-- Kinds of 11 Table 11.4 that a destination knows. -/
def knownKind (k : BitVec 4) : Bool := k.toNat ≤ 5 || (8 ≤ k.toNat && k.toNat ≤ 11)

/-- ERR_LOG of an interface (11 Table 11.9). -/
def niLogImg (st : NetStatus) (kind : BitVec 4) (vn : Fin 5) (peer : NiId) (gen : BitVec 4) (slot : Fin 256) : Word :=
  img (2 ^ 31 + netCode st * 2 ^ 27 + kind.toNat * 2 ^ 23 + vn.val * 2 ^ 20 + peer.val * 2 ^ 14 + gen.toNat * 256 + slot.val)

/-- Record ERR_LOG while VALID is 0. -/
def logNi (s : State) (n : NiId) (st : NetStatus) (p : Packet) (peer : NiId) : State :=
  onNi s n fun x =>
    { x with errLog := if bitOf x.errLog 31 then x.errLog else niLogImg st p.kind p.vn peer p.gen p.slot }

/-- A packet has left the wires on which it was. -/
def takePacket (s : State) (p : Packet) : State :=
  onNet s fun n => { n with sent := n.sent.erase p, wires := n.wires.filter fun w => w.2.2 ≠ p }

/-- Fields of ROUTE_d (11 Table 11.9). -/
def routeValid (r : Word) : Bool := bitOf r 31
def routeLen (r : Word) : Nat := bitsOf r 30 28
def routeNib (r : Word) (i : Nat) : Nat := bitsOf r (4 * i + 3) (4 * i)

/-! ### Flume routes (12 R289, R290) -/

/-- Route entry of a node: hops, ports and the first port, while VALID. -/
def nodeRoute (s : State) (n : NodeId) : Option (Nat × BitVec 24 × FlumeId) :=
  let r := s.flume.routes[n.val]
  if bitOf r 31 then some (bitsOf r 30 27, BitVec.ofNat 24 r.toNat, fin 6 (bitsOf r 2 0)) else none

/-- Queue a packet at the egress of a port, while it is ACTIVE or recovers, and send what the link takes. -/
def toEgress (s : State) (p : FlumeId) (x : FlumePacket) : State :=
  onPort s p fun f =>
    if f.state = .active || f.state = .recover then { f with egress := vmod f.egress x.vn fun q => q ++ [x] }.pump else f

/-- Send the response to a remote initiator over this node's entry for it (12 R292); without a route it is discarded. -/
def respondRemote (s : State) (origin : NodeId × NiId × BitVec 12) (p : Packet) (st : NetStatus) : State :=
  match nodeRoute s origin.1 with
  | none => s
  | some (hops, ports, first) =>
    toEgress s first
      { dstNode := origin.1, srcNode := s.flume.nodeId, hptr := 0, hops := hops, ports := ports, kind := p.kind, sub := true,
        vn := p.vn, origNi := origin.2.1, origTag := origin.2.2, status := st, addr := p.addr, xinfo := p.xinfo,
        data := if st = .ok then p.payload else [] }

/-! ### Slots and responses (11 R263, R268, R270, R271) -/

/-- The outstanding slot a tag matches. -/
def Ni.slotOf (x : Ni) (slot : Fin 256) (gen : BitVec 4) : Option OutSlot :=
  if x.gens[slot.val] = gen then x.out.find? (·.slot = slot) else none

/-- Free a slot. -/
def Ni.freeSlot (x : Ni) (slot : Fin 256) : Ni := { x with out := x.out.filter (·.slot ≠ slot) }

/-- Hand a response to the unit that waits for it: a Flume port sends it on to its remote initiator. -/
def deliver (s : State) (n : NiId) (o : OutSlot) (p : Packet) (st : NetStatus) : State :=
  let s := onNi s n fun x => { x.freeSlot o.slot with delivered := { p with status := st } :: x.delivered }
  match o.origin with
  | some origin => respondRemote s origin p st
  | none => s

/-- The response packet of a request (11 R256, R258). -/
def responseOf (ni : Ni) (req : Packet) (st : NetStatus) (data : List Byte) : Packet :=
  let r := ni.routes[req.src.val]
  { route := BitVec.ofNat 24 r.toNat, rptr := 0, rlen := BitVec.ofNat 3 (routeLen r), vn := if req.vn = 3 then 3 else 1,
    sub := true, lane := false, kind := if req.kind = 0 then 2 else if req.kind = 1 then 3 else 5, src := req.dst,
    dst := req.src, gen := req.gen, slot := req.slot, epoch := ni.epoch, status := st, addr := req.addr, xinfo := req.xinfo,
    payload := if st = .ok then data else [] }

/-- A target answers a request: a suppressed tag gets no answer; without a route back the answer is discarded and logged. -/
def respond (s : State) (req : Packet) (st : NetStatus) (data : List Byte) : State :=
  let n := req.dst
  let ni := s.net.nis[n.val]
  if ni.suppressed.contains req then onNi s n fun x => { x with suppressed := x.suppressed.erase req }
  else
    let s := onNi s n fun x => { x with accepted := x.accepted.erase req }
    if routeValid ni.routes[req.src.val] then onNet s fun x => { x with sent := x.sent ++ [responseOf ni req st data] }
    else logNi s n st req req.src

/-- Answer OFFLINE, counted (11 R270). -/
def refuse (s : State) (req : Packet) : State :=
  respond (onNi s req.dst fun x => { x with offlineSent := bump x.offlineSent }) req .offline []

/-- An address of rows: Granary or a Hopper, on this node (21 R474). -/
def mappedRow (a : Nat) : Bool := decide (a < granTop) || (hopOf a).isSome

/-- The row at an address takes a value that the spec does not give (log entry 56). -/
def looseRow (s : State) (a : Nat) : State :=
  if mappedRow a then let (x, s) := draw s 4096; { s with mem := writeBytes s.mem (a / 512 * 512) (leBytes 512 x.toNat) } else s

/-- A request has timed out: its slot at the initiator is of another generation than its tag (11 R268). -/
def timedOut (s : State) (p : Packet) : Bool := decide ((s.net.nis[p.src.val]).gens[p.slot.val] ≠ p.gen)

/-- An interface answers its own unit without sending: the status is logged (11 R258, 21 R476). -/
def selfAnswer (s : State) (p : Packet) (st : NetStatus) : State :=
  logNi (onNi s p.src fun x => { x with delivered := { p with status := st, sub := true } :: x.delivered }) p.src st p p.dst

/-- Issue a request at its source: it goes out (true) unless the interface answers it itself or holds it for a pending route.
A request whose slot already stands is on its way. -/
def issue (s : State) (p : Packet) : Bool × State :=
  let ni := s.net.nis[p.src.val]
  if (ni.slotOf p.slot p.gen).isSome || ni.gens[p.slot.val] ≠ p.gen then (true, s)
  else if p.kind.toNat ≤ 1 && p.addr.toNat < 2 ^ 47 && !mappedRow p.addr.toNat then (false, selfAnswer s p .bound)
  else if !routeValid ni.routes[p.dst.val] then (false, selfAnswer s p .offline)
  else if (ni.routePend[p.dst.val]).isSome then (false, onNi s p.src fun x => { x with waiting := x.waiting ++ [p] })
  else
    (true, onNi s p.src fun x =>
      { x with out := x.out ++ [{ slot := p.slot, dst := p.dst, kind := p.kind, vn := p.vn, addr := p.addr, since := now s, origin := none }] })

/-- The target interface admits a request: ADMIT, and the epoch it carries (11 R270). -/
def admitted (s : State) (p : Packet) : Bool :=
  let ni := s.net.nis[p.dst.val]
  ni.admits && p.epoch = ni.epoch

/-- Accept a request. -/
def accept (s : State) (p : Packet) : State := onNi s p.dst fun x => { x with accepted := x.accepted ++ [p] }

/-- A response reaches its initiator: a stale epoch, a late tag, or delivery; an uncorrectable payload is UNCORR
(11 R257, R268, R271). -/
def takeResponse (s : State) (p : Packet) (ecc : Ecc) : State :=
  let n := p.dst
  let s := takePacket s p
  let s := if ecc = .bad then onNi s n fun x => { x with e2eUe := bump x.e2eUe } else s
  let ni := s.net.nis[n.val]
  if ni.epv[p.src.val] ≠ p.epoch then onNi s n fun x => { x with staleEpoch := bump x.staleEpoch }
  else match ni.slotOf p.slot p.gen with
    | some o => deliver s n o p (if ecc = .bad then .uncorr else p.status)
    | none => onNi s n fun x => { x with lateResp := bump x.lateResp }

end Sys2Proof.Machine
end

