-- ==== Sys2Proof/Machine/Banks.lean ====
section
/-! DEFINITION. Banks, engines, plots, modes and spares of the memory (05). -/

namespace Sys2Proof.Machine

/-! ### Requests at a bank (05 R98, R103, R121, R124) -/

/-- The bank of a row address. -/
def bankRefOf (a : Nat) : Option BankRef :=
  if a < granTop then some (.gran (granBank a))
  else (hopOf a).map fun (m, off) => .hop m (fin 16 (off / 512))

/-- Change a bank. -/
def onBank (s : State) (b : BankRef) (f : Bank → Bank) : State :=
  onGran s fun g =>
    match b with
    | .gran i => { g with banks := vmod g.banks i f }
    | .hop m i => { g with hopBanks := vmod g.hopBanks m fun v => vmod v i f }

/-- A bank's arbiter. -/
def bankOf (s : State) : BankRef → Bank
  | .gran i => s.granary.banks[i.val]
  | .hop m i => (s.granary.hopBanks[m.val])[i.val]

/-- Address of a bank row. -/
def bankRowAddr : BankRef → Nat → Nat
  | .gran b, r => bankAddr b r
  | .hop m i, r => hopTop + m.val * 0x01000000 + (r * 16 + i.val) * 512

/-- Row of an address within its bank. -/
def rowInBank (a : Nat) : Nat := if a < granTop then granRow a else a % 0x01000000 / 512 / 16

/-- A row can be reached at its bank: no CLEARING plot, no quad taken out, no Hopper powered down or switching. -/
def targetOpen (s : State) (a : Nat) : Bool :=
  if a < granTop then !(s.granary.plots[(plotOf a).val]).clearing && !s.granary.quadDead[(granQuad a).val]
  else !s.granary.flat && !s.granary.busy

/-- A row request reaches its target (R98, R270, R121, R124): refused, or queued at the bank. A row that the interface does
not serve is out of bounds there. -/
def rowArrives (s : State) (p : Packet) : State :=
  let a := p.addr.toNat
  if !admitted s p then refuse s p
  else
    let s := accept s p
    match bankRefOf a with
    | none => respond s p .bound []
    | some b =>
      if niOf a ≠ p.dst then respond s p .bound []
      else if targetOpen s a then onBank s b fun x => { x with queue := x.queue ++ [.narrow p] }
      else respond s p .offline []

/-- A row packet of a kind its destination does not know is discarded and logged (11 Table 11.4). -/
def rowPacket (s : State) (p : Packet) (f : State → State) : State :=
  let (sent, s) := issue s p
  if !sent then s
  else
    let s := takePacket s p
    if knownKind p.kind then f s else logNi s p.dst .ok p p.src

/-! ### One slot of a bank (05 R103, R108, R109) -/

/-- What the ECC of a read reports at a row: a poisoned row is uncorrectable; row parity only in class 1 (R107). -/
def readOutcome (s : State) (a : Nat) (ecc : RowEcc) : NetStatus × State :=
  if poisoned s a then (.uncorr, logError s a true true false 0)
  else match ecc with
    | .clean => (.ok, s)
    | .correctable w =>
      let s := logError s a false false false w.val
      (.ok, match bankRefOf a with
        | some b => onBank s b fun x => { x with ceRows := if x.ceRows.contains (rowInBank a) then x.ceRows else x.ceRows ++ [rowInBank a] }
        | none => s)
    | .uncorrectable w => (.uncorr, logError s a true false false w.val)
    | .rowParity =>
      if a < granTop && (s.granary.plots[(plotOf a).val]).cls then (.uncorr, logError s a true false true 0) else (.ok, s)

/-- Serve a granted request; a write that has timed out leaves its row unspecified (11 R268). -/
def serve (s : State) (b : BankRef) (r : BankReq) (ecc : RowEcc) : State :=
  match r with
  | .wide _ w row => if w then s else (readOutcome s (bankRowAddr b row) ecc).2
  | .narrow p =>
    let a := p.addr.toNat / 512 * 512
    if !targetOpen s a then respond s p .offline []
    else if p.kind = 0 then
      let (st, s) := readOutcome s a ecc
      respond s p st (readBytes s.mem a 512)
    else if timedOut s p then respond (rowWritten (looseRow s a) a) p .ok []
    else respond (rowWritten { s with mem := writeBytes s.mem a (p.payload.take 512) } a) p .ok []

/-- Which waiting request a slot grants: narrow after 15 wide grants; wide in round robin over the row ports; then the oldest
VN3 request, then the oldest other (R103 items 3 to 5). -/
def nextReq (x : Bank) : Option BankReq :=
  let narrow := x.queue.filter fun r => match r with | .narrow _ => true | _ => false
  let urgent := narrow.find? fun r => match r with | .narrow p => p.vn = 3 | _ => false
  let wide := fun (i : Nat) => x.queue.find? fun r => match r with | .wide m _ _ => m.val % 4 = (x.rr.val + i) % 4 | _ => false
  let firstWide := (List.range 4).findSome? wide
  let anyNarrow := urgent.orElse fun _ => narrow.head?
  if 15 ≤ x.wideRun && !narrow.isEmpty then narrow.head?
  else firstWide.orElse fun _ => anyNarrow

/-- The arbiter after a grant. -/
def Bank.after (x : Bank) (r : BankReq) : Bank :=
  let queue := x.queue.erase r
  let waits := queue.any fun q => match q with | .narrow _ => true | _ => false
  match r with
  | .wide m _ _ => { x with queue := queue, wideRun := if waits then x.wideRun + 1 else 0, rr := fin 4 (m.val + 1) }
  | .narrow _ => { x with queue := queue, wideRun := 0 }

/-- The quad of a Granary bank, and its number there. -/
def quadOf (i : BankId) : QuadId := fin 4 (i.val / 32)
def inQuad (i : BankId) : Fin 32 := fin 32 i.val

/-- Copy one row of a migrating bank onto the spare: an uncorrectable row is written poisoned (R109, R125). -/
def migrateRow (s : State) (i : BankId) (row : Nat) (ecc : RowEcc) : State :=
  let a := bankAddr i row
  let (st, s) := readOutcome s a ecc
  onGran s fun g => { g with poison := if st = .uncorr && !g.poison.contains (a / 512) then a / 512 :: g.poison else g.poison }

/-- The bank's quad has a clear in progress. -/
def quadClearing (s : State) (q : QuadId) : Bool := (List.finRange 96).any fun p => p.val / 24 = q.val && (s.granary.plots[p.val]).clearing

/-- One slot of a bank (R103): the clear engine in every 1,000th, the migration engine in slot 8 of 16, then the requests. -/
def slotGrant (s : State) (b : BankRef) (ecc : RowEcc) : State :=
  let x := bankOf s b
  let s := onBank s b fun x => { x with slots := x.slots + 1 }
  let requests := fun (s : State) =>
    match nextReq x with
    | some r => serve (onBank s b fun x => x.after r) b r ecc
    | none => s
  match b with
  | .hop _ _ => requests s
  | .gran i =>
    let q := quadOf i
    let sp := s.granary.spares[q.val]
    if x.slots % 1000 = 999 && quadClearing s q then s
    else if x.slots % 16 = 8 && sp.migrating && sp.lbank = inQuad i && sp.progress < 6143 then
      let s := migrateRow s i sp.progress ecc
      onGran s fun g => { g with spares := vmod g.spares q fun y => { y with progress := y.progress + 1 } }
    else requests s

/-- A corrected row is written back (R108). -/
def ceWriteback (s : State) (b : BankRef) : State := onBank s b fun x => { x with ceRows := x.ceRows.drop 1 }

/-! ### Patrol (05 R110) -/

/-- Length of a patrol pass in ns. -/
def patrolNs (cfg : Word) : Nat := (max 100 (bitsOf cfg 15 0)) * 1000000

/-- A patrol read of the bank's next row, once it is due; a CLEARING plot refuses it. -/
def patrolRead (s : State) (i : BankId) (ecc : RowEcc) : State :=
  let x := s.granary.banks[i.val]
  let p := patrolNs s.granary.scrubCfg
  if !bitOf s.granary.scrubCfg 31 || !elapsed s x.patrolFrom (x.patrolRow * p / 6144) then s
  else
    let a := bankAddr i x.patrolRow
    let s := if (s.granary.plots[(plotOf a).val]).clearing then s else (readOutcome s a ecc).2
    onBank s (.gran i) fun x =>
      if x.patrolRow < 6143 then { x with patrolRow := x.patrolRow + 1 }
      else
        let next := x.patrolFrom.toNat + p
        { x with patrolRow := 0, patrolFrom := if (now s).toNat < next then BitVec.ofNat 64 next else now s }

/-! ### FILL and COPY (05 R113, R114, R117; 12 R298) -/

/-- BANK_ENGINE_NEXT: an idle engine takes its next docket. -/
def engineNext (s : State) (q : QuadId) : State :=
  match s.granary.engine[q.val], s.granary.engineQ[q.val] with
  | none, j :: rest =>
    onGran s fun g =>
      { g with
        engineQ := vmod g.engineQ q fun _ => rest
        engine := vmod g.engine q fun _ =>
          some { job := j, src := none, dst := 0, rows := j.words[8].toNat, doneRows := 0, started := now s } }
  | _, _ => s

/-- One docket an engine runs, when it is of the command's opcode; it is done when the command ends. -/
def engineRun (s : State) (q : QuadId) (o : Opcode) (f : State → EngineJob → State) : State :=
  match s.granary.engine[q.val] with
  | none => s
  | some e =>
    if wOpcode e.job.words = some o then f (onGran s fun g => { g with engine := vmod g.engine q fun _ => none }) e else s

/-- Rows a docket asks for. -/
def EngineJob.rowCount (e : EngineJob) : Nat := e.job.words[8].toNat

/-- A FILL or COPY completes with a status, a subcode and the rows done. -/
def engineDone (s : State) (e : EngineJob) (st : Byte) (sub rows : Nat) : State := finishJob s e.job st sub 0 0 e.started rows 0

/-- A transfer reports the status it ended with and the rows it has done. -/
def engineReport (e : EngineJob) (r : NetStatus × Nat × State) : State :=
  engineDone r.2.2 e (netReceipt r.1).1 (netReceipt r.1).2 r.2.1

/-- BAD_RANGE of R114, but for an overlap. -/
def badRange (w : DocketWords) (addrs : List Nat) : Bool :=
  addrs.any (fun a => a % 512 ≠ 0) || w[8] = 0
    || (addrs.any (fun a => a < 2 ^ 47 && inOwnHop a) && maskCount (wMask w) ≠ 1)

/-- Write rows one after another: rows done and the first status that is not OK. -/
def fillGo (dst : Nat) (row : List Byte) : Nat → Nat → State → NetStatus × Nat × State
  | 0, k, s => (.ok, k, s)
  | n + 1, k, s =>
    match writeRowPart s none (dst + 512 * k) row with
    | (.ok, s) => fillGo dst row n (k + 1) s
    | (st, s) => (st, k, s)

/-- A row of a repeated 32-bit pattern. -/
def patternRow (v : Word) : List Byte := (List.replicate 128 (leBytes 4 v.toNat)).flatten

/-- The effective range of a FILL or COPY address, inside its window (05 R116, R117). -/
def jobRange (s : State) (e : EngineJob) (a : Nat) : Option Nat :=
  effRange s.granary.flat (jobMill e.job.words) e.job.win a (512 * e.rowCount)

/-- The effective address of a FILL or COPY address, inside its window or not. -/
def jobAddr (s : State) (e : EngineJob) (a : Nat) : Option Nat := effAddr s.granary.flat (jobMill e.job.words) e.job.win a

/-- FILL (05 R113, R114, R117). -/
def fillJob (s : State) (e : EngineJob) : State :=
  match jobStop s e.job with
  | some a => engineDone s e (abortStatus a) 0 0
  | none =>
    if badRange e.job.words [copyDst e.job.words] then engineDone s e stBound 0x13 0
    else match (localPart s.flume.nodeId (copyDst e.job.words)).bind (jobRange s e) with
      | none => engineDone s e stBound 0x08 0
      | some dst => engineReport e (fillGo dst (patternRow e.job.words[9]) e.rowCount 0 s)

/-- Copy rows: a poisoned source row is written poisoned and stops the docket, not counted (R109, R108). -/
def copyGo (src dst : Nat) : Nat → Nat → State → NetStatus × Nat × State
  | 0, k, s => (.ok, k, s)
  | n + 1, k, s =>
    let (st, bs, s) := readRange s none (src + 512 * k) 512
    match st with
    | .ok =>
      match writeRowPart s none (dst + 512 * k) bs with
      | (.ok, s) => copyGo src dst n (k + 1) s
      | (st, s) => (st, k, s)
    | .uncorr =>
      match placeStatus s none (dst + 512 * k) with
      | .ok =>
        let r := (dst + 512 * k) / 512
        (.uncorr, k, onGran s fun g => { g with poison := if g.poison.contains r then g.poison else r :: g.poison })
      | _ => (.uncorr, k, s)
    | st => (st, k, s)

/-- Rows of a remote source arrive: their contents are the other node's. -/
def remoteRows (dst : Nat) : Nat → Nat → State → NetStatus × Nat × State
  | 0, k, s => (.ok, k, s)
  | n + 1, k, s =>
    let (x, s) := draw s 4096
    match writeRowPart s none (dst + 512 * k) (leBytes 512 x.toNat) with
    | (.ok, s) => remoteRows dst n (k + 1) s
    | (st, s) => (st, k, s)

/-- Rows read for a remote destination, and what the network answers for them. -/
def sentRows (n : Nat) (net : NetStatus) (r : NetStatus × List Byte × State) : NetStatus × Nat × State :=
  let st := if r.1 = .ok then net else r.1
  (st, if st = .ok then n else 0, r.2.2)

/-- Half-open byte ranges overlap. -/
def rangesMeet (a b n : Nat) : Bool := decide (a < b + n) && decide (b < a + n)

/-- The ranges of a COPY overlap, judged on their effective addresses (05 R114). -/
def jobMeets (s : State) (e : EngineJob) (a b : Nat) : Bool :=
  match jobAddr s e a, jobAddr s e b with
  | some x, some y => rangesMeet x y (512 * e.rowCount)
  | _, _ => false

/-- COPY between two ranges of this node. -/
def copyHere (s : State) (e : EngineJob) (a b : Nat) : State :=
  if jobMeets s e a b then engineDone s e stBound 0x13 0
  else match jobRange s e a, jobRange s e b with
    | some x, some y => engineReport e (copyGo x y e.rowCount 0 s)
    | _, _ => engineDone s e stBound 0x08 0

/-- COPY to another node. -/
def copyAway (s : State) (e : EngineJob) (a : Nat) (net : NetStatus) : State :=
  match jobRange s e a with
  | none => engineDone s e stBound 0x08 0
  | some x => engineReport e (sentRows e.rowCount net (readRange s none x (512 * e.rowCount)))

/-- COPY from another node. -/
def copyFrom (s : State) (e : EngineJob) (b : Nat) (net : NetStatus) : State :=
  match jobRange s e b with
  | none => engineDone s e stBound 0x08 0
  | some y => if net ≠ .ok then engineReport e (net, 0, s) else engineReport e (remoteRows y e.rowCount 0 s)

/-- COPY: `net` is what the network answers for a remote operand (05 R113, R114; 12 R298). -/
def copyJob (s : State) (e : EngineJob) (net : NetStatus) : State :=
  match jobStop s e.job with
  | some a => engineDone s e (abortStatus a) 0 0
  | none =>
    if badRange e.job.words [copySrc e.job.words, copyDst e.job.words] then engineDone s e stBound 0x13 0
    else match localPart s.flume.nodeId (copySrc e.job.words), localPart s.flume.nodeId (copyDst e.job.words) with
      | none, none => engineDone s e stBound 0x08 0
      | some a, some b => copyHere s e a b
      | some a, none => copyAway s e a net
      | none, some b => copyFrom s e b net

/-! ### Plots, modes, spares (05 R121, R123, R125) -/

/-- Zero a range of memory; its poison goes with it. -/
def zeroMem (s : State) (a n : Nat) : State :=
  onGran { s with mem := zeroRange s.mem a n } fun g =>
    { g with poison := g.poison.filter fun r => !(decide (a / 512 ≤ r) && decide (r < (a + n) / 512)) }

/-- A write of PLOT_CFG: a changed OWNER or CLASS sets the plot CLEARING; its contents are zero from then on. -/
def plotCfg (s : State) (p : PlotId) (v : Word) : State :=
  let owner : Fin 8 := fin 8 (bitsOf v 6 4)
  let x := s.granary.plots[p.val]
  if x.owner = owner && x.cls = bitOf v 0 then s
  else zeroMem (onGran s fun g => { g with plots := vmod g.plots p fun _ => { clearing := true, owner := owner, cls := bitOf v 0 } })
    (p.val * 0x400000) 0x400000

/-- The clear of a quad's lowest CLEARING plot ends. -/
def plotCleared (s : State) (q : QuadId) : State :=
  match (List.finRange 96).find? fun p => p.val / 24 = q.val && (s.granary.plots[p.val]).clearing with
  | some p => onGran s fun g => { g with plots := vmod g.plots p fun x => { x with clearing := false } }
  | none => s

/-- Every Mill's dispatcher is empty. -/
def allIdle (s : State) : Bool := s.mills.all Mill.idle

/-- A write of GRAN_MODE: MODE_REJ is write-1-to-clear; a change of FLAT clears every Hopper and sets BUSY. -/
def granMode (s : State) (v : Word) : State :=
  let s := onGran s fun g => { g with modeRej := g.modeRej && !bitOf v 31 }
  if bitOf v 0 = s.granary.flat then s
  else if !allIdle s || s.granary.busy then onGran s fun g => { g with modeRej := true }
  else zeroMem (onGran s fun g => { g with flat := bitOf v 0, busy := true }) hopTop (16 * 0x01000000)

/-- MODE_SWITCH_DONE: the power change is complete. -/
def modeDone (s : State) : State :=
  if s.granary.busy then
    let s := onGran s fun g => { g with busy := false }
    { s with mills := s.mills.map fun x => { x with regs := { x.regs with hopPowered := !s.granary.flat } } }
  else s

/-- A write of SPARE_q. -/
def spareWrite (s : State) (q : QuadId) (v : Word) : State :=
  onGran s fun g =>
    { g with spares := vmod g.spares q fun x =>
        let x := { x with rej := x.rej && !bitOf v 29 }
        if x.used || x.migrating then { x with rej := x.rej || bitOf v 5 }
        else if bitOf v 5 then { x with lbank := fin 32 (bitsOf v 4 0), migrating := true, progress := 0 }
        else { x with lbank := fin 32 (bitsOf v 4 0) } }

/-- MIGRATION_DONE: row 6,143 is copied; the spare is in use. -/
def migrationDone (s : State) (q : QuadId) (ecc : RowEcc) : State :=
  let x := s.granary.spares[q.val]
  if x.migrating && x.progress = 6143 then
    let s := migrateRow s (fin 128 (32 * q.val + x.lbank.val)) 6143 ecc
    onGran s fun g => { g with spares := vmod g.spares q fun x => { x with progress := 6144, used := true, migrating := false } }
  else s

/-! ### Meanings -/

def execRdRow (pkt : Packet) (s : State) : Result := liveRows s fun s => rowPacket s pkt fun s => rowArrives s pkt
def execWrRow (pkt : Packet) (ecc : Ecc) (s : State) : Result :=
  liveRows s fun s => rowPacket s pkt fun s =>
    if ecc = .bad && admitted s pkt then
      respond (onNi s pkt.dst fun x => { x with e2eUe := bump x.e2eUe }) pkt .uncorr []
    else rowArrives s pkt
def execBankSlotGrant (bank : BankRef) (ecc : RowEcc) (s : State) : Result := liveRows s fun s => slotGrant s bank ecc
def execCeWriteback (bank : BankRef) (s : State) : Result := live s fun s => ceWriteback s bank
def execPatrolScrubRead (bank : BankId) (ecc : RowEcc) (s : State) : Result := liveRows s fun s => patrolRead s bank ecc
def execFill (q : QuadId) (s : State) : Result := liveRows s fun s => engineRun s q .fill fillJob
def execCopy (q : QuadId) (net : NetStatus) (s : State) : Result := liveRows s fun s => engineRun s q .copy fun s e => copyJob s e net
def execBankEngineNext (q : QuadId) (s : State) : Result := live s fun s => engineNext s q
def execPlotCfgWrite (p : PlotId) (v : Word) (s : State) : Result := live s fun s => plotCfg s p v
def execPlotClearDone (q : QuadId) (s : State) : Result := live s fun s => plotCleared s q
def execGranModeWrite (v : Word) (s : State) : Result := live s fun s => granMode s v
def execModeSwitchDone (s : State) : Result := live s modeDone
def execSpareGo (q : QuadId) (v : Word) (s : State) : Result := live s fun s => spareWrite s q v
def execMigrationDone (q : QuadId) (ecc : RowEcc) (s : State) : Result := liveRows s fun s => migrationDone s q ecc

end Sys2Proof.Machine
end

