-- ==== Sys2Proof/Machine/Clappers.lean ====
section
/-! DEFINITION. The Clapper: effects, triggers, braking, the library and touch sensing (15). -/

namespace Sys2Proof.Machine

/-! ### The library (15 R351) -/

/-- A directory entry (Table 15.2). -/
structure Effect where
  valid : Bool
  chan : Fin 2
  splice : Bool
  attOff : Nat
  attLen : Nat
  susRepeat : Nat
  susOff : Nat
  susLen : Nat
  brkLen : Nat
  brkOff : Nat
deriving DecidableEq, Repr

/-- Entry `e` of a library. -/
def effectOf (lib : Memory) (e : Fin 64) : Effect :=
  let d := fun i => readW lib (16 * e.val + 4 * i)
  { valid := bitOf (d 0) 31, chan := if bitOf (d 0) 30 then 1 else 0, splice := bitOf (d 0) 29, attOff := bitsOf (d 0) 16 0,
    attLen := bitsOf (d 2) 15 0, susRepeat := bitsOf (d 1) 31 24, susOff := bitsOf (d 1) 16 0, susLen := bitsOf (d 2) 31 16,
    brkLen := bitsOf (d 3) 27 17, brkOff := bitsOf (d 3) 16 0 }

/-- Sample at an offset. -/
def libSample (lib : Memory) (o : Nat) : Int := (BitVec.ofNat 16 (readLe lib (1024 + 2 * o) 2)).toInt

/-- The checks of R353 step 3 on a VALID entry; the braking segment counts on the piezo only. -/
def Effect.ok (x : Effect) : Bool :=
  1 ≤ x.attLen && x.attOff + x.attLen ≤ 130560 && (x.susRepeat = 0 || x.susOff + x.susLen ≤ 130560)
    && (x.chan = 1 || (x.brkLen ≤ 1600 && x.brkOff + x.brkLen ≤ 130560))

/-- Every VALID entry of a library passes its checks. -/
def libraryOk (lib : Memory) : Bool := (List.finRange 64).all fun e => !(effectOf lib e).valid || (effectOf lib e).ok

/-! ### Registers (15 Table 15.4) -/

def Clapper.en (x : Clapper) : Bool := bitOf x.ctl 31
def Clapper.sense (x : Clapper) : Bool := bitOf x.ctl 30
def Clapper.touchBell (x : Clapper) : BellId := fin 256 (bitsOf x.ctl 15 8)
/-- BRAKE_MAX in samples, at most 1,600 (R352). -/
def ClapChannel.brakeMax (c : ClapChannel) : Nat := stopAt 1600 (bitsOf c.brake 10 0)
def ClapChannel.brakeGain (c : ClapChannel) : Nat := bitsOf c.brake 31 24

/-- Count TRIG_DROPPED, TRIG_REFUSED or EVT_LOST. -/
def Clapper.count (x : Clapper) (i : Fin 3) : Clapper := { x with counters := vmod x.counters i fun v => bump v }

/-- Change a channel. -/
def Clapper.onChan (x : Clapper) (c : Fin 2) (f : ClapChannel → ClapChannel) : Clapper := { x with chans := vmod x.chans c f }

/-- The effect a channel plays. -/
def Clapper.effect (x : Clapper) (c : Fin 2) : Effect := effectOf x.library (x.chans[c.val]).fx

/-! ### What a channel drives (15 R349, R350, R352, R356) -/

/-- Sample number within the present segment. -/
def segSample (t : Word64) (c : ClapChannel) : Nat := (t.toNat - c.since.toNat) / 5000

/-- The sample a channel drives at a time: 0 while EN is 0 or the channel is IDLE. -/
def Clapper.sample (x : Clapper) (c : Fin 2) (t : Word64) : Int :=
  let ch := x.chans[c.val]
  let e := x.effect c
  let k := segSample t ch
  let sign : Int := if ch.negate then -1 else 1
  if !x.en then 0
  else match ch.state with
    | .idle => 0
    | .attack => sign * libSample x.library (e.attOff + k)
    | .sustain => sign * libSample x.library (e.susOff + k % e.susLen)
    | .braking => if c = 1 then ch.drive else if k < e.brkLen then sign * libSample x.library (e.brkOff + k) else 0

/-- The duty counts on CLP_VC_A and CLP_VC_B of a voice coil sample: round(abs(s) * 1,000 / 32,768). -/
def coilDuty (v : Int) : Nat × Nat :=
  let d := (v.natAbs * 1000 * 2 + 32768) / 65536
  if 0 < v then (d, 0) else if v < 0 then (0, d) else (0, 0)

/-! ### Playing (15 R352, R355, R356, R358) -/

/-- Start an effect on its channel, its first sample at `at0`. -/
def Clapper.play (x : Clapper) (c : Fin 2) (fx : Fin 64) (negate : Bool) (at0 : Word64) : Clapper :=
  x.onChan c fun ch =>
    { ch with state := .attack, latched := none, fx := fx, negate := negate, since := at0, emf := none, quiet := 0, drive := 0, endAt := none }

/-- A channel goes into braking, its first braking sample at `at0`. -/
def Clapper.brakeFrom (x : Clapper) (c : Fin 2) (at0 : Word64) : Clapper :=
  x.onChan c fun ch => { ch with state := .braking, since := at0, emf := none, quiet := 0, drive := 0, endAt := none }

/-- Device time of the end of `n` samples of the present segment. -/
def segEnd (c : ClapChannel) (n : Nat) : Word64 := BitVec.ofNat 64 (c.since.toNat + 5000 * n)

/-- ATTACK_END: SUS_REPEAT above 0 goes on to the sustain, else to braking. -/
def attackEnd (s : State) (c : Fin 2) : State :=
  onClapper s fun x =>
    let ch := x.chans[c.val]
    let e := x.effect c
    let t := segEnd ch e.attLen
    if ch.state ≠ .attack || now s < t then x
    else if e.susRepeat = 0 then x.brakeFrom c t
    else x.onChan c fun ch => { ch with state := .sustain, since := t }

/-- SUSTAIN_END: after SUS_REPEAT plays, braking. -/
def sustainEnd (s : State) (c : Fin 2) : State :=
  onClapper s fun x =>
    let ch := x.chans[c.val]
    let e := x.effect c
    let t := segEnd ch (e.susRepeat * e.susLen)
    if ch.state ≠ .sustain || now s < t then x else x.brakeFrom c t

/-- Signs of two samples in turn differ; zero counts as positive. Some true: the signal fell through zero. -/
def crossing (a b : Int) : Option Bool := if a < 0 && 0 ≤ b then some false else if 0 ≤ a && b < 0 then some true else none

/-- The latched effect of a channel is spliced. -/
def Clapper.spliced (x : Clapper) (c : Fin 2) : Bool :=
  match (x.chans[c.val]).latched with
  | some (fx, _) => (effectOf x.library fx).splice
  | none => false

/-- Braking is over at a time: the channel is IDLE, or its latched effect starts. -/
def Clapper.brakeOver (x : Clapper) (c : Fin 2) (negate : Bool) (t : Word64) : Clapper :=
  match (x.chans[c.val]).latched with
  | some (fx, _) => x.play c fx negate t
  | none => x.onChan c fun ch => { ch with state := .idle, drive := 0 }

/-- First braking sample, from `k` on, at which the stored signal of the piezo has changed sign, among `n`. -/
def signChange (lib : Memory) (e : Effect) (sign : Int) (k : Nat) : Nat → Option (Nat × Bool)
  | 0 => none
  | n + 1 =>
    let v := fun i => sign * libSample lib (e.brkOff + i)
    if k = 0 then signChange lib e sign 1 n
    else match crossing (v (k - 1)) (v k) with
      | some fell => some (k, fell)
      | none => signChange lib e sign (k + 1) n

/-- BRAKING_END: the voice coil after its second quiet sample or BRAKE_MAX samples; the piezo after its stored samples, or
after the sign change that a spliced trigger waits for. -/
def brakingEnd (s : State) (c : Fin 2) : State :=
  onClapper s fun x =>
    let ch := x.chans[c.val]
    let e := x.effect c
    if ch.state ≠ .braking then x
    else if c = 1 then
      let t := ch.endAt.getD (segEnd ch ch.brakeMax)
      if now s < t then x else x.brakeOver c false t
    else
      let cut := match ch.latched with
        | some (_, k) => if x.spliced c then signChange x.library e (if ch.negate then -1 else 1) k (e.brkLen - k) else none
        | none => none
      match cut with
      | some (k, fell) => if now s < segEnd ch (k + 1) then x else x.brakeOver c fell (segEnd ch (k + 1))
      | none => if now s < segEnd ch e.brkLen then x else x.brakeOver c false (segEnd ch e.brkLen)

/-- BRAKE_EMF_SAMPLE: the drive of the four periods that follow, the quiet count, and the splice at a sign change. -/
def brakeEmf (s : State) (v : BitVec 16) : State :=
  onClapper s fun x =>
    let ch := x.chans[1]
    if ch.state ≠ .braking then x
    else
      let next := segEnd ch (segSample (now s) ch + 1)
      let quiet := if v.toInt.natAbs < ch.brakeStop.toNat then ch.quiet + 1 else 0
      let cross := match ch.emf with | some a => crossing a.toInt v.toInt | none => none
      match x.spliced 1, cross with
      | true, some fell => x.brakeOver 1 fell next
      | _, _ =>
        let d := (-(ch.brakeGain * v.toInt)) / 16
        x.onChan 1 fun ch =>
          { ch with emf := some v
                    quiet := quiet
                    endAt := if quiet = 2 then some (if next < segEnd ch ch.brakeMax then next else segEnd ch ch.brakeMax) else ch.endAt
                    drive := if d < -32767 then -32767 else if 32767 < d then 32767 else d }

/-- STOP: ATTACK and SUSTAIN go into braking at the next sample; a latched trigger is discarded. -/
def Clapper.stop (x : Clapper) (c : Fin 2) (t : Word64) : Clapper :=
  let ch := x.chans[c.val]
  let x := x.onChan c fun ch => { ch with latched := none }
  if ch.state = .attack || ch.state = .sustain then x.brakeFrom c (segEnd ch (segSample t ch + 1)) else x

/-! ### Triggers (15 R354, R355) -/

/-- A trigger naming an effect, from source `rank` of the order of R354 (pins 0-3, touch 4, register 5), its first sample
`delay` ns later. Two triggers on a channel at one device time are in one cycle: the first in the order acts. -/
def Clapper.trigger (x : Clapper) (fx : Fin 64) (rank delay : Nat) (t : Word64) : Clapper :=
  let e := effectOf x.library fx
  if x.loading || !x.libValid || !e.valid then x.count 1
  else
    let c := e.chan
    let ch := x.chans[c.val]
    let same := match ch.trigAt with | some (u, r) => if u = t then some r else none | none => none
    let mark := fun (x : Clapper) => x.onChan c fun ch => { ch with trigAt := some (t, rank) }
    let take := fun (x : Clapper) =>
      if ch.state = .braking then mark (x.onChan c fun ch => { ch with latched := some (fx, segSample t ch) })
      else mark (x.play c fx false (BitVec.ofNat 64 (t.toNat + delay)))
    match same with
    | some r => if rank < r then take (x.count 0) else x.count 0
    | none => if ch.state = .braking && ch.latched.isSome then x.count 0 else take x

/-- CLP_TRIG_EDGE: a pin's edge after its filter, 42 CK_PER before the first sample. -/
def pinEdge (s : State) (p : Fin 4) : State :=
  onClapper s fun x =>
    let w := x.pins[p.val]
    if bitOf w 31 then x.trigger (fin 64 (bitsOf w 5 0)) p.val 210 (now s) else x

/-- A write of TRIG: 40 CK_PER before the first sample. -/
def trigWrite (s : State) (c : Fin 2) : State :=
  onClapper s fun x => x.trigger (x.chans[c.val]).trigFx 5 200 (now s)

/-! ### CLAP_LOAD (15 R353) -/

/-- Both channels are IDLE. -/
def Clapper.quietBoth (x : Clapper) : Bool := x.chans.all fun c => c.state = .idle

/-- The library is copied and checked. -/
def loadLibrary (s : State) (j : Job) (rest : List Job) (a : Nat) : State :=
  let s := onControl s fun k => { k with fwQueue := rest }
  let (st, bs, s) := readRange s none a 262144
  let s := onClapper s fun x => { x with loading := false }
  if st ≠ .ok then fwDone s j (netReceipt st).1 (netReceipt st).2
  else
    let lib := writeBytes [] 0 bs
    let ok := libraryOk lib
    fwDone (onClapper s fun x => { x with library := lib, libValid := ok }) j (if ok then stOk else stFormat) (if ok then 0 else 0x80)

/-- LOADING and STOP on both channels; once both are IDLE the image is copied. -/
def clapGo (s : State) (j : Job) (rest : List Job) (a : Nat) : State :=
  let x := s.clapper
  let x := if x.loading then x else ({ x with loading := true }.stop 0 (now s)).stop 1 (now s)
  if x.quietBoth then loadLibrary { s with clapper := x } j rest a else { s with clapper := x }

/-- CLAP_LOAD: its descriptor, the range it names, and the load. -/
def clapLoad (s : State) : State :=
  match headJob s.control.fwQueue .clapLoad with
  | none => s
  | some (j, rest) =>
    let m := jobMill j.words
    let refuse := fun (s : State) (st : Byte) (sub : Nat) => fwDone (onControl s fun k => { k with fwQueue := rest }) j st sub
    match descWords s j.win j.words[4] with
    | none => refuse s stBound 0x08
    | some ws =>
      let st := rowStatus s none ((j.win.base + j.words[4].toNat * 64) / 512 * 512)
      if st ≠ .ok then refuse s (netReceipt st).1 (netReceipt st).2
      else match effRange s.granary.flat m j.win (descOf ws).base 262144 with
        | none => refuse s stBound 0x08
        | some a => clapGo s j rest a

/-! ### Touch sensing (15 R359-R361) -/

/-- An event enters the FIFO with TOUCH_BELL; a full FIFO discards it. -/
def postTouch (s : State) (e : TouchEvent) : State :=
  if s.clapper.events.length < 16 then
    raiseBell (onClapper s fun x => { x with events := x.events ++ [e] }) s.clapper.touchBell
  else onClapper s fun x => x.count 2

/-- UNT_LO <= r <= UNT_HI. -/
def Clapper.untouchedRange (x : Clapper) (r : Nat) : Bool := decide (bitsOf x.untouched 15 0 ≤ r) && decide (r ≤ bitsOf x.untouched 31 16)

def Clapper.touchDelta (x : Clapper) : Nat := bitsOf x.deltas 15 0
def Clapper.releaseDelta (x : Clapper) : Nat := bitsOf x.deltas 31 16
def Clapper.maxTouchNs (x : Clapper) : Nat := atLeast1 (bitsOf x.timing 31 24) * 1000000000
def Clapper.trackShift (x : Clapper) : Nat := bitsOf x.timing 3 0

/-- A PRESS: its FORCE is not stated; the touch begins with the largest r - b `d`; TOUCH_FX triggers. -/
def press (s : State) (d : BitVec 16) : State :=
  let (f, s) := draw s 16
  let s := postTouch s { time := now s, force := f, rel := s.clapper.relative, type := 0 }
  let s := onClapper s fun x => { x with tstate := .touched, t0 := now s, run := 0, force := d }
  if bitOf s.clapper.ctl 27 then onClapper s fun x => x.trigger (fin 64 (bitsOf x.ctl 21 16)) 4 200 (now s) else s

/-- An END or STUCK carries the largest r - b of the touch; its REL is not stated. -/
def touchOver (s : State) (type : BitVec 2) : State :=
  let (rel, s) := draw s 1
  postTouch s { time := now s, force := s.clapper.force, rel := rel = 1, type := type }

/-- One reading in the state IDLE. -/
def readIdle (s : State) (r : BitVec 16) : State :=
  let x := s.clapper
  let d : Int := r.toNat - x.baseline.toNat
  let hit := decide ((x.touchDelta : Int) ≤ d)
  if hit && x.run = 2 then press s (BitVec.ofInt 16 d)
  else
    let s := onClapper s fun x => { x with run := if hit then x.run + 1 else 0 }
    if x.relative && (x.releaseDelta : Int) < -d then onClapper s fun x => { x with settle := 8, tstate := .settling, run := 0 }
    else onClapper s fun x => { x with baseline := BitVec.ofInt 16 (x.baseline.toNat + d / (2 ^ x.trackShift : Int)) }

/-- One reading in the state TOUCHED. -/
def readTouched (s : State) (r : BitVec 16) : State :=
  let d : Int := r.toNat - s.clapper.baseline.toNat
  let s := onClapper s fun x => { x with force := if (x.force.toNat : Int) < d then BitVec.ofInt 16 d else x.force }
  let x := s.clapper
  let low := decide (2 * d < x.touchDelta)
  if low && x.run = 2 then onClapper (touchOver s 1) fun x => { x with tstate := .idle, run := 0 }
  else
    let s := onClapper s fun x => { x with run := if low then x.run + 1 else 0 }
    if elapsed s x.t0 x.maxTouchNs then
      onClapper (touchOver s 2) fun x => { x with stuck := true, baseline := r, relative := true, tstate := .idle, run := 0 }
    else s

/-- TOUCH_READING: one pass of R360, while SENSE_EN is 1 and the piezo channel is IDLE. -/
def touchReading (s : State) (r : BitVec 16) : State :=
  let x := s.clapper
  if !x.sense || (x.chans[0]).state ≠ .idle then s
  else
    let s := onClapper s fun x => { x with reading := r }
    let calm := x.untouchedRange r.toNat
    match x.tstate with
    | .boot =>
      onClapper s fun x =>
        if calm then { x with baseline := r, tstate := .idle, run := 0 }
        else { x with panelPresent := true, peak := r, t0 := now s, tstate := .deferred }
    | .deferred =>
      onClapper s fun x =>
        let p := if x.peak < r then r else x.peak
        let x := { x with peak := p }
        if x.releaseDelta < p.toNat - r.toNat then { x with settle := 8, tstate := .settling }
        else if elapsed s x.t0 30000000000 then { x with baseline := r, relative := true, tstate := .idle, run := 0 }
        else x
    | .settling =>
      onClapper s fun x =>
        if 1 < x.settle then { x with settle := x.settle - 1 }
        else { x with settle := 0, baseline := r, tstate := .idle, run := 0, relative := x.relative && !calm }
    | .idle => readIdle s r
    | .touched => readTouched s r

/-- A write of CLP_CTL: EVT_POP removes the oldest event; SENSE_EN set anew starts at BOOT. -/
def clpCtl (s : State) (v : Word) : State :=
  onClapper s fun x =>
    let x := if bitOf v 30 && !x.sense then { x with tstate := .boot, run := 0 } else x
    { x with ctl := v &&& 0xC83FFF00, events := if bitOf v 26 then x.events.drop 1 else x.events }

/-! ### Meanings -/

def execClpTrigEdge (p : Fin 4) (s : State) : Result := live s fun s => pinEdge s p
def execTrig (c : Fin 2) (s : State) : Result := live s fun s => trigWrite s c
def execStop (c : Fin 2) (s : State) : Result := live s fun s => onClapper s fun x => x.stop c (now s)
def execAttackEnd (c : Fin 2) (s : State) : Result := live s fun s => attackEnd s c
def execSustainEnd (c : Fin 2) (s : State) : Result := live s fun s => sustainEnd s c
def execBrakeEmfSample (v : BitVec 16) (s : State) : Result := live s fun s => brakeEmf s v
def execBrakingEnd (c : Fin 2) (s : State) : Result := live s fun s => brakingEnd s c
def execClapLoad (s : State) : Result := liveRows s clapLoad
def execTouchReading (r : BitVec 16) (s : State) : Result := liveRows s fun s => touchReading s r
def execEvtPop (s : State) : Result := live s fun s => onClapper s fun x => { x with events := x.events.drop 1 }

end Sys2Proof.Machine
end

