-- ==== Sys2Proof/Machine/Sequences.lean ====
section
/-! DEFINITION. Management records, the steps of service sequences, and the report records of tests (16 R379, R380; 17 R396,
R400, R403, R404). -/

namespace Sys2Proof.Machine

/-! ### Management records (17 Table 17.2, Table 17.7) -/

/-- Codes of the unit states. -/
def UnitState.code : UnitState → Nat
  | .offline => 0
  | .isolated => 1
  | .testing => 2
  | .standby => 3
  | .online => 4
  | .draining => 5
  | .degraded => 6

/-- The state of a code; 7 is none. -/
def UnitState.ofCode (n : Nat) : Option UnitState :=
  [UnitState.offline, .isolated, .testing, .standby, .online, .draining, .degraded][n]?

/-- ADMIT of every interface of a unit in a state (17 Table 17.2). -/
def UnitState.admits : UnitState → Bool
  | .online | .draining | .degraded => true
  | _ => false

/-- Change the record of a unit. -/
def onUnit (s : State) (u : Nat) (f : UnitRec → UnitRec) : State :=
  onService s fun x => if h : u < 43 then { x with units := vmod x.units ⟨u, h⟩ f } else x

/-- STATE of a unit; OFFLINE for the reserved identifiers. -/
def unitState (s : State) (u : Nat) : UnitState := ((unitRec s u).map (·.state)).getD .offline

/-- EPOCH of a unit. -/
def unitEpoch (s : State) (u : Nat) : Byte := ((unitRec s u).map (·.epoch)).getD 0

/-! ### Sequences (17 Table 17.4) -/

/-- The sequence that runs on a unit. -/
def seqOf (s : State) (u : Nat) : Option Sequence := s.service.sequences.find? fun q => q.unit.val = u

/-- Change the sequence of a unit. -/
def onSeq (s : State) (u : Nat) (f : Sequence → Sequence) : State :=
  onService s fun x => { x with sequences := x.sequences.map fun q => if q.unit.val = u then f q else q }

/-- The present step of the sequence on a unit. -/
def stepAt (s : State) (u : Nat) (k : SvcStep) : Option Sequence :=
  match seqOf s u with
  | some q => if q.todo.head? = some k then some q else none
  | none => none

/-- A sequence ends: STEP 0, and the receipt of its docket: TILES the steps, DETAIL the epoch and the dockets stopped; a
drain that timed out gives TIMEOUT, DRAIN_EXPIRED (17 R400, R405). -/
def seqEnd (s : State) (q : Sequence) : State :=
  let u := q.unit.val
  let s := onUnit s u fun r => { r with step := 0 }
  let s := onService s fun x => { x with sequences := x.sequences.filter fun y => y.unit ≠ q.unit }
  match q.job with
  | none => s
  | some j =>
    let (st, sub) : Byte × Nat := if q.expired then (stTimeout, 0x82) else (stOk, 0)
    finishJob s j st sub (stopAt 255 q.stopped) (unitEpoch s u).toNat q.since q.done 0

/-- The present step of a sequence begins: the record first (17 R403). -/
def stepBegin (s : State) (u : Nat) : State :=
  match seqOf s u with
  | none => s
  | some q =>
    match q.todo with
    | [] => seqEnd s q
    | .drain :: _ =>
      onSeq (onUnit s u fun r => { r with step := 1, state := .draining }) u fun q => { q with since := now s }
    | .isolate :: _ => onUnit s u fun r => { r with step := 2, state := .isolated }
    | .test :: _ =>
      match q.slice with
      | none => s
      | some (part, sel) =>
        let s := if q.todo.length = 1 then s else onUnit s u fun r => { r with state := .testing }
        onAssay s fun a => { a with test := some { unit := q.unit, part := part, sel := sel, started := now s, job := none } }
    | .reset :: _ => onUnit s u fun r => { r with step := 3 }
    | .reinit :: _ => onUnit s u fun r => { r with step := 4, state := .standby }
    | .rejoin :: _ => onUnit s u fun r => { r with step := 5 }

/-- The present step of the sequence on a unit has ended: the next begins. -/
def stepEnd (s : State) (u : Nat) : State :=
  stepBegin (onSeq s u fun q => { q with todo := q.todo.drop 1, done := q.done + 1, restored := false }) u

/-- A sequence starts on a unit. -/
def seqStart (s : State) (u : UnitId) (job : Option Job) (todo : List SvcStep) (target : UnitState)
    (qmap : Option (BitVec 18)) (slice : Option (Nat × Word)) : State :=
  let q : Sequence :=
    { unit := u, job := job, todo := todo, done := 0, target := target, since := now s, stopped := 0, expired := false,
      restored := false, shadow := .none, qmap := qmap, slice := slice }
  stepBegin (onService s fun x => { x with sequences := x.sequences ++ [q] }) u.val

/-! ### Report records (16 R380, Table 16.6) -/

/-- Records of the report ring. -/
def Assay.reportDepth (a : Assay) : Nat := 2 ^ clampNat 4 12 (bitsOf a.reportCfg 3 0)

/-- The ring is full: Assay starts no test. -/
def Assay.reportFull (a : Assay) : Bool := decide (a.reportDepth ≤ a.reportHeld)

/-- How a test ended: RESULT, receipt status and subcode, repairs, fuse entries, words r6-r11. -/
structure TestEnd where
  result : Nat
  status : Byte
  sub : Nat
  repairs : Nat
  entries : Nat
  a : Word64
  b : Word64
  firstFail : Word
  firstBit : Word
deriving DecidableEq, Repr

/-- TEST of w5. -/
def Test.kind (t : Test) : Nat := bitsOf t.sel 3 0

/-- The 64 bytes of a report record. -/
def reportBytes (s : State) (t : Test) (e : TestEnd) : List Byte :=
  wordBytes ([img (e.result * 2 ^ 24 + t.kind * 2 ^ 16 + t.part % 256 * 2 ^ 8 + t.unit.val),
              img (stopAt 65535 e.repairs * 2 ^ 16 + stopAt 65535 e.entries)]
    ++ words64 t.started ++ words64 (now s) ++ words64 e.a ++ words64 e.b ++ [e.firstFail, e.firstBit, 0, 0, 0, 0])

/-- Write a report record at REPORT_TAIL. -/
def writeReport (s : State) (t : Test) (e : TestEnd) : State :=
  let a := s.assay
  let addr := a.reportBase.toNat + a.reportTail.toNat % a.reportDepth * 64
  let s := (writeRange s none addr (reportBytes s t e)).2
  onAssay s fun a => { a with reportTail := a.reportTail + 1, reportHeld := a.reportHeld + 1 }

/-- A test ends: its report, its counts, its unit back in ISOLATED, its docket's receipt (16 R377, R379). -/
def endTest (s : State) (t : Test) (e : TestEnd) : State :=
  let s := writeReport s t e
  let failed := e.result = 1 || e.result = 3
  let s := onAssay s fun a =>
    { a with test := none, slicesRun := bump a.slicesRun, slicesFailed := if failed then bump a.slicesFailed else a.slicesFailed,
             repairsSoft := bump a.repairsSoft e.repairs }
  let s := onUnit s t.unit.val fun r => if r.state = .testing then { r with state := .isolated } else r
  match t.job with
  | none => s
  | some j => finishJob s j e.status e.sub 0 (stopAt 65535 e.repairs) t.started 1 0

/-- A test is aborted: RESULT 4, TARGET_OFFLINE, subcode ABORTED. -/
def abortTest (s : State) (t : Test) : State :=
  let s := endTest s t { result := 4, status := stOffline, sub := 0x84, repairs := 0, entries := 0, a := 0, b := 0,
                         firstFail := 0, firstBit := 0 }
  if t.job.isNone then stepEnd s t.unit.val else s

/-- A lane swap needs the spare lane of a port: a PRBS31 test of it is aborted at once (16 R376). -/
def abortPrbs (s : State) (p : FlumeId) : State :=
  match s.assay.test with
  | none => s
  | some t => if t.unit.val = 22 + p.val && 2 ≤ t.kind && t.part = 16 then abortTest s t else s

end Sys2Proof.Machine
end

