-- ==== Sys2Proof/Machine/Flumes.lean ====
section
/-! DEFINITION. The Flume ports: training, the link layer, lane swaps, routes, windows and packets (12). -/

namespace Sys2Proof.Machine

/-! ### Registers (R302, R303) -/

def FlumePort.en (f : FlumePort) : Bool := bitOf f.ctl 31
def FlumePort.width8En (f : FlumePort) : Bool := bitOf f.ctl 26
def FlumePort.spareEn (f : FlumePort) : Bool := bitOf f.ctl 25
def FlumePort.autoRetrain (f : FlumePort) : Bool := bitOf f.ctl 24
/-- RATE; 3 acts as 2. -/
def FlumePort.rate (f : FlumePort) : Nat := let r := bitsOf f.ctl 28 27; if r = 3 then 2 else r
/-- Count an event: FEC_CORR, FEC_UNCORR, CRC_ERR, REPLAYS, LANE_SWAPS, LINK_DOWNS, MISROUTE, BOUND_REFUSED. -/
def FlumePort.count (f : FlumePort) (i : Fin 8) (n : Nat := 1) : FlumePort := { f with counters := vmod f.counters i fun x => bump x n }
/-- A control flit sent: its header acknowledges the last flit accepted and carries the credit count of the next VN (R279,
R281). -/
def FlumePort.control (f : FlumePort) (kind : Nat) (lane : Fin 16 := 0) (immediate : Bool := false) (seq : BitVec 16 := 0)
    (nak : Bool := false) (param : Option (BitVec 16 × NodeId × FlumeId) := none) : FlumePort :=
  { f with
    crNext := f.crNext + 1
    ctrlOut := { kind := kind, lane := lane, immediate := immediate, seq := seq, param := param, ack := f.rxNext - 1, nak := nak,
                 crVn := f.crNext, crCnt := f.freed[f.crNext.val] } :: f.ctrlOut }

/-- FAIL codes (Table 12.7). -/
def failGroup : BitVec 4 := 1
def failNode : BitVec 4 := 2
def failTrain : BitVec 4 := 3
def failRetry : BitVec 4 := 4
def failRecover : BitVec 4 := 5
def failPeer : BitVec 4 := 6

/-- The half of a port that serves a network interface of this node: A for quads 0 and 1 (R255). -/
def flumeHalf (p : FlumeId) (n : NiId) : NiId := fin 64 (36 + 2 * p.val + (if niQuad n < 2 then 0 else 1))

/-! ### Flits (R280, R281) -/

/-- The flits up to and including an acknowledged number leave the retry buffer (R280). -/
def ackTo (ack : BitVec 10) (l : List TxFlit) : List TxFlit :=
  if l.any (·.seq = ack) then (l.dropWhile (·.seq ≠ ack)).drop 1 else l

/-- One packet of an accepted flit has left the port: a flit all of whose packets have left frees its credit (R281). -/
def FlumePort.leftPort (f : FlumePort) (x : FlumePacket) : FlumePort :=
  match f.arrived.find? fun a => a.2.contains x with
  | none => f
  | some a =>
    let a' := (a.1, a.2.erase x)
    if a'.2.isEmpty then { f with arrived := f.arrived.erase a, freed := vmod f.freed a.1 fun n => n + 1 }
    else { f with arrived := f.arrived.map fun b => if b = a then a' else b }

/-! ### Answers to remote and local initiators (R290, R292, R300) -/

/-- The response to a packet, over this node's entry for its origin (R290). -/
def answerBack (s : State) (x : FlumePacket) (st : NetStatus) (data : List Byte) : State :=
  match nodeRoute s x.srcNode with
  | none => s
  | some (hops, ports, first) =>
    toEgress s first
      { dstNode := x.srcNode, srcNode := s.flume.nodeId, hptr := 0, hops := hops, ports := ports,
        kind := if x.kind = 0 then 2 else if x.kind = 1 then 3 else 5, sub := true, vn := if x.vn = 3 then 3 else 1,
        origNi := x.origNi, origTag := x.origTag, status := st, addr := x.addr, xinfo := x.xinfo, data := data }

/-- Hand a response to the interface of this node that asked: TAG = ORIG_TAG, SRC the port's half, EPOCH that half's own
(R292). -/
def handBack (s : State) (p : FlumeId) (x : FlumePacket) (st : NetStatus) : State :=
  let half := flumeHalf p x.origNi
  let ni := s.net.nis[half.val]
  let r := ni.routes[x.origNi.val]
  let pkt : Packet :=
    { route := BitVec.ofNat 24 r.toNat, rptr := 0, rlen := BitVec.ofNat 3 (routeLen r), vn := if x.vn = 3 then 3 else 1, sub := true,
      lane := false, kind := x.kind, src := half, dst := x.origNi, gen := BitVec.ofNat 4 (x.origTag.toNat / 256),
      slot := fin 256 x.origTag.toNat, epoch := ni.epoch, status := st, addr := x.addr, xinfo := x.xinfo,
      payload := if st = .ok then x.data else [] }
  onNet s fun n => { n with sent := n.sent ++ [pkt] }

/-- Answer a request that cannot go on with LINK_DOWN: directly for an initiator of this node, else along the return route
(R300). -/
def linkDown (p : FlumeId) (s : State) (x : FlumePacket) : State :=
  if x.sub || 8 ≤ x.kind.toNat then s
  else if x.srcNode = s.flume.nodeId then
    handBack s p { x with kind := if x.kind = 0 then 2 else if x.kind = 1 then 3 else 5 } .linkDown
  else answerBack s x .linkDown []

/-- A request with a tag is still outstanding at an interface. -/
def Ni.waits (x : Ni) (tag : BitVec 12) : Bool := (x.slotOf (fin 256 tag.toNat) (BitVec.ofNat 4 (tag.toNat / 256))).isSome

/-- A port leaves ACTIVE for good (R300): it goes to DOWN or OFF. -/
def portDown (s : State) (p : FlumeId) (st : TrainState) (fail : BitVec 4) : State :=
  let f := s.flume.ports[p.val]
  if f.state = .active || f.state = .recover then
    let held := f.retry.flatMap (·.packets) ++ f.egress.toList.flatten
    let all := held ++ f.routed.filter fun x => !held.contains x && (s.net.nis[x.origNi.val]).waits x.origTag
    let s := onPort s p fun f =>
      { f.count 5 with
        state := st, fail := fail, downAt := now s, retry := [], egress := .replicate 5 [], headSent := .replicate 5 0, waits := .replicate 5 0, routed := [], swap := none,
        nakSent := false }
    all.foldl (linkDown p) s
  else onPort s p fun f => { f with state := st, fail := fail, downAt := now s }

/-! ### Training (R277, R278) -/

/-- DETECT begins at the rate the next attempt takes (R278). -/
def FlumePort.detect (f : FlumePort) : FlumePort :=
  { f with state := .detect, fail := 0, widthNow := false, rateNow := f.rate = 1 || (f.rate = 2 && decide (2 ≤ f.attempts112)) }

/-- The receiver asks for a swap of a lane (R285, R286); a PRBS test of the spare lane is aborted (16 R376).  The spec does not
say which SWAP_SEQ it names (DESIGN CHOICE, log entry 28: a free value). -/
def beginSwap (s : State) (p : FlumeId) (lane : Fin 16) (immediate : Bool) : State :=
  let (seq, s) := draw (abortPrbs s p) 16
  onPort s p fun f =>
    { f with swap := some { lane := lane, immediate := immediate, acked := false, seq := seq, fromPeer := false } }.control 1 lane
      immediate seq

/-- A planned swap may begin: the port is ACTIVE, the spare is enabled and unused, and no swap is under way. -/
def FlumePort.canSwap (f : FlumePort) : Bool := f.state = .active && f.spareEn && !f.spareUsed && f.swap.isNone

/-- PORT_CTL written: EN starts the training, or takes the port down with a DISABLE flit to its peer; SWAP_REQ begins a
planned swap. -/
def portCtl (s : State) (p : FlumeId) (v : Word) : State :=
  let f := s.flume.ports[p.val]
  let s := onPort s p fun f => { f with ctl := v &&& 0xFF1FFFFF }
  if bitOf v 31 && !f.en then onPort s p fun f => { f with attempts112 := 0 }.detect
  else if !bitOf v 31 && f.en then
    portDown (onPort s p fun f => f.control 4) p .off 0
  else if bitOf v 23 && (s.flume.ports[p.val]).canSwap then beginSwap s p (fin 16 (bitsOf v 20 16)) false
  else s

/-- A training state is left for the next one. -/
def train (s : State) (p : FlumeId) (at_ : TrainState) (f : FlumePort → FlumePort) : State :=
  onPort s p fun x => if x.state = at_ then f x else x

/-- The lane map a receiver detects (R277): logical lane 16 is the spare. -/
def laneMap (old : Vector LaneReg 17) (map : Vector (Fin 17 × Bool) 17) : Vector LaneReg 17 :=
  .ofFn fun l => { idle := decide ((map[l.val]).1 = 16), pol := (map[l.val]).2, logical := (map[l.val]).1, symErr := (old[l.val]).symErr }

/-- PARAM (R278; this end's own PARAM flit went out as ALIGN ended): what the peer reports decides; an ACTIVE port holds the credits of Table 1.3. -/
def paramDone (s : State) (p : FlumeId) (group : BitVec 16) (node : NodeId) (port : Fin 8) : State :=
  if (s.flume.ports[p.val]).state ≠ .param then s
  else
    let s := onPort s p fun f => { f with peerNode := BitVec.ofNat 5 node.val, peerPort := BitVec.ofNat 3 port.val }
    if group ≠ s.flume.groupId then portDown s p .down failGroup
    else if node = s.flume.nodeId then portDown s p .down failNode
    else onPort s p fun f =>
      { f with state := .active, fail := 0, attempts112 := 0, credits := #v[64, 64, 32, 32, 8], crSeen := .replicate 5 0,
               freed := .replicate 5 0, txSeq := 0, rxNext := 0, retry := [], nakSent := false,
               spareUsed := false, spareFor := 0, arrived := [] }

/-- TRAIN_TIMEOUT: the bound of the present state has passed. -/
def trainExpired (s : State) (p : FlumeId) : State :=
  let f := s.flume.ports[p.val]
  match f.state with
  | .adapt | .align | .param =>
    portDown (onPort s p fun f => if f.rateNow then f else { f with attempts112 := f.attempts112 + 1 }) p .down failTrain
  | .recover => portDown s p .down failRecover
  | .off | .detect | .active | .down => s

/-- RETRAIN_TIMER: 1 ms after DOWN, for any cause but a mismatch. -/
def retrain (s : State) (p : FlumeId) : State :=
  onPort s p fun f =>
    if f.state = .down && f.en && f.autoRetrain && f.fail ≠ failGroup && f.fail ≠ failNode && elapsed s f.downAt 1000000 then f.detect
    else f

/-- RECOVER_DONE (R287): back to ACTIVE at 16 or 8 lanes, or DOWN. -/
def recovered (s : State) (p : FlumeId) (width8 ok : Bool) : State :=
  let f := s.flume.ports[p.val]
  if f.state ≠ .recover then s
  else if ok && (!width8 || f.width8En) then
    onPort s p fun f =>
      { f with state := .active, widthNow := width8, fail := 0, swap := none, retry := f.retry.map fun (t : TxFlit) => { t with replays := 0 } }.pump
  else portDown s p .down failRecover

/-! ### Link layer (R280, R281) -/

/-- A NAK: every flit after ACK is replayed in order; where one has been replayed 8 times already the port enters RECOVER
instead. -/
def nakTo (s : State) (p : FlumeId) (ack : BitVec 10) : State :=
  onPort s p fun f =>
    if f.state ≠ .active then f
    else
      let rest := ackTo ack f.retry
      if rest.any fun t => decide (8 ≤ t.replays) then { f with retry := rest, state := .recover, fail := failRetry }
      else { f.count 3 with retry := rest.map fun t => { t with replays := t.replays + 1 } }

/-- Credits a header returns for one VN: its count is cumulative, modulo 256. -/
def FlumePort.credit (f : FlumePort) (vn : Fin 5) (cnt : Byte) : FlumePort :=
  { f with credits := vmod f.credits vn fun c => c + (cnt - f.crSeen[vn.val]).toNat, crSeen := vmod f.crSeen vn fun _ => cnt }

/-- FLIT_RECEIVE (R280); the NAK goes out in an IDLE flit (DESIGN CHOICE, log entry 29: the spec does not say in which header). -/
def flitIn (s : State) (p : FlumeId) (x : Flit) : State :=
  if (s.flume.ports[p.val]).state ≠ .active then s
  else
    let s := onPort s p fun f =>
      let f := if x.fecCorr then f.count 0 else f
      let f := if x.fecOk then f else f.count 1
      if x.fecOk && !x.crcOk then f.count 2 else f
    let whole := x.fecOk && x.crcOk
    let s := if whole then
        let s := onPort s p fun f => { f.credit x.crVn x.crCnt with retry := ackTo x.ack f.retry }
        if x.nak then nakTo s p x.ack else s
      else s
    onPort s p fun f =>
      (if x.ctrl && whole then f
      else if whole && x.seq = f.rxNext then
        { f with
          rxNext := f.rxNext + 1
          nakSent := false
          arrived := if x.packets.isEmpty then f.arrived else f.arrived ++ [(x.vn, x.packets)]
          freed := if x.packets.isEmpty then vmod f.freed x.vn fun n => n + 1 else f.freed }
      else if f.nakSent then f
      else { f with nakSent := true }.control 0 0 false 0 true).pump

/-! ### Lane swaps (R285-R287) -/

/-- LANE_SWAP from the peer: this end's transmitter mirrors the lane, or switches at once, and answers SWAP_ACK. -/
def swapAsked (s : State) (p : FlumeId) (lane : Fin 16) (immediate : Bool) (seq : BitVec 16) : State :=
  if (s.flume.ports[p.val]).state ≠ .active then s
  else
    onPort (abortPrbs s p) p fun f =>
      { f with swap := some { lane := lane, immediate := immediate, acked := true, seq := seq, fromPeer := true } }.control 2 lane
        immediate seq

/-- SWAP_ACK from the peer. -/
def swapAcked (s : State) (p : FlumeId) (lane : Fin 16) (immediate : Bool) (seq : BitVec 16) : State :=
  onPort s p fun f =>
    match f.swap with
    | some w => if w.lane = lane && w.immediate = immediate then { f with swap := some { w with acked := true, seq := seq } } else f
    | none => f

/-- SWAP_SWITCH: both ends use the spare from the codeword after SWAP_SEQ; an immediate swap does not wait. -/
def swapDone (s : State) (p : FlumeId) : State :=
  onPort s p fun f =>
    match f.swap with
    | some w =>
      if w.acked || w.immediate then
        { f.count 4 with
          swap := none, spareUsed := true, spareFor := w.lane
          lanes := if w.fromPeer then f.lanes
            else f.lanes.map fun l =>
              if l.logical.val = w.lane.val then { l with idle := true }
              else if l.logical = 16 then { l with idle := false, logical := fin 17 w.lane.val } else l }
      else f
    | none => f

/-- SWAP_THRESHOLD: symbol errors of a lane within 1 ms. -/
def swapThresh (s : State) (p : FlumeId) (lane : Fin 16) (errors : Nat) : State :=
  let s := onPort s p fun f =>
    { f with lanes := f.lanes.map fun l => if l.logical.val = lane.val && !l.idle then { l with symErr := bump l.symErr errors } else l }
  let f := s.flume.ports[p.val]
  if bitsOf f.ctl 15 0 < errors && f.canSwap then beginSwap s p lane false else s

/-- IMMEDIATE_SWAP_TRIGGER: a lane is lost; with the spare in use the port goes to RECOVER (R286, R287). -/
def swapNow (s : State) (p : FlumeId) (lane : Fin 16) : State :=
  let f := s.flume.ports[p.val]
  if f.state ≠ .active then s
  else if f.spareEn && !f.spareUsed then beginSwap s p lane true
  else onPort s p fun f => { f with state := .recover, swap := none }

/-! ### Packets (R289-R292, R296, R299) -/

/-- FLUME_EGRESS_PACKET: a request for another node reaches the port (R290, R300). -/
def egressPacket (s : State) (p : FlumeId) (k : Packet) : State :=
  let (sent, s) := if k.sub then (true, s) else issue s k
  if !sent then s
  else
    let s := takePacket s k
    let dst : NodeId := fin 32 (k.addr.toNat / 2 ^ 42)
    match nodeRoute s dst with
    | none => respond s k .offline []
    | some (hops, ports, _) =>
      let x : FlumePacket :=
        { dstNode := dst, srcNode := s.flume.nodeId, hptr := 0, hops := hops, ports := ports, kind := k.kind, sub := k.sub, vn := k.vn,
          origNi := k.src, origTag := BitVec.ofNat 12 (k.gen.toNat * 256 + k.slot.val), status := k.status,
          addr := BitVec.ofNat 48 (k.addr.toNat % 2 ^ 42), xinfo := k.xinfo, data := k.payload }
      if (s.flume.ports[p.val]).state = .active then
        onPort (toEgress s p x) p fun f => { f with routed := f.routed ++ [x] }.pump
      else if (s.flume.ports[p.val]).state = .recover then
        onPort s p fun f => { f with egress := vmod f.egress k.vn fun q => q ++ [x], routed := f.routed ++ [x] }
      else respond s k .linkDown []

/-- A row lies wholly within an open window (R296). -/
def windowOpenAt (s : State) (a : Nat) : Bool :=
  s.flume.windows.any fun w => w.size ≠ 0 && decide (w.base.toNat ≤ a / 512 * 512)
    && decide (a / 512 * 512 + 512 ≤ w.base.toNat + w.size.toNat * 65536)

/-- Address of chute `c`'s DB_TAIL; DB_RCPT lies 4 above it (06 Table 6.8, 21 Table 21.2). -/
def doorbellBase : Nat := 0x3F000010038

/-- A doorbell from another node (R299): the chute and which doorbell its address names. -/
def remoteDoorbell (a : Nat) : Option (ChuteId × Bool) :=
  if a < doorbellBase then none
  else
    let o := a - doorbellBase
    if o / 64 < 128 ∧ (o % 64 = 0 ∨ o % 64 = 4) then some (fin 128 (o / 64), o % 64 = 4) else none

/-- Deliver a request of another node (R296, R299). -/
def deliverRemote (s : State) (p : FlumeId) (x : FlumePacket) : State :=
  let a := x.addr.toNat
  if x.kind.toNat ≤ 1 then
    if windowOpenAt s a then onPort s p fun f => { f with ingress := f.ingress ++ [x] }
    else answerBack (onPort s p fun f => (f.count 7).leftPort x) x .bound []
  else if x.kind = 4 then
    let s := onPort s p fun f => f.leftPort x
    match remoteDoorbell a with
    | some (c, rcpt) =>
      if s.flume.dbAllow.getLsbD c.val then
        let v := BitVec.ofNat 16 (leNat (x.data.take 2))
        answerBack (if rcpt then dbRcptWrite s c v else dbTailWrite s c v) x .ok []
      else answerBack s x .bound []
    | none => answerBack s x .bound []
  else onPort s p fun f => f.leftPort x

/-- FLUME_INGRESS_PACKET (R291): HPTR advances; the packet is forwarded or delivered. -/
def ingressPacket (s : State) (p : FlumeId) (y : FlumePacket) : State :=
  let x := { y with hptr := y.hptr + 1 }
  let gone := fun (s : State) => onPort s p fun f => f.leftPort y
  if x.hptr < x.hops then
    let n := bitsOf x.ports (3 * x.hptr + 2) (3 * x.hptr)
    if 6 ≤ n then gone (onPort s p fun f => f.count 6)
    else
      let q : FlumeId := fin 6 n
      match (s.flume.ports[q.val]).state with
      | .active | .recover =>
        gone (onPort s q fun f =>
          { f with egress := vmod f.egress x.vn fun l => l ++ [x] }.pump)
      | _ => gone (linkDown q s x)
  else if x.dstNode ≠ s.flume.nodeId then gone (onPort s p fun f => f.count 6)
  else if x.sub then
    let s := { s with flume := { s.flume with ports := s.flume.ports.map fun f =>
      { f with routed := f.routed.filter fun r =>
          !(r.srcNode = s.flume.nodeId && r.origNi = x.origNi && r.origTag = x.origTag) } } }
    gone (handBack s p x x.status)
  else
    let s := onPort s p fun f => { f with arrived := f.arrived.map fun a => (a.1, a.2.map fun z => if z = y then x else z) }
    deliverRemote s p x

/-- The first free slot of an interface. -/
def Ni.freeTag (x : Ni) : Option (Fin 256) := (List.finRange 256).find? fun k => x.out.all fun o => o.slot ≠ k

/-- INGRESS_ISSUE: the oldest delivered request becomes a request of the port's own interface (R292). -/
def ingressIssue (s : State) (p : FlumeId) : State :=
  match (s.flume.ports[p.val]).ingress with
  | [] => s
  | x :: rest =>
    let dst := niOf x.addr.toNat
    let half := flumeHalf p dst
    let ni := s.net.nis[half.val]
    match ni.freeTag with
    | none => s
    | some slot =>
      let s := onPort s p fun f => { f with ingress := rest }.leftPort x
      if !mappedRow x.addr.toNat then answerBack (logNi s half .bound { route := 0, rptr := 0, rlen := 0, vn := x.vn, sub := false, lane := false, kind := x.kind, src := half, dst := dst, gen := 0, slot := slot, epoch := 0, status := .bound, addr := x.addr, xinfo := x.xinfo, payload := [] } dst) x .bound []
      else
        let r := ni.routes[dst.val]
        let k : Packet :=
          { route := BitVec.ofNat 24 r.toNat, rptr := 0, rlen := BitVec.ofNat 3 (routeLen r), vn := x.vn, sub := false, lane := false,
            kind := x.kind, src := half, dst := dst, gen := ni.gens[slot.val], slot := slot, epoch := ni.epv[dst.val], status := .ok,
            addr := x.addr, xinfo := x.xinfo, payload := x.data }
        if !routeValid r then answerBack s x .offline []
        else
          let s := onNi s half fun n =>
            { n with out := n.out ++ [{ slot := slot, dst := dst, kind := x.kind, vn := x.vn, addr := x.addr, since := now s,
                                        origin := some (x.srcNode, x.origNi, x.origTag) }] }
          onNet s fun n => { n with sent := n.sent ++ [k] }

/-! ### Group registers (R288, R289, R297) -/

/-- GROUP_CFG written. -/
def groupCfg (s : State) (v : Word) : State :=
  onFlume s fun g =>
    let g := { g with grpRej := g.grpRej && !bitOf v 15, routeRej := g.routeRej && !bitOf v 14 }
    if g.ports.any FlumePort.en then { g with grpRej := true }
    else { g with groupId := BitVec.ofNat 16 (bitsOf v 31 16), nodeId := fin 32 (bitsOf v 4 0) }

/-- ROUTE_n written. -/
def flumeRoute (s : State) (n : NodeId) (v : Word) : State :=
  onFlume s fun g =>
    let hops := bitsOf v 30 27
    let port := fun i => bitsOf v (3 * i + 2) (3 * i)
    let bad := bitOf v 31 && (hops = 0 || decide (8 < hops) || (List.range hops).any (fun i => decide (6 ≤ port i)) || n = g.nodeId)
    if bad then { g with routeRej := true }
    else
      { g with routes := vmod g.routes n fun _ => v &&& 0xF8FFFFFF
               niPort := vmod g.niPort n fun _ => if bitOf v 31 then some (fin 6 (port 0)) else none }

/-- A range lies wholly within the Granary or within one Hopper. -/
def inOneMemory (a len : Nat) : Bool :=
  decide (a + len ≤ granTop ∧ a < granTop)
    || (decide (hopTop ≤ a) && decide (a < hopTop + 16 * 0x01000000) && decide ((a - hopTop) % 0x01000000 + len ≤ 0x00800000)
      && decide ((a - hopTop) % 0x01000000 < 0x00800000))

/-- WINDOW_OPEN (R297). -/
def openWindow (s : State) (j : Job) : State :=
  let w := j.words
  let base := w[5].toNat + w[6].toNat % 65536 * 2 ^ 32
  let size := w[7].toNat
  if base % 65536 ≠ 0 || size % 65536 ≠ 0 || !inOneMemory base size then fwDone s j stFormat 0x80
  else if 15 < w[4].toNat then fwDone s j stFormat 0x81
  else
    fwDone (onFlume s fun g =>
      { g with windows := vmod g.windows (fin 16 w[4].toNat) fun _ => { base := BitVec.ofNat 48 base, size := BitVec.ofNat 13 (size / 65536) } })
      j stOk 0

def execFlumePortEnable (p : FlumeId) (v : Word) (s : State) : Result := liveRows s fun s => portCtl s p v
def execFlumePortDisable (p : FlumeId) (v : Word) (s : State) : Result := liveRows s fun s => portCtl s p v
def execPeerDetect (p : FlumeId) (s : State) : Result := live s fun s => train s p .detect fun f => { f with state := .adapt }
def execAdaptDone (p : FlumeId) (s : State) : Result := live s fun s => train s p .adapt fun f => { f with state := .align }
def execAlignDone (p : FlumeId) (map : Vector (Fin 17 × Bool) 17) (s : State) : Result :=
  live s fun s => train s p .align fun f =>
    { f with state := .param, lanes := laneMap f.lanes map }.control 3 0 false 0 false (some (s.flume.groupId, s.flume.nodeId, p))
def execParam (p : FlumeId) (group : BitVec 16) (node : NodeId) (port : Fin 8) (s : State) : Result :=
  live s fun s => paramDone s p group node port
def execTrainTimeout (p : FlumeId) (s : State) : Result := live s fun s => trainExpired s p
def execRetrainTimer (p : FlumeId) (s : State) : Result := live s fun s => retrain s p
def execRecoverDone (p : FlumeId) (width8 ok : Bool) (s : State) : Result := live s fun s => recovered s p width8 ok
def execFlitReceive (p : FlumeId) (f : Flit) (s : State) : Result := live s fun s => flitIn s p f
def execNak (p : FlumeId) (ack : BitVec 10) (s : State) : Result := live s fun s => nakTo s p ack
def execIdleTimer (p : FlumeId) (s : State) : Result :=
  live s fun s => train s p .active fun f => f.pump.control 0
def execLaneSwap (p : FlumeId) (lane : Fin 16) (immediate : Bool) (seq : BitVec 16) (s : State) : Result :=
  liveRows s fun s => swapAsked s p lane immediate seq
def execSwapAck (p : FlumeId) (lane : Fin 16) (immediate : Bool) (seq : BitVec 16) (s : State) : Result :=
  live s fun s => swapAcked s p lane immediate seq
def execDisable (p : FlumeId) (s : State) : Result :=
  live s fun s => if (s.flume.ports[p.val]).en then portDown s p .down failPeer else s
def execSwapThreshold (p : FlumeId) (lane : Fin 16) (errors : Nat) (s : State) : Result := liveRows s fun s => swapThresh s p lane errors
def execSwapReq (p : FlumeId) (v : Word) (s : State) : Result := liveRows s fun s => portCtl s p v
def execImmediateSwapTrigger (p : FlumeId) (lane : Fin 16) (s : State) : Result := liveRows s fun s => swapNow s p lane
def execSwapSwitch (p : FlumeId) (s : State) : Result := live s fun s => swapDone s p
def execFlumeEgressPacket (p : FlumeId) (pkt : Packet) (s : State) : Result := live s fun s => egressPacket s p pkt
def execFlumeIngressPacket (p : FlumeId) (pkt : FlumePacket) (s : State) : Result := liveRows s fun s => ingressPacket s p pkt
def execIngressIssue (p : FlumeId) (s : State) : Result := live s fun s => ingressIssue s p
def execGroupCfgWrite (v : Word) (s : State) : Result := live s fun s => groupCfg s v
def execFlumeRouteWrite (n : NodeId) (v : Word) (s : State) : Result := live s fun s => flumeRoute s n v
def execWindowOpen (s : State) : Result := liveRows s fun s => fwJob s .windowOpen openWindow

end Sys2Proof.Machine
end

