-- ==== Sys2Proof/Machine/Images.lean ====
section
/-! DEFINITION. Firmware images and the fuses that judge them (16 R371, R387, R391-R393). -/

namespace Sys2Proof.Machine

/-- The number of a big-endian byte list. -/
def beNat (bs : List Byte) : Nat := bs.foldl (fun acc b => acc * 256 + b.toNat) 0

/-- A public key X then Y, or a signature r then s, of 96 big-endian bytes (16 Tables 16.8, 16.9). -/
def keyOf (bs : List Byte) : BitVec 768 := BitVec.ofNat 768 (beNat bs)

/-- A digest of 48 bytes. -/
def digestOf (bs : List Byte) : BitVec 384 := BitVec.ofNat 384 (beNat bs)

/-- Little-endian word of an image at an offset. -/
def imgWord (bs : List Byte) (off : Nat) : Nat := leNat ((bs.drop off).take 4)

/-- Bytes of an image from its header: the header unit and LEN body units (16 Table 16.9). -/
def imageLen (bs : List Byte) : Nat := 0x1000 + imgWord bs 8 * 4096

/-- The FW key slot whose hash the public key has: valid and not revoked (16 R392). No key has the burned-out hash that the
slots of a RETIRED part hold (R390). -/
def Fuses.slotOf (f : Fuses) (key : List Byte) : Option (Fin 4) :=
  if f.lc = 5 then none
  else (List.finRange 4).find? fun i =>
    f.keyValid.getLsbD i.val && !f.keyRevoked.getLsbD i.val && f.keyHash[i.val] = Config.sha384 key

/-- The four conditions of R392 on an image against the present fuses: the slot that verified it. -/
def imageSlot (f : Fuses) (bs : List Byte) : Option (Fin 4) :=
  let key := (bs.drop 0x10).take 96
  match f.slotOf key with
  | none => none
  | some i =>
    let signed := bs.take 0x70 ++ (bs.drop 0x1000).take (imgWord bs 8 * 4096)
    let len := imgWord bs 8
    if imgWord bs 0 = 0x46524C4D && imgWord bs 4 ≤ 64 && 1 ≤ len && len ≤ 2048 && f.svn.toNat ≤ imgWord bs 4
        && Config.ecdsaOk (keyOf key) (Config.sha384 signed) (keyOf ((bs.drop 0x70).take 96)) then some i
    else none

/-- After a successful boot, SVN is burned up to the image's under COMMIT_SVN, and the slots of REVOKE but the one that
verified the image are revoked (16 R393). -/
def Fuses.burnSvn (f : Fuses) (slot : Fin 4) (bs : List Byte) : Fuses :=
  let flags := BitVec.ofNat 32 (imgWord bs 0xC)
  { f with
    svn := if bitOf flags 0 && f.svn.toNat < imgWord bs 4 then BitVec.ofNat 7 (stopAt 64 (imgWord bs 4)) else f.svn
    keyRevoked := f.keyRevoked ||| (BitVec.ofNat 4 (bitsOf flags 7 4) &&& ~~~(BitVec.twoPow 4 slot.val)) }

/-! ### The repair record (16 R371, Table 16.3) -/

/-- Data bits 31:6 of the entries that are applied, in entry order: COMMIT burned and the check passes. -/
def Fuses.entries (f : Fuses) : List (BitVec 26) :=
  f.repair.filterMap fun e => if e.commit then Config.fuseCheck e.word else none

/-- Entries skipped and counted in FUSE_BAD: COMMIT unburned, an uncorrectable check, or a TYPE 6 entry that names no unit
(16 R371, 17 R395). -/
def Fuses.bad (f : Fuses) : Nat :=
  (f.repair.filter fun e => !e.commit || (Config.fuseCheck e.word).isNone).length
    + (f.entries.filter fun x => bitsOf x 25 22 = 6 && decide (43 ≤ bitsOf x 21 14)).length

/-- The QMAP of a Mill from its last TYPE 4 entry, or the identity map (03 R63). -/
def Fuses.qmap (f : Fuses) (m : MillId) : BitVec 18 :=
  match (f.entries.reverse.find? fun x => bitsOf x 25 22 = 4 && decide (bitsOf x 21 18 = m.val)) with
  | some x => BitVec.ofNat 18 (bitsOf x 17 0)
  | none => 0x2C688

/-- The bank that the spare of a quad replaces by the fuses (TYPE 5). -/
def Fuses.spare (f : Fuses) (q : QuadId) : Option (Fin 32) :=
  (f.entries.reverse.find? fun x => bitsOf x 25 22 = 5 && decide (bitsOf x 21 20 = q.val)).map fun x => fin 32 (bitsOf x 19 15)

/-- Units that fuses hold OFFLINE (TYPE 6). -/
def Fuses.held (f : Fuses) : List UnitId :=
  f.entries.filterMap fun x => if bitsOf x 25 22 = 6 && bitsOf x 21 14 < 43 then some (fin 256 (bitsOf x 21 14)) else none

/-- The lifecycle state of the fuses: in FIELD an odd count of burned visit bits means SERVICE (16 R387). -/
def Fuses.state (f : Fuses) : Fin 8 := if f.lc = 3 && f.visits.toNat % 2 = 1 then 4 else f.lc

end Sys2Proof.Machine
end

