-- ==== Sys2Proof/Machine/MillOps.lean ====
section
/-! DEFINITION. What every command of a Mill shares: its running docket, its DONE message, its reset (06, 17, 19). -/

namespace Sys2Proof.Machine

/-- Change the docket a Mill runs. -/
def onRun (s : State) (m : MillId) (f : Run → Run) : State := onMill s m fun x => { x with running := x.running.map f }

/-- The docket a Mill runs, when it is of an opcode. -/
def runOf (s : State) (m : MillId) (o : Opcode) : Option Run :=
  match (s.mills[m.val]).running with
  | some r => if wOpcode r.msg.docket = some o then some r else none
  | none => none

/-- The windows of a HANDOUT message. -/
def msgWin (h : HandoutMsg) : Win := { granBase := h.granBase, granBound := h.granBound, hop := h.hop }

/-- A Mill's DONE message for a held docket; while MB_ISO clamps the boundary nothing leaves (19 R439, R451). -/
def sendDone (s : State) (m : MillId) (h : HandoutMsg) (st : Byte) (detail : Word) (start : Word64) (tiles sat : Nat) :
    State :=
  let msg : DoneMsg :=
    { chute := h.chute, status := st, tag := wTag h.docket, detail := detail, doneTime := now s, startTime := start,
      tiles := img (stopAt 0xFFFFFFFF tiles), sat := img (stopAt 0xFFFFFFFF sat), slot := h.slot }
  let s := onMill s m fun x => { x with slots := x.slots.set h.slot.val none h.slot.isLt }
  if (s.mills[m.val]).mb.iso then s else onControl s fun k => { k with toControl := k.toControl ++ [(m, msg)] }

/-- Fills pending or under way are discarded; a bank that was filling is EMPTY (07 R158). -/
def Mill.dropFills (x : Mill) : Mill :=
  let settle := fun (b : QBank) => if b.state = .filling then { b with state := .empty } else b
  { x with fills := [], filling := none, querns := x.querns.map fun q => { q with a := settle q.a, b := settle q.b } }

/-- The running docket of a Mill ends: OK becomes OK_SATURATED when its SAT is not zero (02 R40, R41). -/
def endRun (s : State) (m : MillId) (r : Run) (st : Byte) (sub mid low : Nat) : State :=
  let st := if st = stOk && r.sat ≠ 0 then stSat else st
  let s := onMill s m fun x => { x.dropFills with running := none }
  sendDone s m r.msg st (mkDetail sub mid low) (r.start.getD r.dispatched) r.tiles r.sat

/-- The running docket ends with its own counts in DETAIL (06 Table 6.6, 02 R40). -/
def endCounted (s : State) (m : MillId) (r : Run) (st : Byte) (sub mid : Nat) : State :=
  endRun s m r st sub mid (stopAt 0xFFFF r.nan)

/-- A docket ends in the way an Ending says. -/
def endWith (s : State) (m : MillId) (r : Run) (e : Ending) : State :=
  endCounted s m r e.status e.subcode.toNat e.operand.toNat

/-- A running docket stops under an ABORT at a tile boundary (19 R439). -/
def endAborted (s : State) (m : MillId) (r : Run) (a : AbortReason) : State :=
  endCounted s m r (abortStatus a) 0 (noOperand r.msg.docket)

/-- Fields found in PROGRAMMING become INVALID (04 R80). -/
def Sluice.invalidate (u : Sluice) : Sluice :=
  { u with
    fields := u.fields.map fun f => if f.state = .programming then { f with state := .invalid } else f }

/-- The Sluice of a Mill after its reset: volatile registers at their reset values, the array and its non-volatile state
kept (04 R80, 17 Table 17.5). -/
def Sluice.afterReset (u : Sluice) : Sluice :=
  let u := u.invalidate
  { Sluice.reset with weights := u.weights, fields := u.fields, gHi := u.gHi, gLo := u.gLo, defects := u.defects,
                      worn := u.worn, vppOk := u.vppOk }

/-- The QMAP a fuse or record entry of QMAP names for a Mill, or the identity map (03 R63). -/
def qmapOr (q : BitVec 18) : BitVec 18 := if q = 0 then 0x2C688 else q

/-- A Mill after the RESET of 17 Table 17.5, with the QMAP it takes: memories zero, registers at reset; its boundary
registers, its interface and the Sluice's array stand. -/
def Mill.afterReset (x : Mill) (m : MillId) (qmap : BitVec 18) : Mill :=
  { Mill.reset m with
    regs := { MillRegs.reset with qmap := qmap, hopPowered := x.regs.hopPowered, hopClearing := false }
    sluice := x.sluice.afterReset
    mb := x.mb }

/-- The RESET of a Mill (17 R408): dockets it held are gone, its Hopper reads zero. -/
def resetMill (s : State) (m : MillId) (qmap : BitVec 18) : State :=
  let s := clearMill s m
  onMill s m fun x => x.afterReset m qmap

end Sys2Proof.Machine
end

