-- ==== Sys2Proof/Machine/Millblock.lean ====
section
/-! DEFINITION. The Mill's messages and its boundary as a Millblock (19). -/

namespace Sys2Proof.Machine

/-- A Mill counts a boundary protocol error (19 R438, R439, R441). -/
def protoErr (s : State) (m : MillId) : State :=
  onMill s m fun x => { x with mb := { x.mb with protoErr := bump x.mb.protoErr } }

/-- The interface of a Mill admits requests; a refusal is counted in OFFLINE_SENT (11 R270). -/
def refuseOffline (s : State) (n : NiId) : State := onNi s n fun x => { x with offlineSent := bump x.offlineSent }

/-- Mill `m` as a network interface. -/
def millNi (m : MillId) : NiId := fin 64 m.val

/-! ### Merging DONE messages (19 R440) -/

/-- A Sluice docket that firmware issued itself has ended on its Mill: the slot credit returns and the status is kept
(18 R430). -/
def firmwareDone (s : State) (m : MillId) (id : Nat) (r : DoneMsg) : State :=
  match s.service.sluBoot[m.val] with
  | none => s
  | some f =>
    if f.id = id then
      let s := onControl s fun k => { k with credits := vmod k.credits m fun v => vmod v r.slot fun _ => none }
      onService s fun x => { x with sluBoot := vmod x.sluBoot m fun _ => some { f with result := some r.status } }
    else s

/-- One Mill's part of a docket: its slot credit returns; a first fault stops the other Mills at their next tile boundary;
with every part in, the docket completes (06 R138). -/
def partDone (s : State) (m : MillId) (r : DoneMsg) : State :=
  match (s.control.credits[m.val])[r.slot.val] with
  | none => s
  | some id =>
    let ch := s.control.chutes[r.chute.val]
    match ch.out.find? fun o => o.id = id && o.mills.contains m with
    | none => firmwareDone s m id r
    | some o =>
      let fault := okStatus o.status && !okStatus r.status
      let o := merge { o with mills := o.mills.filter (· ≠ m) } r
      let s := onControl s fun k => { k with credits := vmod k.credits m fun v => vmod v r.slot fun _ => none }
      if o.mills.isEmpty && o.others = 0 then complete s r.chute o
      else
        let tell := fault && o.stop.isNone
        let o := if tell then { o with stop := some .faultElsewhere } else o
        let s := onChute s r.chute fun ch => { ch with out := ch.out.map fun x => if x.id = id then o else x }
        if tell then
          onControl s fun k =>
            { k with aborts := k.aborts ++ o.mills.map fun x => (x, wTag o.words, r.chute, .faultElsewhere) }
        else s

/-- A HANDOUT was answered with a network status: the Mill's part of the docket ends with the status it maps to. -/
def handoutRefused (s : State) (m : MillId) (h : HandoutMsg) (st : NetStatus) : State :=
  let (code, sub) := netReceipt st
  partDone s m { chute := h.chute, status := code, tag := wTag h.docket, detail := mkDetail sub (noOperand h.docket) 0,
                 doneTime := now s, startTime := now s, tiles := 0, sat := 0, slot := h.slot }

/-- A HANDOUT message arrives at a Mill (19 R438, R439). -/
def handoutArrives (s : State) (m : MillId) (src : NiId) (h : HandoutMsg) : State :=
  let ours := s.control.toMills.contains (m, h)
  let s := onControl s fun k => { k with toMills := k.toMills.erase (m, h) }
  let x := s.mills[m.val]
  let refused := fun (s : State) st => if ours then handoutRefused s m h st else s
  if !(s.net.nis[m.val]).admits then refused (refuseOffline s (millNi m)) .offline
  else if src.val ≠ x.mb.ctrlNi.toNat then protoErr s m
  else if (x.slots[h.slot.val]).isSome || !slotTakes h.slot.val h.cls then refused (protoErr s m) .bound
  else
    onMill s m fun x =>
      { x with slots := x.slots.set h.slot.val (some { msg := h, order := x.arrivals }) h.slot.isLt, arrivals := x.arrivals + 1 }

/-- A DONE message arrives at the controller. -/
def doneArrives (s : State) (m : MillId) (r : DoneMsg) : State :=
  partDone (onControl s fun k => { k with toControl := k.toControl.erase (m, r) }) m r

/-- Whether a Mill is inside a tile or an array operation, so that a stop waits for its boundary. -/
def Run.busy (r : Run) : Bool := r.cur.isSome || r.slu.isSome

/-- Stop one held docket: waiting ones at once with TILES 0, preempted ones with the tiles they completed, the running one
at its next tile boundary (06 R150, 17 R405, 19 R439). -/
def stopHeld (s : State) (m : MillId) (a : AbortReason) (h : HandoutMsg) : State :=
  let x := s.mills[m.val]
  match x.preempted.find? fun r => r.slot = h.slot with
  | some r =>
    let s := onMill s m fun x => { x with preempted := x.preempted.filter fun r => r.slot ≠ h.slot }
    sendDone s m h (abortStatus a) (mkDetail 0 (noOperand h.docket) (stopAt 0xFFFF r.nan)) (r.start.getD r.dispatched)
      r.tiles r.sat
  | none =>
    match x.running with
    | some r =>
      if r.slot = h.slot then
        (if r.busy then onRun s m fun r => { r with abort := some a } else endAborted s m r a)
      else sendDone s m h (abortStatus a) (mkDetail 0 (noOperand h.docket) 0) (now s) 0 0
    | none => sendDone s m h (abortStatus a) (mkDetail 0 (noOperand h.docket) 0) (now s) 0 0

/-- An ABORT message arrives at a Mill: for a tag it does not hold it has no effect (19 R439). -/
def abortArrives (s : State) (m : MillId) (src : NiId) (tag : BitVec 16) (c : ChuteId) (a : AbortReason) : State :=
  let s := onControl s fun k => { k with aborts := k.aborts.erase (m, tag, c, a) }
  let x := s.mills[m.val]
  if !(s.net.nis[m.val]).admits then refuseOffline s (millNi m)
  else if src.val ≠ x.mb.ctrlNi.toNat then protoErr s m
  else
    match x.slots.toList.findSome? fun h => h.bind fun h => if wTag h.msg.docket = tag && h.msg.chute = c then some h.msg else none with
    | some h => stopHeld s m a h
    | none => s

/-- The oldest entry of a docket that still awaits edges takes them. -/
def joinEdges (m : MillId) (c : ChuteId) (slot : Fin 8) (es : List Edge) : List SchedJob → List SchedJob
  | [] => []
  | j :: rest =>
    if j.mill = m && j.chute = c && j.slot = slot && decide (0 < j.awaiting) then
      { j with edges := j.edges ++ es, awaiting := j.awaiting - es.length } :: rest
    else j :: joinEdges m c slot es rest

/-- An EDGES message arrives at the Spigot: its edges join the schedule-queue entry of that docket (19 R438, 10 R236). -/
def edgesArrive (s : State) (m : MillId) (c : ChuteId) (slot : Fin 8) (es : List Edge) : State :=
  onSpigot s fun sp => { sp with flying := sp.flying.erase (m, c, slot, es), queue := joinEdges m c slot es sp.queue }

/-! ### Resets and straps -/

/-- MB_PORST_N falls: the whole block is reset, record RAM and network interface included; the Sluice's array is
non-volatile (19 R450). -/
def porstFall (s : State) (m : MillId) : State :=
  let s := resetMill s m 0x2C688
  let s := onMill s m fun x => { x with mb := { Millblock.reset m with porstN := false, credited := false, iso := x.mb.iso } }
  onNi s (millNi m) fun _ => { Ni.reset (millNi m) with routes := .replicate 64 0, admits := false }

/-- MB_PORST_N rises: the strap names the interface, and after 8 CK_RACE cycles both sides hold full credit (19 R435,
R437). -/
def porstRise (s : State) (m : MillId) (strap : NiId) (flat : Bool) : State :=
  onMill s m fun x =>
    { x with mb := { x.mb with porstN := true, niId := strap, credited := true, flat := if x.mb.rstN then flat else x.mb.flat } }

/-- MB_RST_N falls: the Mill RESET; network interface, record RAM and Tally port run on, and row-port tags stay
outstanding (19 R450). -/
def rstFall (s : State) (m : MillId) : State :=
  let s := resetMill s m 0x2C688
  onMill s m fun x => { x with mb := { x.mb with rstN := false } }

/-- The record RAM names a valid set of Sluice trims (19 R443). -/
def recordOk (x : Mill) : Bool := readW x.mb.recordRam 0 = 0x5245434B

/-- MB_RST_N rises: QMAP and trims come from the record RAM, MB_FLAT is sampled, fields left in PROGRAMMING are INVALID
(19 R443, R448, 04 R80). -/
def rstRise (s : State) (m : MillId) (flat : Bool) : State :=
  onMill s m fun x =>
    { x with
      regs := { x.regs with qmap := qmapOr (BitVec.ofNat 18 (readLe x.mb.recordRam 4 4)) }
      sluice := { x.sluice.invalidate with compFault := !recordOk x }
      mb := { x.mb with rstN := true, flat := flat } }

/-- A row-port response arrives: its tag is freed, and a row with a parity error counts as UNCORR; a docket that receives a
non-OK status ends at its next tile boundary (19 R444, R445, 11 R269). -/
def rowResponse (s : State) (m : MillId) (tag : Fin 16) (st : Fin 4) (parityOk : Bool) : State :=
  let x := s.mills[m.val]
  match x.mb.tags[tag.val] with
  | none => s
  | some req =>
    let bad := !parityOk && !req.write
    let net : NetStatus := if st = 2 then .offline else if st ≠ 0 || bad then .uncorr else .ok
    let s := onMill s m fun x =>
      { x with mb := { x.mb with tags := vmod x.mb.tags tag fun _ => none, grPar := if bad then bump x.mb.grPar else x.mb.grPar } }
    if net = .ok || !x.mb.rstN then s
    else
      let (code, sub) := netReceipt net
      onRun s m fun r =>
        if r.ending.isSome then r
        else { r with ending := some { status := code, subcode := BitVec.ofNat 8 sub, operand := BitVec.ofNat 8 (noOperand r.msg.docket) } }

/-! ### Meanings -/

def execHandout (m : MillId) (src : NiId) (msg : HandoutMsg) (s : State) : Result :=
  liveRows s fun s => handoutArrives s m src msg
def execDone (m : MillId) (msg : DoneMsg) (s : State) : Result := liveRows s fun s => doneArrives s m msg
def execAbort (m : MillId) (src : NiId) (tag : BitVec 16) (chute : ChuteId) (reason : AbortReason) (s : State) : Result :=
  live s fun s => abortArrives s m src tag chute reason
def execBell (_m : MillId) (b : BellId) (s : State) : Result := liveRows s fun s => raiseBell s b
def execEdges (m : MillId) (chute : ChuteId) (slot : Fin 8) (es : List Edge) (s : State) : Result :=
  live s fun s => edgesArrive s m chute slot es
def execMbPorstRelease (m : MillId) (strap : NiId) (flat : Bool) (s : State) : Result :=
  live s fun s => porstRise s m strap flat
def execMbRstAssert (m : MillId) (s : State) : Result := live s fun s => rstFall s m
def execMbRstRelease (m : MillId) (flat : Bool) (s : State) : Result := live s fun s => rstRise s m flat
def execMbIso (m : MillId) (level : Bool) (s : State) : Result :=
  live s fun s => onMill s m fun x => { x with mb := { x.mb with iso := level } }
def execMbClear (m : MillId) (v : Word) (s : State) : Result := live s fun s => if bitOf v 0 then clearMill s m else s
def execGrResponse (m : MillId) (tag : Fin 16) (st : Fin 4) (_row : List Byte) (parityOk : Bool) (s : State) : Result :=
  live s fun s => rowResponse s m tag st parityOk
def execRecordRamWrite (m : MillId) (off : BitVec 12) (v : Word) (s : State) : Result :=
  live s fun s => onMill s m fun x =>
    if x.mb.rstN then { x with mb := { x.mb with ttErr := true } }
    else { x with mb := { x.mb with recordRam := writeBytes x.mb.recordRam (off.toNat / 4 * 4) (leBytes 4 v.toNat), ttErr := false } }
def execMbPorstAssert (m : MillId) (s : State) : Result := live s fun s => porstFall s m

end Sys2Proof.Machine
end

