-- ==== Sys2Proof/Machine/Millrace.lean ====
section
/-! DEFINITION. Routers, responses, timeouts, routes, admission and epochs of the Millrace (11). -/

namespace Sys2Proof.Machine

/-! ### Routers (11 R254, R257, R258) -/

/-- The quad behind chord port `8 + i` of quad `q`: the other quads in ascending order. -/
def chordQuad (q : QuadId) (i : Nat) : QuadId := fin 4 (if i < q.val then i else i + 1)

/-- A port of router `q` serves an interface: it is attached there, or its hub serves it. -/
def portServes (q : QuadId) (port : Nat) (d : NiId) : Bool := d.val < 57 && niQuad d = q.val && niPort d = port

/-- Change a router's counters. -/
def onRouter (s : State) (q : QuadId) (f : Router → Router) : State := onNet s fun n => { n with routers := vmod n.routers q f }

/-- The next nibble of a packet's route. -/
def pktNibble (p : Packet) : Nat := bitsOf p.route (4 * p.rptr.toNat + 3) (4 * p.rptr.toNat)

/-- A packet that router `q` cannot forward (R258). -/
def misrouted (q : QuadId) (p : Packet) : Bool :=
  p.rptr = p.rlen || (p.rptr + 1 = p.rlen && !portServes q (pktNibble p) p.dst)

/-- ROUTER_PACKET: the sideband check, then one hop. -/
def routerPacket (s : State) (q : QuadId) (p : Packet) (side : Ecc) : State :=
  let (sent, s) := if p.sub || p.kind = 2 || p.kind = 3 || p.kind = 5 then (true, s) else issue s p
  if !sent then s
  else
    let s := takePacket s p
    if side = .bad then onRouter s q fun r => { r with ue := bump r.ue }
    else
      let s := if side = .corrected then onRouter s q fun r => { r with ce := bump r.ce } else s
      if misrouted q p then onRouter s q fun r => { r with misroute := bump r.misroute }
      else
        let port := pktNibble p
        let out := { p with rptr := p.rptr + 1, lane := p.lane || (8 ≤ port && port ≤ 10) }
        onNet s fun n => { n with wires := n.wires ++ [(q, fin 16 port, out)] }

/-! ### Timeouts (11 R268) -/

/-- TIMEOUT_US in use. -/
def Ni.timeout (x : Ni) : Nat := clampNat 1 1000000 x.timeoutUs.toNat

/-- NI_TIMEOUT of a slot whose timer has expired: a TIMEOUT response for the unit, and the slot's next generation; the row of a
write that timed out is unspecified from then on. -/
def niTimeout (s : State) (n : NiId) (slot : Fin 256) : State :=
  let ni := s.net.nis[n.val]
  match ni.out.find? (·.slot = slot) with
  | none => s
  | some o =>
    if usElapsed s o.since ni.timeout then
      let s := if o.kind = 1 then looseRow s o.addr.toNat else s
      let resp : Packet :=
        { route := 0, rptr := 0, rlen := 0, vn := o.vn, sub := true, lane := false, kind := o.kind, src := o.dst, dst := n,
          gen := ni.gens[slot.val], slot := slot, epoch := ni.epv[o.dst.val], status := .timeout, addr := 0, xinfo := 0,
          payload := [] }
      deliver (onNi s n fun x => { x with timeouts := bump x.timeouts, gens := vmod x.gens slot fun g => g + 1 }) n o resp .timeout
    else s

/-! ### Admission and epochs (11 R270, R271) -/

/-- FLUSH: every accepted and unanswered request is answered OFFLINE; the unit's later responses to those tags are
suppressed. -/
def flushNi (s : State) (n : NiId) : State :=
  let reqs := (s.net.nis[n.val]).accepted
  let s := reqs.foldl refuse s
  onNi s n fun x => { x with suppressed := x.suppressed ++ reqs }

/-- REJOIN: a new epoch, every view of it, and ADMIT. -/
def rejoinNi (s : State) (n : NiId) : State :=
  let e := (s.net.nis[n.val]).epoch + 1
  let s := onNet s fun x => { x with nis := x.nis.map fun y => { y with epv := vmod y.epv n fun _ => e } }
  onNi s n fun x => { x with epoch := e, admits := true }

/-- A write of NI_CTL: ADMIT; FLUSH acts before REJOIN; ROUTE_REJ is write-1-to-clear. -/
def niCtl (s : State) (n : NiId) (v : Word) : State :=
  let s := onNi s n fun x => { x with admits := bitOf v 31, routeRej := x.routeRej && !bitOf v 28 }
  let s := if bitOf v 29 then flushNi s n else s
  if bitOf v 30 then rejoinNi s n else s

/-! ### Route entries (11 R259, R261) -/

/-- A route that names more than two chords, or ends in one. -/
def routeBad (v : Word) : Bool :=
  let nibs := (List.range (routeLen v)).map (routeNib v)
  let chord := fun (x : Nat) => decide (8 ≤ x) && decide (x ≤ 10)
  2 < (nibs.filter chord).length || (match nibs.getLast? with | some x => chord x | none => false)

/-- Reserved bits of ROUTE_d read 0. -/
def routeMask (v : Word) : Word := v &&& 0xF0FFFFFF

/-- No request of the interface to `d` is outstanding. -/
def Ni.clearTo (x : Ni) (d : NiId) : Bool := !(x.out.any fun o => o.dst = d)

/-- The pending entry of `d` takes effect; requests held for it are issued in order. -/
def applyRoute (s : State) (n d : NiId) : State :=
  let ni := s.net.nis[n.val]
  match ni.routePend[d.val] with
  | none => s
  | some v =>
    if !ni.clearTo d then s
    else
      let held := ni.waiting.filter (·.dst = d)
      let s := onNi s n fun x =>
        { x with routes := vmod x.routes d fun _ => v, routePend := vmod x.routePend d fun _ => none,
                 waiting := x.waiting.filter (·.dst ≠ d) }
      held.foldl (fun s p => let (sent, s) := issue s p; if sent then onNet s fun x => { x with sent := x.sent ++ [p] } else s) s

/-- A write of ROUTE_d. -/
def routeWrite (s : State) (n d : NiId) (v : Word) : State :=
  if routeValid v && routeBad v then onNi s n fun x => { x with routeRej := true }
  else
    let s := onNi s n fun x => { x with routePend := vmod x.routePend d fun _ => some (routeMask v) }
    if (s.net.nis[n.val]).clearTo d then applyRoute s n d else s

/-! ### Meanings -/

def execRouterPacket (q : QuadId) (pkt : Packet) (sideband : Ecc) (s : State) : Result :=
  live s fun s => routerPacket s q pkt sideband
def execRdResp (pkt : Packet) (ecc : Ecc) (s : State) : Result := live s fun s => takeResponse s pkt ecc
def execWrResp (pkt : Packet) (s : State) : Result := live s fun s => takeResponse s pkt .good
def execMsgResp (pkt : Packet) (s : State) : Result := live s fun s => takeResponse s pkt .good
def execNiTimeout (n : NiId) (slot : Fin 256) (s : State) : Result := live s fun s => niTimeout s n slot
def execRejoin (n : NiId) (s : State) : Result := live s fun s => rejoinNi s n
def execFlush (n : NiId) (s : State) : Result := live s fun s => flushNi s n
def execRouteWrite (n : NiId) (d : NiId) (v : Word) (s : State) : Result := live s fun s => routeWrite s n d v
def execRouteTakeEffect (n : NiId) (d : NiId) (s : State) : Result := live s fun s => applyRoute s n d

end Sys2Proof.Machine
end

