-- ==== Sys2Proof/Machine/Walk.lean ====
section
/-! DEFINITION. The tile walk: the shape of a docket's operands, its tiles, its tile-time bound and its footprint (07). -/

namespace Sys2Proof.Machine

/-! ### Operands of a running docket -/

/-- Descriptor of operand `i` (w4 is 0). -/
def Run.desc (r : Run) (i : Nat) : Option Desc := (r.descs.find? (·.1 = i)).map (·.2)

/-- Descriptor of operand `i`, or an empty one. -/
def Run.descD (r : Run) (i : Nat) : Desc := (r.desc i).getD (descOf [])

/-- Operand words of a docket, w4 first. -/
def opWord (w : DocketWords) (i : Nat) : Word := nthW w.toList (4 + i)

/-- Format of a descriptor. -/
def Desc.fm (d : Desc) : Fmt := (fmtOf d.fmt).getD .int8

/-- Bits of one stationary weight of an operand: a codebook weight takes the width of its Mint entries (02 R34). -/
def Desc.weightBits (d : Desc) : Nat :=
  if d.fm.isCodebook then (if d.mintType = 2 then 16 else 8) else d.bits

/-- A walk of MATMUL, MATMUL_ACC or CONV2D. -/
def Opcode.isMatmul : Opcode → Bool
  | .matmul | .matmulAcc | .conv2d => true
  | _ => false

/-- The docket runs FUSE2. -/
def Run.isFuse (r : Run) : Bool := wOpcode r.msg.docket = some .fuse2
def Run.isConv (r : Run) : Bool := wOpcode r.msg.docket = some .conv2d
/-- The docket's arrays are the Sluice's. -/
def Run.onSluice (r : Run) : Bool := !r.isFuse && (r.plan.map (·.sluice)).getD false

/-- Operand index of the output. -/
def Run.outIdx (r : Run) : Nat :=
  match wOpcode r.msg.docket with
  | some .fuse2 => 3
  | some .winnow => 1
  | _ => 2
/-- The output descriptor. -/
def Run.out (r : Run) : Desc := r.descD r.outIdx

/-! ### CONV2D geometry (06 Table 6.2, 07 R169a) -/

def geo (w : DocketWords) : Word := opWord w 5
def convKh (w : DocketWords) : Nat := atLeast1 (bitsOf (geo w) 7 0)
def convKw (w : DocketWords) : Nat := atLeast1 (bitsOf (geo w) 15 8)
def convSh (w : DocketWords) : Nat := atLeast1 (bitsOf (geo w) 19 16)
def convSw (w : DocketWords) : Nat := atLeast1 (bitsOf (geo w) 23 20)
def convDh (w : DocketWords) : Nat := atLeast1 (bitsOf (geo w) 27 24)
def convDw (w : DocketWords) : Nat := atLeast1 (bitsOf (geo w) 31 28)

/-- Channels of an input pixel: the weight rows are (ky, kx, c). -/
def Run.convC (r : Run) : Nat := atLeast1 ((r.descD 1).rows / (convKh r.msg.docket * convKw r.msg.docket))

/-- Output pixels of one image row. -/
def Run.convOw (r : Run) : Nat :=
  let w := r.msg.docket
  let d := r.descD 0
  let width := d.padLeft + d.cols / r.convC + d.padRight
  (width - ((convKw w - 1) * convDw w + 1)) / convSw w + 1

/-- Row and column, in the padded input, of the element that output pixel `p` and weight row `k` meet. -/
def Run.convAt (r : Run) (p k : Nat) : Nat × Nat :=
  let w := r.msg.docket
  let c := r.convC
  let y := p / r.convOw
  let x := p % r.convOw
  let ky := k / (c * convKw w)
  let kx := k / c % convKw w
  (y * convSh w + ky * convDh w, (x * convSw w + kx * convDw w) * c + k % c)

/-! ### Shapes (07 R164-R168, R178) -/

/-- What a walk covers: batches and heads of the output; streamed rows that run, and all of them; K elements; output
channels; K-block size and channels of a block; input planes; BX10 inputs. -/
structure Shape where
  batches : Nat
  heads : Nat
  rows : Nat
  k : Nat
  n : Nat
  kSize : Nat
  ch : Nat
  planes : Nat
  bx : Bool
deriving DecidableEq, Repr

/-- Rows of an input operand with its padding, after a row length: the length limits the operand's own rows. -/
def Desc.padRows (d : Desc) : Nat :=
  match d.len with
  | some n => if d.lenDim = 1 && n = 0 then 0 else d.padTop + d.effRows + d.padBottom
  | none => d.padTop + d.rows + d.padBottom

/-- Columns with padding, after a column length; what lies behind the length is not read. -/
def Desc.padCols (d : Desc) : Nat :=
  match d.len with
  | some n => if d.lenDim = 2 then (if n = 0 then 0 else d.padLeft + d.effCols) else d.padLeft + d.cols + d.padRight
  | none => d.padLeft + d.cols + d.padRight

/-- Keys of FUSE2 after a length on the key operand, which limits keys whichever dimension it names (07 R168). -/
def Desc.keys (d : Desc) : Nat := match d.len with | some n => stopAt d.rows n | none => d.rows

/-- The shape of a walk over the arrays. -/
def Run.shape (r : Run) : Shape :=
  let inp := r.descD 0
  let w := r.descD 1
  let out := r.out
  let base : Shape :=
    { batches := out.batches, heads := out.heads, rows := 0, k := 0, n := 0, kSize := 256, ch := 64,
      planes := inp.fm.planes.getD 8, bx := inp.fm.viaBx10 }
  if r.isFuse then
    { base with rows := min inp.padRows (if out.lenDim = 1 then out.effRows else inp.padRows), k := w.keys,
                n := (r.descD 2).effCols, ch := 512 / (r.descD 2).weightBits }
  else
    let kIn := if r.isConv then w.rows else inp.padCols
    { base with
      rows := if r.isConv then (if inp.padRows = 0 then 0 else out.effRows)
        else min inp.padRows (if out.lenDim = 1 then out.effRows else inp.padRows)
      k := if w.lenDim = 1 then min kIn w.effRows else kIn
      n := if w.lenDim = 2 then min out.effCols w.effCols else out.effCols
      kSize := if r.onSluice then 1024 else 256
      ch := if r.onSluice then 512 else 512 / w.weightBits }

/-- K-blocks, or key blocks, of the walk. -/
def Shape.kb (h : Shape) : Nat := ceilDiv h.k h.kSize
/-- N-blocks of the walk. -/
def Shape.nb (h : Shape) : Nat := ceilDiv h.n h.ch

/-! ### Loop orders (07 R162) -/

/-- The four loop codes of an order, outermost first. -/
def loopCodes (o : BitVec 8) : List Nat := [bitsOf o 7 6, bitsOf o 5 4, bitsOf o 3 2, bitsOf o 1 0]

/-- Each loop occurs once. -/
def isOrder (o : BitVec 8) : Bool := [0, 1, 2, 3].all (loopCodes o).contains

/-- The iterations of nested loops: code `c` counts to `count c`; the result maps a code to its index. -/
def loopNest (count : Nat → Nat) : List Nat → (Nat → Nat) → List (Nat → Nat)
  | [], f => [f]
  | c :: cs, f => (List.range (count c)).flatMap fun i => loopNest count cs fun d => if d = c then i else f d

/-- K ranges of a walk over `kb` blocks, `kt` at a time (0: whole). -/
def kRanges (kb kt : Nat) : List (Nat × Nat × Nat) :=
  let kt := if kt = 0 then atLeast1 kb else kt
  (List.range (ceilDiv kb kt)).map fun i => (i, i * kt, min kt (kb - i * kt))

/-- Output blocks (b, h, m, n) in walk order: L2 tiles in ORDER_L2, tiles in ORDER_L1; batch and head hold one value inside
an L2 tile. -/
def outBlocks (h : Shape) (p : Plan) (nTiles : Nat) : List (Nat × Nat × Nat × Nat) :=
  let m1 := atLeast1 p.m1
  let mr := atLeast1 (p.m2 / m1)
  let nr := atLeast1 (p.n2 / atLeast1 p.n1)
  let mTiles := ceilDiv h.rows m1
  let l2 := loopNest (fun c => if c = 0 then h.batches else if c = 1 then h.heads else if c = 2 then ceilDiv mTiles mr
    else ceilDiv nTiles nr) (loopCodes p.orderL2) fun _ => 0
  l2.flatMap fun f =>
    let inner := loopNest (fun c => if c = 2 then min mr (mTiles - f 2 * mr) else if c = 3 then min nr (nTiles - f 3 * nr)
      else 1) (loopCodes p.orderL1) fun _ => 0
    inner.map fun g => (f 0, f 1, f 2 * mr + g 2, f 3 * nr + g 3)

/-- Rank of a Mill among the Mills of a docket, and their number: output blocks are dealt to them in turn. -/
def millRank (w : DocketWords) (m : MillId) : Nat × Nat :=
  let ms := maskMills (wMask w)
  ((ms.takeWhile (· ≠ m)).length, atLeast1 ms.length)

/-- The elements of a list dealt to rank `i` of `n`. -/
def dealt {α : Type} (l : List α) (i n : Nat) : List α := (l.zipIdx.filter fun x => x.2 % n = i).map (·.1)

/-- Key blocks a FUSE2 row tile needs: with CAUSAL, those that begin at or before its last row's position (07 R180). -/
def Run.keyBlocks (r : Run) (p : Plan) (lastRow : Nat) : Nat :=
  if bitOf (opWord r.msg.docket 5) 8 then min r.shape.kb ((p.qOff.toNat + lastRow) / 256 + 1) else r.shape.kb

/-- The tiles of one Mill of a walk over the arrays. -/
def Run.arrayTiles (r : Run) (p : Plan) (m : MillId) : List Tile :=
  let h := r.shape
  let n1 := atLeast1 p.n1
  let (rank, count) := millRank r.msg.docket m
  let blocks := if h.k = 0 || h.n = 0 then [] else outBlocks h p (if r.isFuse then 1 else ceilDiv h.nb n1)
  (dealt blocks rank count).flatMap fun (b, hd, mi, ni) =>
    let row0 := mi * p.m1
    let rows := min p.m1 (h.rows - row0)
    let kb := if r.isFuse then r.keyBlocks p (row0 + rows - 1) else h.kb
    let ks := kRanges kb p.kt
    ks.map fun (kr, k0, kn) =>
      { b := b, h := hd, m := mi, n := ni, kr := kr, row0 := row0, rows := rows, k0 := k0, ks := kn,
        n0 := if r.isFuse then 0 else ni * n1, ns := if r.isFuse then h.nb else min n1 (h.nb - ni * n1),
        lastK := kr + 1 = ks.length }

/-- Rows of a WINNOW or HIST tile (07 R171). -/
def directRows (cols : Nat) : Nat := atLeast1 (4096 / atLeast1 cols)

/-- The tiles of one Mill of a WINNOW or HIST docket. -/
def Run.directTiles (r : Run) (m : MillId) : List Tile :=
  let inp := r.descD 0
  let step := directRows inp.padCols
  let rows := if wOpcode r.msg.docket = some .winnow && r.out.lenDim = 1 then min inp.padRows r.out.effRows else inp.padRows
  let rows := if inp.padCols = 0 then 0 else rows
  let (rank, count) := millRank r.msg.docket m
  let blocks := (List.range inp.batches).flatMap fun b => (List.range inp.heads).flatMap fun h =>
    (List.range (ceilDiv rows step)).map fun i => (b, h, i)
  (dealt blocks rank count).map fun (b, h, i) =>
    { b := b, h := h, m := i, n := 0, kr := 0, row0 := i * step, rows := min step (rows - i * step), k0 := 0, ks := 1,
      n0 := 0, ns := 1, lastK := true }

/-- The L2 tile a tile belongs to. -/
def Tile.l2 (t : Tile) (p : Plan) : Nat × Nat × Nat × Nat :=
  (t.b, t.h, t.m / atLeast1 (p.m2 / atLeast1 p.m1), t.n / atLeast1 (p.n2 / atLeast1 p.n1))

/-! ### Bank sets (07 Table 7.2 ORDER_L0, R178) -/

/-- The sets of a MATMUL tile, in ORDER_L0: logical Quern `n * SET_K + k` takes K-block `k` of N-block `n` of its set. -/
def matmulSets (p : Plan) (t : Tile) : List (List FillReq) :=
  let gk := ceilDiv t.ks (atLeast1 p.setK)
  let gn := ceilDiv t.ns (atLeast1 p.setN)
  let set := fun (kg ng : Nat) =>
    (List.range (min p.setN (t.ns - ng * p.setN))).flatMap fun n =>
      (List.range (min p.setK (t.ks - kg * p.setK))).map fun k =>
        ({ quern := fin 6 (n * p.setK + k), kblk := t.k0 + kg * p.setK + k, nblk := t.n0 + ng * p.setN + n,
           vOperand := false } : FillReq)
  if p.orderL0 then (List.range gk).flatMap fun kg => (List.range gn).map fun ng => set kg ng
  else (List.range gn).flatMap fun ng => (List.range gk).map fun kg => set kg ng

/-- The sets of a FUSE2 tile: each key block is one, its keys on logical Querns 0-3, its values on 4 or 4-5. -/
def fuseSets (h : Shape) (t : Tile) : List (List FillReq) :=
  (List.range t.ks).map fun i =>
    (List.range 4).map (fun q => ({ quern := fin 6 q, kblk := t.k0 + i, nblk := q, vOperand := false } : FillReq))
    ++ (List.range (min 2 h.nb)).map fun n => { quern := fin 6 (4 + n), kblk := t.k0 + i, nblk := n, vOperand := true }

/-- The sets of a tile. -/
def Run.setsOf (r : Run) (t : Tile) : List (List FillReq) :=
  match r.plan with
  | none => []
  | some p => if r.onSluice then [] else if r.isFuse then fuseSets r.shape t else matmulSets p t

/-! ### Tile-time bound (07 R170, R171) -/

/-- Accumulator entries of the largest tile (07 R159, R178). -/
def Run.entries (r : Run) (p : Plan) : Nat :=
  if r.isFuse then p.m1 * (r.shape.n + 2) else p.m1 * p.n1 * r.shape.ch

/-- Bytes one row-tile of `rows` rows spills. -/
def Run.spillBytes (r : Run) (p : Plan) (rows : Nat) : Nat :=
  if r.isFuse then 8 * rows * (r.shape.n + 2) else 8 * rows * p.n1 * r.shape.ch

/-- F of Table 7.3; in flat mode fills share the row port. -/
def Run.fillCycles (r : Run) (p : Plan) (flat : Bool) : Nat :=
  let f := if r.onSluice then 0 else if r.isFuse then 64 * (4 + min 2 r.shape.nb) else 64 * (p.setK * p.setN)
  if flat then ceilDiv (16 * f) 13 else f

/-- C of Table 7.3 for a tile of `rows` rows. -/
def Run.computeCycles (r : Run) (rows : Nat) : Nat :=
  let h := r.shape
  if r.isFuse then rows * h.planes + 32 + ceilDiv (rows * h.n) 64
  else if r.onSluice then 16 * rows * h.planes
  else rows * h.planes

/-- The largest T_bound of a walk over the arrays (07 R170); none of its tiles is longer. -/
def Run.tbound (r : Run) (p : Plan) (flat : Bool) : Nat :=
  let h := r.shape
  let rows := min p.m1 h.rows
  let kt := if p.kt = 0 then h.kb else p.kt
  let s := if r.isFuse then min kt h.kb else ceilDiv kt (atLeast1 p.setK) * (p.n1 / atLeast1 p.setN)
  let f := r.fillCycles p flat
  let lout := if r.onSluice then 64 else if h.bx then 11 else 6
  let elems := rows * (if r.isFuse then h.n else min (p.n1 * h.ch) h.n)
  let spill := ceilDiv (r.spillBytes p rows) 256
  let final := ceilDiv elems 64 + 8
  let old := if wOpcode r.msg.docket = some .matmulAcc then ceilDiv (elems * r.out.bits) (8 * 256) else 0
  let split := kt < h.kb
  let io := if !split then old + final
    else max (old + spill) (max (spill + final) (if 2 < ceilDiv h.kb kt then spill + spill else 0))
  if rows = 0 then 0 else f + s * max f (r.computeCycles rows) + lout + io

/-- The bound of a WINNOW or HIST docket's largest tile (07 R171). -/
def Run.directBound (r : Run) : Nat :=
  let inp := r.descD 0
  let rows := min (directRows inp.padCols) inp.padRows
  let bytes := rows * rowLen inp.bits inp.cols
    + match r.desc 3 with | some d => min rows d.rows * rowLen d.bits d.cols | none => 0
  ceilDiv bytes 256 + ceilDiv (rows * inp.padCols) 64 + 64

/-- TILE_CAP_NS in use (07 SEQ_CTL). -/
def MillRegs.capNs (g : MillRegs) : Nat := clampNat 250 4000 g.tileCap.toNat

/-! ### Footprint (07 R173, Table 7.4a) -/

/-- Rows of 512 bytes of one staging buffer of an operand: each staged row takes whole rows. -/
def stageRows (rows bytes : Nat) : Nat := rows * ceilDiv bytes 512

/-- Source rows of the streamed operand that an L2 tile stages. -/
def Run.l2Rows (r : Run) (p : Plan) : Nat :=
  if r.isConv then
    let w := r.msg.docket
    min (r.descD 0).rows (((p.m2 - 1) / atLeast1 r.convOw + 1) * convSh w + (convKh w - 1) * convDh w + 1)
  else p.m2

/-- Rows of the input staging area, two buffers. -/
def Run.stgInRows (r : Run) (p : Plan) : Nat :=
  let d := r.descD 0
  2 * stageRows (r.l2Rows p) (rowLen d.bits d.cols)

/-- Rows of the weight staging area, two buffers: the whole K range of N2 blocks, or all keys and values. -/
def Run.stgWRows (r : Run) (p : Plan) : Nat :=
  let w := r.descD 1
  if r.isFuse then
    2 * (stageRows w.keys (rowLen w.bits w.cols) + stageRows w.keys (rowLen (r.descD 2).bits (r.descD 2).cols))
  else 2 * stageRows w.effRows (rowLen w.bits (p.n2 * r.shape.ch))

/-- The streamed input is staged; the stationary operands are. The Sluice's weights are resident. -/
def Run.stagesIn (r : Run) : Bool := !(r.descD 0).ownHop
def Run.stagesW (r : Run) : Bool :=
  !r.onSluice && (!(r.descD 1).ownHop || (r.isFuse && !(r.descD 2).ownHop))

/-- Rows `start` to `start + n - 1` from HOP_BASE end inside the Hopper window. -/
def Win.holds (w : Win) (flat : Bool) (start n : Nat) : Bool := decide (w.hopBase + start + n ≤ w.hopBound flat)

/-- The first level, 2 then 1 then 0, at which a tile's footprint fails, with the operand it names. -/
def Run.footprint (r : Run) (p : Plan) (flat : Bool) (t : Tile) : Option (Nat × Nat) :=
  let win := msgWin r.msg
  let lastRow := t.row0 + t.rows - 1
  let overs := r.isConv && decide ((r.descD 0).padRows ≤ (r.convAt lastRow (r.shape.k - 1)).1)
  if overs then some (2, 0)
  else if r.stagesIn && !win.holds flat p.stgIn.toNat (r.stgInRows p) then some (1, 0)
  else if r.stagesW && !win.holds flat p.stgW.toNat (r.stgWRows p) then some (1, 1)
  else if (!t.lastK || t.kr ≠ 0) && !win.holds flat p.spill.toNat (ceilDiv (r.spillBytes p p.m1) 512) then some (1, r.outIdx)
  else if 8192 < r.entries p then some (0, r.outIdx)
  else none

end Sys2Proof.Machine
end

