-- ==== Sys2Proof/Machine/Arrays.lean ====
section
/-! DEFINITION. The array datapaths: elements of an operand, BX10 expansion, the Quern's bit planes, bank rows, the Sluice's
columns, accumulators and requantisation (02, 03, 04). -/

namespace Sys2Proof.Machine

/-! ### Elements of operands (07 R166, R169a) -/

/-- The code of element (row, column) of batch `b`, head `h` in the padded operand; none: padding, or beyond a length. Column
padding counts units of `unit` elements. -/
def Desc.elemAt (d : Desc) (mem : Memory) (off unit b h row col : Nat) : Option Nat :=
  let c0 := d.padLeft * unit
  if row < d.padTop || d.padTop + d.effRows ≤ row || col < c0 || c0 + d.effCols ≤ col then none
  else some (elemCode mem (off + d.row b h (row - d.padTop)) d.bits (col - c0))

/-- The value of an element; padding is zero. -/
def Desc.valueAt (d : Desc) (mem : Memory) (off unit b h row col : Nat) : FVal :=
  match d.elemAt mem off unit b h row col with
  | some c => d.fm.value d.mintType d.mint c
  | none => .fin false 0 0

/-! ### BX10 (02 R32) -/

/-- The largest finite value of an input format, or of an FP16 Mint entry. -/
def Fmt.largest (f : Fmt) : Nat × Int :=
  let ff := f.float.getD fFP16
  (ff.maxM, ff.maxE)

/-- A NaN becomes zero and an infinity the largest finite value: value, NaN counted, infinity counted. -/
def bxClean (big : Nat × Int) : FVal → (Bool × Nat × Int) × Nat × Nat
  | .nan => ((false, 0, 0), 1, 0)
  | .inf neg => ((neg, big.1, big.2), 0, 1)
  | .fin neg m e => ((neg, m, e), 0, 0)

/-- Exponent of the leading bit of a magnitude. -/
def leading (x : Bool × Nat × Int) : Int := x.2.2 + Nat.log2 x.2.1

/-- Mantissas of a block for a chosen emax. -/
def bxRound (xs : List (Bool × Nat × Int)) (emax : Int) : List Int :=
  xs.map fun x => FVal.roundInt false x.1 x.2.1 (x.2.2 + 8 - emax)

/-- One BX10 block: exponent E, mantissas, NaN and infinity counts. -/
structure BxBlock where
  e : Int
  ms : List Int
  nans : Nat
  infs : Nat
deriving DecidableEq, Repr

/-- Expand a block of input values (02 R32). -/
def bxExpand (big : Nat × Int) (vs : List FVal) : BxBlock :=
  let cl := vs.map (bxClean big)
  let xs := cl.map (·.1)
  let nans := (cl.map (·.2.1)).sum
  let infs := (cl.map (·.2.2)).sum
  let live := xs.filter fun x => x.2.1 ≠ 0
  match live with
  | [] => { e := 0, ms := xs.map fun _ => 0, nans := nans, infs := infs }
  | x :: rest =>
    let emax := rest.foldl (fun a y => max a (leading y)) (leading x)
    let ms := bxRound xs emax
    if ms.any fun m => m.natAbs = 512 then
      { e := emax + 1 + 127, ms := bxRound xs (emax + 1), nans := nans, infs := infs }
    else { e := emax + 127, ms := ms, nans := nans, infs := infs }

/-- A list cut into pieces of `n`, at most `fuel` of them. -/
def chunks {α : Type} (n : Nat) : Nat → List α → List (List α)
  | 0, _ => []
  | _ + 1, [] => []
  | k + 1, l => l.take n :: chunks n k (l.drop n)

/-! ### The Quern datapath (03 R45-R47) -/

/-- Rows whose input bit `p` and weight bit in bit-column `col` are both 1. -/
def andCount (xs : List Nat) (rows : List (BitVec 512)) (p col : Nat) : Nat :=
  ((xs.zip rows).filter fun x => x.1.testBit p && x.2.getLsbD col).length

/-- Sign of a plane and weight bit: the sign plane and the sign bit count negative (03 R46). -/
def planeSign (xb wb p b : Nat) : Int := (if p + 1 = xb then -1 else 1) * (if b + 1 = wb then -1 else 1)

/-- The partial sum of channel `ch` over some rows of a bank (03 R46). -/
def quernPart (xb wb : Nat) (xs : List Nat) (rows : List (BitVec 512)) (ch : Nat) : Int :=
  (List.range xb).foldl (fun acc p =>
    (List.range wb).foldl (fun acc b =>
      acc + planeSign xb wb p b * ((andCount xs rows p (ch * wb + b) <<< (p + b) : Nat) : Int)) acc) 0

/-- The partial sums of all channels. -/
def quernParts (xb wb : Nat) (xs : List Nat) (rows : List (BitVec 512)) : List Int :=
  (List.range (512 / wb)).map (quernPart xb wb xs rows)

/-- The planes of a signed input of `w` bits, as its two's complement code. -/
def planesOf (w : Nat) (v : Int) : Nat := (BitVec.ofInt w v).toNat

/-- Width of a bank's weights from its recorded format (03 QSTAT). -/
def bankWb (wfmt : BitVec 2) : Nat := if wfmt = 0 then 4 else if wfmt = 1 then 8 else 16
/-- WFMT of a weight width. -/
def wfmtOf (wb : Nat) : BitVec 2 := if wb = 4 then 0 else if wb = 8 then 1 else 2

/-- Parity bits of a bank row, one for each 64-bit segment (03 R59). -/
def rowParity (x : BitVec 512) : BitVec 8 :=
  BitVec.ofNat 8 ((List.range 8).foldl (fun acc s =>
    acc + flag (((List.range 64).foldl (fun b i => b != x.getLsbD (64 * s + i)) false)) s) 0)

/-! ### Bank rows (03 R45, 02 R34, 07 R164) -/

/-- The element code at a bit address. -/
def bitElem (mem : Memory) (bitAddr bits : Nat) : Nat :=
  if bits = 4 then
    let x := (readByte mem (bitAddr / 8)).toNat
    if bitAddr % 8 = 0 then x % 16 else x / 16
  else readLe mem (bitAddr / 8) (bits / 8)

/-- The weight a source gives for bank row `i` and channel `c`; outside the matrix, and in a format that has no integer
weight, zero. -/
def GoldSrc.weight (g : GoldSrc) (mem : Memory) (off : Nat) (mint : List (BitVec 16)) (i c : Nat) : Int :=
  if g.rows ≤ i || g.chans ≤ c then 0
  else match Fmt.ofCode g.fmt with
    | none => 0
    | some f =>
      let code := bitElem mem ((off + g.addr) * 8 + g.first + i * g.rowStride + c * g.chanStride) f.bits
      if f.isCodebook then (if g.mintType = 1 then sval 8 ((mint.getD code 0).toNat % 256) else (mint.getD code 0).toInt)
      else sval f.bits code

/-- Bank row `i` of a source: bit `b` of channel `c` in bit-column `c * wb + b` (03 R45). -/
def GoldSrc.row (g : GoldSrc) (mem : Memory) (off : Nat) (mint : List (BitVec 16)) (wb i : Nat) : BitVec 512 :=
  (List.range (512 / wb)).foldl (fun (x : BitVec 512) c =>
    x ||| (BitVec.ofInt wb (g.weight mem off mint i c)).zeroExtend 512 <<< (c * wb)) 0

/-- The source holds integer weights; FP8 keys or values, or FP16 Mint entries, have no integer form the spec states. -/
def GoldSrc.integer (g : GoldSrc) : Bool :=
  match Fmt.ofCode g.fmt with
  | some f => if f.isCodebook then g.mintType ≠ 5 else f = .int4 || f = .int8 || f = .int16
  | none => false

/-! ### Accumulators (02 R33, R35; 07 R158) -/

def accLimit : Int := ((2 ^ 47 : Nat) : Int) - 1

/-- Add an integer partial sum: beyond 2^47 - 1 the accumulator sticks. The flag tells of a new saturation. -/
def accAdd : Acc → Int → Acc × Bool
  | .int v true, _ => (.int v true, false)
  | .int v false, x =>
    let t := v + x
    if accLimit < t then (.int accLimit true, true)
    else if t < -accLimit then (.int (-accLimit) true, true)
    else (.int t false, false)
  | .fp w, x => (.fp (fadd w (fofInt x)), false)

/-- Add an FP32 value. -/
def accAddF : Acc → Word → Acc
  | .fp w, x => .fp (fadd w x)
  | .int v s, _ => .int v s

/-- Fold a vector's blocks into one accumulator: integer partials, or BX10 blocks in ascending row order, each scaled by
2^(E - 135) (02 R33). -/
def accBlocks (bx : Bool) (ch : Nat) (a : Acc) : List (Int × List Int) → Acc × Nat
  | [] => (a, 0)
  | (e, ps) :: rest =>
    let v := ps.getD ch 0
    if bx then accBlocks bx ch (accAddF a (fofInt v (e - 135))) rest
    else
      let (a', sat) := accAdd a v
      let (a'', n) := accBlocks bx ch a' rest
      (a'', n + (if sat then 1 else 0))

/-- A spill element (07 R158). -/
def spillWord : Acc → Word64
  | .int v s => BitVec.ofNat 64 ((BitVec.ofInt 48 v).toNat + flag s 48)
  | .fp w => w.zeroExtend 64

/-- Reload a spill element. -/
def unspill (bx : Bool) (x : Word64) : Acc :=
  if bx then .fp (lo32 x) else .int (BitVec.ofNat 48 x.toNat).toInt (bitOf x 48)

/-- Step 1 of requantisation (02 R36). -/
def accWord : Acc → Word
  | .int v _ => fofInt v
  | .fp w => w

/-! ### Winnow element functions (07 Table 7.4) -/

/-- Any NaN is the canonical quiet NaN (02 R27). -/
def fcanon (x : Word) : Word := if fisNan x then fNaN else x

/-- RELU: a NaN stays a NaN, and -0 becomes +0. -/
def relu (x : Word) : Word := if fisNan x then fNaN else if flt 0 x then x else 0

/-- CLAMP to the magnitude of the immediate. -/
def clampF (imm x : Word) : Word :=
  let l := fabs imm
  if fisNan x then fNaN else if flt l x then l else if flt x (fneg l) then fneg l else x

/-- An element function; `second` is the second operand's value. -/
def elementFn (f : Nat) (imm second x : Word) : Word :=
  if f = 1 then relu x else if f = 2 then clampF imm x else if f = 3 then fadd x second else if f = 4 then fmul x second
  else if f = 5 then fcanon (Config.sigmoid x) else if f = 6 then fcanon (Config.exp x) else x

/-- Index of the greatest element, lowest on ties; NaNs are passed over. -/
def argmaxGo : List Word → Nat → Nat → Option Word → Nat
  | [], _, best, _ => best
  | x :: xs, i, best, cur =>
    if fisNan x then argmaxGo xs (i + 1) best cur
    else match cur with
      | none => argmaxGo xs (i + 1) i (some x)
      | some c => if flt c x then argmaxGo xs (i + 1) i (some x) else argmaxGo xs (i + 1) best cur

/-- The greatest element; NaN if any is. -/
def rowMax (xs : List Word) : Word :=
  if xs.any fisNan then fNaN
  else match xs with
    | [] => fNegInf
    | x :: rest => rest.foldl (fun a y => if flt a y then y else a) x

/-- A row function: the values of its output row (07 Table 7.4). -/
def rowFn (f : Nat) (imm : Word) (xs : List Word) : List FVal :=
  if f = 0x10 then (Config.softmax xs).map fval
  else if f = 0x11 then [fval (rowMax xs)]
  else if f = 0x12 then [fval (fcanon (Config.rowSum xs))]
  else if f = 0x13 then [.ofInt (argmaxGo xs 0 0 none)]
  else [.ofInt ((xs.filter fun x => flt imm x).length)]

/-! ### The Sluice datapath (04 R67-R72) -/

/-- Slices of a weight (04 R67). -/
def sliceHi (w : Int) : Int := w / 16
def sliceLo (w : Int) : Int := w - 16 * (w / 16)

/-- Weight of row `k`, channel `n`. -/
def Sluice.weight (u : Sluice) (k n : Nat) : Int := (sGet u.weights (512 * k + n)).toInt

/-- Correction of a pair in a plane: the error of each valid entry whose row is driven, rounded to whole slice units
(04 R72). -/
def Sluice.defectSum (u : Sluice) (driven : Nat → Bool) (pair : Nat) : Int :=
  u.defects.toList.foldl (fun acc d =>
    if d.valid && d.pair.val = pair && driven d.row.val then
      acc + FVal.roundInt false (decide (d.err.toInt < 0)) d.err.toInt.natAbs (-4)
    else acc) 0

/-- One conversion: code and clip (04 R69). The measured sum is a free value, in 1/16 slice units, of the ideal sum. -/
def adc (draw : Nat) (high : Bool) (g : Nat) (ideal : Int) : Int × Bool :=
  let meas := Config.analog draw ideal
  let c := FVal.roundInt false (decide (meas < 0)) meas.natAbs (-4 - (g : Int))
  if high then
    let c := if 127 < c then 127 else if c < -128 then -128 else c
    (c, c = 127 || c = -128)
  else
    let c := if 255 < c then 255 else if c < 0 then 0 else c
    (c, c = 255)

/-- The value of channel `n` in plane `p`, with the clips its two conversions took (04 R70). -/
def Sluice.plane (u : Sluice) (draw : Nat) (xs : List Nat) (p n : Nat) : Int × Nat :=
  let driven := fun k => (xs.getD k 0).testBit p
  let sum := fun (slice : Int → Int) => ((List.range 1024).filter driven).foldl (fun a k => a + slice (u.weight k n)) 0
  let (ch, clipH) := adc draw true u.gHi.toNat (sum sliceHi)
  let (cl, clipL) := adc (draw + 1) false u.gLo.toNat (sum sliceLo)
  let hi := ch * (2 ^ u.gHi.toNat : Nat) + u.defectSum driven (2 * n)
  let lo := cl * (2 ^ u.gLo.toNat : Nat) + u.defectSum driven (2 * n + 1)
  (16 * hi + lo, (if clipH then 1 else 0) + (if clipL then 1 else 0))

/-- The partial sum of channel `n`, and its clips (04 R70). -/
def Sluice.part (u : Sluice) (draw xb : Nat) (xs : List Nat) (n : Nat) : Int × Nat :=
  (List.range xb).foldl (fun (acc : Int × Nat) p =>
    let (v, clips) := u.plane (draw + 2 * (n * xb + p)) xs p n
    let v := if p + 1 = xb then -v else v
    (acc.1 + v * (2 ^ p : Nat), acc.2 + clips)) (0, 0)

/-- Align BX10 blocks to their largest exponent (04 R71): E_max and the shifted mantissas of all rows. -/
def alignBlocks (bs : List BxBlock) : Int × List Int :=
  let emax := bs.foldl (fun a b => max a b.e) 0
  (emax, bs.flatMap fun b => b.ms.map fun m => FVal.roundInt false (decide (m < 0)) m.natAbs (b.e - emax))

end Sys2Proof.Machine
end

