-- ==== Sys2Proof/Machine/Dispatcher.lean ====
section
/-! DEFINITION. The Mill dispatcher: which docket runs, what is read and checked at its dispatch, preemption and resumption
(06 R135, R144; 02 R30, R43; 05 R116-R118; 07 R163, R174; 04 R75, R78). -/

namespace Sys2Proof.Machine

/-! ### What a dispatch check reports -/

/-- A docket that fails a dispatch check: status, subcode, operand index, the FMT_FAULT record (role, format code, MINT_SIZE),
the poisoned row that was read, and the tile bound when it was found. -/
structure DFault where
  st : Byte
  sub : Nat
  operand : Option Nat := none
  fmt : Option (Nat × Nat × Bool) := none
  row : Option Nat := none
  bound : Option Nat := none
deriving DecidableEq, Repr

/-- BOUND_FAULT, DESC_OUTSIDE (05 R117). -/
def outsideFault (i : Nat) : DFault := { st := stBound, sub := 0x08, operand := some i }
/-- FORMAT_FAULT, BAD_PLAN (07 R163). -/
def planFault (i : Option Nat) : DFault := { st := stFormat, sub := 0x09, operand := i }
/-- FORMAT_FAULT, BAD_FORMAT (02 R43). -/
def formatFault (i role code : Nat) (size : Bool) : DFault :=
  { st := stFormat, sub := 0x14, operand := some i, fmt := some (role, code, size) }

/-- Read bytes of the Granary window at a byte offset, for operand `i` (06 R132, 05 R117, R108). -/
def winRead (s : State) (m : MillId) (w : Win) (off len i : Nat) : Except DFault (List Byte) :=
  let a := w.base + off
  if a + len ≤ w.bound then
    match (rowsOf a len).find? fun r => rowStatus s (some m) r ≠ .ok with
    | none => .ok (readBytes s.mem a len)
    | some r =>
      let st := rowStatus s (some m) r
      .error { st := (netReceipt st).1, sub := (netReceipt st).2, operand := some i,
               row := if st = .uncorr then some r else none }
  else .error (outsideFault i)

/-- Little-endian words of bytes. -/
def wordsOf : List Byte → List Word
  | a :: b :: c :: d :: rest => BitVec.ofNat 32 (leNat [a, b, c, d]) :: wordsOf rest
  | _ => []

/-- Absent operand or table (06 R132). -/
def absent (w : Word) : Bool := w = 0xFFFFFFFF

/-! ### Roles (02 Table 2.1) -/

/-- The roles an operand can have: array input, stationary weight, stationary key or value of FUSE2, Winnow read, output. -/
inductive Role where
  | arrayIn | weight | keyValue | winRead | output
deriving DecidableEq, Repr

/-- ROLE of FMT_FAULT: bias and second operands count as inputs. -/
def Role.code : Role → Nat
  | .arrayIn | .winRead => 0
  | .weight | .keyValue => 1
  | .output => 2

/-- A format is accepted in a role. -/
def Role.takes (r : Role) (sluice : Bool) (f : Fmt) : Bool :=
  match r with
  | .arrayIn => f.planes.isSome && !(sluice && f = .int16)
  | .weight => f = .int8 || f.isCodebook || (!sluice && (f = .int4 || f = .int16))
  | .keyValue => f.planes.isSome
  | .winRead => true
  | .output => !f.isCodebook

/-- A Mint ENTRY_TYPE suits a role (02 R29). -/
def Role.takesMint (r : Role) (sluice : Bool) (type : Nat) : Bool :=
  match r with
  | .arrayIn => type = 5
  | .weight => type = 1 || (!sluice && type = 2)
  | .keyValue => type = 1 || type = 5
  | .winRead => type = 1 || type = 2 || type = 5
  | .output => false

/-- The descriptor operands of a docket: index, role, whether it must be there (06 Table 6.2). -/
def operandsOf (w : DocketWords) : List (Nat × Role × Bool) :=
  match wOpcode w with
  | some .matmul | some .matmulAcc | some .conv2d =>
    [(0, .arrayIn, true), (1, .weight, true), (2, .output, true), (4, .winRead, false)]
  | some .fuse2 => [(0, .arrayIn, true), (1, .keyValue, true), (2, .keyValue, true), (3, .output, true)]
  | some .loadw | some .sluProg => [(0, .weight, true)]
  | some .hist => [(0, .winRead, true)]
  | some .winnow =>
    let f := bitsOf (opWord w 2) 7 0
    [(0, .winRead, true), (1, .output, true)] ++ (if f = 3 || f = 4 then [(3, .winRead, true)] else [])
  | _ => []

/-- Index of the plan operand. -/
def planIdx (w : DocketWords) : Option Nat :=
  match wOpcode w with
  | some o => if o.isMatmul then some 3 else if o = .fuse2 then some 4 else none
  | none => none

/-! ### Reading operands (06 R135, 02 R30) -/

/-- The length word a descriptor names. -/
def readLen (s : State) (m : MillId) (w : Win) (i : Nat) (off : Word) (dim : BitVec 2) : Except DFault (Option Nat) :=
  if absent off || dim = 0 || dim = 3 then .ok none
  else if off.toNat % 4 ≠ 0 then .error { st := stFormat, sub := 0, operand := some i }
  else (winRead s m w off.toNat 4 i).map fun bs => some (leNat bs)

/-- Read one descriptor and its length word; its base stays the descriptor address. -/
def readDesc (s : State) (m : MillId) (w : Win) (d : Word) (i : Nat) : Except DFault Desc := do
  let ws := wordsOf (← winRead s m w (d.toNat * 64) 64 i)
  let desc := descOf ws
  let len ← readLen s m w i (nthW ws 8) desc.lenDim
  return { desc with len := len }

/-- Check a descriptor's format in its role, and read its Mint table (02 R29, R30, R43). -/
def checkFormat (s : State) (m : MillId) (w : Win) (sluice : Bool) (i : Nat) (role : Role) (d : Desc) :
    Except DFault Desc :=
  match fmtOf d.fmt with
  | none => .error (formatFault i role.code (bitsOf d.fmt 3 0) false)
  | some f =>
    if !role.takes sluice f then .error (formatFault i role.code (bitsOf d.fmt 3 0) false)
    else if !f.isCodebook then .ok d
    else if absent d.mintOff then .error (formatFault i 3 0 false)
    else do
      let log2 := if f = .cb4 then 4 else 8
      let bs ← winRead s m w (d.mintOff.toNat * 64) (64 + 2 * 2 ^ log2) i
      let hdr := BitVec.ofNat 32 (leNat (bs.take 4))
      let type := bitsOf hdr 7 4
      if bitsOf hdr 3 0 ≠ log2 then .error (formatFault i 3 type true)
      else if !role.takesMint sluice type then .error (formatFault i 3 type false)
      else return { d with mintType := type
                           mint := (List.range (2 ^ log2)).map fun k => BitVec.ofNat 16 (leNat ((bs.drop (64 + 2 * k)).take 2)) }

/-- Check a descriptor's extent against its window, and translate its base (05 R116, R117; 06 R136). -/
def checkExtent (s : State) (m : MillId) (w : Win) (i : Nat) (d : Desc) : Except DFault Desc :=
  match effRange s.granary.flat m.val w d.base d.extent with
  | some a => .ok { d with base := a, ownHop := inOwnHop d.base }
  | none => .error (outsideFault i)

/-- Read all descriptors of a docket. -/
def readAll (s : State) (m : MillId) (w : Win) (dw : DocketWords) :
    List (Nat × Role × Bool) → Except DFault (List (Nat × Role × Desc))
  | [] => .ok []
  | (i, role, must) :: rest =>
    let d := opWord dw i
    if absent d then
      if must then .error { st := stFormat, sub := 0, operand := some i } else readAll s m w dw rest
    else do
      let desc ← readDesc s m w d i
      return (i, role, desc) :: (← readAll s m w dw rest)

/-- Apply a check to every descriptor in turn. -/
def checkAll (f : Nat → Role → Desc → Except DFault Desc) :
    List (Nat × Role × Desc) → Except DFault (List (Nat × Role × Desc))
  | [] => .ok []
  | (i, role, d) :: rest => do
    let d ← f i role d
    return (i, role, d) :: (← checkAll f rest)

/-- The plan of a docket. -/
def readPlan (s : State) (m : MillId) (w : Win) (dw : DocketWords) : Except DFault (Option Plan) :=
  match planIdx dw with
  | none => .ok none
  | some i =>
    let d := opWord dw i
    if absent d then .error { st := stFormat, sub := 0, operand := some i }
    else (winRead s m w (d.toNat * 64) 64 i).map fun bs => some (planOf (wordsOf bs))

/-! ### Plan checks (07 R163, R170, R171, R176, R178, R179) -/

/-- Element codes of Table 7.4 that an epilogue may name. -/
def epiLegal (c : Nat) : Bool := [0, 1, 2, 5, 6].contains c

/-- Functions of WINNOW. -/
def winnowLegal (c : Nat) : Bool := c ≤ 6 || (0x10 ≤ c && c ≤ 0x14)

/-- An operand's batches and heads fit the output's (07 R163). -/
def Run.batchFault (r : Run) : Option Nat :=
  let out := r.out
  (r.descs.find? fun (_, d) => !((d.batches = 1 || d.batches = out.batches) && (d.heads = 1 || d.heads = out.heads))).map (·.1)

/-- A plan of MATMUL, MATMUL_ACC or CONV2D is legal. -/
def Run.planLegal (r : Run) (p : Plan) : Bool :=
  let h := r.shape
  isOrder p.orderL2 && isOrder p.orderL1 && 1 ≤ p.m1 && p.m1 ≤ 4096
    && (if p.sluice then p.setK = 1 && p.setN = 1 else 1 ≤ p.setK && 1 ≤ p.setN && p.setK * p.setN ≤ 6)
    && 1 ≤ p.n1 && 1 ≤ p.n2 && 1 ≤ p.m2
    && p.n1 % p.setN = 0 && p.m2 % p.m1 = 0 && p.n2 % p.n1 = 0
    && (p.kt = 0 || p.kt % p.setK = 0)
    && !(r.stagesIn && absent p.stgIn) && !(r.stagesW && absent p.stgW)
    && !(p.kt ≠ 0 && p.kt < h.kb && absent p.spill)
    && epiLegal p.epi.toNat
    && !(p.sluice && (1024 < h.k || 512 < r.out.cols))

/-- A plan and shape of FUSE2 are legal. -/
def Run.fuseLegal (r : Run) (p : Plan) : Bool :=
  let h := r.shape
  isOrder p.orderL2 && isOrder p.orderL1 && 1 ≤ p.m1 && p.m1 ≤ 4096 && p.m2 % p.m1 = 0 && p.n2 % atLeast1 p.n1 = 0
    && !(r.stagesIn && absent p.stgIn) && !(r.stagesW && absent p.stgW)
    && !(p.kt ≠ 0 && p.kt < h.kb && absent p.spill)
    && epiLegal p.epi.toNat
    && bitsOf (opWord r.msg.docket 5) 3 0 ≤ 1
    && (r.descD 0).padCols ≤ 256 && (r.descD 2).cols ≤ 128
    && (r.descD 0).rows ≤ 65536 && (r.descD 1).rows ≤ 65536
    && p.m1 * ((r.descD 2).cols + 2) ≤ 8192
    && [0, 1, 2].all fun i => (r.descD i).fm ≠ .int16

/-- A second operand of WINNOW has the input's shape or is one row (07 R176). -/
def Run.winnowShape (r : Run) : Bool :=
  match r.desc 3 with
  | none => true
  | some d => d.cols = (r.descD 0).padCols && (d.rows = 1 || d.rows = (r.descD 0).padRows)

/-- A WINNOW docket names a function, over rows it accepts. -/
def Run.winnowLegal (r : Run) : Bool :=
  let f := bitsOf (opWord r.msg.docket 2) 7 0
  Machine.winnowLegal f && !(0x10 ≤ f && 8192 < (r.descD 0).padCols) && r.winnowShape

/-- The bound of a docket, for TBOUND and TILE_CAP; none where neither R170 nor R171 gives one. -/
def Run.bound (r : Run) (flat : Bool) : Option Nat :=
  match wOpcode r.msg.docket with
  | some .winnow | some .hist => some r.directBound
  | _ => r.plan.map fun p => r.tbound p flat

/-- Plan and shape checks. -/
def Run.planCheck (r : Run) (flat : Bool) (cap : Nat) : Except DFault Unit :=
  let overs : Except DFault Unit := match r.bound flat with
    | some t => if cap * 8 < t * 5 then .error { st := stFormat, sub := 0x0A, bound := some t } else .ok ()
    | none => .ok ()
  match r.plan, wOpcode r.msg.docket with
  | some p, some o =>
    if !(if o = .fuse2 then r.fuseLegal p else r.planLegal p) then .error (planFault (planIdx r.msg.docket))
    else match r.batchFault with
      | some i => .error (planFault (some i))
      | none => overs
  | _, some .winnow => if !r.winnowLegal then .error (planFault none) else overs
  | _, _ => overs

/-- Every field of the Sluice is VALID or in programming (04 R75). -/
def Sluice.usable (u : Sluice) : Bool := u.fields.all fun f => f.state ≠ .invalid && f.state ≠ .failed

/-! ### The dispatch -/

/-- Plots a docket's windows touch on a Mill (05 R118). -/
def winPlots (flat : Bool) (m : MillId) (w : Win) : List PlotId :=
  (List.finRange 96).filter fun p =>
    let lo := p.val * 0x400000
    (decide (w.base < lo + 0x400000) && decide (lo < w.bound) && decide (w.base < w.bound))
      || (flat && decide (p.val / 6 = m.val))

/-- A run before its operands are read. -/
def newRun (s : State) (h : HandoutMsg) : Run :=
  { slot := h.slot, msg := h, descs := [], plan := none, start := none, dispatched := now s, walked := false, todo := [],
    staged := [], stagedMem := [], stageCount := 0, issued := [], cur := none, tiles := 0, sat := 0, nan := 0, refused := 0,
    seqUsed := 0, detail := 0, ending := none, abort := none, slu := none }

/-- Read and check everything of a docket, in the order of this model (log entry 18): descriptors and plan,
formats, extents, plan, Sluice fields, tile bound. -/
def prepare (s : State) (m : MillId) (h : HandoutMsg) : Except DFault Run := do
  let w := msgWin h
  let descs ← readAll s m w h.docket (operandsOf h.docket)
  let plan ← readPlan s m w h.docket
  let sluice := (plan.map (·.sluice)).getD (wOpcode h.docket = some .sluProg) && wOpcode h.docket ≠ some .fuse2
  let descs ← checkAll (fun i role d => checkFormat s m w sluice i role d) descs
  let descs ← checkAll (fun i _ d => checkExtent s m w i d) descs
  let r := { newRun s h with descs := descs.map fun (i, _, d) => (i, d), plan := plan }
  if r.plan.isSome && r.onSluice && !(s.mills[m.val]).sluice.usable then
    r.planCheck s.granary.flat 0xFFFFFFFF
    .error { st := stUncorr, sub := 0 }
  else
    r.planCheck s.granary.flat (s.mills[m.val]).regs.capNs
    return r

/-- FMT_FAULT takes a violation while VALID is 0 (02 R43). -/
def MillRegs.logFormat (g : MillRegs) (tag : BitVec 16) (operand : Nat) (f : Nat × Nat × Bool) : MillRegs :=
  if bitOf g.fmtFault 31 then g
  else { g with fmtFault := img (2 ^ 31 + tag.toNat)
                fmtFaultInfo := img (operand % 16 * 2 ^ 8 + f.1 % 4 * 2 ^ 6 + flag f.2.2 4 + f.2.1 % 16) }

/-- A docket fails at its dispatch: it ends with tiles done 0. -/
def dispatchFault (s : State) (m : MillId) (h : HandoutMsg) (f : DFault) : State :=
  let s := match f.row with | some a => logError s a true true false 0 | none => s
  let s := match f.fmt with
    | some x => onRegs s m fun g => g.logFormat (wTag h.docket) (f.operand.getD 0) x
    | none => s
  let mid := match wOpcode h.docket with
    | some o => if o.namesOperand then f.operand.getD 0xFF else 0
    | none => 0
  sendDone s m h f.st (mkDetail f.sub mid 0) (now s) 0 0

/-- Order among waiting dockets: class, then URGENT chutes ascending, the others by arrival (01 R22, 06 R143). -/
def Held.before (a b : Held) : Bool :=
  if a.msg.cls ≠ b.msg.cls then decide (b.msg.cls < a.msg.cls)
  else if a.msg.cls = 3 && a.msg.chute ≠ b.msg.chute then decide (a.msg.chute < b.msg.chute)
  else decide (a.order < b.order)

/-- The first of a list in an order. -/
def firstBy {α : Type} (lt : α → α → Bool) : List α → Option α
  | [] => none
  | a :: rest => match firstBy lt rest with
    | none => some a
    | some b => if lt b a then some b else some a

/-- A docket of class `a` preempts one of class `b` (06 R144). -/
def preempts (a b : Fin 4) : Bool := (a = 3 && b ≠ 3) || (a = 2 && (b = 1 || b = 0))

/-- Dockets a Mill holds that neither run nor are preempted. -/
def Mill.waiting (x : Mill) : List Held :=
  (x.slots.toList.filterMap id).filter fun h =>
    !(x.running.any fun r => r.slot = h.msg.slot) && !(x.preempted.any fun r => r.slot = h.msg.slot)

/-- The waiting docket that is to run next: with dockets preempted, only one that would preempt the newest of them. -/
def Mill.nextHeld (x : Mill) : Option Held :=
  let l := match x.preempted with
    | [] => x.waiting
    | r :: _ => x.waiting.filter fun h => preempts h.msg.cls r.msg.cls
  firstBy Held.before l

/-- An opcode whose docket has boundaries before its end: tiles, or the groups of a verify or refresh. SLU_PROG has none
(04 R78, R81, R85). -/
def Opcode.tiled (o : Opcode) : Bool :=
  o.isMatmul || o = .fuse2 || o = .winnow || o = .hist || o = .sluVerify || o = .sluRefresh

/-- The running docket is preemptible at its boundaries (06 R144). -/
def Run.preemptible (r : Run) : Bool :=
  wPreemptible r.msg.docket && (match wOpcode r.msg.docket with | some o => o.tiled | none => false)

/-- A waiting docket preempts the running one at a tile boundary (06 R144). -/
def Mill.wantsPreempt (x : Mill) : Bool :=
  match x.running with
  | none => false
  | some r => r.preemptible && decide (x.preempted.length < 2) && x.waiting.any fun h => preempts h.msg.cls r.msg.cls

/-- Preempt the running docket at a boundary: a prefetched tile is discarded and counts as not issued, and its fills with
it (07 R158, R174). -/
def preemptNow (s : State) (m : MillId) : State :=
  onMill s m fun x =>
    match x.running with
    | none => x
    | some r =>
      { x.dropFills with
        running := none
        preempted := { r with issued := [], todo := r.issued ++ r.todo, staged := [] } :: x.preempted }

/-- A docket that needs the Sluice's arrays for compute, as its plan reads (04 R78). -/
def needsSluice (s : State) (m : MillId) (h : HandoutMsg) : Bool :=
  match wOpcode h.docket with
  | some o =>
    o.isMatmul && (match readPlan s m (msgWin h) h.docket with | .ok (some p) => p.sluice | _ => false)
  | none => false

/-- The running docket is a SLU_PROG that has begun to pulse. -/
def Mill.programming (x : Mill) : Bool :=
  x.running.any fun r => wOpcode r.msg.docket = some .sluProg && r.slu.isSome

/-- TBOUND takes the bound of a dispatched docket (07 Table 7.5). -/
def setBound (s : State) (m : MillId) (t : Option Nat) : State :=
  match t with
  | some t => onRegs s m fun g => { g with tbound := img (stopAt 0xFFFFFFFF t) }
  | none => s

/-- Start the docket of a slot: the owner check of R118, which may hold it; then its reads and checks. -/
def startHeld (s : State) (m : MillId) (h : HandoutMsg) : State :=
  let plots := winPlots s.granary.flat m (msgWin h)
  if plots.any fun p => (s.granary.plots[p.val]).owner ≠ h.tenant then
    dispatchFault s m h { st := stBound, sub := 0x04 }
  else if plots.any fun p => (s.granary.plots[p.val]).clearing then s
  else
    match prepare s m h with
    | .error f => dispatchFault (setBound s m f.bound) m h f
    | .ok r =>
      if r.onSluice && r.plan.isSome && !(s.mills[m.val]).sluice.compDone then s
      else
        onMill (setBound s m (r.bound s.granary.flat)) m fun x => { x with running := some r }

/-- Whether the dispatcher may issue: out of reset, not clearing, no remap in progress (03 R64, 05 R120, 19 R437). -/
def Mill.mayIssue (x : Mill) : Bool :=
  x.mb.rstN && x.mb.porstN && !x.regs.hopClearing && !x.regs.remapBusy

/-- DISPATCH: a docket starts on an idle dispatcher, or preempts at a boundary; while SLU_PROG runs, a waiting docket that
computes on the Sluice completes TARGET_OFFLINE. -/
def dispatch (s : State) (m : MillId) : State :=
  let x := s.mills[m.val]
  if !x.mayIssue then s
  else if x.programming then
    match firstBy Held.before (x.waiting.filter fun h => needsSluice s m h.msg) with
    | some h => dispatchFault s m h.msg { st := stOffline, sub := 0 }
    | none => s
  else
    let atBoundary := match x.running with
      | some r => r.cur.isNone && r.ending.isNone && r.abort.isNone && x.wantsPreempt
      | none => true
    if !atBoundary then s
    else
      let s := if x.running.isSome then preemptNow s m else s
      match (s.mills[m.val]).nextHeld with
      | some h => startHeld s m h.msg
      | none => s

/-- DOCKET_RESUME: the most recently preempted docket runs on once nothing waits that would preempt it (01 R18, 06 R144). -/
def resume (s : State) (m : MillId) : State :=
  let x := s.mills[m.val]
  match x.running, x.preempted with
  | none, r :: rest =>
    if x.mayIssue && x.nextHeld.isNone then onMill s m fun x => { x with running := some r, preempted := rest } else s
  | _, _ => s

/-! ### Meanings -/

def execDispatch (m : MillId) (s : State) : Result := liveRows s fun s => dispatch s m
def execDocketResume (m : MillId) (s : State) : Result := live s fun s => resume s m

end Sys2Proof.Machine
end

