-- ==== Sys2Proof/Machine/Tally.lean ====
section
/-! DEFINITION. The Tally: histograms, moments and signature bands (04 R92-R94, 02 R42). -/

namespace Sys2Proof.Machine

/-- `floor` of a value; none for NaN and infinities. -/
def FVal.floor : FVal → Option Int
  | .fin neg m e =>
    let x : Int := if neg then -(m : Int) else m
    some (if 0 ≤ e then x * (2 ^ e.toNat : Nat) else x / ((2 ^ (-e).toNat : Nat) : Int))
  | _ => none

/-- Where a sample goes: a bin, underflow (none, false) or overflow (none, true). -/
inductive BinAt where
  | bin (i : Fin 64) | under | overs
deriving DecidableEq, Repr

/-- Linear bins: floor ((v - LO) / WIDTH) (04 R92). -/
def linearBin (lo width : Word) (v : FVal) : BinAt :=
  match v with
  | .nan => .under
  | .inf neg => if neg then .under else .overs
  | v =>
    match ((v.add (fval lo).neg).div (fval width)).floor with
    | none => .under
    | some i => if i < 0 then .under else if 63 < i then .overs else .bin (fin 64 i.toNat)

/-- Log2 bins: |v| in [2^(E0+i), 2^(E0+i+1)) (04 R92). -/
def logBin (e0 : Int) (v : FVal) : BinAt :=
  match v with
  | .nan => .under
  | .inf _ => .overs
  | .fin _ m e =>
    if m = 0 then .under
    else
      let i := e + Nat.log2 m - e0
      if i < 0 then .under else if 63 < i then .overs else .bin (fin 64 i.toNat)

/-- The bin of a written value; a saturated or infinite value goes to overflow (02 R42). -/
def Hist.binOf (h : Hist) (v : FVal) (sat : Bool) : BinAt :=
  if sat then .overs
  else if h.mode then logBin (sval 8 (bitsOf h.lo 7 0)) v else linearBin h.lo h.width v

/-- The binary64 word of a value, half to even. -/
def dword (v : FVal) : Word64 := BitVec.ofNat 64 (fFP64.encode v)
/-- The value of a binary64 word. -/
def dval (x : Word64) : FVal := fFP64.decode x.toNat

/-- A sample enters the bins and, unless it is a NaN, the moments (04 R92, R93). -/
def Hist.sample (h : Hist) (x : Word) (sat : Bool) : Hist :=
  if !h.en then h
  else
    let v := fval x
    let h := { h with count := bump h.count }
    let h := match h.binOf v sat with
      | .bin i => { h with bins := vmod h.bins i fun c => bump c }
      | .under => { h with under := bump h.under }
      | .overs => { h with overs := bump h.overs }
    if fisNan x then h
    else
      { h with
        min := if flt x h.min then x else h.min
        max := if flt h.max x then x else h.max
        sum := dword ((dval h.sum).add v)
        sumsq := dword ((dval h.sumsq).add (dval (dword (v.mul v)))) }

/-- Window length of a band; 0 acts as 1. -/
def SigBand.length (b : SigBand) : Nat := atLeast1 b.window.toNat

def SigBand.en (b : SigBand) : Bool := bitOf b.cfg 31
def SigBand.hist (b : SigBand) : Fin 4 := fin 4 (bitsOf b.cfg 29 28)
def SigBand.bell (b : SigBand) : BellId := fin 256 (bitsOf b.cfg 7 0)

/-- The window restarts. -/
def SigBand.restart (b : SigBand) : SigBand := { b with seen := 0, hits := 0 }

/-- The fraction of a finished window (04 R94). -/
def SigBand.frac (b : SigBand) : Word := fdiv (fofInt b.hits) (fofInt b.length)

/-- The fraction lies outside [FRAC_MIN, FRAC_MAX]. -/
def SigBand.violates (b : SigBand) : Bool := flt b.frac b.fracMin || flt b.fracMax b.frac

/-- The window of a band ends: LAST_FRAC, VIOL, and a fresh window (04 R94). -/
def SigBand.finish (b : SigBand) : SigBand :=
  { b with lastFrac := b.frac, viol := if b.violates then bump b.viol else b.viol, seen := 0, hits := 0 }

/-- End the window of band `b` when it is full, with its Bell on a violation. -/
def windowEnd (s : State) (m : MillId) (b : Fin 8) : State :=
  let x := (s.mills[m.val]).bands[b.val]
  if x.en && decide (x.length ≤ x.seen) then
    let s := onMill s m fun y => { y with bands := vmod y.bands b SigBand.finish }
    if x.violates then raiseBell s x.bell else s
  else s

/-- A sample of histogram `h` is counted by the bands on it. -/
def bandSample (h : Fin 4) (at_ : BinAt) (b : SigBand) : SigBand :=
  if b.en && b.hist = h then
    let hit := match at_ with
      | .bin i => decide (bitsOf b.cfg 21 16 ≤ i.val) && decide (i.val ≤ bitsOf b.cfg 27 22)
      | _ => false
    { b with seen := b.seen + 1, hits := b.hits + (if hit then 1 else 0) }
  else b

/-- Present one value to a histogram of a Mill (02 R42, 04 R92-R94): full windows end first. -/
def tallySample (m : MillId) (h : Fin 4) (s : State) (v : Word × Bool) : State :=
  let hist := (s.mills[m.val]).hists[h.val]
  if !hist.en then s
  else
    let s := (List.finRange 8).foldl (fun s b => windowEnd s m b) s
    onMill s m fun x =>
      { x with hists := vmod x.hists h fun y => y.sample v.1 v.2
               bands := x.bands.map (bandSample h (hist.binOf (fval v.1) v.2)) }

/-- A write of HCFG: MODE and EN are written; CLR zeroes bins and moments and restarts the windows of the histogram's bands,
before the samples of that cycle (04 R93, R94). -/
def histCfg (s : State) (m : MillId) (h : Fin 4) (v : Word) (samples : List Word) : State :=
  let s := onMill s m fun x =>
    { x with
      hists := vmod x.hists h fun y =>
        let y := { y with mode := bitOf v 1, en := bitOf v 0 }
        if bitOf v 31 then { Hist.reset with mode := y.mode, en := y.en, lo := y.lo, width := y.width } else y
      bands := if bitOf v 31 then x.bands.map fun b => if b.hist = h then b.restart else b else x.bands }
  (samples.map fun w => (w, false)).foldl (tallySample m h) s

def execHistClear (m : MillId) (h : Fin 4) (v : Word) (samples : List Word) (s : State) : Result :=
  liveRows s fun s => histCfg s m h v samples
def execSigWindowEnd (m : MillId) (b : Fin 8) (s : State) : Result := liveRows s fun s => windowEnd s m b

end Sys2Proof.Machine
end

