-- ==== Sys2Proof/Machine/Tiles.lean ====
section
/-! DEFINITION. The tile sequencer: the walk of each opcode, staging, issue, completion and the Winnow's writes
(07, 02 R36-R42). -/

namespace Sys2Proof.Machine

/-! ### Where a tile reads (07 Table 7.1, R160) -/

/-- Key offset of the staging buffer that serves L2 tile `i`: two buffers alternate. -/
def bufferKey (i : Nat) : Nat := i % 2 * 2 ^ 48

/-- Key offset of the staged copy a tile reads. -/
def Run.stageKey (r : Run) (p : Plan) (t : Tile) : Nat :=
  bufferKey (r.stageCount - r.staged.length + (r.staged.takeWhile (· ≠ t.l2 p)).length)

/-- Memory and key offset from which a tile reads an operand: in place, or its staged copy. -/
def srcOf (s : State) (r : Run) (t : Tile) (d : Desc) : Memory × Nat :=
  match r.plan with
  | some p => if d.ownHop then (s.mem, 0) else (r.stagedMem, r.stageKey p t)
  | none => (s.mem, 0)

/-- What a read of `len` bytes at an address answers to Mill `m`, with the poisoned row it met. -/
def rangeStatus (s : State) (m : MillId) (a len : Nat) : NetStatus × Option Nat :=
  match (rowsOf a len).find? fun r => rowStatus s (some m) r ≠ .ok with
  | none => (.ok, none)
  | some r => (rowStatus s (some m) r, some r)

/-- Record an uncorrectable read (05 R108, R111). -/
def noteRead (s : State) (st : NetStatus × Option Nat) : State :=
  match st with
  | (.uncorr, some a) => logError s a true true false 0
  | _ => s

/-- How a docket ends that has received a network status (11 R269). -/
def netEnding (r : Run) (st : NetStatus) : Ending :=
  { status := (netReceipt st).1, subcode := BitVec.ofNat 8 (netReceipt st).2,
    operand := BitVec.ofNat 8 (noOperand r.msg.docket) }

/-- The first status that is not OK. -/
def firstBad (l : List (NetStatus × Option Nat)) : NetStatus × Option Nat :=
  match l.find? fun x => x.1 ≠ .ok with | some x => x | none => (.ok, none)

/-- Rows of a byte range that Mill `m` reaches over its row port (05 R102). -/
def nearRows (m : MillId) (a len : Nat) : Nat :=
  ((rowsOf a len).filter fun r => decide (r < granTop) && decide ((granQuad r).val = m.val / 4)).length

/-- Count rows written over the row port. -/
def countWr (s : State) (m : MillId) (n : Nat) : State := onRegs s m fun g => { g with portWr := bump g.portWr n }

/-- A Mill writes bytes: near Granary rows go over its row port. -/
def millWrite (s : State) (m : MillId) (a : Nat) (bs : List Byte) : NetStatus × State :=
  writeRange (countWr s m (nearRows m a bs.length)) (some m) a bs

/-! ### Staging (07 R157, R160) -/

/-- Source ranges of the streamed operand for an L2 tile. -/
def Run.inRanges (r : Run) (p : Plan) (b h m2 : Nat) : List (Nat × Nat) :=
  let d := r.descD 0
  let mLast := min (m2 * p.m2 + p.m2) r.shape.rows
  let lo := if r.isConv then (r.convAt (m2 * p.m2) 0).1 else m2 * p.m2
  let hi := if r.isConv then (r.convAt (mLast - 1) (r.shape.k - 1)).1 + 1 else mLast
  ((List.range (hi - lo)).map (· + lo)).filterMap fun row =>
    if row < d.padTop || d.padTop + d.effRows ≤ row then none
    else some (d.row b h (row - d.padTop), rowLen d.bits d.effCols)

/-- Source ranges of the stationary operands for an L2 tile. -/
def Run.wRanges (r : Run) (p : Plan) (b h n2 : Nat) : List (Nat × Nat) :=
  let whole := fun (d : Desc) (rows : Nat) =>
    if d.ownHop then [] else (List.range rows).map fun k => (d.row b h k, rowLen d.bits d.cols)
  let w := r.descD 1
  if r.isFuse then whole w r.shape.k ++ whole (r.descD 2) (min r.shape.k (r.descD 2).effRows)
  else
    let nr := atLeast1 (p.n2 / atLeast1 p.n1) * p.n1
    let c0 := n2 * nr * r.shape.ch
    let c1 := min (c0 + nr * r.shape.ch) w.effCols
    (List.range (min r.shape.k w.effRows)).map fun k => (w.row b h k + c0 * w.bits / 8, rowLen w.bits (c1 - c0))

/-- The L2 tile staged next: the first of the walk that is not staged, while at most one staged tile is still to be used. -/
def Run.nextStage (r : Run) (p : Plan) : Option (Nat × Nat × Nat × Nat) :=
  let ahead := (r.issued ++ r.todo).map fun t => t.l2 p
  let used := (r.cur.map fun c => c.tile.l2 p).toList ++ ahead
  if 1 < (r.staged.filter used.contains).length then none else ahead.find? fun x => !r.staged.contains x

/-- The staging areas lie inside the Hopper window; where they do not, the tile's footprint check will fail (07 R173). -/
def Run.stageFits (r : Run) (p : Plan) (flat : Bool) : Bool :=
  let w := msgWin r.msg
  !(r.stagesIn && !w.holds flat p.stgIn.toNat (r.stgInRows p)) && !(r.stagesW && !w.holds flat p.stgW.toNat (r.stgWRows p))

/-- Bytes of a staging buffer become unspecified: the layout of a staging area is not stated. -/
def scramble (s : State) (m : MillId) (w : Win) (start rows : Nat) : State :=
  let (x, s) := draw s (8 * (rows * 512))
  (writeRange s (some m) (hopStart s.granary.flat m.val + (w.hopBase + start) * 512) (leBytes (rows * 512) x.toNat)).2

/-- A free tag of the row port (19 R444). -/
def freeTag (x : Mill) : Option (Fin 16) := (List.finRange 16).find? fun i => (x.mb.tags[i.val]).isNone

/-- Copy source ranges into the staged copy. -/
def copyRanges (mem : Memory) (key : Nat) (base : Memory) (l : List (Nat × Nat)) : Memory :=
  l.foldl (fun acc (a, n) => writeBytes acc (key + a) (readBytes mem a n)) base

/-- A running docket meets a status that stops it: inside a tile at that tile's boundary, else now. -/
def stopOn (s : State) (m : MillId) (r : Run) (e : Ending) : State :=
  if r.cur.isSome then onRun s m fun r => { r with ending := r.ending.orElse fun _ => some e } else endWith s m r e

/-- L2_STAGE: the next L2 tile's inputs and weights are staged. Rows of the near Granary come over the row port, whose
response is awaited under a tag. -/
def stageL2 (s : State) (m : MillId) : State :=
  let x := s.mills[m.val]
  match x.running with
  | none => s
  | some r =>
    match r.plan with
    | none => s
    | some p =>
      if !r.walked || r.ending.isSome || r.abort.isSome || !(r.stagesIn || r.stagesW) then s
      else match r.nextStage p, freeTag x with
        | some (b, h, m2, n2), some tag =>
          let src := (if r.stagesIn then r.inRanges p b h m2 else []) ++ (if r.stagesW then r.wRanges p b h n2 else [])
          let bad := firstBad (src.map fun (a, n) => rangeStatus s m a n)
          if !r.stageFits p s.granary.flat then s
          else if bad.1 ≠ .ok then stopOn (noteRead s bad) m r (netEnding r bad.1)
          else
            let nearSrc := src.filter fun (a, n) => nearRows m a n ≠ 0
            let near := (nearSrc.map fun (a, n) => nearRows m a n).sum
            let buf := r.stageCount % 2
            let win := msgWin r.msg
            let s := if r.stagesIn then scramble s m win (p.stgIn.toNat + buf * (r.stgInRows p / 2)) (r.stgInRows p / 2) else s
            let s := if r.stagesW then scramble s m win (p.stgW.toNat + buf * (r.stgWRows p / 2)) (r.stgWRows p / 2) else s
            let keep := (r.cur.map fun c => c.tile.l2 p).toList ++ (r.issued ++ r.todo).map fun t => t.l2 p
            let s := onRun s m fun r =>
              { r with
                stagedMem := copyRanges s.mem (bufferKey r.stageCount) r.stagedMem src
                staged := (r.staged.filter keep.contains) ++ [(b, h, m2, n2)]
                stageCount := r.stageCount + 1 }
            if near = 0 then s
            else
              let first := (nearSrc.map (·.1)).headD 0
              let s := if first < granTop then
                  onGran s fun g =>
                    { g with banks := vmod g.banks (granBank first) fun b => { b with queue := b.queue ++ [.wide m false (granRow first)] } }
                else s
              onMill s m fun x =>
                { x with
                  regs := { x.regs with portRd := bump x.regs.portRd near }
                  mb := { x.mb with tags := vmod x.mb.tags tag fun _ => some { write := false, addr := first } } }
        | _, _ => s

/-! ### Starting a tile -/

/-- Address of the spill area (07 R158). -/
def spillAddr (flat : Bool) (m : MillId) (w : Win) (p : Plan) : Nat := hopStart flat m.val + (w.hopBase + p.spill.toNat) * 512

/-- Accumulator entries of a tile in its array. -/
def Run.tileEntries (r : Run) (t : Tile) : Nat := if r.isFuse then t.rows * r.shape.n else t.rows * (t.ns * r.shape.ch)

/-- A zero accumulator of the docket. -/
def Run.acc0 (r : Run) : Acc := if r.isFuse || r.shape.bx then .fp 0 else .int 0 false

/-- The spill elements of a tile: its accumulators row by row, for FUSE2 each row's output state followed by m and l. -/
def TileRun.spilled (c : TileRun) (fuse : Bool) (n : Nat) : List Word64 :=
  if fuse then
    (List.range c.tile.rows).flatMap fun i =>
      ((c.acc.drop (i * n)).take n).map spillWord
        ++ [(c.rowM.getD i 0).zeroExtend 64, (c.rowL.getD i 0).zeroExtend 64]
  else c.acc.map spillWord

/-- The spill elements in memory. -/
def readSpill (mem : Memory) (a n : Nat) : List Word64 := (List.range n).map fun i => BitVec.ofNat 64 (readLe mem (a + 8 * i) 8)

/-- The array state with which a tile starts: cleared, or reloaded from the spill area (07 R158). -/
def Run.tileRun (r : Run) (t : Tile) (spill : Option (List Word64)) : TileRun :=
  let base : TileRun :=
    { tile := t, sets := r.setsOf t, swapped := false, vecDone := .replicate 6 0, outDone := 0, flight := [],
      acc := List.replicate (r.tileEntries t) r.acc0,
      rowM := if r.isFuse then List.replicate t.rows fNegInf else [],
      rowL := if r.isFuse then List.replicate t.rows 0 else [], refilled := [] }
  match spill with
  | none => base
  | some ws =>
    if r.isFuse then
      let n := r.shape.n
      let row := fun i => (ws.drop (i * (n + 2))).take (n + 2)
      { base with
        acc := (List.range t.rows).flatMap fun i => ((row i).take n).map (unspill true)
        rowM := (List.range t.rows).map fun i => lo32 ((row i).getD n 0)
        rowL := (List.range t.rows).map fun i => lo32 ((row i).getD (n + 1) 0) }
    else { base with acc := ws.map (unspill r.shape.bx) }

/-- Make a tile current: it counts as issued; a split K range reloads its partial sums. -/
def startTile (s : State) (m : MillId) (r : Run) (t : Tile) : State :=
  let reload := t.kr ≠ 0 && r.plan.isSome
  let p := r.plan.getD (planOf [])
  let n := if r.isFuse then t.rows * (r.shape.n + 2) else r.tileEntries t
  let a := spillAddr s.granary.flat m (msgWin r.msg) p
  let bad := if reload then rangeStatus s m a (8 * n) else (.ok, none)
  if bad.1 ≠ .ok then endWith (noteRead s bad) m r (netEnding r bad.1)
  else
    let spill := if reload then some (readSpill s.mem a n) else none
    onMill s m fun x =>
      { x with
        regs := { x.regs with tilesIssued := bump x.regs.tilesIssued }
        running := some { r with start := some (r.start.getD (now s)), cur := some (r.tileRun t spill), issued := [] } }

/-- Queue the fills of a tile's first set. -/
def queueFirst (s : State) (m : MillId) (r : Run) (t : Tile) : State :=
  onMill s m fun x => { x with fills := x.fills ++ ((r.setsOf t).headD []) }

/-- The last bank set of the tile that computes is active, so that the idle banks may take the next tile's weights. -/
def TileRun.lastSet (c : TileRun) : Bool := c.sets.isEmpty || (c.sets.length = 1 && c.swapped)

/-! ### The end of a docket (07 R169) -/

/-- A row length limits the docket's rows. -/
def Run.rowLength (r : Run) : Bool :=
  ((r.descD 0).len.isSome && (r.descD 0).lenDim = 1) || (r.out.len.isSome && r.out.lenDim = 1)

/-- Rows of the output that a row length leaves in. -/
def Run.liveRows (r : Run) : Nat :=
  match wOpcode r.msg.docket with
  | some .winnow => if r.out.lenDim = 1 then min (r.descD 0).padRows r.out.effRows else (r.descD 0).padRows
  | _ => r.shape.rows

/-- Write zero to every output element that a row length excludes; a refused write leaves the status as it is. -/
def zeroSkipped (s : State) (m : MillId) (r : Run) : State :=
  if !(wZeroSkipped r.msg.docket && r.rowLength && (r.desc r.outIdx).isSome) || wOpcode r.msg.docket = some .hist then s
  else
    let d := r.out
    let rows := (List.range (d.rows - r.liveRows)).map (· + r.liveRows)
    let all := (List.range d.batches).flatMap fun b => (List.range d.heads).flatMap fun h => rows.map fun i => d.row b h i
    all.foldl (fun s a => (millWrite s m a (packRow d.bits (List.replicate d.cols 0))).2) s

/-- Every tile of the docket has completed. -/
def finishWalk (s : State) (m : MillId) (r : Run) : State :=
  endCounted (zeroSkipped s m r) m r stOk 0 (noOperand r.msg.docket)

/-- A tile boundary: the docket stops under a fault or an abort, ends, is preempted, or runs on (07 R158, R174; 06 R144). -/
def boundary (s : State) (m : MillId) : State :=
  let x := s.mills[m.val]
  match x.running with
  | none => s
  | some r =>
    match r.ending, r.abort with
    | some e, _ => endWith s m r e
    | none, some a => endAborted s m r a
    | none, none =>
      match r.issued, r.todo with
      | [], [] => finishWalk s m r
      | t :: _, _ => if x.wantsPreempt then preemptNow s m else startTile s m r t
      | [], _ :: _ => if x.wantsPreempt then preemptNow s m else s

/-! ### Issue (07 R158, R160, R173) -/

/-- OVF_LOG of a failing tile (07 Table 7.5). -/
def MillRegs.logOverflow (g : MillRegs) (tag : BitVec 16) (level operand : Nat) (t : Tile) : MillRegs :=
  if bitOf g.ovfLog 31 then g
  else { g with ovfLog := img (2 ^ 31 + level * 2 ^ 28 + operand % 16 * 2 ^ 24 + tag.toNat),
                ovfBh := img (t.h % 65536 * 65536 + t.b % 65536), ovfM := img t.m, ovfN := img t.n, ovfK := img t.kr }

/-- Every operand a tile reads is staged, and its rows have come. -/
def Run.present (r : Run) (x : Mill) (t : Tile) : Bool :=
  match r.plan with
  | none => true
  | some p =>
    !(r.stagesIn || r.stagesW)
      || (r.staged.contains (t.l2 p) && x.mb.tags.all fun q => match q with | some q => q.write | none => true)

/-- TILE_ISSUE: the next tile of the walk. -/
def issueTile (s : State) (m : MillId) : State :=
  let x := s.mills[m.val]
  match x.running with
  | none => s
  | some r =>
    if !r.walked then s
    else if r.cur.isNone && (r.ending.isSome || r.abort.isSome) then boundary s m
    else if r.ending.isSome || r.abort.isSome || !r.issued.isEmpty then s
    else match r.todo with
      | [] => s
      | t :: rest =>
        match r.plan.bind fun p => r.footprint p s.granary.flat t with
        | some (level, operand) =>
          let s := onRegs s m fun g => g.logOverflow (wTag r.msg.docket) level operand t
          let e : Ending := { status := stOverflow, subcode := BitVec.ofNat 8 (0x10 + level), operand := BitVec.ofNat 8 operand }
          stopOn s m r e
        | none =>
          if !r.present x t then
            if r.cur.isNone then onRegs s m fun g => { g with stageWait := bump g.stageWait } else s
          else match r.cur with
            | none =>
              if x.wantsPreempt then preemptNow s m
              else queueFirst (startTile s m { r with todo := rest } t) m r t
            | some c =>
              if c.lastSet then queueFirst (onRun s m fun r => { r with issued := [t], todo := rest }) m r t else s

/-! ### The Winnow's writes (02 R36-R42, 07 R176) -/

/-- The results of one output row: codes, with saturation and replaced NaN. -/
abbrev OutRow := List (Nat × Bool × Bool)

/-- Step 3 for a row of values, in a descriptor's output format. -/
def Desc.convert (d : Desc) (vs : List FVal) : OutRow := vs.map fun v => d.fm.quantise (fmtAway d.fmt) (fmtE5Inf d.fmt) v

/-- Write one row of results from column `col` on; then counters, Tally. -/
def writeOut (m : MillId) (d : Desc) (b h row col : Nat) (acc : NetStatus × State) (res : OutRow) : NetStatus × State :=
  let (st, s) := acc
  if st ≠ .ok || d.rows ≤ row || res.isEmpty then (st, s)
  else
    let (st, s) := millWrite s m (d.row b h row + col * d.bits / 8) (packRow d.bits (res.map (·.1)))
    if st ≠ .ok then (st, s)
    else
      let sats := (res.filter (·.2.1)).length
      let nans := (res.filter (·.2.2)).length
      let s := onRegs s m fun g => { g with satOut := bump g.satOut sats, nanOut := bump g.nanOut nans }
      let s := onRun s m fun r => { r with sat := r.sat + sats, nan := r.nan + nans }
      let s := if fmtTallyEn d.fmt then
          (res.map fun x => (fword (d.fm.value 0 [] x.1), x.2.1)).foldl (tallySample m (fin 4 (fmtTallyH d.fmt))) s
        else s
      (.ok, s)

/-- One requantised value: scale, the old output of MATMUL_ACC, bias, epilogue (02 R36, 07 R176). -/
def requantise (p : Plan) (scale : Word) (old bias : Option Word) (a : Acc) : FVal :=
  let x := fmul (accWord a) scale
  let x := match old with | some y => fadd x y | none => x
  let x := match bias with | some y => fadd x y | none => x
  fval (elementFn p.epi.toNat p.epiImm 0 x)

/-- One output row of a MATMUL tile: row `i` of the tile. -/
def matmulRow (s : State) (r : Run) (p : Plan) (c : TileRun) (i : Nat) : OutRow :=
  let h := r.shape
  let t := c.tile
  let d := r.out
  let width := t.ns * h.ch
  let c0 := t.n0 * h.ch
  let row := t.row0 + i
  let acc := wOpcode r.msg.docket = some .matmulAcc
  d.convert ((List.range (min width (h.n - c0))).map fun n =>
    let old := if acc then some (fword (({ d with zpad := 0 } : Desc).valueAt s.mem 0 1 t.b t.h row (c0 + n))) else none
    let bias := (r.desc 4).map fun b => fword (({ b with zpad := 0 } : Desc).valueAt s.mem 0 1 t.b t.h 0 (c0 + n))
    requantise p d.scale old bias (c.acc.getD (i * width + n) r.acc0))

/-- One output row of a FUSE2 tile (07 R179): o / l for softmax, o for sigmoid, zeros where l is 0. -/
def fuseRow (r : Run) (c : TileRun) (i : Nat) : OutRow :=
  let n := r.shape.n
  let l := c.rowL.getD i 0
  let soft := bitsOf (opWord r.msg.docket 5) 3 0 = 0
  r.out.convert (((c.acc.drop (i * n)).take (min n r.out.effCols)).map fun a =>
    if soft then (if fisZero l then .fin false 0 0 else fval (fdiv (accWord a) l)) else fval (accWord a))

/-- One output row of a WINNOW tile (07 R176): scale, function. -/
def winnowRow (s : State) (r : Run) (t : Tile) (i : Nat) : OutRow :=
  let f := bitsOf (opWord r.msg.docket 2) 7 0
  let imm := opWord r.msg.docket 4
  let d := r.descD 0
  let row := t.row0 + i
  let xs := (List.range d.padCols).map fun c => fmul (fword (d.valueAt s.mem 0 1 t.b t.h row c)) r.out.scale
  let vs := if 0x10 ≤ f then rowFn f imm xs
    else xs.zipIdx.map fun (x, c) =>
      let y := match r.desc 3 with
        | some e => fword (({ e with zpad := 0 } : Desc).valueAt s.mem 0 1 t.b t.h (if e.rows = 1 then 0 else row) c)
        | none => 0
      fval (elementFn f imm y x)
  r.out.convert (vs.take r.out.effCols)

/-- The rows of memory a tile's completion reads in place. -/
def completionReads (r : Run) (t : Tile) : List (Nat × Nat) :=
  let rows := List.range t.rows
  let whole := fun (d : Desc) (row : Nat) => (d.row t.b t.h row, rowLen d.bits d.cols)
  let inRows := fun (d : Desc) => rows.filterMap fun i =>
    let row := t.row0 + i
    if row < d.padTop || d.padTop + d.effRows ≤ row then none else some (whole d (row - d.padTop))
  match wOpcode r.msg.docket with
  | some .hist => inRows (r.descD 0)
  | some .winnow => inRows (r.descD 0)
      ++ (match r.desc 3 with | some e => if e.rows = 1 then [whole e 0] else rows.map fun i => whole e (t.row0 + i) | none => [])
  | some .matmulAcc => (if t.lastK then (rows.filter fun i => t.row0 + i < r.out.rows).map fun i => whole r.out (t.row0 + i) else [])
      ++ (match r.desc 4 with | some b => if t.lastK then [whole b 0] else [] | none => [])
  | some .fuse2 => []
  | _ => match r.desc 4 with | some b => if t.lastK then [whole b 0] else [] | none => []

/-- Present the elements of a HIST tile to its histogram (04 R92). -/
def histTile (s : State) (m : MillId) (r : Run) (t : Tile) : State :=
  let d := r.descD 0
  let h : Fin 4 := fin 4 (bitsOf (opWord r.msg.docket 1) 1 0)
  ((List.range t.rows).flatMap fun i => (List.range d.padCols).map fun c =>
    (fword (d.valueAt s.mem 0 1 t.b t.h (t.row0 + i) c), false)).foldl (tallySample m h) s

/-- What a completing tile writes: its output rows, its spill elements, or the Tally's samples. -/
def tileWrites (s : State) (m : MillId) (r : Run) (c : TileRun) : NetStatus × State :=
  let t := c.tile
  let rows := fun (f : Nat → OutRow) (col : Nat) =>
    (List.range t.rows).foldl (fun acc i => writeOut m r.out t.b t.h (t.row0 + i) col acc (f i)) ((NetStatus.ok, s) : NetStatus × State)
  match wOpcode r.msg.docket, r.plan with
  | some .hist, _ => (.ok, histTile s m r t)
  | some .winnow, _ => rows (winnowRow s r t) 0
  | some .fuse2, some p =>
    if t.lastK then rows (fuseRow r c) 0
    else millWrite s m (spillAddr s.granary.flat m (msgWin r.msg) p) ((c.spilled true r.shape.n).flatMap fun w => leBytes 8 w.toNat)
  | _, some p =>
    if t.lastK then rows (matmulRow s r p c) (t.n0 * r.shape.ch)
    else millWrite s m (spillAddr s.granary.flat m (msgWin r.msg) p) ((c.spilled false 0).flatMap fun w => leBytes 8 w.toNat)
  | _, none => (.ok, s)

/-- The tile that computes has run all its vectors. -/
def TileRun.complete (c : TileRun) (r : Run) : Bool :=
  if r.plan.isNone then true
  else if r.onSluice then c.outDone = c.tile.rows
  else decide (c.sets.length ≤ 1) && (c.sets.isEmpty || (c.swapped && c.outDone = c.tile.rows))

/-- TILE_COMPLETE: the last write of the tile is accepted. A tile with a refused read or write is not counted, and its docket
stops. -/
def completeTile (s : State) (m : MillId) : State :=
  match (s.mills[m.val]).running with
  | none => s
  | some r =>
    match r.cur with
    | none => s
    | some c =>
      if !c.complete r then s
      else
        let bad := firstBad ((completionReads r c.tile).map fun (a, n) => rangeStatus s m a n)
        let (st, s) := if bad.1 ≠ .ok then (bad.1, noteRead s bad) else tileWrites s m r c
        let e := if st = .ok then none else some (netEnding r st)
        let s := onRun s m fun r =>
          { r with cur := none, tiles := r.tiles + (if st = .ok then 1 else 0), ending := r.ending.orElse fun _ => e }
        boundary s m

/-! ### The opcodes' walks -/

/-- Begin the walk of the running docket, when it is of opcode `o`. -/
def beginWalk (s : State) (m : MillId) (o : Opcode) (tiles : Run → List Tile) : State :=
  match runOf s m o with
  | some r => if r.walked then s else
      let s := onRun s m fun r => { r with walked := true, todo := tiles r }
      if (tiles r).isEmpty then boundary s m else s
  | none => s

/-- Tiles of a docket that runs over the arrays. -/
def Run.planTiles (r : Run) (m : MillId) : List Tile := match r.plan with | some p => r.arrayTiles p m | none => []

/-! ### Meanings -/

def execL2Stage (m : MillId) (s : State) : Result := liveRows s fun s => stageL2 s m
def execTileIssue (m : MillId) (s : State) : Result := liveRows s fun s => issueTile s m
def execTileComplete (m : MillId) (s : State) : Result := liveRows s fun s => completeTile s m
def execMatmul (m : MillId) (s : State) : Result := liveRows s fun s => beginWalk s m .matmul fun r => r.planTiles m
def execMatmulAcc (m : MillId) (s : State) : Result := liveRows s fun s => beginWalk s m .matmulAcc fun r => r.planTiles m
def execConv2d (m : MillId) (s : State) : Result := liveRows s fun s => beginWalk s m .conv2d fun r => r.planTiles m
def execFuse2 (m : MillId) (s : State) : Result := liveRows s fun s => beginWalk s m .fuse2 fun r => r.planTiles m
def execWinnow (m : MillId) (s : State) : Result := liveRows s fun s => beginWalk s m .winnow fun r => r.directTiles m
def execHist (m : MillId) (s : State) : Result := liveRows s fun s => beginWalk s m .hist fun r => r.directTiles m

end Sys2Proof.Machine
end

