-- ==== Sys2Proof/Machine/Querns.lean ====
section
/-! DEFINITION. The Querns: fills, swaps, vectors, the FUSE2 row function, scrubbing, repair and remapping (03, 07 R179). -/

namespace Sys2Proof.Machine

/-! ### Logical and physical Querns (03 R63, R66) -/

/-- Index that QMAP holds for a logical Quern. -/
def qmapAt (q : BitVec 18) (l : Nat) : Nat := bitsOf q (3 * l + 2) (3 * l)

/-- Physical Quern of a logical one. -/
def physOf (x : Mill) (l : Fin 6) : QuernId := fin 7 (qmapAt x.regs.qmap l.val)

/-- A QMAP names six different physical Querns. -/
def qmapLegal (q : BitVec 18) : Bool :=
  let l := (List.range 6).map (qmapAt q)
  l.all (fun i => decide (i ≤ 6)) && (List.range 7).all fun i => decide ((l.filter (· = i)).length ≤ 1)

/-- Change one physical Quern. -/
def onQuern (x : Mill) (p : QuernId) (f : Quern → Quern) : Mill := { x with querns := vmod x.querns p f }

def Quern.idle (q : Quern) : QBank := if q.active then q.a else q.b
def Quern.act (q : Quern) : QBank := if q.active then q.b else q.a
def Quern.onIdle (q : Quern) (f : QBank → QBank) : Quern := if q.active then { q with a := f q.a } else { q with b := f q.b }
def Quern.onBank (q : Quern) (bankB : Bool) (f : QBank → QBank) : Quern := if bankB then { q with b := f q.b } else { q with a := f q.a }
def Quern.bank (q : Quern) (bankB : Bool) : QBank := if bankB then q.b else q.a

/-! ### Fills (03 R51-R53, 07 R164, R178) -/

/-- The operand a fill reads. -/
def Run.fillOperand (r : Run) (q : FillReq) : Nat :=
  if wOpcode r.msg.docket = some .loadw then 0 else if r.isFuse && q.vOperand then 2 else 1

/-- The source of a fill: N-block columns of K-block rows; keys of FUSE2 stand in the channels (07 R178). -/
def Run.fillSrc (r : Run) (t : Tile) (q : FillReq) : GoldSrc :=
  let d := r.descD (r.fillOperand q)
  let ch := 512 / d.weightBits
  let base : GoldSrc :=
    { addr := 0, first := 0, rowStride := d.rowStride * 8, chanStride := d.bits, rows := 0, chans := 0,
      fmt := bitsOf d.fmt 3 0, mintAddr := (msgWin r.msg).base + d.mintOff.toNat * 64, mintType := d.mintType }
  if r.isFuse && !q.vOperand then
    let key := 256 * q.kblk + 64 * q.nblk
    { base with addr := d.row t.b t.h key, rowStride := d.bits, chanStride := d.rowStride * 8, rows := d.cols,
                chans := min 64 (r.shape.k - key) }
  else
    let k0 := 256 * q.kblk
    { base with addr := d.row t.b t.h k0, first := q.nblk * ch * d.bits, rows := d.effRows - k0,
                chans := d.effCols - q.nblk * ch }

/-- The tile that a fill serves: the one that computes while it still has sets to come, else the prefetched one. LOADW serves
none. -/
def Run.fillTile (r : Run) : Tile :=
  let none_ : Tile := { b := 0, h := 0, m := 0, n := 0, kr := 0, row0 := 0, rows := 0, k0 := 0, ks := 0, n0 := 0, ns := 0, lastK := true }
  match r.cur, r.issued with
  | some c, t :: _ => if c.lastSet then t else c.tile
  | some c, [] => c.tile
  | none, _ => none_

/-- Bytes a fill reads in place, row by row, for its status. -/
def GoldSrc.ranges (g : GoldSrc) : List (Nat × Nat) :=
  let n := if g.rowStride < g.chanStride then g.chans else g.rows
  let step := max g.rowStride g.chanStride / 8
  (List.range (min n 256)).map fun i => (g.addr + g.first / 8 + i * step, 1)

/-- The next pending fill: that of the lowest logical Quern. -/
def nextFill (l : List FillReq) : Option FillReq := firstBy (fun a b => decide (a.quern < b.quern)) l

/-- BANK_FILL_START: the weight-fill port takes the next pending fill; the idle bank is FILLING. -/
def fillStart (s : State) (m : MillId) : State :=
  let x := s.mills[m.val]
  match x.filling, nextFill x.fills with
  | none, some q =>
    onMill s m fun x =>
      { onQuern x (physOf x q.quern) (fun u => u.onIdle fun b => { b with state := .filling, repairRow := none }) with
        fills := x.fills.erase q
        filling := some q }
  | _, _ => s

/-- The weights of a filled bank: a source without an integer form leaves unspecified cells. -/
def fillRows (s : State) (mem : Memory) (off : Nat) (g : GoldSrc) (mint : List (BitVec 16)) (wb : Nat) :
    Vector (BitVec 512) 256 × State :=
  if g.integer then (.ofFn fun i => g.row mem off mint wb i.val, s)
  else
    let (x, s) := draw s (256 * 512)
    (.ofFn fun i => BitVec.ofNat 512 (x.toNat / 2 ^ (512 * i.val)), s)

/-- A bank after its fill: FULL, with parity and its golden record (03 R53, R59). -/
def QBank.filled (b : QBank) (rows : Vector (BitVec 512) 256) (wb : Nat) (g : GoldSrc) (mintOff : Option Word) (t : Word64) :
    QBank :=
  let gran := decide (g.addr < granTop)
  { b with
    state := .full
    wfmt := wfmtOf wb
    rows := rows
    parity := rows.map rowParity
    gold := BitVec.ofNat 48 (if gran then g.addr + g.first / 8 else 0)
    gvalid := gran
    goldMint := mintOff.getD b.goldMint
    src := if gran then some g else none
    scrubRow := 0
    scrubPass := 0
    checked := .replicate 256 t
    repairRow := none }

/-- BANK_FILL_DONE: the bank becomes FULL; a failed source ends the docket, or marks it when the fill was a prefetch. LOADW
ends with its last fill. -/
def fillDone (s : State) (m : MillId) : State :=
  let x := s.mills[m.val]
  match x.filling, x.running with
  | some q, some r =>
    let d := r.descD (r.fillOperand q)
    let t := r.fillTile
    let g := r.fillSrc t q
    let (mem, off) := if wOpcode r.msg.docket = some .loadw then (s.mem, 0) else srcOf s r t d
    let bad := if off = 0 && (d.ownHop || wOpcode r.msg.docket = some .loadw) then
        firstBad (g.ranges.map fun (a, n) => rangeStatus s m a n)
      else (.ok, none)
    let p := physOf x q.quern
    if bad.1 ≠ .ok then
      let s := noteRead s bad
      let s := onMill s m fun x => { onQuern x p (fun u => u.onIdle fun b => { b with state := .empty }) with filling := none }
      if (r.cur.map (·.tile)) = some t || r.cur.isNone then endWith s m r (netEnding r bad.1) else stopOn s m r (netEnding r bad.1)
    else
      let (rows, s) := fillRows s mem off g d.mint d.weightBits
      let mintOff := if d.fm.isCodebook then some d.mintOff else none
      let s := onMill s m fun x =>
        { onQuern x p (fun u => u.onIdle fun b => b.filled rows d.weightBits g mintOff (now s)) with filling := none }
      let x := s.mills[m.val]
      if wOpcode r.msg.docket = some .loadw && x.fills.isEmpty then endCounted s m r stOk 0 0 else s
  | _, _ => s

/-- LOADW: the fills of the masked Querns, N-blocks taken in ascending order (06 Table 6.2). -/
def loadw (s : State) (m : MillId) : State :=
  match runOf s m .loadw with
  | some r =>
    if r.walked then s
    else
      let w := r.msg.docket
      let qs := (List.finRange 6).filter fun q => (opWord w 1).getLsbD q.val
      let reqs := qs.zipIdx.map fun (q, i) =>
        ({ quern := q, kblk := (opWord w 2).toNat, nblk := (opWord w 3).toNat + i, vOperand := false } : FillReq)
      let s := onMill s m fun x => { x with fills := reqs, running := x.running.map fun r => { r with walked := true } }
      if reqs.isEmpty then endCounted s m r stOk 0 0 else s
  | none => s

/-! ### Swaps and vectors (03 R46, R47, R49, R55, R56) -/

/-- The set that is to be swapped in, if one is due: the first, or the next once the current has run all its vectors. -/
def TileRun.dueSet (c : TileRun) : Option (List FillReq) :=
  match c.sets with
  | [] => none
  | cur :: rest => if !c.swapped then some cur else if c.outDone = c.tile.rows then rest.head? else none

/-- The banks of a set allow the swap: idle banks FULL, none in REPAIR. -/
def setReady (x : Mill) (set : List FillReq) : Bool :=
  set.all fun q =>
    let u := (x.querns[(physOf x q.quern).val])
    u.idle.state = .full && u.act.state ≠ .repair && u.act.repairRow.isNone

/-- Each Quern of a set. -/
def onSet (x : Mill) (set : List FillReq) (f : Quern → Quern) : Mill := set.foldl (fun x q => onQuern x (physOf x q.quern) f) x

/-- The swap has taken place: the next set's fills are wanted. -/
def TileRun.afterSwap (c : TileRun) : TileRun :=
  { c with sets := if c.swapped then c.sets.drop 1 else c.sets, swapped := true, vecDone := .replicate 6 0, outDone := 0,
           refilled := [] }

/-- BANK_SWAP: the Querns of the set change their active bank together; while they cannot, each waiting cycle counts in
SWAP_STALL. -/
def bankSwap (s : State) (m : MillId) : State :=
  let x := s.mills[m.val]
  match x.running.bind (·.cur) with
  | none => s
  | some c =>
    match c.dueSet with
    | none => s
    | some set =>
      if !setReady x set then onMill s m fun x => onSet x set fun u => { u with swapStall := bump u.swapStall }
      else
        let c' := c.afterSwap
        onMill s m fun x =>
          let x := onSet x set fun u => { u with active := !u.active }
          { x with running := x.running.map fun r => { r with cur := some c' }, fills := x.fills ++ ((c'.sets.drop 1).headD []) }

/-- Row of the padded operand and element column that input element `k` of streamed row `row` comes from. -/
def Run.inputAt (r : Run) (row k : Nat) : Nat × Nat := if r.isConv then r.convAt row k else (row, k)

/-- Elements of a K-block of a streamed row: beyond K, zero (07 R164). -/
def Run.inputs (r : Run) (mem : Memory) (off : Nat) (t : Tile) (row k0 n : Nat) : List FVal :=
  let d := r.descD 0
  let unit := if r.isConv then r.convC else 1
  let lim := if r.isFuse then d.padCols else r.shape.k
  (List.range n).map fun i =>
    let (y, x) := r.inputAt row (k0 + i)
    if lim ≤ k0 + i then .fin false 0 0 else d.valueAt mem off unit t.b t.h y x

/-- Planes of an input vector: integer codes, or BX10 blocks of 32 (02 R32). -/
def Run.blocks (r : Run) (vs : List FVal) : List BxBlock :=
  (chunks 32 (vs.length / 32 + 1) vs).map (bxExpand (r.descD 0).fm.largest)

/-- Integer value of an integer input. -/
def intOf : FVal → Int
  | .fin neg m e => FVal.roundInt false neg m e
  | _ => 0

/-- The partial sums of one vector on one bank (03 R46, R47). -/
def vectorParts (bx : Bool) (xb : Nat) (b : QBank) (vs : List FVal) (bs : List BxBlock) : List (Int × List Int) :=
  let wb := bankWb b.wfmt
  let rows := b.rows.toList
  if bx then
    (bs.zip (chunks 32 8 rows)).map fun (blk, rs) => (blk.e, quernParts 10 wb (blk.ms.map (planesOf 10)) rs)
  else [(0, quernParts xb wb (vs.map fun v => planesOf xb (intOf v)) rows)]

/-- Source rows of one input vector read in place. -/
def Run.vectorReads (r : Run) (t : Tile) (row k0 n : Nat) : List (Nat × Nat) :=
  let d := r.descD 0
  if !d.ownHop then []
  else
    (((List.range n).map fun i => (r.inputAt row (k0 + i)).1).eraseDups).filterMap fun y =>
      if y < d.padTop || d.padTop + d.effRows ≤ y then none else some (d.row t.b t.h (y - d.padTop), rowLen d.bits d.cols)

/-- Count replaced NaN and infinities (02 R32, R40). -/
def countInputs (s : State) (m : MillId) (bs : List BxBlock) : State :=
  let nans := (bs.map (·.nans)).sum
  let infs := (bs.map (·.infs)).sum
  let s := onRegs s m fun g => { g with nanIn := bump g.nanIn nans, infIn := bump g.infIn infs }
  onRun s m fun r => { r with nan := r.nan + nans, sat := r.sat + infs }

/-- QUERN_VECTOR: logical Quern `q` takes the next input vector of the current set. -/
def quernVector (s : State) (m : MillId) (q : Fin 6) : State :=
  let x := s.mills[m.val]
  match x.running with
  | none => s
  | some r =>
    match r.cur with
    | none => s
    | some c =>
      let set := c.sets.headD []
      let i := c.vecDone[q.val]
      match set.find? fun f => f.quern = q && !f.vOperand with
      | none => s
      | some f =>
        let u := x.querns[(physOf x q).val]
        if !c.swapped || c.tile.rows ≤ i then s
        else if u.act.repairRow.isSome then onMill s m fun x => onQuern x (physOf x q) fun u => { u with swapStall := bump u.swapStall }
        else if u.act.state ≠ .full then s
        else
          let k0 := if r.isFuse then 0 else 256 * f.kblk
          let bad := firstBad ((r.vectorReads c.tile (c.tile.row0 + i) k0 256).map fun (a, n) => rangeStatus s m a n)
          if bad.1 ≠ .ok then endWith (noteRead s bad) m r (netEnding r bad.1)
          else
            let (mem, off) := srcOf s r c.tile (r.descD 0)
            let vs := r.inputs mem off c.tile (c.tile.row0 + i) k0 256
            let bs := if r.shape.bx then r.blocks vs else []
            let parts := vectorParts r.shape.bx r.shape.planes u.act vs bs
            let first := match set.find? fun g => !g.vOperand && (r.isFuse || g.kblk = f.kblk) with | some g => decide (g.quern = q) | none => true
            let s := if first then countInputs s m bs else s
            onRun s m fun r =>
              { r with cur := r.cur.map fun c =>
                  { c with vecDone := vmod c.vecDone q fun n => n + 1
                           flight := c.flight ++ [{ vec := i, quern := q.val, parts := parts }] } }

/-! ### Accumulation (02 R33, R35) -/

/-- Add a vector's partial sums to `ch` accumulators from `base` on; answers the new saturations. -/
def accumulate (bx : Bool) (ch base : Nat) (parts : List (Int × List Int)) (acc : List Acc) : List Acc × Nat :=
  let seg := ((acc.drop base).take ch).zipIdx.map fun (a, i) => accBlocks bx i a parts
  (acc.take base ++ seg.map (·.1) ++ acc.drop (base + ch), (seg.map (·.2)).sum)

/-- Accumulate the oldest vector of a MATMUL set on all its Querns, K-blocks ascending. -/
def accumulateSet (r : Run) (c : TileRun) (set : List FillReq) (i : Nat) : List Acc × Nat :=
  let ch := r.shape.ch
  set.foldl (fun (acc, n) f =>
    match c.flight.find? fun g => g.vec = i && g.quern = f.quern.val with
    | none => (acc, n)
    | some g =>
      let (acc, k) := accumulate r.shape.bx ch (i * (c.tile.ns * ch) + (f.nblk - c.tile.n0) * ch) g.parts acc
      (acc, n + k)) (c.acc, 0)

/-! ### The FUSE2 row function (07 R179, R180) -/

/-- q . k of a key, from the partial sums of its bank. -/
def dotOf (bx : Bool) (parts : List (Int × List Int)) (j : Nat) : Word :=
  if bx then parts.foldl (fun a (e, ps) => fadd a (fofInt (ps.getD j 0) (e - 135))) 0
  else fofInt ((parts.headD (0, [])).2.getD j 0)

/-- The scores of one row against the 256 keys of a block; none: masked. -/
def scores (r : Run) (c : TileRun) (f0 : FillReq) (i : Nat) : List (Option Word) :=
  let w := r.msg.docket
  let scale := fmul (fmul (opWord w 6) (r.descD 0).scale) (r.descD 1).scale
  let causal := bitOf (opWord w 5) 8
  let limit := (r.plan.map (·.qOff.toNat)).getD 0 + c.tile.row0 + i
  (List.range 256).map fun j =>
    let key := 256 * f0.kblk + j
    if r.shape.k ≤ key || (causal && limit < key) then none
    else
      let parts := match c.flight.find? fun g => g.vec = i && g.quern = j / 64 with | some g => g.parts | none => []
      some (fmul scale (dotOf r.shape.bx parts (j % 64)))

/-- round_half_even (127 * p), 0 to 127; a NaN gives 0. -/
def quantP (p : Word) : Nat :=
  let (v, _, _) := quantiseInt 32 false (fval (fmul (fofInt 127) p))
  clampNat 0 127 v.toNat

/-- m_new of a row. -/
def newMax (mOld : Word) (ss : List (Option Word)) : Word :=
  ss.foldl (fun a x => match x with | some y => if flt a y then y else a | none => a) mOld

/-- The row function of one row and key block: the new output state, m and l. -/
def rowUpdate (x : Mill) (r : Run) (c : TileRun) (set : List FillReq) (i : Nat) : List Acc × Word × Word :=
  let n := r.shape.n
  let soft := bitsOf (opWord r.msg.docket 5) 3 0 = 0
  let ss := scores r c (set.headD { quern := 0, kblk := 0, nblk := 0, vOperand := false }) i
  let mOld := c.rowM.getD i fNegInf
  let mNew := if soft then newMax mOld ss else mOld
  let a := if !soft then fOne else if mOld = fNegInf then 0 else fcanon (Config.exp (fsub mOld mNew))
  let pq : List Nat := ss.map fun q => match q with
    | none => 0
    | some y => quantP (if soft then fcanon (Config.exp (fsub y mNew)) else fcanon (Config.sigmoid y))
  let l := c.rowL.getD i 0
  let lNew := if soft then fadd (fmul a l) (fdiv (fofInt (pq.sum : Nat)) (fofInt 127)) else l
  let sv := (r.descD 2).scale
  let vsets := set.filter (·.vOperand)
  let vparts := vsets.flatMap fun f =>
    let b := (x.querns[(physOf x f.quern).val]).act
    quernParts 8 (bankWb b.wfmt) pq b.rows.toList
  let o := ((c.acc.drop (i * n)).take n).zipIdx.map fun (y, j) =>
    Acc.fp (fadd (fmul a (accWord y)) (fdiv (fmul sv (fofInt (vparts.getD j 0))) (fofInt 127)))
  (o, mNew, lNew)

/-- QUERN_PARTIALS_OUT: the oldest vector that all Querns of the set have finished is accumulated, or its FUSE2 row function
runs. -/
def partialsOut (s : State) (m : MillId) : State :=
  let x := s.mills[m.val]
  match x.running with
  | none => s
  | some r =>
    match r.cur with
    | none => s
    | some c =>
      let set := c.sets.headD []
      let i := c.outDone
      let ready := !set.isEmpty && c.swapped && decide (i < c.tile.rows)
        && (set.filter (!·.vOperand)).all fun f => c.flight.any fun g => g.vec = i && g.quern = f.quern.val
      let ready := ready && (set.filter (·.vOperand)).all fun f => (x.querns[(physOf x f.quern).val]).act.state = .full
      if !ready then s
      else
        let left := c.flight.filter fun g => g.vec ≠ i
        if r.isFuse then
          let (o, mNew, lNew) := rowUpdate x r c set i
          let n := r.shape.n
          onRun s m fun r =>
            { r with cur := some { c with outDone := i + 1, flight := left,
                                          acc := c.acc.take (i * n) ++ o ++ c.acc.drop (i * n + n),
                                          rowM := c.rowM.set i mNew, rowL := c.rowL.set i lNew } }
        else
          let (acc, sats) := accumulateSet r c set i
          let s := onRegs s m fun g => { g with accSat := bump g.accSat sats }
          onRun s m fun r => { r with sat := r.sat + sats, cur := some { c with outDone := i + 1, flight := left, acc := acc } }

/-! ### Scrubbing and repair (03 R59-R62) -/

/-- The Mint table of a golden record, as it stands. -/
def goldMintOf (s : State) (g : GoldSrc) : List (BitVec 16) :=
  if g.fmt = 8 || g.fmt = 9 then
    (List.range (if g.fmt = 8 then 16 else 256)).map fun k => BitVec.ofNat 16 (readLe s.mem (g.mintAddr + 64 + 2 * k) 2)
  else []

/-- A bank row of a golden copy, as the Granary stands; none: a row of it cannot be read. -/
def goldRow (s : State) (m : MillId) (g : GoldSrc) (wb i : Nat) : Option (BitVec 512) :=
  let r := g.ranges
  let l := if g.rowStride < g.chanStride then r else (r.drop i).take 1
  if l.any fun (a, n) => (rangeStatus s m a n).1 ≠ .ok then none
  else some (g.row s.mem 0 (goldMintOf s g) wb i)

/-- The scrubber runs. -/
def MillRegs.scrubEn (g : MillRegs) : Bool := bitOf g.scrubCtl 0

/-- The pass is one that also compares with the golden copy (03 R60). -/
def goldPass (g : MillRegs) (b : QBank) : Bool :=
  let n := bitsOf g.scrubCtl 23 16
  b.gvalid && n ≠ 0 && (b.scrubPass + 1) % n = 0

/-- The scrub's next row. -/
def QBank.advance (b : QBank) : QBank :=
  if b.scrubRow + 1 < 256 then { b with scrubRow := b.scrubRow + 1 } else { b with scrubRow := 0, scrubPass := b.scrubPass + 1 }

/-- A fill of the running docket's pending set, or of its prefetched tile, that names a physical Quern. -/
def pendingReq (x : Mill) (p : QuernId) : Option FillReq :=
  match x.running with
  | none => none
  | some r =>
    let due := match r.cur with
      | some c => if !c.swapped then c.sets.headD [] else (c.sets.drop 1).headD []
      | none => []
    let ahead := (r.issued.map fun t => (r.setsOf t).headD []).flatten
    (due ++ ahead).find? fun f => physOf x f.quern = p

/-- The tile that computes uses the active bank of a physical Quern. -/
def usesActive (x : Mill) (p : QuernId) : Bool :=
  match x.running.bind (·.cur) with
  | some c => c.swapped && (c.sets.headD []).any fun f => physOf x f.quern = p
  | none => false

/-- UNCORRECTABLE, as an ending. -/
def uncorrEnding (r : Run) : Ending := netEnding r .uncorr

/-- Table 3.4: what a detected weight error does. -/
def weightAction (s : State) (m : MillId) (p : QuernId) (bankB : Bool) (row : Nat) : State :=
  let x := s.mills[m.val]
  let u := x.querns[p.val]
  let b := u.bank bankB
  let active := u.active = bankB
  let put := fun (s : State) (f : QBank → QBank) => onMill s m fun x => onQuern x p fun u => u.onBank bankB f
  let stop := fun (s : State) =>
    onRun s m fun r => { r with ending := r.ending.orElse fun _ => some (uncorrEnding r) }
  if !active && b.gvalid then put s fun b => { b with state := .repair, repairRow := some row }
  else if active && b.gvalid then
    let s := put s fun b => { b with repairRow := some row }
    if usesActive x p then stop s else s
  else if !active then
    let s := put s fun b => { b with state := .empty }
    match pendingReq x p with
    | none => s
    | some f =>
      let again := match x.running.bind (·.cur) with | some c => c.refilled.contains f.quern | none => false
      let s := onMill s m fun x =>
        { x with
          fills := x.fills ++ [f]
          running := x.running.map fun r => { r with cur := r.cur.map fun c => { c with refilled := f.quern :: c.refilled } } }
      if again then stop s else s
  else
    let s := put s fun b => { b with state := .empty }
    if usesActive x p then
      match x.running with
      | some r => endWith s m r (uncorrEnding r)
      | none => s
    else s

/-- SCRUB_READ of the next row of a bank: `find` is what the read finds wrong in the cells (03 R60, R61). -/
def scrubRead (s : State) (m : MillId) (p : QuernId) (bankB : Bool) (find : ScrubFind) : State :=
  let x := s.mills[m.val]
  let u := x.querns[p.val]
  let b := u.bank bankB
  if !x.regs.scrubEn || b.state ≠ .full || b.repairRow.isSome then s
  else
    let row := b.scrubRow
    let differs := goldPass x.regs b && match b.src with
      | some g => (match goldRow s m g (bankWb b.wfmt) row with | some y => some y ≠ b.rows[row]? | none => false)
      | none => false
    let mismatch := goldPass x.regs b && (find = .goldMismatch || differs)
    let seg := match find with | .parity k => some k.val | _ => none
    let put := fun (s : State) (f : QBank → QBank) => onMill s m fun x => onQuern x p fun u => u.onBank bankB f
    if seg.isNone && !mismatch then
      put s fun b => { b with checked := vmod b.checked (fin 256 row) fun _ => now s }.advance
    else
      let log := img (2 ^ 31 + flag bankB 30 + flag (u.active = bankB) 29 + flag seg.isNone 28 + row % 256 * 256 + seg.getD 0)
      let s := onMill s m fun x => onQuern x p fun u =>
        { u with parLog := if bitOf u.parLog 31 then u.parLog else log
                 expose := b.checked[(fin 256 row).val]
                 parCount := bump u.parCount }
      let s := put s QBank.advance
      let s := weightAction s m p bankB row
      if bitOf x.regs.scrubCtl 1 then raiseBell s (fin 256 (bitsOf x.regs.scrubCtl 31 24)) else s

/-- ROW_REPAIR_DONE: the row is rewritten from the golden copy; a copy that cannot be read leaves the bank EMPTY. -/
def repairDone (s : State) (m : MillId) (p : QuernId) (bankB : Bool) : State :=
  let b := ((s.mills[m.val]).querns[p.val]).bank bankB
  match b.repairRow with
  | none => s
  | some row =>
    let y := b.src.bind fun g => goldRow s m g (bankWb b.wfmt) row
    onMill s m fun x => onQuern x p fun u => u.onBank bankB fun b =>
      match y with
      | none => { b with state := .empty, repairRow := none }
      | some y =>
        { b with state := .full, repairRow := none, rows := vmod b.rows (fin 256 row) fun _ => y,
                 parity := vmod b.parity (fin 256 row) fun _ => rowParity y,
                 checked := vmod b.checked (fin 256 row) fun _ => now s }

/-! ### Remapping (03 R64) -/

/-- A bank of the new physical Quern of a remap: one that was FULL with a golden copy is filled from it, any other EMPTY. -/
def remapBank (b : QBank) : QBank := if b.state = .full && b.gvalid then { b with state := .filling, repairRow := none } else QBank.reset

/-- The Querns after an accepted QMAP write, before its fills end. -/
def remapQuerns (x : Mill) (new : BitVec 18) : Vector Quern 7 :=
  .ofFn fun p =>
    let u := x.querns[p.val]
    let at_ := fun (q : BitVec 18) => (List.range 6).find? fun l => qmapAt q l = p.val
    match at_ new with
    | some l =>
      let old := qmapAt x.regs.qmap l
      if old = p.val then u
      else
        let o := x.querns[(fin 7 old).val]
        { u with a := remapBank o.a, b := remapBank o.b, active := o.active }
    | none => if (at_ x.regs.qmap).isSome then { u with a := .reset, b := .reset } else u

/-- QMAP_WRITE: REMAP_REJ is write-1-to-clear; the map is accepted only while the Mill holds no docket and it names six
different Querns. -/
def qmapWrite (s : State) (m : MillId) (v : Word) : State :=
  let new := BitVec.ofNat 18 v.toNat
  onMill s m fun x =>
    let rej := x.regs.remapRej && !bitOf v 31
    if !x.idle || x.regs.remapBusy || !qmapLegal new then { x with regs := { x.regs with remapRej := true } }
    else if new = x.regs.qmap then { x with regs := { x.regs with remapRej := rej } }
    else
      { x with querns := remapQuerns x new, regs := { x.regs with qmap := new, remapBusy := true, remapRej := rej } }

/-- A bank at the end of a remap's fills. -/
def remapFilled (s : State) (m : MillId) (b : QBank) : QBank :=
  if b.state ≠ .filling then b
  else match b.src with
    | none => QBank.reset
    | some g =>
      let wb := bankWb b.wfmt
      let rows := (List.range 256).map fun i => goldRow s m g wb i
      if rows.any (·.isNone) then QBank.reset
      else b.filled (.ofFn fun i => ((rows.getD i.val none).getD 0)) wb g none (now s)

/-- REMAP_DONE. -/
def remapDone (s : State) (m : MillId) : State :=
  if (s.mills[m.val]).regs.remapBusy then
    onMill s m fun x =>
      { x with
        querns := x.querns.map fun u => { u with a := remapFilled s m u.a, b := remapFilled s m u.b }
        regs := { x.regs with remapBusy := false } }
  else s

/-! ### Meanings -/

def execLoadw (m : MillId) (s : State) : Result := liveRows s fun s => loadw s m
def execBankFillStart (m : MillId) (s : State) : Result := live s fun s => fillStart s m
def execBankFillDone (m : MillId) (s : State) : Result := liveRows s fun s => fillDone s m
def execBankSwap (m : MillId) (s : State) : Result := live s fun s => bankSwap s m
def execQuernVector (m : MillId) (q : Fin 6) (s : State) : Result := liveRows s fun s => quernVector s m q
def execQuernPartialsOut (m : MillId) (s : State) : Result := live s fun s => partialsOut s m
def execScrubRead (m : MillId) (p : QuernId) (bankB : Bool) (find : ScrubFind) (s : State) : Result :=
  liveRows s fun s => scrubRead s m p bankB find
def execRowRepairDone (m : MillId) (p : QuernId) (bankB : Bool) (s : State) : Result := live s fun s => repairDone s m p bankB
def execQmapWrite (m : MillId) (v : Word) (s : State) : Result := live s fun s => qmapWrite s m v
def execRemapDone (m : MillId) (s : State) : Result := live s fun s => remapDone s m

end Sys2Proof.Machine
end

