-- ==== Sys2Proof/Machine/Vaults.lean ====
section
/-! DEFINITION. The Vault: mounting, formatting, units, dockets, the translation-layer duties and boot streaming (14). -/

namespace Sys2Proof.Machine

/-! ### Geometry (14 R329, R332) -/

/-- Units of a block in the native mode, and in SLC mode. -/
def nandNative (g : NandGeom) : Nat := g.rawUnits / g.blocks
def nandSlc (g : NandGeom) : Nat := if g.tlc then nandNative g / 3 else nandNative g

/-- Units of BOOT and of one slot. -/
def Vault.slotUnits (v : Vault) : Nat := v.slotSize.toNat * 256

/-- Units an anchor block has for an image, beside the format record and the map root. -/
def Vault.anchorUnits (v : Vault) : Nat := nandSlc v.nand - 1

/-- Units of a block in its partition's mode. -/
def Vault.unitsOf (v : Vault) (boot : Bool) : Nat := if boot then (nandSlc v.nand) else (nandNative v.nand)

/-! ### Counters (14 Table 14.6) -/

/-- Count in one of the ten counters of 0x0020-0x0044. -/
def Vault.count (v : Vault) (i : Fin 10) (n : Nat := 1) : Vault := { v with counters := vmod v.counters i fun x => bump x n }

/-- Blocks that hold wear: not bad. -/
def Vault.good (v : Vault) : List NandBlock := v.blocks.filter (!·.bad)

/-- BAD_BLOCKS, SPARE_FREE, ERASE_MAX and ERASE_MIN from the block table. -/
def Vault.stats (v : Vault) : Vault :=
  let es := v.good.map (·.erases)
  { v with
    counters := vmod (vmod v.counters (8 : Fin 10) fun _ => img (v.blocks.filter (·.bad)).length) (9 : Fin 10)
      fun _ => img (v.spareBoot + v.spareData)
    eraseMax := img (es.foldl max 0)
    eraseMin := img (es.foldl min (es.headD 0)) }

/-- One codeword decoded: CW_READ, and the step that succeeded, with the bits it corrected (14 R331). -/
def Vault.decode (v : Vault) (c : Codeword) : Vault :=
  let v := v.count 0
  let bits := fun (v : Vault) (b : Nat) => { v with maxBits := if v.maxBits.toNat < b then BitVec.ofNat 16 (stopAt 0xFFFF b) else v.maxBits }
  match c with
  | .hard b => bits v b
  | .retry b => bits (v.count 1) b
  | .soft b => bits (v.count 2) b
  | .uncorr => v.count 3

/-! ### Blocks (14 R336) -/

/-- Indexes of the blocks. -/
def Vault.indexes (v : Vault) : List Nat := List.range v.blocks.length

/-- The block at an index. -/
def Vault.block (v : Vault) (i : Nat) : NandBlock :=
  v.blocks.getD i { boot := false, erases := 0, reads := 0, bad := true, used := 0, live := 0, patrol := 0 }

/-- Change the block at an index. -/
def Vault.onBlock (v : Vault) (i : Nat) (f : NandBlock → NandBlock) : Vault := { v with blocks := listSet v.blocks i f }

/-- The block being filled in a partition. -/
def Vault.openOf (v : Vault) (boot : Bool) : Option Nat := if boot then v.openBoot else v.openData

/-- A block that may be taken: of the partition, good, holding nothing, not being filled. -/
def Vault.free (v : Vault) (boot : Bool) (i : Nat) : Bool :=
  let b := v.block i
  b.boot = boot && !b.bad && b.live = 0 && v.openOf boot ≠ some i

/-- The index with the least (or greatest) erase count of a list. -/
def Vault.leastWorn (v : Vault) : List Nat → Option Nat
  | [] => none
  | i :: rest => match v.leastWorn rest with
    | none => some i
    | some j => if (v.block j).erases < (v.block i).erases then some j else some i
def Vault.mostWorn (v : Vault) : List Nat → Option Nat
  | [] => none
  | i :: rest => match v.mostWorn rest with
    | none => some i
    | some j => if (v.block i).erases < (v.block j).erases then some j else some i

/-- Erase a block that holds nothing: its read counter is cleared. -/
def Vault.eraseBlock (v : Vault) (i : Nat) : Vault :=
  v.onBlock i fun b => { b with erases := if b.used = 0 then b.erases else b.erases + 1, reads := 0, used := 0 }

/-- The free block with the lowest erase count, erased and made the block being filled. -/
def Vault.openNew (v : Vault) (boot : Bool) : Option (Nat × Vault) :=
  (v.leastWorn (v.indexes.filter (v.free boot))).map fun i =>
    let v := v.eraseBlock i
    (i, if boot then { v with openBoot := some i } else { v with openData := some i })

/-- The block the next unit of a partition goes to: the one being filled while it has room, else a new one. -/
def Vault.target (v : Vault) (boot : Bool) : Option (Nat × Vault) :=
  match v.openOf boot with
  | some i => if (v.block i).used < v.unitsOf boot && !(v.block i).bad then some (i, v) else v.openNew boot
  | none => v.openNew boot

/-- Move a block's data to another: the map changes once the copy is durable, and both copies are the same (14 R338). -/
def Vault.moveBlock (v : Vault) (src dst : Nat) : Vault :=
  let n := (v.block src).live
  let v := v.eraseBlock dst
  let v := { v with map := v.map.map fun ((k, b) : Nat × BitVec 32) => (k, if b.toNat = src + 1 then BitVec.ofNat 32 (dst + 1) else b) }
  let v := v.onBlock dst fun b => { b with used := n, live := n }
  v.onBlock src fun b => { b with live := 0 }

/-- Grown bad: the block is retired and a spare of its partition takes its place. -/
def Vault.retire (v : Vault) (i : Nat) : Vault :=
  let boot := (v.block i).boot
  let v := (v.onBlock i fun b => { b with bad := true }).count 4
  if boot then { v with spareBoot := v.spareBoot - 1, openBoot := if v.openBoot = some i then none else v.openBoot }
  else { v with spareData := v.spareData - 1, openData := if v.openData = some i then none else v.openData }

/-- HEALTH_BELL number and GRIST_BELL number. -/
def Vault.healthBell (v : Vault) : BellId := fin 256 (bitsOf v.bells 15 8)
def Vault.gristBell (v : Vault) : BellId := fin 256 (bitsOf v.bells 7 0)

/-- Spare blocks left of a partition, and its blocks. -/
def Vault.spareOf (v : Vault) (boot : Bool) : Nat := if boot then v.spareBoot else v.spareData
def Vault.sizeOf (v : Vault) (boot : Bool) : Nat := (v.blocks.filter (·.boot = boot)).length

/-- After a retirement: below 1 % of a partition HEALTH_BELL is raised, with no spare left READ_ONLY is set. -/
def settleSpare (s : State) (boot : Bool) : State :=
  let v := s.vault
  let s := onVault s fun v => { v.stats with readOnly := v.readOnly || v.spareOf boot = 0 }
  if v.spareOf boot * 100 < v.sizeOf boot then raiseBell s v.healthBell else s

/-! ### Units (14 R332, R333, R337) -/

def mapKey (boot : Bool) (u : Nat) : Nat := 2 * u + (if boot then 0 else 1)

/-- The block that holds a unit; none: never written. -/
def Vault.holder (v : Vault) (boot : Bool) (u : Nat) : Option Nat :=
  let b := sGet v.map (mapKey boot u)
  if b = 0 then none else some (b.toNat - 1)

/-- Contents of a unit. -/
def Vault.unitBytes (v : Vault) (boot : Bool) (u : Nat) : List Byte :=
  readBytes (if boot then v.boot else v.dataPart) (4096 * u) 4096

/-- Read a unit: its block counts a read and its codeword is decoded; a unit that was never written reads zeros and decodes
nothing. -/
def Vault.readUnit (v : Vault) (boot : Bool) (u : Nat) (c : Codeword) : Option (List Byte) × Vault :=
  match v.holder boot u with
  | none => (some (v.unitBytes boot u), v)
  | some i =>
    let v := (v.onBlock i fun b => { b with reads := b.reads + 1 }).decode c
    (if c = .uncorr then none else some (v.unitBytes boot u), v)

/-- Program a unit: it becomes durable in the block being filled; a failed program retires that block, whose data moves, and
the unit goes to another. None: no free block is left. -/
def writeUnit (s : State) (boot : Bool) (u : Nat) (bs : List Byte) (c : Codeword) : Option State :=
  match s.vault.target boot with
  | none => none
  | some (i, v) =>
    let place := fun (s : State) (i : Nat) (v : Vault) =>
      let v := match v.holder boot u with
        | some old => v.onBlock old fun b => { b with live := b.live - 1 }
        | none => v
      let v := v.onBlock i fun b => { b with used := b.used + 1, live := b.live + 1 }
      let v := { v with map := sSet v.map (mapKey boot u) (BitVec.ofNat 32 (i + 1)) }
      let v := if boot then { v with boot := writeBytes v.boot (4096 * u) bs }
        else { v with dataPart := writeBytes v.dataPart (4096 * u) bs }
      { s with vault := v.stats }
    if c ≠ .uncorr then some (place s i v)
    else
      match (v.retire i).openNew boot with
      | none => none
      | some (j, w) =>
        let s := settleSpare { s with vault := w.moveBlock i j } boot
        some (place s j s.vault)

/-! ### Mount and format (14 R329, R333, R334; 18 R428) -/

/-- Mount: a geometry that differs, or no anchor, leaves the Vault unmounted with FAIL; else the journal is replayed. -/
def Vault.mount (v : Vault) : Vault :=
  if !v.nand.identical then { v with mounted := false, fail := 1 }
  else if !v.formatted then { v with mounted := false, fail := 2 }
  else ({ v with mounted := true, fail := 0, slotSize := v.slotNv,
                 readOnly := v.spareBoot = 0 || v.spareData = 0 }.count 7).stats

/-- A write of VAULT_CTL: EN set mounts, EN clear ends service; GRIST_FAIL is write-1-to-clear. -/
def vaultCtl (s : State) (w : Word) : State :=
  onVault s fun v =>
    let was := v.en
    let v := { v with en := bitOf w 31, gristFail := v.gristFail && !bitOf w 26, bells := BitVec.ofNat 16 (bitsOf w 15 0) }
    if bitOf w 31 then (if was then v else v.mount) else { v with mounted := false }

/-- Blocks an amount of units takes. -/
def blocksFor (units per : Nat) : Nat := if per = 0 then 0 else ceilDiv units per

/-- Blocks of BOOT: two slots and 2 % spare, 64 journal blocks and the 16 anchor blocks (14 R333, R334). -/
def Vault.bootBlocks (v : Vault) (mb : Nat) : Nat :=
  let n := blocksFor (2 * mb * 256) (nandSlc v.nand)
  n + ceilDiv (2 * n) 100 + 64 + 16

/-- The slot size of a format is refused: 0, or two slots and their reserve exceed half the raw capacity. -/
def Vault.slotRefused (v : Vault) (mb : Nat) : Bool :=
  mb = 0 || v.nand.rawUnits * 100 < 2 * (2 * mb * 256 * 102)

/-- A write of VAULT_FMT: FMT_REJ is write-1-to-clear, FMT_SLOT_MB takes the value, and FORMAT erases and formats the Vault
when R334 allows it, with `bad` the factory marks. -/
def vaultFormat (s : State) (w : Word) (bad : List Nat) : State :=
  let s := onVault s fun v => { v with fmtRej := v.fmtRej && !bitOf w 29, fmtSlotMb := BitVec.ofNat 16 (bitsOf w 15 0) }
  if !bitOf w 31 then s
  else
    let lc := s.assay.lcState
    let v := s.vault
    let mb := v.fmtSlotMb.toNat
    if (v.fail = 2 && lc ≠ 5 || lc = 1 || lc = 4) && !v.slotRefused mb then
      let nb := v.bootBlocks mb
      let n := v.nand.blocks
      let blocks : List NandBlock := (List.range n).map fun i =>
        { boot := decide (i < nb), erases := (v.block i).erases + (if bad.contains i then 0 else 1), reads := 0, bad := bad.contains i, used := 0, live := 0, patrol := 0 }
      let data := (blocks.filter fun b => !b.boot && !b.bad).length
      let spareData := ceilDiv (2 * data) 100
      let s := onVault s fun v =>
        { v with
          blocks := blocks
          map := []
          boot := []
          dataPart := []
          openBoot := none
          openData := none
          anchors := .replicate 16 (writeBytes [] 0 s.service.firmware)
          formatted := true
          slotNv := v.fmtSlotMb
          dataUnits := (data - spareData) * (nandNative v.nand)
          spareBoot := ceilDiv (2 * blocksFor (2 * mb * 256) (nandSlc v.nand)) 100
          spareData := spareData
          sluRecords := .replicate 16 { present := false, generation := 0, digests := [] }
          booted := false }
      raiseBell (onVault s Vault.mount) s.vault.healthBell
    else onVault s fun v => { v with fmtRej := true }

/-! ### Dockets (14 R345, R335) -/

/-- A Vault docket's operand in the Vault: partition, first unit, units; with the range check of Table 14.5. -/
structure VaultOp where
  part : Nat
  unit : Nat
  units : Nat
deriving DecidableEq, Repr

/-- The checks that both dockets share: mounted, alignment, range. -/
def vaultCheck (s : State) (a : Nat) (len : Word) (loc : Nat) : Except (Byte × Nat) VaultOp :=
  let v := s.vault
  let off := a % 2 ^ 44
  let part := a / 2 ^ 44
  let units := len.toNat
  let size := if part = 0 then 2 * v.slotUnits else if part = 1 then v.dataUnits else if part = 2 then v.anchorUnits else 0
  if !v.en || !v.mounted || v.formatting || !unitTakes s 28 then .error (stOffline, 0x84)
  else if a % 4096 ≠ 0 || loc % 512 ≠ 0 then .error (stFormat, 0x80)
  else if units = 0 || 65536 < units || 2 < part || size < off / 4096 + units then .error (stBound, 0x81)
  else .ok { part := part, unit := off / 4096, units := units }

/-- The local operand inside the docket's windows (05 R117). -/
def vaultLocal (s : State) (j : Job) (a n : Nat) : Option Nat := effRange s.granary.flat (jobMill j.words) j.win a (4096 * n)

/-- Copy units to the local address: units done, and the fault that stopped it. -/
def readUnits (s : State) (op : VaultOp) (a : Nat) (cws : List Codeword) : Nat → Nat → Option (Byte × Nat) × Nat × State
  | 0, k => (none, k, s)
  | n + 1, k =>
    let (bs, v) :=
      if op.part = 2 then (some (readBytes s.vault.anchors[0] (4096 * (op.unit + k)) 4096), s.vault.decode ((cws.head?).getD (.hard 0)))
      else s.vault.readUnit (op.part = 0) (op.unit + k) ((cws.head?).getD (.hard 0))
    let bs := if op.part = 2 && (cws.head?).getD (.hard 0) = .uncorr then none else bs
    let s := { s with vault := v }
    match bs with
    | none => (some (stUncorr, 0x85), k, s)
    | some bs =>
      let (st, s) := writeRange s none (a + 4096 * k) bs
      if st ≠ .ok then (some (netReceipt st), k, s) else readUnits s op a (cws.drop 1) n (k + 1)

/-- Make units durable: units done, and the fault that stopped it. -/
def writeUnits (s : State) (op : VaultOp) (a : Nat) (cws : List Codeword) : Nat → Nat → Option (Byte × Nat) × Nat × State
  | 0, k => (none, k, s)
  | n + 1, k =>
    let (st, bs, s) := readRange s none (a + 4096 * k) 4096
    if st ≠ .ok then (some (netReceipt st), k, s)
    else match writeUnit s (op.part = 0) (op.unit + k) bs ((cws.head?).getD (.hard 0)) with
      | none => (some (stOffline, 0x83), k, onVault s fun v => { v with readOnly := true })
      | some s => writeUnits s op a (cws.drop 1) n (k + 1)

/-- A Vault docket ends. -/
def vaultEnd (j : Job) (start : Word64) (r : Option (Byte × Nat) × Nat × State) : State :=
  let (f, k, s) := r
  let (st, sub) := f.getD (stOk, 0)
  finishJob s j st sub 0 0 start k 0

/-- A range of BOOT touches the booted slot. -/
def Vault.activeSlot (v : Vault) (op : VaultOp) : Bool :=
  let lo := if v.bootedB then v.slotUnits else 0
  op.part = 0 && v.booted && decide (op.unit < lo + v.slotUnits) && decide (lo < op.unit + op.units)

/-- VAULT_WRITE of a firmware image into the anchors (14 R335). -/
def anchorWrite (s : State) (j : Job) (op : VaultOp) (a : Nat) : State :=
  let (st, bs, s) := readRange s none a (4096 * op.units)
  let v := s.vault
  if st ≠ .ok then fwDone s j (netReceipt st).1 (netReceipt st).2
  else if op.unit ≠ 0 || v.anchorUnits * 4096 < imageLen bs || bs.length < imageLen bs || (imageSlot s.assay.fuses bs).isNone then
    fwDone s j stUncorr 0x86
  else
    let img := writeBytes [] 0 (bs.take (imageLen bs))
    finishJob (onVault s fun v => { v with anchors := .replicate 16 img }) j stOk 0 0 0 (now s) op.units 0

/-- A docket between a Vault address and a local address, `wr` into the Vault.
ANCHOR ranges longer than a block, or elsewhere in it, are rejected as images (14 R335). -/
def vaultRun (s : State) (j : Job) (wr : Bool) (va loc : Nat) (cws : List Codeword) : State :=
  match vaultCheck s va j.words[8] loc with
  | .error (st, sub) => if wr && decide (va / 2 ^ 44 = 2) && decide (sub = 0x81) then fwDone s j stUncorr 0x86 else fwDone s j st sub
  | .ok op =>
    if wr && s.vault.activeSlot op then fwDone s j stBound 0x82
    else if wr && s.vault.readOnly then fwDone s j stOffline 0x83
    else match vaultLocal s j loc op.units with
      | none => fwDone s j stBound 0x08
      | some a =>
        if wr then (if op.part = 2 then anchorWrite s j op a else vaultEnd j (now s) (writeUnits s op a cws op.units 0))
        else vaultEnd j (now s) (readUnits s op a cws op.units 0)

/-- A 48-bit operand: its low word and bits 15:0 of the next. -/
def wideOperand (lo hi : Word) : Nat := lo.toNat + bitsOf hi 15 0 * 2 ^ 32

/-- VAULT_READ: words 4 and 5 name the Vault, words 6 and 7 the local address. -/
def vaultRead (s : State) (cws : List Codeword) : State :=
  fwJob s .vaultRead fun s j => vaultRun s j false (wideOperand j.words[4] j.words[5]) (wideOperand j.words[6] j.words[7]) cws

/-- VAULT_WRITE: words 4 and 5 are the local address, words 6 and 7 name the Vault. -/
def vaultWrite (s : State) (cws : List Codeword) : State :=
  fwJob s .vaultWrite fun s j => vaultRun s j true (wideOperand j.words[6] j.words[7]) (wideOperand j.words[4] j.words[5]) cws

/-! ### Duties (14 R336, R338) -/

/-- Blocks of a partition that hold data. -/
def Vault.holding (v : Vault) (boot : Bool) : List Nat :=
  v.indexes.filter fun i => (v.block i).boot = boot && !(v.block i).bad && 0 < (v.block i).live

/-- WEAR_LEVEL_MOVE: a spread of erase counts above WL_DELTA moves the data of the least-worn block to the most-worn free
one. -/
def wearMove (s : State) (boot : Bool) : State :=
  onVault s fun v =>
    let all := v.indexes.filter fun i => (v.block i).boot = boot && !(v.block i).bad
    match v.leastWorn all, v.mostWorn all, v.leastWorn (v.holding boot), v.mostWorn (v.indexes.filter (v.free boot)) with
    | some lo, some hi, some src, some dst =>
      if v.mounted && v.wlDelta.toNat < (v.block hi).erases - (v.block lo).erases && (v.block src).erases = (v.block lo).erases
          && v.openOf boot ≠ some src then
        (v.moveBlock src dst).stats
      else v
    | _, _, _, _ => v

/-- A block's data moves to the free block with the lowest erase count; with none the move stays due. -/
def Vault.relocate (v : Vault) (i : Nat) (counter : Fin 10) : Vault :=
  match v.leastWorn (v.indexes.filter (v.free (v.block i).boot)) with
  | none => v
  | some dst => ((v.moveBlock i dst).count counter).stats

/-- BOOT, and DATA on SLC parts, take the SLC limits. -/
def Vault.slcLimits (v : Vault) (i : Nat) : Bool := (v.block i).boot || !v.nand.tlc

/-- READ_DISTURB_RELOC of a block whose read counter has reached its limit. -/
def readDisturb (s : State) (i : Nat) : State :=
  onVault s fun v =>
    let lim := 1000 * (if v.slcLimits i then bitsOf v.rdLimit 15 0 else bitsOf v.rdLimit 31 16)
    if v.mounted && !(v.block i).bad && 0 < (v.block i).live && lim ≤ (v.block i).reads then v.relocate i 5 else v

/-- RETENTION_PATROL of a block not yet read in this interval of PATROL_DAYS. -/
def retention (s : State) (i : Nat) (c : Codeword) : State :=
  let days := bitsOf s.vault.patrol 31 16
  let due := (now s).toNat / (days * 86400000000000) + 1
  onVault s fun v =>
    if !v.mounted || days = 0 || (v.block i).live = 0 || (v.block i).bad || (v.block i).patrol = due then v
    else
      let v := (v.onBlock i fun b => { b with patrol := due, reads := b.reads + 1 }).decode c
      let lim := if v.slcLimits i then bitsOf v.patrol 7 0 else bitsOf v.patrol 15 8
      let weak := match c with
        | .hard b => decide (lim < b)
        | .retry _ | .soft _ => true
        | .uncorr => false
      if weak then v.relocate i 6 else v

/-! ### Grist images (14 R339-R342) -/

/-- Bytes of an image slot. -/
def Vault.slotBytes (v : Vault) (slotB : Bool) (off n : Nat) : List Byte :=
  readBytes v.boot ((if slotB then v.slotUnits * 4096 else 0) + off) n

/-- A section entry (Table 14.4). -/
def sectionOf (bs : List Byte) : Section :=
  let d0 := BitVec.ofNat 32 (imgWord bs 0)
  { type := bitsOf d0 3 0, priority := bitsOf d0 11 8, bootLoad := bitOf d0 16, bell := fin 256 (bitsOf d0 31 24),
    srcOff := imgWord bs 4, len := imgWord bs 8, dest := imgWord bs 0xC + imgWord bs 0x10 % 65536 * 2 ^ 32,
    digOff := imgWord bs 0x14, mills := BitVec.ofNat 16 (imgWord bs 0x18) }

/-- The header of a slot, when it is valid: GENERATION and sections (14 R339). -/
def gristHeader (v : Vault) (f : Fuses) (slotB : Bool) : Option (Word × List Section) :=
  let h := v.slotBytes slotB 0 0x1160
  let n := imgWord h 4 / 65536
  let gen := imgWord h 8
  if imgWord h 0 = 0x54535247 && imgWord h 4 % 65536 = 1 && 1 ≤ n && n ≤ 64 && 1 ≤ gen && gen ≤ 0xFFFFFFFE && f.imageKeySet
      && Config.ecdsaOk f.imageKey (Config.sha384 (h.take 0x1100)) (keyOf ((h.drop 0x1100).take 96)) then
    some (BitVec.ofNat 32 gen, (List.range n).map fun i => sectionOf ((h.drop (0x100 + 64 * i)).take 64))
  else none

/-- The valid header with the larger GENERATION: slot, header (14 R341). -/
def gristChoice (v : Vault) (f : Fuses) : Option (Bool × Word × List Section) :=
  match gristHeader v f false, gristHeader v f true with
  | some a, some b => if a.1 < b.1 then some (true, b) else some (false, a)
  | some a, none => some (false, a)
  | none, some b => some (true, b)
  | none, none => none

/-- Chunks of a section, and the digest its list gives for one. -/
def Section.chunks (x : Section) : Nat := ceilDiv x.len 1024
def chunkDigest (v : Vault) (slotB : Bool) (x : Section) (c : Nat) : BitVec 384 :=
  digestOf (v.slotBytes slotB (4096 * x.digOff + 48 * c) 48)

/-- The digest list of a section. -/
def digestList (v : Vault) (x : Section) : List (BitVec 384) := (List.range x.chunks).map (chunkDigest v v.bootedB x)

/-- Bytes of a chunk in a slot. -/
def chunkBytes (v : Vault) (slotB : Bool) (x : Section) (c : Nat) : List Byte :=
  v.slotBytes slotB (4096 * (x.srcOff + 1024 * c)) (4096 * min 1024 (x.len - 1024 * c))

/-- Sections to stream at boot, in order (14 R341). -/
def streamList (secs : List Section) (needs : BitVec 16) : List Stream :=
  let keep := (List.range secs.length).filter fun i =>
    match secs[i]? with
    | some x => x.bootLoad && x.type ≠ 5 && !(x.type = 2 && x.mills &&& needs = 0)
    | none => false
  (List.range 16).flatMap fun p => (keep.filter fun i => (secs[i]?.map (·.priority)) = some p).map fun i => { index := i, chunk := 0 }

/-- Boot streaming has ended: FILL_TIME_US, BOOT_T_10, boot complete. -/
def streamsEnd (s : State) : State :=
  let t := ((now s).toNat - s.vault.streamFrom.toNat) / 1000
  let s := onVault s fun v => { v with fillTime := img (stopAt 0xFFFFFFFF t) }
  onService s fun x =>
    if x.bootPhase = 10 then
      { x with bootPhase := 0xF, bootT := vmod x.bootT (10 : Fin 11) fun _ => img (((now s).toNat - x.bootFrom.toNat) / 1000) }
    else x

/-- The present section is over: streaming goes on with the next. -/
def sectionOver (s : State) : State :=
  let s := onVault s fun v => { v with streams := v.streams.drop 1 }
  if s.vault.streams.isEmpty then streamsEnd s else s

/-- Codewords of a chunk are decoded: whether all are correctable. -/
def decodeAll (v : Vault) (cws : List Codeword) : Vault := cws.foldl Vault.decode v

/-- CHUNK_VERIFY: the next chunk of the section being streamed is written to DEST and its digest compared; a chunk that does
not match is read again from the other slot; with no matching copy the section has failed (14 R342). -/
def chunkVerify (s : State) (sec : Nat) (chunk : Nat) (cws : List Codeword) : State :=
  match s.vault.streams with
  | [] => s
  | st :: _ =>
    match s.vault.sections[sec]? with
    | none => s
    | some x =>
      if st.index ≠ sec || st.chunk ≠ chunk || s.service.bootPhase ≠ 10 then s
      else
        let s := onVault s fun v => decodeAll v cws
        let v := s.vault
        let want := chunkDigest v v.bootedB x chunk
        let here := chunkBytes v v.bootedB x chunk
        let dest := x.dest + 4194304 * chunk
        let put := fun (s : State) (bs : List Byte) => (writeRange s none dest bs).2
        let other := match gristHeader v s.assay.fuses (!v.bootedB) with
          | some (_, secs) =>
            secs.find? fun y => decide (chunk < y.chunks) && chunkDigest v (!v.bootedB) y chunk = want
              && Config.sha384 (chunkBytes v (!v.bootedB) y chunk) = want
          | none => none
        let good := fun (s : State) =>
          if chunk + 1 < x.chunks then
            onVault s fun v => { v with streams := match v.streams with | y :: r => { y with chunk := chunk + 1 } :: r | [] => [] }
          else
            let s := if x.type = 2 then onVault s fun v => { v with sluReady := v.sluReady ++ [sec] } else s
            raiseBell (sectionOver s) x.bell
        if !cws.contains .uncorr && Config.sha384 here = want then good (put s here)
        else match other with
          | some y => good (put (put s here) (chunkBytes v (!v.bootedB) y chunk))
          | none =>
            let s := onVault (put s here) fun v => { v with gristFail := true }
            raiseBell (sectionOver s) v.gristBell

/-! ### Meanings -/

def execVaultRead (cws : List Codeword) (s : State) : Result := liveRows s fun s => vaultRead s cws
def execVaultWrite (cws : List Codeword) (s : State) : Result := liveRows s fun s => vaultWrite s cws
def execVaultFormat (v : Word) (factoryBad : List Nat) (s : State) : Result := liveRows s fun s => vaultFormat s v factoryBad
def execVaultEnable (v : Word) (s : State) : Result := live s fun s => vaultCtl s v
def execWearLevelMove (boot : Bool) (s : State) : Result := live s fun s => wearMove s boot
def execReadDisturbReloc (block : Nat) (s : State) : Result := live s fun s => readDisturb s block
def execRetentionPatrol (block : Nat) (cw : Codeword) (s : State) : Result := live s fun s => retention s block cw
def execChunkVerify (section_ : Fin 64) (chunk : Nat) (cws : List Codeword) (s : State) : Result :=
  liveRows s fun s => chunkVerify s section_.val chunk cws

end Sys2Proof.Machine
end

