-- ==== Sys2Proof/Machine/Weirs.lean ====
section
/-! DEFINITION. The Weirs: matrices, records, binds and solves (08). -/

namespace Sys2Proof.Machine

/-! ### Matrices (08 R182-R185) -/

/-- `floor (log2 |v|)` of a finite value that is not zero. -/
def flog2 (v : Word) : Option Int :=
  match fval v with
  | .fin _ m e => if m = 0 then none else some (e + Nat.log2 m)
  | _ => none

/-- The largest of some exponents. -/
def maxExp (vs : List Word) : Option Int :=
  (vs.filterMap flog2).foldl (fun acc x => match acc with | none => some x | some y => some (max x y)) none

/-- E_i of a row (R183); none: an exponent the rule does not state, for a row with a NaN or an infinity or one whose
exponent does not fit eight bits. -/
def rowExp (headroom : Nat) (vs : List Word) : Option Byte :=
  if vs.any fun v => !fisFinite v then none
  else
    let e : Int := (maxExp vs).getD 0 + 127 + headroom
    if 0 ≤ e ∧ e ≤ 255 then some (BitVec.ofInt 8 e) else none

/-- The mantissa of an entry under its row's exponent, and whether it saturated (R183). A NaN has no mantissa: `free` is
taken. -/
def mantissa (e : Byte) (v : Word) (free : BitVec 16) : BitVec 16 × Bool :=
  match fval v with
  | .nan => (free, false)
  | x =>
    let (m, sat, _) := quantiseInt 16 false (x.mul (.fin false 1 (141 - (e.toNat : Int))))
    (BitVec.ofInt 16 m, sat)

/-- Rows and columns of a matrix. -/
def Matrix.rows (a : Matrix) : Nat := if a.mode = 2 then a.m else a.n
/-- Key of an entry. -/
def entKey (i j : Nat) : Nat := 1024 * i + j
/-- The stored value of an entry (R182). -/
def Matrix.value (a : Matrix) (i j : Nat) : Word :=
  fofInt (sGet a.ents (entKey i j)).toInt (((a.exps.getD i 0).toNat : Int) - 141)
/-- An entry lies in the matrix, and in MODE 1 in one of its blocks (R196). -/
def Matrix.inside (a : Matrix) (i j : Nat) : Bool :=
  decide (i < a.rows) && decide (j < a.n) && (a.mode ≠ 1 || a.blocks.contains (i / 64, j / 64))

/-- Write one entry with the exponents of the bind, to Aᵀ as well in MODE 2; whether it saturated. -/
def Matrix.put (a : Matrix) (free i j : Nat) (v : Word) : Matrix × Bool :=
  let (m, sat) := mantissa (a.exps.getD i 0) v (Config.fresh 16 free)
  let a := { a with ents := sSet a.ents (entKey i j) m }
  if a.mode = 2 then
    let (mt, satT) := mantissa (a.tExps.getD j 0) v (Config.fresh 16 (free + 1))
    ({ a with tEnts := sSet a.tEnts (entKey j i) mt }, sat || satT)
  else (a, sat)

/-- Write entries in order: the number that saturated. -/
def Matrix.putAll (a : Matrix) (free : Nat) : List (Nat × Nat × Word) → Matrix × Nat
  | [] => (a, 0)
  | (i, j, v) :: rest =>
    let (a, sat) := a.put free i j v
    let (a, n) := a.putAll (free + 2) rest
    (a, n + if sat then 1 else 0)

/-- The exponents of rows given as lists of entries; `free` numbers the unstated ones. -/
def expsOf (headroom free : Nat) (rows : List (List Word)) : List Byte :=
  rows.mapIdx fun i r => (rowExp headroom r).getD (Config.fresh 8 (free + i))

/-- The strips of a MODE 1 block-row: its blocks in list order, four to a strip (R185). -/
def stripsOf : Nat → List Nat → List (List Nat)
  | 0, _ => []
  | _, [] => []
  | n + 1, js => js.take 4 :: stripsOf n (js.drop 4)
/-- The block-columns of a block-row, in list order. -/
def Matrix.blockCols (a : Matrix) (i : Nat) : List Nat := (a.blocks.filter (·.1 = i)).map (·.2)
/-- Block-rows that hold blocks. -/
def blockRows (blocks : List (Nat × Nat)) : List Nat := (List.range 16).filter fun i => blocks.any (·.1 = i)
/-- The number of strips of a block list (R185). -/
def stripCount (blocks : List (Nat × Nat)) : Nat :=
  (blockRows blocks).foldl (fun acc i => acc + ceilDiv (blocks.filter (·.1 = i)).length 4) 0

/-- 1 / M_ii of every diagonal entry, 0 where the entry is 0 (R189). -/
def Matrix.invDiag (a : Matrix) : List Word :=
  (List.range a.n).map fun i => let v := a.value i i; if fisZero v then 0 else fdiv fOne v

/-- The bound matrix from the rows of its master: entries that saturate, each counted once (R183, R189). -/
def bindMatrix (mode n m headroom : Nat) (blocks : List (Nat × Nat)) (free : Nat) (master : Nat → Nat → Word) : Matrix × Nat :=
  let rows := if mode = 2 then m else n
  let cols := fun (i : Nat) => (List.range n).filter fun j => mode ≠ 1 || blocks.contains (i / 64, j / 64)
  let line := fun i => (cols i).map (master i)
  let a : Matrix :=
    { mode := mode, n := n, m := m, headroom := headroom, ents := [], tEnts := [], blocks := blocks, dinv := [],
      exps := expsOf headroom (free + 2 ^ 22) ((List.range rows).map line),
      tExps := if mode = 2 then
          expsOf headroom (free + 2 ^ 22 + 1024) ((List.range n).map fun j => (List.range rows).map fun i => master i j)
        else [] }
  let (a, sat) := a.putAll free ((List.range rows).flatMap fun i => (cols i).map fun j => (i, j, master i j))
  ({ a with dinv := a.invDiag }, sat)

/-- Draws a bind may take. -/
def bindDraws : Nat := 2 ^ 23

/-! ### Products (08 R186, R187) -/

/-- 2^128 - 2^104, the largest finite value. -/
def fMax : Word := 0x7F7FFFFF

/-- A vector element that takes part in the quantisation, and whether it was replaced. -/
def laneClean (v : Word) : Word × Bool :=
  match fval v with
  | .nan => (0, true)
  | .inf neg => (if neg then fneg fMax else fMax, true)
  | _ => (v, false)

/-- The quantised vector: q_j, E_x, and the elements replaced (R186). -/
def quantVec (x : List Word) : List Int × Int × Nat :=
  let cl := x.map laneClean
  let ex := (maxExp (cl.map (·.1))).getD (-127) + 127
  (cl.map fun (v, _) =>
    match fval v with
    | .fin neg m e => FVal.roundInt false neg m (e + 141 - ex)
    | _ => 0,
   ex, (cl.filter (·.2)).length)

/-- An exact channel sum as FP32, times 2^(E_i + E_x - 282). -/
def channelOut (sum : Int) (e : Byte) (ex : Int) : Word :=
  fword ((fval (fofInt sum)).mul (.fin false 1 ((e.toNat : Int) + ex - 282)))

/-- The exact sum over some columns of a stored row. -/
def rowSumOf (ents : SMem 16) (i : Nat) (q : List Int) (cols : List Nat) : Int :=
  cols.foldl (fun acc j => acc + (sGet ents (entKey i j)).toInt * q.getD j 0) 0

/-- y = M x, with the elements replaced in x (R186). -/
def Matrix.mv (a : Matrix) (x : List Word) : List Word × Nat :=
  let (q, ex, bad) := quantVec x
  let one := fun (i : Nat) =>
    let e := a.exps.getD i 0
    if a.mode = 1 then
      let js := a.blockCols (i / 64)
      let sums := (stripsOf js.length js).map fun strip =>
        channelOut (rowSumOf a.ents i q (strip.flatMap fun j => (List.range 64).map (64 * j + ·))) e ex
      match sums with
      | [] => 0
      | y :: ys => ys.foldl fadd y
    else channelOut (rowSumOf a.ents i q (List.range a.n)) e ex
  ((List.range a.rows).map one, bad)

/-- y = Aᵀ x, from bank 1 (Table 8.4). -/
def Matrix.mvT (a : Matrix) (x : List Word) : List Word × Nat :=
  let (q, ex, bad) := quantVec x
  ((List.range a.n).map fun j => channelOut (rowSumOf a.tEnts j q (List.range a.m)) (a.tExps.getD j 0) ex, bad)

/-! ### Algorithms (08 R198, R199) -/

def vadd (a b : List Word) : List Word := List.zipWith fadd a b
def vsub (a b : List Word) : List Word := List.zipWith fsub a b
def vmul (a b : List Word) : List Word := List.zipWith fmul a b
def vscale (k : Word) (a : List Word) : List Word := a.map (fmul k)
/-- A division whose divisor is zero yields 0 (R187). -/
def wdiv (a b : Word) : Word := if fisZero b then 0 else fdiv a b

/-- A vector limited to bounds. -/
def vclamp : List Word → List Word → List Word → List Word
  | x :: xs, l :: ls, h :: hs => (if flt x l then l else if flt h x then h else x) :: vclamp xs ls hs
  | _, _, _ => []

/-- What one solve works on. -/
structure SolveIn where
  mat : Matrix
  algo : Nat
  step : Word
  b : List Word
  lo : List Word
  hi : List Word

/-- The vectors of a running solve; `good` is the last iterate whose elements were all finite. -/
structure Iter where
  x : List Word
  good : List Word
  finite : Bool
  r : List Word
  p : List Word
  rz : Word
  bad : Nat

/-- Keep an iterate (R199). -/
def Iter.keep (t : Iter) (x : List Word) : Iter :=
  if x.all fisFinite then { t with x := x, good := x } else { t with x := x, finite := false }

/-- The direction a residual gives: z, and the vector whose square norm the CG methods use. -/
def SolveIn.dir (p : SolveIn) (r : List Word) : List Word × Nat :=
  if p.algo = 2 then (vmul p.mat.dinv r, 0) else if p.algo = 4 then p.mat.mvT r else (r, 0)

/-- r . z of CG and PCG, s . s of LSQ. -/
def SolveIn.rho (p : SolveIn) (r z : List Word) : Word := if p.algo = 4 then Config.dot z z else Config.dot r z

/-- The start of a solve from an iterate. -/
def SolveIn.init (p : SolveIn) (x : List Word) : Iter :=
  if p.algo = 0 || p.algo = 3 then { x := x, good := x, finite := true, r := [], p := [], rz := 0, bad := 0 }
  else
    let (y, n) := p.mat.mv x
    let r := vsub p.b y
    let (z, n') := p.dir r
    { x := x, good := x, finite := true, r := r, p := z, rz := p.rho r z, bad := n + n' }

/-- One iteration (Table 8.4). -/
def SolveIn.next (p : SolveIn) (t : Iter) : Iter :=
  if p.algo = 0 then
    let (y, n) := p.mat.mv t.x
    let s := if fisZero p.step then fOne else p.step
    { t.keep (vadd t.x (vmul (vscale s p.mat.dinv) (vsub p.b y))) with bad := t.bad + n }
  else if p.algo = 3 then
    let (y, n) := p.mat.mv t.x
    { t.keep (vclamp (vsub t.x (vscale p.step (vsub y p.b))) p.lo p.hi) with bad := t.bad + n }
  else
    let (q, n) := p.mat.mv t.p
    let alpha := wdiv t.rz (if p.algo = 4 then Config.dot q q else Config.dot t.p q)
    let r := vsub t.r (vscale alpha q)
    let (z, n') := p.dir r
    let rz := p.rho r z
    let beta := wdiv rz t.rz
    { t.keep (vadd t.x (vscale alpha t.p)) with
      r := r, p := vadd z (vscale beta t.p), rz := rz, bad := t.bad + n + n' }

/-- `k` iterations. -/
def SolveIn.iterate (p : SolveIn) : Nat → Iter → Iter
  | 0, t => t
  | k + 1, t => p.iterate k (p.next t)

/-- The residual of the written solution and the elements replaced in computing it (R200). -/
def SolveIn.residual (p : SolveIn) (x : List Word) : Word × Nat :=
  let (y, n) := p.mat.mv x
  let r := vsub p.b y
  let (r, n') := if p.algo = 4 then p.mat.mvT r else (r, 0)
  (fsqrt (Config.dot r r), n + n')

/-! ### Solve time (08 R201, Table 8.5) -/

/-- t in CK_CIM cycles. -/
def solveCycles (a : Matrix) (algo k rd wr e : Nat) : Nat :=
  let v := ceilDiv (if algo = 4 then max a.m a.n else a.n) 32
  let dot := v + 5
  let div := 8
  let strips := stripCount a.blocks
  let mv := if a.mode = 1 then 16 * ceilDiv strips 4 + v + 14 + 2 * (strips - (blockRows a.blocks).length)
    else 16 + v + 14
  let iter := if algo = 0 || algo = 3 then mv + 2 * v
    else if algo = 1 then mv + 2 * dot + 2 * div + 2 * v
    else if algo = 2 then mv + 2 * dot + 2 * div + 3 * v
    else 2 * mv + 2 * dot + 2 * div + 3 * v
  let res := (if algo = 4 then 2 * mv else mv) + v + dot + 8
  320 + 32 * (rd + wr) + e + v + res + k * iter

/-- Device time has reached the end of `cycles` CK_CIM cycles (1.6 GHz) from a moment, plus `late` ns. -/
def cimElapsed (s : State) (t : Word64) (cycles late : Nat) : Bool :=
  decide (8 * t.toNat + 5 * cycles + 8 * late ≤ 8 * (now s).toNat)

/-! ### Operands (08 R186a, R195, R197, R203) -/

/-- Why a Weir docket ends without running: status, subcode, the poisoned row read. -/
structure WFail where
  st : Byte
  sub : Nat
  row : Option Nat := none

def badSolve : WFail := { st := stFormat, sub := 0x0B }
def weirOutside : WFail := { st := stBound, sub := 0x08 }
def weirTenant : WFail := { st := stBound, sub := 0x04 }

/-- Read bytes of the Granary window (05 R116, R117, R108). -/
def weirRead (s : State) (w : Win) (off len : Nat) : Except WFail (List Byte) :=
  let a := w.base + off
  if granTop ≤ off ∨ w.bound < a + len ∨ w.bound ≤ a then .error weirOutside
  else
    match (rowsOf a len).find? fun r => rowStatus s none r ≠ .ok with
    | none => .ok (readBytes s.mem a len)
    | some r =>
      let st := rowStatus s none r
      .error { st := (netReceipt st).1, sub := (netReceipt st).2, row := if st = .uncorr then some r else none }

/-- A condition of a rule, or its failure. -/
def need (b : Bool) (f : WFail) : Except WFail Unit := if b then .ok () else .error f

/-- Read a descriptor operand. -/
def weirDesc (s : State) (w : Win) (d : Word) : Except WFail Desc := do
  need (!absent d) badSolve
  return descOf (wordsOf (← weirRead s w (d.toNat * 64) 64))

/-- Read a descriptor of FP32 rows of a shape. -/
def weirShape (s : State) (w : Win) (d : Word) (rows cols : Nat) : Except WFail Desc := do
  let x ← weirDesc s w d
  need (decide (fmtOf x.fmt = some .fp32) && decide (x.rows = rows) && decide (x.cols = cols)) badSolve
  return x

/-- Read the rows of an FP32 descriptor, and the number of 512-byte rows they touch. -/
def weirRows (s : State) (w : Win) (d : Desc) : Except WFail (List (List Word) × Nat) := do
  let rs ← (List.range d.rows).mapM fun i => weirRead s w (d.base + i * d.rowStride) (4 * d.cols)
  let touched := ((List.range d.rows).flatMap fun i => rowsOf (w.base + d.base + i * d.rowStride) (4 * d.cols)).eraseDups
  return (rs.map wordsOf, touched.length)

/-- The matrix that the assembler and the next solve use. -/
def Weir.next (x : Weir) : Matrix := x.shadow.getD x.mat
def Weir.en (x : Weir) : Bool := bitOf x.cfg 31
def Weir.fixedTime (x : Weir) : Bool := bitOf x.cfg 30
def Weir.tenant (x : Weir) : Fin 8 := fin 8 (bitsOf x.cfg 2 0)
def Weir.busy (x : Weir) : Bool := x.running.isSome || x.binding.isSome

/-- One rule of a template (Table 8.2). -/
def ruleOf (ws : List Word) : WRule :=
  { src := fin 64 (bitsOf (nthW ws 0) 5 0), val := fin 4 (bitsOf (nthW ws 0) 9 8), op := fin 4 (bitsOf (nthW ws 0) 13 12),
    row := bitsOf (nthW ws 1) 9 0, col := bitsOf (nthW ws 1) 25 16, coef := nthW ws 2 }

/-- Everything a WEIR_BIND writes, or its failure (R186a, R188). -/
def bindPlan (s : State) (wi : WeirId) (j : Job) : Except WFail (WeirBinding) := do
  let x := s.weirs[wi.val]
  let w := j.win
  need x.en { st := stOffline, sub := 0 }
  need (decide (j.tenant = x.tenant)) weirTenant
  let t ← weirDesc s w j.words[6]
  let hd := wordsOf (← weirRead s w t.base 8)
  let mode := bitsOf (nthW hd 0) 1 0
  let rules := bitsOf (nthW hd 0) 26 16
  let n := bitsOf (nthW hd 1) 10 0
  let m := bitsOf (nthW hd 1) 26 16
  need (decide (mode ≠ 3) && decide (rules ≤ 1024)) badSolve
  need (decide (1 ≤ n) && decide (n ≤ if mode = 1 then 1024 else 256)
    && (mode ≠ 2 || (decide (1 ≤ m) && decide (m ≤ 256)))) badSolve
  let ws := wordsOf (← weirRead s w t.base (0xC0 + 16 * rules))
  let half := fun k => bitsOf (nthW ws (16 + k / 2)) (16 * (k % 2) + 15) (16 * (k % 2))
  let blocks := if mode = 1 then
      (List.range 64).filterMap fun k =>
        let h := half k; if h / 2 ^ 15 % 2 = 1 then some (h % 16, h / 16 % 16) else none
    else []
  need (decide (blocks.eraseDups.length = blocks.length) && decide (stripCount blocks ≤ 16)) badSolve
  let rs := (List.range rules).map fun r => ruleOf (ws.drop (48 + 4 * r))
  let rowsN := if mode = 2 then m else n
  need (rs.all fun r => decide (r.row < rowsN) && (decide (2 ≤ r.op.val) || decide (r.col < n))) badSolve
  let d ← weirShape s w j.words[5] (if mode = 1 then 64 * blocks.length else rowsN) (if mode = 1 then 64 else n)
  let (data, _) ← weirRows s w d
  let cell := fun i k => ((data.getD i []).getD k 0 : Word)
  let master := fun (i k : Nat) =>
    if mode = 1 then cell (64 * (blocks.idxOf (i / 64, k / 64)) + i % 64) (k % 64) else cell i k
  let (mat, sat) := bindMatrix mode n m (bitsOf (nthW hd 0) 6 4) blocks s.free master
  return { job := j, mat := mat, rules := rs, sat := sat, started := now s }

/-! ### Records (08 R190-R192) -/

/-- The value a rule takes from a record, when present. -/
def Record.val (r : Record) (v : Fin 4) : Option Word :=
  if r.mask.getLsbD v.val then some (if v = 0 then r.v0 else if v = 1 then r.v1 else if v = 2 then r.v2 else r.v3) else none

/-- One rule applied to a value; none: the pending list is full, and the record is held (R191). -/
def Weir.applyRule (x : Weir) (r : WRule) (v : Word) : Option Weir :=
  let v := fmul v r.coef
  if 2 ≤ r.op.val then
    let add := decide (r.op.val = 3)
    some { x with
      rhs := listSet x.rhs r.row fun old => if add then fadd old v else v
      rhsOps := x.rhsOps ++ [(add, r.row, v)] }
  else if !x.next.inside r.row r.col then some { x with refused := bump x.refused }
  else
    match x.pending.find? fun e => e.1 = r.row && e.2.1 = r.col with
    | some (_, _, old) =>
      let v := if r.op = 1 then fadd old v else v
      some { x with pending := x.pending.map fun e => if e.1 = r.row && e.2.1 = r.col then (r.row, r.col, v) else e }
    | none =>
      if 512 ≤ x.pending.length then none
      else
        let v := if r.op = 1 then fadd (x.next.value r.row r.col) v else v
        some { x with pending := x.pending ++ [(r.row, r.col, v)] }

/-- The larger of a pending SEQ and a record's. -/
def maxSeq (old : Option Word) (x : Word) : Option Word :=
  match old with
  | none => some x
  | some y => some (if y.toNat < x.toNat then x else y)

/-- Apply the rules from number `i` on: the next rule to apply, when the record is held. -/
def Weir.applyRules (x : Weir) (r : Record) : Nat → List WRule → Weir × Option Nat
  | _, [] => (x, none)
  | i, k :: rest =>
    if k.src ≠ r.src then x.applyRules r (i + 1) rest
    else
      match Record.val r k.val with
      | none => x.applyRules r (i + 1) rest
      | some v =>
        match x.applyRule k v with
        | none => (x, some i)
        | some y => { y with seqNew := maxSeq y.seqNew r.seq }.applyRules r (i + 1) rest

/-- Serve the held records in order, at most `n`: the numbers of those whose credit is returned. -/
def Weir.assemble (x : Weir) : Nat → Weir × List Nat
  | 0 => (x, [])
  | n + 1 =>
    match x.held with
    | [] => (x, [])
    | h :: rest =>
      match x.applyRules h.record h.rule (x.rules.drop h.rule) with
      | (y, some i) => ({ y with held := { h with rule := i } :: rest }, [])
      | (y, none) =>
        let (y, nos) := Weir.assemble { y with held := rest } n
        (y, h.no.toList ++ nos)

/-- A Weir's assembler runs; the credits of finished records go back to the Gauge (R190, 09 R226). -/
def assemble (s : State) (w : WeirId) : State :=
  let (x, nos) := (s.weirs[w.val]).assemble 17
  let s := onWeir s w fun _ => x
  onGauge s fun g =>
    { g with ports := g.ports.map fun p =>
        { p with ended := p.ended.map fun e => { e with waits := e.waits.filter fun t => !(t.2 = w && nos.contains t.1) } } }

/-- MEASUREMENT_RECORD: a record arrives while the Weir has a record buffer free. -/
def takeRecord (s : State) (w : WeirId) (r : Record) : State :=
  if 16 ≤ (s.weirs[w.val]).held.length then s
  else
    let hit := s.gauge.sent.find? fun t => t.1 = w && t.2.2 = r
    let s := onGauge s fun g => { g with sent := match hit with | some t => g.sent.erase t | none => g.sent }
    assemble (onWeir s w fun x => { x with held := x.held ++ [{ record := r, rule := 0, no := hit.map (·.2.1) }] }) w

/-! ### Dockets (08 R189, R194, R195) -/

/-- The docket a Weir takes next: URGENT first, then hand-out order. -/
def Weir.nextJob (x : Weir) : Option Job :=
  match x.queue.find? (·.cls = 3) with
  | some j => some j
  | none => x.queue.head?

/-- A docket ends before it ran. -/
def weirFail (s : State) (j : Job) (f : WFail) : State :=
  let s := match f.row with | some r => logError s r true true false 0 | none => s
  finishJob s j f.st f.sub 0 0 (now s) 0 0

/-- Take the next docket of a Weir off its queue, when it is of the command's opcode; a stopped one ends there. -/
def weirTake (s : State) (w : WeirId) (o : Opcode) (f : State → Job → State) : State :=
  match (s.weirs[w.val]).nextJob with
  | none => s
  | some j =>
    if wOpcode j.words ≠ some o then s
    else
      let s' := onWeir s w fun x => { x with queue := x.queue.erase j }
      match jobStop s j with
      | some a => finishJob s' j (abortStatus a) 0 0 0 (now s) 0 0
      | none => f s' j

/-- A bind that must wait for the running solve, and that holds later solves (R189). -/
def Weir.exclusive (x : Weir) (b : WeirBinding) : Bool := decide (b.mat.mode = 1) || decide (x.mat.mode = 1 && x.bound)

/-- WEIR_BIND: the docket is checked and its matrix written, in the shadow pair or in place. -/
def bindStart (s : State) (w : WeirId) : State :=
  let x := s.weirs[w.val]
  if x.binding.isSome then s
  else
    match x.nextJob with
    | none => s
    | some j =>
      match bindPlan s w j with
      | .error f => weirTake s w .weirBind fun s j => weirFail s j f
      | .ok b =>
        if x.exclusive b && x.running.isSome then s
        else weirTake s w .weirBind fun s _ =>
          onWeir { s with free := s.free + bindDraws } w fun x => { x with binding := some b }

/-- BIND_COMPLETE (R189). -/
def bindDone (s : State) (w : WeirId) : State :=
  match (s.weirs[w.val]).binding with
  | none => s
  | some b =>
    let s := onWeir s w fun x =>
      { x with
        binding := none
        bound := true
        mat := if b.mat.mode = 1 then b.mat else x.mat
        shadow := if b.mat.mode = 1 then none else some b.mat
        rules := b.rules
        x := List.replicate b.mat.n 0
        rhs := List.replicate b.mat.rows 0
        rhsOps := []
        pending := []
        seqNew := none
        held := x.held.map fun h => { h with rule := 0 }
        solves := 0
        running := x.running.map fun r => { r with keep := false } }
    let s := assemble s w
    finishJob s b.job (if b.sat = 0 then stOk else stSat) 0 0 0 b.started 0 b.sat

/-- Operands of a solve that the checks of R195, R197 and R203 have passed. -/
structure SolvePlan where
  algo : Nat
  k : Nat
  solAt : Nat
  rhs : Option (List Word)
  lo : List Word
  hi : List Word
  deltas : List (Nat × Nat × Bool × Word)
  rd : Nat
  wr : Nat

/-- One entry of a delta list (R196). -/
def deltaOf (ws : List Word) : Nat × Nat × Bool × Word :=
  (bitsOf (nthW ws 0) 9 0, bitsOf (nthW ws 0) 25 16, bitOf (nthW ws 0) 31, nthW ws 1)

/-- The checks and reads of SOLVE and SOLVE_DELTA before they commit (R195-R197, R203). -/
def solvePlan (s : State) (wi : WeirId) (j : Job) (delta : Bool) : Except WFail SolvePlan := do
  let x := s.weirs[wi.val]
  let w := j.win
  let algo := bitsOf j.words[5] 3 0
  let k := bitsOf j.words[5] 28 16
  let a := x.next
  let cnt := bitsOf j.words[8] 9 0
  need x.en { st := stOffline, sub := 0 }
  need (decide (algo ≤ 4) && decide (1 ≤ k) && decide (k ≤ 4096) && x.bound) badSolve
  need (decide (algo = 4) == decide (a.mode = 2)) badSolve
  need (!(decide (algo = 3) && (delta || absent j.words[9]))) badSolve
  need (!delta || (decide (1 ≤ cnt) && decide (cnt ≤ 512))) badSolve
  need (decide (j.tenant = x.tenant)) weirTenant
  let d ← weirShape s w j.words[6] 1 a.n
  need (decide (d.batches ≤ 2) && decide (d.base % 512 = 0) && (d.batches = 1 || decide (d.batchStride % 512 = 0))) badSolve
  let len := (d.batches - 1) * d.batchStride + 4 * a.n
  need (decide (512 ≤ d.base) && decide (d.base < granTop) && decide (w.base + d.base + len ≤ w.bound)) weirOutside
  let solAt := w.base + d.base + (if d.batches = 2 && x.solves.toNat % 2 = 1 then d.batchStride else 0)
  let (rhs, r1) ← (if delta || absent j.words[7] then .ok (none, 0)
    else do
      let (rows, n) ← weirRows s w (← weirShape s w j.words[7] 1 a.rows)
      .ok (rows.head?, n))
  let (lo, hi, r2) ← (if algo = 3 then do
      let (rows, n) ← weirRows s w (← weirShape s w j.words[9] 2 a.n)
      .ok (rows.getD 0 [], rows.getD 1 [], n)
    else .ok ([], [], 0))
  let (ds, r3) ← (if delta then do
      let dd ← weirDesc s w j.words[7]
      let ws := wordsOf (← weirRead s w dd.base (8 * cnt))
      .ok ((List.range cnt).map (fun i => deltaOf (ws.drop (2 * i))), (rowsOf (w.base + dd.base) (8 * cnt)).length)
    else .ok ([], 0))
  return { algo := algo, k := k, solAt := solAt, rhs := rhs, lo := lo, hi := hi, deltas := ds, rd := r1 + r2 + r3,
           wr := (rowsOf solAt (4 * a.n)).length + 1 }

/-- Apply the deltas in list order: the entries that saturated and those refused (R196). -/
def applyDeltas (a : Matrix) (free : Nat) : List (Nat × Nat × Bool × Word) → Matrix × Nat × Nat
  | [] => (a, 0, 0)
  | (i, j, add, v) :: rest =>
    if a.inside i j then
      let (a, sat) := a.put free i j (if add then fadd (a.value i j) v else v)
      let (a, n, ref) := applyDeltas a (free + 2) rest
      (a, n + (if sat then 1 else 0), ref)
    else
      let (a, n, ref) := applyDeltas a (free + 2) rest
      (a, n, ref + 1)

/-- The staging vector a solve uses: loaded from the docket's descriptor, then the committed rules (R197). -/
def stagedRhs (old : List Word) (rhs : Option (List Word)) (ops : List (Bool × Nat × Word)) : List Word :=
  match rhs with
  | none => old
  | some b => ops.foldl (fun b (o : Bool × Nat × Word) => listSet b o.2.1 fun e => if o.1 then fadd e o.2.2 else o.2.2) b

/-- SOLVE and SOLVE_DELTA: commit, iterate K times, take the residual (R192, R196-R201). -/
def solveRun (s : State) (w : WeirId) (j : Job) (p : SolvePlan) : State :=
  let x := s.weirs[w.val]
  let (mat, sat1) := x.next.putAll s.free x.pending
  let free := s.free + 2 * x.pending.length
  let (mat, sat2, refused) := applyDeltas mat free p.deltas
  let b := stagedRhs x.rhs p.rhs x.rhsOps
  let inp : SolveIn := { mat := mat, algo := p.algo, step := if p.deltas.isEmpty then j.words[8] else 0, b := b, lo := p.lo, hi := p.hi }
  let t := inp.iterate p.k (inp.init x.x)
  let (res, n) := inp.residual t.good
  let seq := x.seqNew.getD x.seq
  let run : WeirRun :=
    { job := j, k := p.k, x := t.good, residual := res, finite := t.finite, sat := sat1 + sat2, seq := seq,
      cycles := solveCycles mat p.algo p.k p.rd p.wr (x.pending.length + p.deltas.length - refused), started := now s,
      solAt := p.solAt, keep := true }
  let s := onWeir { s with free := free + 2 * p.deltas.length } w fun x =>
    { x with
      mat := mat
      shadow := none
      activePair := if x.shadow.isSome then !x.activePair else x.activePair
      pending := []
      rhs := b
      rhsOps := []
      seq := seq
      seqNew := none
      refused := bump x.refused refused
      nanIn := bump x.nanIn (t.bad + n)
      running := some run }
  assemble s w

/-- SOLVE or SOLVE_DELTA at a Weir that may start a solve. -/
def solveStart (s : State) (w : WeirId) (delta : Bool) : State :=
  let x := s.weirs[w.val]
  let blocked := match x.binding with | some b => x.exclusive b | none => false
  if x.running.isSome || blocked then s
  else weirTake s w (if delta then .solveDelta else .solve) fun s j =>
    match solvePlan s w j delta with
    | .error f => weirFail s j f
    | .ok p => solveRun s w j p

/-- The residual exceeds RES_TARGET (R200); a NaN exceeds every target but +infinity. -/
def overTarget (res target : Word) : Bool := flt target res || (fisNan res && target ≠ fInf)

/-- The stamp row (Table 8.7). -/
def stampRow (r : WeirRun) (st : Byte) (t : Word64) (solves : Word) : List Byte :=
  wordBytes ([r.seq, img (st.toNat + r.k * 2 ^ 16)] ++ words64 t ++ [r.residual, solves, 0, 0]) ++ List.replicate 480 0

/-- Write the solution and then its stamp; the status of the first row refused (R203). -/
def writeSolution (s : State) (r : WeirRun) (st : Byte) (solves : Word) : NetStatus × State :=
  match writeRange s none r.solAt (wordBytes r.x) with
  | (.ok, s) => writeRowPart s none (r.solAt - 512) (stampRow r st (now s) solves)
  | x => x

/-- SOLVE_COMPLETE (R199-R203): a stopped solve writes nothing. -/
def solveDone (s : State) (w : WeirId) : State :=
  let x := s.weirs[w.val]
  match x.running with
  | none => s
  | some r =>
    let low := fBF16.encode (fval r.residual)
    match jobStop s r.job with
    | some a =>
      let (n, s) := draw s 32
      finishJob (onWeir s w fun x => { x with running := none }) r.job (abortStatus a) 0 0 low r.started (n.toNat % (r.k + 1)) r.sat
    | none =>
      if x.fixedTime && !cimElapsed s r.started r.cycles 0 then s
      else
        let st := if !r.finite || overTarget r.residual x.resTarget then stNotConv else if r.sat = 0 then stOk else stSat
        let (net, s) := writeSolution s r st (bump x.solves)
        let late := r.job.cls ≠ 3 && cimElapsed s r.started r.cycles 10
        let s := onWeir s w fun x =>
          { x with
            running := none
            x := if r.keep then r.x else x.x
            nonfinite := if r.finite then x.nonfinite else bump x.nonfinite
            solveLate := if late then bump x.solveLate else x.solveLate
            solves := if net = .ok then bump x.solves else x.solves
            lastRes := if net = .ok then r.residual else x.lastRes
            lastSeq := if net = .ok then r.seq else x.lastSeq }
        let (st, sub) := if net = .ok then (st, 0) else netReceipt net
        finishJob s r.job st sub 0 low r.started r.k r.sat

/-- The banks, vectors and pending list of a Weir back to zero, and BOUND cleared (R205). -/
def Weir.wipe (x : Weir) : Weir :=
  { x with
    mat := { x.mat with ents := [], tEnts := [] }
    shadow := none
    bound := false
    x := x.x.map fun _ => 0
    rhs := x.rhs.map fun _ => 0
    rhsOps := []
    pending := [] }

/-- A write of WEIR_CFG (Table 8.8, R205). -/
def weirCfg (s : State) (w : WeirId) (v : Word) : State :=
  onWeir s w fun x =>
    let v := v &&& 0xC0000007
    if bitsOf v 2 0 = bitsOf x.cfg 2 0 then { x with cfg := v }
    else if x.busy then x
    else { x.wipe with cfg := v }

def execWeirBind (w : WeirId) (s : State) : Result := liveRows s fun s => bindStart s w
def execBindComplete (w : WeirId) (s : State) : Result := liveRows s fun s => bindDone s w
def execMeasurementRecord (w : WeirId) (r : Record) (s : State) : Result := live s fun s => takeRecord s w r
def execSolve (w : WeirId) (s : State) : Result := liveRows s fun s => solveStart s w false
def execSolveDelta (w : WeirId) (s : State) : Result := liveRows s fun s => solveStart s w true
def execSolveComplete (w : WeirId) (s : State) : Result := liveRows s fun s => solveDone s w
def execWeirTenantWrite (w : WeirId) (v : Word) (s : State) : Result := live s fun s => weirCfg s w v

end Sys2Proof.Machine
end

