-- ==== Sys2Proof/Machine/Units.lean ====
section
/-! DEFINITION. Serviceable units: the management record and its data view, the service sequence, power, the Miller pairs
(17). -/

namespace Sys2Proof.Machine

/-! ### Units (17 Table 17.1) -/

/-- The Miller pair that is active: 34 A, 35 B. -/
def activePair (s : State) : Nat := if s.service.millerB then 35 else 34
/-- The other pair. -/
def otherPair (s : State) : Nat := if s.service.millerB then 34 else 35

/-- Network interfaces of a unit; the interface that the Miller pairs share is the active pair's. -/
def unitNis (s : State) (u : Nat) : List NiId :=
  if u < 16 then [fin 64 u]
  else if u < 20 then (List.range 4).map (fun i => fin 64 (16 + 4 * (u - 16) + i)) ++ [fin 64 (32 + (u - 16))]
  else if u < 22 then [fin 64 (48 + (u - 20))]
  else if u < 28 then [fin 64 (36 + 2 * (u - 22)), fin 64 (37 + 2 * (u - 22))]
  else if u = 28 then [53]
  else if u = 30 then [56]
  else if u = 31 then [54]
  else if u = 32 then [55]
  else if u = 33 then [51]
  else if (u = 34 || u = 35) && u = activePair s then [50]
  else if u = 36 then [52]
  else []

/-- Units that Table 17.1 allows a partial reset, the Miller pairs apart. -/
def resettable (u : Nat) : Bool := u < 16 || u = 20 || u = 21 || (22 ≤ u && u ≤ 30)

/-! ### The data view (17 R401, R402) -/

/-- Write ADMIT, EPOCH and every EPV of one interface; a fall of ADMIT flushes. -/
def forceNi (admits : Bool) (epoch : Byte) (s : State) (n : NiId) : State :=
  let was := (s.net.nis[n.val]).admits
  let s := onNi s n fun x => { x with admits := admits, epoch := epoch }
  let s := onNet s fun x => { x with nis := x.nis.map fun y => { y with epv := vmod y.epv n fun _ => epoch } }
  if was && !admits then flushNi s n else s

/-- The FORCE write of a unit's record: the data view follows it. -/
def forceView (s : State) (u : Nat) : State := (unitNis s u).foldl (forceNi (unitState s u).admits (unitEpoch s u)) s

/-- A write of UNIT_MGMT; the PCIe master's is ignored, and STATE 7 leaves STATE as it is. -/
def mgmtWrite (s : State) (master : TreeMaster) (u : Nat) (v : Word) : State :=
  if master = .pcie then s
  else
    let s := onUnit s u fun r =>
      { r with cause := BitVec.ofNat 8 (bitsOf v 23 16), epoch := BitVec.ofNat 8 (bitsOf v 15 8),
               step := BitVec.ofNat 3 (bitsOf v 6 4), state := (UnitState.ofCode (bitsOf v 2 0)).getD r.state }
    if bitOf v 31 then forceView s u else s

/-- What the audit finds at one interface: 1 ADMIT, 2 EPOCH, 3 EPV. -/
def niSkew (s : State) (u : Nat) (n : NiId) : Option Nat :=
  let ni := s.net.nis[n.val]
  let e := unitEpoch s u
  if ni.admits ≠ (unitState s u).admits then some 1
  else if ni.epoch ≠ e then some 2
  else if s.net.nis.any fun x => x.epv[n.val] ≠ e then some 3
  else none

/-- The audit of one unit, unless it is within a step. -/
def auditUnit (s : State) (u : Nat) : State :=
  match unitRec s u with
  | none => s
  | some r =>
    if r.step ≠ 0 then s
    else match (unitNis s u).findSome? fun n => (niSkew s u n).map fun k => (n, k) with
      | none => s
      | some (n, k) =>
        let s := onService s fun x =>
          { x with stateSkew := bump x.stateSkew
                   skewLog := if bitOf x.skewLog 31 then x.skewLog else img (2 ^ 31 + k * 2 ^ 29 + n.val * 256 + u) }
        forceView (raiseBell s s.service.skewBell) u

/-- Firmware runs: it has been booted, and a pair serves (18 Table 18.6, 17 failure with no standby). -/
def firmwareRuns (s : State) : Bool := decide (6 ≤ s.service.bootPhase.toNat) && !s.service.noFirmware

/-- STATE_AUDIT: every unit in turn, while AUDIT_EN is 1. -/
def stateAudit (s : State) : State :=
  if s.service.auditEn && firmwareRuns s && 7 ≤ s.service.bootPhase.toNat then (List.range 43).foldl auditUnit s else s

/-! ### What a unit holds (17 R405) -/

/-- A unit holds no docket. -/
def unitIdle (s : State) (u : Nat) : Bool :=
  if h : u < 16 then drained s ⟨u, h⟩
  else if u = 20 || u = 21 then
    let w := s.weirs[(fin 2 u).val]
    w.queue.isEmpty && !w.busy
  else true

/-- Stop every docket a Weir holds. -/
def stopWeir (s : State) (w : WeirId) : Nat × State :=
  let x := s.weirs[w.val]
  let held := (x.running.map (·.job)).toList ++ (x.binding.map (·.job)).toList ++ x.queue
  let s := onWeir s w fun x => { x with running := none, binding := none, queue := [] }
  (held.length, held.foldl (fun s j => finishJob s j stOffline 0 0 0 (now s) 0 0) s)

/-- Stop the dockets a unit holds at an expired drain: how many, and the state. -/
def stopUnit (s : State) (u : Nat) : Nat × State :=
  if h : u < 16 then
    let m : MillId := ⟨u, h⟩
    let held := (s.mills[m.val]).slots.toList.filterMap fun x => x.map (·.msg)
    (held.length, held.foldl (fun s x => stopHeld s m .offline x) s)
  else if u = 20 || u = 21 then stopWeir s (fin 2 u)
  else (0, s)

/-! ### RESET and RE-INIT (17 Table 17.5) -/

/-- Register values of a unit, kept for RE-INIT. -/
def shadowOf (s : State) (u : Nat) : Shadow :=
  if h : u < 16 then .mill s.mills[u]
  else if u = 20 || u = 21 then .weir s.weirs[(fin 2 u).val]
  else if 22 ≤ u && u < 28 then .port s.flume.ports[(fin 6 (u - 22)).val]
  else if u = 30 then .fields s.spigot.macs s.spigot.cans
  else .none

/-- A MAC and a CAN controller after their reset; what they have sent stands. -/
def Mac.cleared (x : Mac) : Mac := { Mac.reset with wire := x.wire }
def Can.cleared (x : Can) : Can := { Can.reset with wire := x.wire }

/-- The reset of a unit. -/
def unitReset (s : State) (u : Nat) : State :=
  if h : u < 16 then resetMill s ⟨u, h⟩ (s.assay.fuses.qmap ⟨u, h⟩)
  else if u = 20 || u = 21 then onWeir s (fin 2 u) fun _ => Weir.reset
  else if 22 ≤ u && u < 28 then
    let p : FlumeId := fin 6 (u - 22)
    onPort (portDown s p .off 0) p fun f => { FlumePort.reset with ctrlOut := f.ctrlOut }
  else if u = 28 then onVault s fun v => { v with mounted := false }
  else if u = 30 then onSpigot s fun x => { x with macs := x.macs.map Mac.cleared, cans := x.cans.map Can.cleared }
  else s

/-- A unit's reset may end: a Clapper's once its braking has. -/
def resetMayEnd (s : State) (u : Nat) : Bool := u ≠ 29 || s.clapper.quietBoth

/-- Histogram and band settings. -/
def Hist.settings (x : Hist) : Hist := { Hist.reset with mode := x.mode, en := x.en, lo := x.lo, width := x.width }
def SigBand.settings (x : SigBand) : SigBand := { SigBand.reset with cfg := x.cfg, window := x.window, fracMin := x.fracMin, fracMax := x.fracMax }

/-- Settings of a MAC and of a CAN controller. -/
def IoRing.settings (r : IoRing) : IoRing := { r with head := 0, tail := 0 }
def Mac.settings (x new : Mac) : Mac :=
  { new with ctl := x.ctl, addr := x.addr, pcpMap := x.pcpMap, tasEn := x.tasEn, adminLen := x.adminLen,
             adminBase := x.adminBase, cycleNs := x.cycleNs, admin := x.admin, rings := x.rings.map IoRing.settings }
def Can.settings (x new : Can) : Can :=
  { new with ctl := x.ctl, nbt := x.nbt, dbt := x.dbt, filters := x.filters, rings := x.rings.map IoRing.settings }

/-- Firmware writes back the registers of a unit it has reset, QMAP through its own write (17 Table 17.5). -/
def restoreUnit (s : State) (u : Nat) (shadow : Shadow) (qmap : Option (BitVec 18)) : State :=
  match shadow with
  | .mill x =>
    if h : u < 16 then
      let m : MillId := ⟨u, h⟩
      let s := onMill s m fun y =>
        { y with
          regs := { y.regs with tileCap := x.regs.tileCap, scrubCtl := x.regs.scrubCtl }
          sluice := { y.sluice with compCtl := x.sluice.compCtl, fieldSel := x.sluice.fieldSel, defectSel := x.sluice.defectSel }
          hists := x.hists.map Hist.settings
          bands := x.bands.map SigBand.settings }
      qmapWrite s m ((qmap.getD x.regs.qmap).zeroExtend 32)
    else s
  | .weir x => onWeir s (fin 2 u) fun y => { y with cfg := x.cfg, resTarget := x.resTarget }
  | .port x => portCtl s (fin 6 (u - 22)) x.ctl
  | .fields macs cans =>
    onSpigot s fun y =>
      { y with macs := .ofFn fun i => (macs[i.val]).settings y.macs[i.val], cans := .ofFn fun i => (cans[i.val]).settings y.cans[i.val] }
  | .none =>
    if u = 28 then onVault s fun v => if v.en then v.mount else v
    else match qmap with
      | some q => if h : u < 16 then qmapWrite s ⟨u, h⟩ (q.zeroExtend 32) else s
      | none => s

/-- RE-INIT may end: a Mill's compensation is complete and its remap done; a Flume port is trained, or its training has
ended in DOWN. -/
def reinitMayEnd (s : State) (u : Nat) : Bool :=
  if h : u < 16 then
    let x := s.mills[u]
    x.sluice.compDone && !x.regs.remapBusy
  else if 22 ≤ u && u < 28 then
    let f := s.flume.ports[(fin 6 (u - 22)).val]
    !f.en || f.state = .active || f.state = .down
  else true

/-! ### The steps (17 R404-R407) -/

/-- DRAIN_TIMEOUT_US in use. -/
def drainUs (s : State) : Nat := clampNat 10 1000000 s.service.drainTimeout.toNat

/-- DRAIN_COMPLETE: the unit holds no docket. -/
def drainDone (s : State) (u : UnitId) : State :=
  match stepAt s u.val .drain with
  | none => s
  | some _ => if unitIdle s u.val then stepEnd s u.val else s

/-- DRAIN_TIMEOUT: what the unit still holds is stopped, and the sequence goes on to ISOLATE. -/
def drainExpired (s : State) (u : UnitId) : State :=
  match stepAt s u.val .drain with
  | none => s
  | some q =>
    if usElapsed s q.since (drainUs s) && !unitIdle s u.val then
      let (n, s) := stopUnit s u.val
      stepEnd (onSeq s u.val fun q => { q with stopped := n, expired := true }) u.val
    else s

/-- SVC_ISOLATE: once the unit has stopped, the FORCE write clears ADMIT and flushes. -/
def isolateStep (s : State) (u : UnitId) : State :=
  match stepAt s u.val .isolate with
  | none => s
  | some _ => if unitIdle s u.val then stepEnd (forceView s u.val) u.val else s

/-- Logic BIST has run on the unit since its last reset: it is reset before it rejoins (16 R377). -/
def lbistRan (s : State) (u : Nat) : Bool := s.assay.dirty.any fun d => d.val = u
/-- The unit has been reset. -/
def clearLbist (s : State) (u : Nat) : State := onAssay s fun a => { a with dirty := a.dirty.filter fun d => d.val ≠ u }

/-- SVC_RESET: the unit is reset; a Clapper is first stopped. -/
def resetStep (s : State) (u : UnitId) : State :=
  match stepAt s u.val .reset with
  | none => s
  | some _ =>
    let s := if u.val = 29 then onClapper s fun x => (x.stop 0 (now s)).stop 1 (now s) else s
    if resetMayEnd s u.val then
      let s := onSeq s u.val fun q => { q with shadow := shadowOf s u.val }
      stepEnd (clearLbist (unitReset s u.val) u.val) u.val
    else s

/-- SVC_REINIT: the registers are written back; the step ends once the unit is ready. -/
def reinitStep (s : State) (u : UnitId) : State :=
  match stepAt s u.val .reinit with
  | none => s
  | some q =>
    let s := if q.restored then s
      else onSeq (restoreUnit s u.val q.shadow q.qmap) u.val fun q => { q with restored := true }
    if reinitMayEnd s u.val then stepEnd (onUnit s u.val fun r => { r with resetDone := false }) u.val else s

/-- SVC_REJOIN: EPOCH + 1, the target state, ADMIT; at least 4 ms after the unit's last REJOIN. -/
def rejoinStep (s : State) (u : UnitId) : State :=
  match stepAt s u.val .rejoin with
  | none => s
  | some q =>
    let early := match (unitRec s u.val).bind (·.rejoined) with
      | some t => !elapsed s t 4000000
      | none => false
    if early then s
    else
      let s := onUnit s u.val fun r =>
        { r with epoch := r.epoch + 1, state := q.target, cause := if q.target = .online then 0 else r.cause,
                 rejoined := some (now s) }
      stepEnd (forceView s u.val) u.val

/-! ### UNIT_STATE and RESET_UNIT (17 R395-R400, R409, R410) -/

/-- A service docket ends with the unit's EPOCH in DETAIL. -/
def svcDone (s : State) (j : Job) (st : Byte) (sub tiles : Nat) : State :=
  fwDone s j st sub 0 (unitEpoch s (bitsOf j.words[4] 7 0)).toNat tiles

/-- What a service docket asks for: steps, and STATE after REJOIN; or the write of a record; or a power change. -/
inductive SvcPlan where
  | steps (todo : List SvcStep) (target : UnitState)
  | record (state : UnitState)
  | powerDown
  | powerUp
deriving DecidableEq, Repr

/-- UNIT_STATE (17 Table 17.3). -/
def statePlan (st : UnitState) (want : Option UnitState) : Option SvcPlan :=
  match st, want with
  | .online, some .isolated | .degraded, some .isolated => some (.steps [.drain, .isolate] .isolated)
  | .online, some .degraded => some (.record .degraded)
  | .degraded, some .online => some (.record .online)
  | .standby, some .online => some (.steps [.rejoin] .online)
  | .standby, some .degraded => some (.steps [.rejoin] .degraded)
  | .standby, some .isolated => some (.record .isolated)
  | .isolated, some .offline => some .powerDown
  | .offline, some .isolated => some .powerUp
  | _, _ => none

/-- RESET_UNIT (17 R409): from DRAIN, or from RESET, or from RE-INIT after a power-up. -/
def resetPlan (st : UnitState) (resetDone rejoin : Bool) : Option SvcPlan :=
  let tail := if rejoin then [SvcStep.rejoin] else []
  match st with
  | .online | .degraded => some (.steps ([.drain, .isolate, .reset, .reinit] ++ tail) .online)
  | .isolated => some (.steps ((if resetDone then [.reinit] else [.reset, .reinit]) ++ tail) .online)
  | .standby => some (.steps ([.reset, .reinit] ++ tail) .online)
  | _ => none

/-- Power-down of an ISOLATED unit: its contents are lost, POWERED 0. -/
def powerDown (s : State) (u : Nat) : State :=
  let s := onUnit (unitReset s u) u fun r => { r with state := .offline, powered := false, resetDone := false }
  forceView (if u = 29 then onClapper s fun _ => Clapper.reset else s) u

/-- Power-up of an OFFLINE unit: reset done, ISOLATED, POWERED 1. -/
def powerUp (s : State) (u : Nat) : State :=
  forceView (onUnit (clearLbist (unitReset s u) u) u fun r => { r with state := .isolated, powered := true, resetDone := true }) u

/-- The plan leaves ONLINE through DRAIN. -/
def SvcPlan.drains : SvcPlan → Bool
  | .steps (.drain :: _) _ => true
  | _ => false

/-- A docket on the pairs: the handover to the standby pair (17 R413). -/
def handover (s : State) : State :=
  let (p, s) := draw s 32
  let old := activePair s
  let new := otherPair s
  let s := onService s fun x =>
    { x with millerB := !x.millerB, standbyReady := false, booting := true, handovers := bump x.handovers,
             lastPause := img (p.toNat % 50001), firmware := x.standbyFw }
  onUnit (onUnit s new fun r => { r with state := .online }) old fun r => { r with state := .isolated }

/-- Checks of a service docket in the order BAD_UNIT, NOT_RESETTABLE, UNIT_BUSY, BAD_TRANSITION, URGENT_BOUND, and its start;
none: it waits, four sequences running. -/
def svcDocket (s : State) (j : Job) (reset : Bool) : Option State :=
  let w := j.words
  let u := bitsOf w[4] 7 0
  let force := bitOf w[5] 8
  let st := unitState s u
  let refuse := fun (c : Byte) (sub : Nat) => some (svcDone s j c sub 0)
  if 43 ≤ u then some (fwDone s j stFormat 0x80)
  else if !reset && u = otherPair s then
    if st = .standby && bitsOf w[5] 2 0 = 4 && s.service.standbyReady then some (svcDone (handover s) j stOk 0 0)
    else refuse stFormat 0x81
  else if !resettable u then refuse stFormat 0x83
  else if (seqOf s u).isSome then refuse stOffline 0x85
  else
    let plan := if reset then resetPlan st (((unitRec s u).map (·.resetDone)).getD false && !lbistRan s u) (bitOf w[5] 0)
      else statePlan st (UnitState.ofCode (bitsOf w[5] 2 0))
    match plan with
    | none => refuse stFormat 0x81
    | some p =>
      if p.drains && u < 16 && s.control.urgentMills.getLsbD u && !force then refuse stOffline 0x84
      else match p with
        | .record t => some (svcDone (forceView (onUnit s u fun r => { r with state := t, cause := if t = .online then 0 else r.cause }) u) j stOk 0 0)
        | .powerDown => some (svcDone (powerDown s u) j stOk 0 1)
        | .powerUp => some (svcDone (powerUp s u) j stOk 0 1)
        | .steps todo target =>
          if 4 ≤ s.service.sequences.length then none else some (seqStart s (fin 256 u) (some j) todo target none none)

/-- UNIT_STATE or RESET_UNIT at the head of the firmware queue. -/
def svcRun (s : State) (o : Opcode) (reset : Bool) : State :=
  match headJob s.control.fwQueue o with
  | none => s
  | some (j, rest) => (svcDocket (onControl s fun k => { k with fwQueue := rest }) j reset).getD s

/-! ### The Miller pairs (17 R412, R413) -/

/-- The staged bytes that were read: they are verified, and the standby pair runs them. -/
def stageImage (j : Job) : NetStatus × List Byte × State → State
  | (st, bs, s) =>
    if st ≠ .ok then fwDone s j (netReceipt st).1 (netReceipt st).2
    else if bs.length < imageLen bs || (imageSlot s.assay.fuses bs).isNone then fwDone s j stUncorr 0x87
    else fwDone (onService s fun y => { y with standbyFw := bs.take (imageLen bs), standbyReady := true, booting := false }) j stOk 0

/-- FW_STAGE: the image of w4/w5, w6 bytes, is verified and booted by the standby pair. -/
def fwStage (s : State) : State :=
  fwJob s .fwStage fun s j =>
    let w := j.words
    let a := w[4].toNat + bitsOf w[5] 15 0 * 2 ^ 32
    let m := jobMill w
    if unitState s (otherPair s) ≠ .standby then fwDone s j stOffline 0x88
    else match effRange s.granary.flat m j.win a w[6].toNat with
      | none => fwDone s j stBound 0x08
      | some x => stageImage j (readRange s none x w[6].toNat)

/-- STANDBY_READY: the pair that boots holds the mirrored state and becomes the standby pair. -/
def standbyIsReady (s : State) : State :=
  if s.service.booting then
    onUnit (onService s fun x => { x with booting := false, standbyReady := true, standbyFw := x.firmware }) (otherPair s)
      fun r => { r with state := .standby }
  else s

/-- The docket firmware was running fails over: TENANT_SWITCH in its clear, CLAP_LOAD in progress, or a test. -/
def failRunning (s : State) : State :=
  match s.control.tenantJob with
  | some j => fwDone (onControl s fun k => { k with tenantJob := none }) j stInternal 0x86
  | none =>
    match headJob s.control.fwQueue .clapLoad, s.clapper.loading with
    | some (j, rest), true =>
      fwDone (onClapper (onControl s fun k => { k with fwQueue := rest }) fun x => { x with loading := false }) j stInternal 0x86
    | _, _ =>
      match s.assay.test with
      | some t =>
        match t.job with
        | some j => fwDone (onAssay s fun a => { a with test := some { t with job := none } }) j stInternal 0x86
        | none => s
      | none => s

/-- MILLER_FAILOVER: the standby pair takes over; with none, every firmware-path docket completes TARGET_OFFLINE. -/
def millerFail (s : State) : State :=
  let old := activePair s
  let new := otherPair s
  if s.service.noFirmware then s
  else if unitState s new = .standby && s.service.standbyReady then
    let (p, s) := draw s 32
    let s := onService s fun x =>
      { x with millerB := !x.millerB, standbyReady := false, failover := true, lastPause := img (p.toNat % 200001), firmware := x.standbyFw }
    let s := onUnit (onUnit s new fun r => { r with state := .online }) old fun r => { r with state := .isolated }
    raiseBell (failRunning s) s.service.millerBell
  else
    let s := onService s fun x => { x with noFirmware := true }
    let s := onUnit s old fun r => { r with state := .isolated }
    let jobs := s.control.fwQueue ++ s.control.tenantJob.toList ++ (s.assay.test.bind (·.job)).toList ++ s.service.sequences.filterMap (·.job)
    let s := onControl s fun k => { k with fwQueue := [], tenantJob := none }
    let s := onAssay (onService s fun x => { x with sequences := [] }) fun a => { a with test := none }
    jobs.foldl (fun s j => fwDone s j stOffline 0) s

/-! ### Meanings -/

def execUnitState (s : State) : Result := liveRows s fun s => svcRun s .unitState false
def execResetUnit (s : State) : Result := liveRows s fun s => svcRun s .resetUnit true
def execDrainComplete (u : UnitId) (s : State) : Result := liveRows s fun s => drainDone s u
def execDrainTimeout (u : UnitId) (s : State) : Result := liveRows s fun s => drainExpired s u
def execSvcIsolate (u : UnitId) (s : State) : Result := liveRows s fun s => isolateStep s u
def execSvcReset (u : UnitId) (s : State) : Result := liveRows s fun s => resetStep s u
def execSvcReinit (u : UnitId) (s : State) : Result := liveRows s fun s => reinitStep s u
def execSvcRejoin (u : UnitId) (s : State) : Result := liveRows s fun s => rejoinStep s u
def execUnitMgmtForce (master : TreeMaster) (u : UnitId) (v : Word) (s : State) : Result :=
  live s fun s => mgmtWrite s master u.val v
def execStateAudit (s : State) : Result := liveRows s stateAudit
def execFwStage (s : State) : Result := liveRows s fwStage
def execMillerFailover (s : State) : Result := liveRows s millerFail
def execStandbyReady (s : State) : Result := live s standbyIsReady

end Sys2Proof.Machine
end

