-- ==== Sys2Proof/Machine/Assays.lean ====
section
/-! DEFINITION. Assay's tests and field schedule, the lifecycle, its tokens, and the test access port (16). -/

namespace Sys2Proof.Machine

/-! ### What may be tested (16 Tables 16.1, 16.5, 16.7) -/

/-- Logic BIST partitions of a unit; units whose number the spec leaves between 1 and 4 count as 4. -/
def partitions (u : Nat) : Nat :=
  if u < 16 then 11
  else if u < 20 then 0
  else if u < 22 then 3
  else if u < 28 then 2
  else if u = 28 then 2
  else if u = 29 then 1
  else if u = 30 then 2
  else if u < 43 && u ≠ 36 then 4
  else 0

/-- A test selection that names a known unit, TEST, partition or lane. -/
def testKnown (u part : Nat) (sel : Word) : Bool :=
  let k := bitsOf sel 3 0
  u < 43 && k ≤ 4
    && (if k = 0 then decide (part < partitions u) else if k = 1 then true else decide (22 ≤ u) && decide (u < 28) && decide (part < 17))

/-- States in which firmware runs ASSAY_RUN: MANUFACTURE and SERVICE. -/
def assayAllowed (lc : Fin 8) : Bool := lc = 1 || lc = 4

/-- Tj allows fuse repair (R373). -/
def fuseTemp (s : State) : Bool := decide (0 ≤ s.service.tj) && decide (s.service.tj ≤ 85)

/-- ASSAY_RUN: its checks, then the test starts; it waits while another test runs or the report ring is full. -/
def assayRun (s : State) : State :=
  match headJob s.control.fwQueue .assayRun with
  | none => s
  | some (j, rest) =>
    let u := bitsOf j.words[4] 7 0
    let part := bitsOf j.words[4] 15 8
    let sel := j.words[5]
    let refuse := fun (st : Byte) (sub : Nat) => fwDone (onControl s fun k => { k with fwQueue := rest }) j st sub
    if !assayAllowed s.assay.lcState then refuse stBound 0x83
    else if !testKnown u part sel then refuse stFormat 0x87
    else if unitState s u ≠ .isolated || (seqOf s u).isSome then refuse stOffline 0x82
    else if bitOf sel 9 && !fuseTemp s then refuse stBound 0x86
    else if s.assay.test.isSome || s.assay.reportFull then s
    else
      let s := onControl s fun k => { k with fwQueue := rest }
      let s := onUnit s u fun r => { r with state := .testing }
      onAssay s fun a => { a with test := some { unit := fin 256 u, part := part, sel := sel, started := now s, job := some j } }

/-! ### Repair (16 R370-R372) -/

/-- Burn one entry: an entry that reads back wrong is left uncommitted and the next is used; false: none is free. -/
def burnEntry (s : State) (data : BitVec 26) : Nat → Bool × State
  | 0 => (false, s)
  | n + 1 =>
    if 1024 ≤ s.assay.fuses.repair.length then (false, s)
    else
      let word := BitVec.ofNat 32 (data.toNat * 64 + (Config.fuseEncode data).toNat)
      let (wrong, s) := draw s 1
      let s := onAssay s fun a =>
        { a with fuses := { a.fuses with repair := a.fuses.repair ++ [{ word := word, commit := wrong = 0 }] } }
      if wrong = 0 then (true, s) else burnEntry s data n

/-- Burn entries in turn: how many were committed, and whether the record was full. -/
def burnAll (s : State) : List (BitVec 26) → Nat × Bool × State
  | [] => (0, false, s)
  | d :: rest =>
    let (ok, s) := burnEntry s d 1024
    if !ok then (0, true, s)
    else
      let (n, full, s) := burnAll s rest
      (n + 1, full, s)

/-- Bits 31:6 of the TYPE 6 entry of a unit. -/
def heldEntry (u : Nat) : BitVec 26 := BitVec.ofNat 26 (6 * 2 ^ 22 + u % 256 * 2 ^ 14)

/-! ### How tests end (16 R364, R370, R375, R379, R382) -/

/-- The physical Quern whose periphery a Mill partition tests. -/
def peripheryQuern (u part : Nat) : Option QuernId := if u < 16 && part < 7 then some (fin 7 part) else none

/-- The map of a Mill with a physical Quern made the spare: its logical Quern goes to the present spare. -/
def spareFor (q : BitVec 18) (p : QuernId) : BitVec 18 :=
  match (List.finRange 7).find? fun x => !(List.range 6).any fun l => qmapAt q l = x.val with
  | none => q
  | some spare =>
    BitVec.ofNat 18 ((List.range 6).foldl (fun acc l => acc + (if qmapAt q l = p.val then spare.val else qmapAt q l) * 2 ^ (3 * l)) 0)

/-- A field slice has ended: a pass goes on to RESET; a failure raises ASSAY_BELL and leaves the unit ISOLATED, but that of a
Quern remaps it, and its Mill goes on to RESET (R382). The standby pair boots its image again. -/
def fieldOver (s : State) (t : Test) (failed : Bool) (quern : Option QuernId) : State :=
  let u := t.unit.val
  let s := if u = otherPair s then onUnit (onService s fun x => { x with booting := !failed, standbyReady := false }) u
      fun r => { r with state := .isolated } else s
  match failed, quern with
  | false, _ => stepEnd s u
  | true, some p =>
    let q := if h : u < 16 then some (spareFor (s.mills[u]).regs.qmap p) else none
    stepEnd (onSeq (raiseBell s s.assay.bell) u fun x => { x with qmap := q }) u
  | true, none =>
    let s := onService s fun x => { x with sequences := x.sequences.filter fun q => q.unit ≠ t.unit }
    raiseBell (onUnit s u fun r => { r with step := 0 }) s.assay.bell

/-- A test ends: its report and receipt, and for a field slice what follows. -/
def finishTest (s : State) (t : Test) (e : TestEnd) (quern : Option QuernId) : State :=
  let s := endTest s t e
  if t.job.isSome then s else fieldOver s t (e.result = 1 || e.result = 3) quern

/-- The running test, when it is of a kind. -/
def testOf (s : State) (p : Nat → Bool) : Option Test :=
  match s.assay.test with
  | some t => if p t.kind then some t else none
  | none => none

/-- PATTERNS_K in use: 1-32, 0 acts as 8. -/
def patternsK (sel : Word) : Nat := let k := bitsOf sel 23 16; if k = 0 then 8 else k

/-- LBIST_COMPLETE: the MISR against the expected signature, which exists for 8,192 and 32,768 patterns. -/
def lbistDone (s : State) (sig want : Word64) : State :=
  match testOf s (· = 0) with
  | none => s
  | some t =>
    let s := onAssay s fun a => { a with dirty := t.unit :: a.dirty.filter (· ≠ t.unit) }
    let k := patternsK t.sel
    if k = 8 || k = 32 then
      let ok := decide (sig = want)
      finishTest s t { result := if ok then 0 else 1, status := if ok then stOk else stUncorr, sub := if ok then 0 else 0x80,
                       repairs := 0, entries := 0, a := sig, b := want, firstFail := 0, firstBit := 0 } (peripheryQuern t.unit.val t.part)
    else
      let (x, s) := draw s 64
      finishTest s t { result := 5, status := stOk, sub := 0, repairs := 0, entries := 0, a := sig, b := x, firstFail := 0,
                       firstBit := 0 } none

/-- The banks of a quad zeroed, with their check bits. -/
def zeroQuad (s : State) (q : QuadId) : State :=
  onGran (zeroMem s (q.val * 0x06000000) 0x06000000) fun g =>
    { g with banks := .ofFn fun i => if quadOf i = q then { g.banks[i.val] with ceRows := [] } else g.banks[i.val] }

/-- Memory BIST leaves every array of the unit zeroed (R369). -/
def zeroUnit (s : State) (u : Nat) : State :=
  if h : u < 16 then onRegs (clearMill s ⟨u, h⟩) ⟨u, h⟩ fun r => { r with hopClearing := false }
  else if u < 20 then zeroQuad s (fin 4 (u - 16))
  else if u = 20 || u = 21 then onWeir s (fin 2 u) Weir.wipe
  else if u = 29 then onClapper s fun x => { x with library := [] }
  else s

/-- MBIST_COMPLETE: repairs under SOFT_REPAIR, fuse entries under FUSE_REPAIR. -/
def mbistDone (s : State) (o : MbistOutcome) : State :=
  match testOf s (· = 1) with
  | none => s
  | some t =>
    let s := zeroUnit s t.unit.val
    let fuse := bitOf t.sel 9
    let soft := bitOf t.sel 8 || fuse
    let bad := o.unrepaired || (!soft && !o.repairs.isEmpty)
    let fixed := if soft then o.repairs.length else 0
    let data := (if soft then o.repairs.map fun w => BitVec.ofNat 26 (bitsOf w 31 6) else [])
      ++ (if o.unrepaired then [heldEntry t.unit.val] else [])
    let (n, full, s) := if fuse then burnAll s data else (0, false, s)
    let clean := o.repairs.isEmpty && !o.unrepaired
    finishTest s t
      { result := if o.unrepaired then 3 else if bad then 1 else if fixed = 0 then 0 else 2
        status := if bad then stUncorr else stOk
        sub := if bad then 0x81 else if full then 0x85 else 0
        repairs := fixed, entries := n, a := 0, b := 0
        firstFail := if clean then 0 else o.firstFail, firstBit := if clean then 0 else o.firstBit.zeroExtend 32 } o.quern

/-- PRBS_COMPLETE: it passes when errors divided by bits is at most 10^-5. The status of a failure is not stated. -/
def prbsDone (s : State) (errors bits : Word64) : State :=
  match testOf s (2 ≤ ·) with
  | none => s
  | some t =>
    if errors.toNat * 100000 ≤ bits.toNat then
      finishTest s t { result := 0, status := stOk, sub := 0, repairs := 0, entries := 0, a := errors, b := bits, firstFail := 0,
                       firstBit := 0 } none
    else
      let (st, s) := draw s 8
      let (sub, s) := draw s 8
      finishTest s t { result := 1, status := st, sub := sub.toNat, repairs := 0, entries := 0, a := errors, b := bits,
                       firstFail := 0, firstBit := 0 } none

/-! ### The field schedule (16 R381, R384) -/

/-- The unit of a rotation entry: Mills 0-15, then the bits of SCHED_OTHER; the spare-lane entry takes the lowest ACTIVE port
whose spare is free. -/
def rotUnitOf (s : State) (i : Nat) : Option Nat :=
  if i < 16 then some i
  else if i < 18 then some (20 + (i - 16))
  else if i < 24 then some (22 + (i - 18))
  else if i = 24 then some 28
  else if i = 25 then some 29
  else if i = 26 then some 30
  else if i = 27 then some (otherPair s)
  else if i = 28 then
    ((List.finRange 6).find? fun p =>
      let f := s.flume.ports[p.val]
      f.state = .active && f.spareEn && !f.spareUsed && f.swap.isNone).map fun p => 22 + p.val
  else none

/-- An entry is in the rotation. -/
def inRotation (s : State) (i : Nat) : Bool :=
  if i < 16 then s.assay.schedMills.getLsbD i else s.assay.schedOther.getLsbD (i - 16)

/-- Slices of an entry: its partitions and one memory BIST; the spare-lane entry has one. -/
def entrySlices (s : State) (i : Nat) : Nat :=
  if i = 28 then 1 else match rotUnitOf s i with | some u => partitions u + 1 | none => 0

/-- An entry's unit may be tested now. -/
def entryFree (s : State) (i : Nat) : Bool :=
  match rotUnitOf s i with
  | none => false
  | some u =>
    (seqOf s u).isNone
      && (if i = 27 then unitState s u = .standby else unitState s u = .online)
      && !(i < 16 && s.control.urgentMills.getLsbD i)

/-- Partition and w5 of a slice. -/
def sliceSel (s : State) (i slice : Nat) : Nat × Word :=
  if i = 28 then (16, 0x01000004)
  else match rotUnitOf s i with
    | some u => if slice < partitions u then (slice, 0x00080000) else (0, 0x00000101)
    | none => (0, 0)

/-- The next slice of the rotation from the present position: skipped units resume at their slice on the next pass. -/
def nextSlice (s : State) : Nat → Option (Nat × Nat) × State
  | 0 => (none, s)
  | n + 1 =>
    let a := s.assay
    let i := a.rotUnit
    let go := fun (s : State) =>
      let j := if 28 ≤ i then 0 else i + 1
      let from_ := match s.assay.skipped.find? fun x => x.1 = j with | some x => x.2 | none => 0
      nextSlice (onAssay s fun a => { a with rotUnit := j, rotSlice := from_, skipped := a.skipped.filter fun x => x.1 ≠ j }) n
    if !inRotation s i || entrySlices s i ≤ a.rotSlice then go s
    else if !entryFree s i then go (onAssay s fun a => { a with skipped := a.skipped ++ [(i, a.rotSlice)] })
    else (some (i, a.rotSlice), onAssay s fun a => { a with rotSlice := a.rotSlice + 1 })

/-- FIELD_SLICE_TIMER: every SLICE_PERIOD_S the next slice's unit is drained and isolated for it. -/
def fieldSlice (s : State) : State :=
  let a := s.assay
  let lc := a.lcState
  if !(bitOf a.sched 31) || !(lc = 2 || lc = 3) || !firmwareRuns s || !elapsed s a.sliceFrom (atLeast1 (bitsOf a.sched 15 0) * 1000000000)
      || a.test.isSome || a.reportFull || (s.service.sequences.any fun q => q.slice.isSome) || 4 ≤ s.service.sequences.length then s
  else
    match nextSlice (onAssay s fun a => { a with sliceFrom := now s }) 60 with
    | (none, s) => s
    | (some (i, k), s) =>
      match rotUnitOf s i with
      | none => s
      | some u =>
        let todo := if i = 28 || i = 27 then [SvcStep.test] else [.drain, .isolate, .test, .reset, .reinit, .rejoin]
        seqStart s (fin 256 u) none todo .online none (some (sliceSel s i k))

/-- A write of URGENT_MILLS: a Mill it gains that is under a field slice has the slice aborted; its sequence goes on to RESET. -/
def urgentWrite (s : State) (v : Word) : State :=
  let new := BitVec.ofNat 16 v.toNat
  let gained := new &&& ~~~s.control.urgentMills
  let s := onControl s fun k => { k with urgentMills := new }
  (maskMills gained).foldl (fun s m =>
    match seqOf s m.val with
    | none => s
    | some q =>
      if q.slice.isNone then s
      else match s.assay.test with
        | some t =>
          if t.unit.val = m.val then abortTest s t
          else onSeq s m.val fun q => { q with todo := q.todo.filter (· ≠ .test) }
        | none => onSeq s m.val fun q => { q with todo := q.todo.filter (· ≠ .test) }) s

/-! ### Lifecycle (16 R387-R390) -/

/-- Enter a state in the fuses: RETIRED burns every key bit; SERVICE and the return from it burn the next visit bit. -/
def Fuses.enter (f : Fuses) (target : Nat) : Fuses :=
  if target = 5 then
    { f with lc := 5, imageKey := BitVec.allOnes 768, imageKeySet := true, serviceKey := BitVec.allOnes 768, serviceKeySet := true,
             keyHash := .replicate 4 (BitVec.allOnes 384), keyValid := 0xF }
  else if target = 4 || f.state = 4 then { f with lc := 3, visits := f.visits + 1 }
  else { f with lc := fin 8 target }

/-- A transition entered by LC_ADVANCE whose condition holds (R388). -/
def advanceOk (a : Assay) (target : Nat) : Bool :=
  let f := a.fuses
  f.state = a.lcState
    && ((a.lcState = 0 && target = 1)
      || (a.lcState = 1 && target = 2 && f.uid ≠ 0 && f.keyValid ≠ 0)
      || (a.lcState = 2 && target = 3 && f.imageKeySet && f.serviceKeySet)
      || (a.lcState = 1 && target = 5))

/-- ADVANCE: burn a permitted transition, effective at the next reset, or set LC_REJ. -/
def advanceTo (a : Assay) (target : Nat) : Assay :=
  if advanceOk a target then { a with fuses := a.fuses.enter target } else { a with lcRej := true }

/-- A write of LC_CTL: LC_REJ is write-1-to-clear, TARGET takes the value, then ADVANCE, NEW_NONCE with its random bytes, and
TOKEN_GO. -/
def lcCtl (s : State) (v : Word) (random : BitVec 256) : State :=
  onAssay s fun a =>
    let a := { a with lcRej := a.lcRej && !bitOf v 28, target := BitVec.ofNat 3 (bitsOf v 2 0) }
    let a := if bitOf v 31 then advanceTo a (bitsOf v 2 0) else a
    let a := if bitOf v 30 then { a with challenge := random, nonceValid := true } else a
    if bitOf v 29 then { a with tokenStat := 1 } else a

/-- A write of LC_CTL without random bytes of its own. -/
def lcWrite (s : State) (v : Word) : State :=
  if bitOf v 30 then let (x, s) := draw s 256; lcCtl s v x else lcCtl s v 0

/-- Words of the token as bytes. -/
def Assay.tokenBytes (a : Assay) : List Byte := wordBytes a.token.toList

/-- A token transition of Table 16.7 from a state. -/
def tokenTarget (lc : Fin 8) (target : Nat) : Bool :=
  (lc = 3 && (target = 4 || target = 5)) || (lc = 4 && (target = 3 || target = 5))

/-- The first check a token fails, in the order of R389; none: accepted. A token to SERVICE needs a visit bit. -/
def tokenFault (a : Assay) : Option (BitVec 4) :=
  let bs := a.tokenBytes
  let target := bitsOf a.token[1] 2 0
  let f := a.fuses
  if a.token[0] ≠ 0x4E4B5453 then some 3
  else if BitVec.ofNat 128 (leNat ((bs.drop 0x10).take 16)) ≠ f.uid then some 4
  else if !a.nonceValid || BitVec.ofNat 256 (leNat ((bs.drop 0x20).take 32)) ≠ a.challenge then some 5
  else if !tokenTarget a.lcState target || f.state ≠ a.lcState then some 6
  else if !f.serviceKeySet || !Config.ecdsaOk f.serviceKey (Config.sha384 (bs.take 0x40)) (keyOf ((bs.drop 0x40).take 96)) then some 7
  else if target = 4 && 256 ≤ f.visits.toNat then some 8
  else none

/-- TOKEN_VERIFY_DONE. -/
def tokenDone (s : State) : State :=
  onAssay s fun a =>
    if a.tokenStat ≠ 1 then a
    else match tokenFault a with
      | some st => { a with tokenStat := st }
      | none => { a with tokenStat := 2, nonceValid := false, fuses := a.fuses.enter (bitsOf a.token[1] 2 0) }

/-! ### The test access port (16 R374, Table 16.7) -/

/-- What IDCODE reads: version 0x1, part 0x1640, manufacturer 0x726, bit 0 set. -/
def idcodeValue : Word := 0x11640E4D

/-- Instructions a lifecycle state permits. -/
def tapAllowed (lc : Fin 8) : TapInstr → Bool
  | .idcode | .bypass => true
  | .samplePreload => lc ≠ 3
  | .extest | .extestPulse | .extestTrain | .clamp | .highz => lc ≠ 3 && lc ≠ 5
  | .assayAccess => lc = 0 || lc = 1 || lc = 4
  | .lcAdvance => lc = 0 || lc = 1

/-- Select an instruction; one that is not permitted acts as BYPASS. -/
def tapSelect (i : TapInstr) (s : State) (f : Assay → Assay) : State :=
  onAssay s fun a =>
    let a := { a with driving := false, highz := false }
    if tapAllowed a.lcState i then f { a with tap := i } else { a with tap := .bypass }

/-- The boundary register captures the pins and is then loaded. -/
def boundaryScan (pins preload : List Bool) (drive : Bool) (a : Assay) : Assay :=
  { a with captured := pins, boundary := preload, driving := drive }

/-! ### Meanings -/

def execAssayRun (s : State) : Result := liveRows s assayRun
def execLbistComplete (signature expected : Word64) (s : State) : Result := liveRows s fun s => lbistDone s signature expected
def execMbistComplete (o : MbistOutcome) (s : State) : Result := liveRows s fun s => mbistDone s o
def execPrbsComplete (errors bits : Word64) (s : State) : Result := liveRows s fun s => prbsDone s errors bits
def execFieldSliceTimer (s : State) : Result := liveRows s fieldSlice
def execUrgentMillsWrite (v : Word) (s : State) : Result := liveRows s fun s => urgentWrite s v
def execAdvance (v : Word) (s : State) : Result := live s fun s => lcWrite s v
def execNewNonce (v : Word) (random : BitVec 256) (s : State) : Result := live s fun s => lcCtl s v random
def execTokenGo (v : Word) (s : State) : Result := live s fun s => lcWrite s v
def execTokenVerifyDone (s : State) : Result := live s tokenDone
def execIdcode (s : State) : Result :=
  .next (tapSelect .idcode s fun a => { a with captured := (List.range 32).map idcodeValue.getLsbD })
def execSamplePreload (pins preload : List Bool) (s : State) : Result :=
  .next (tapSelect .samplePreload s (boundaryScan pins preload false))
def execExtest (pins preload : List Bool) (s : State) : Result := .next (tapSelect .extest s (boundaryScan pins preload true))
def execExtestPulse (pins preload : List Bool) (s : State) : Result :=
  .next (tapSelect .extestPulse s (boundaryScan pins preload true))
def execExtestTrain (pins preload : List Bool) (s : State) : Result :=
  .next (tapSelect .extestTrain s (boundaryScan pins preload true))
def execClamp (s : State) : Result := .next (tapSelect .clamp s fun a => { a with driving := true })
def execHighz (s : State) : Result := .next (tapSelect .highz s fun a => { a with highz := true })
def execAssayAccess (s : State) : Result := .next (tapSelect .assayAccess s id)
def execLcAdvance (target : Fin 8) (s : State) : Result := .next (tapSelect .lcAdvance s fun a => advanceTo a target.val)
def execBypass (_code : BitVec 8) (s : State) : Result := .next (tapSelect .bypass s id)

end Sys2Proof.Machine
end

