-- ==== Sys2Proof/Machine/Boots.lean ====
section
/-! DEFINITION. Resets and the boot steps (18). -/

namespace Sys2Proof.Machine

/-! ### Resets (18 R418, R419, R426) -/

/-- Bits of RST_CAUSE. -/
def causePor : BitVec 5 := 1
def causeSoft : BitVec 5 := 2
def causeLock : BitVec 5 := 4
def causeThermal : BitVec 5 := 8
def causePerst : BitVec 5 := 16

/-- A full reset: everything at its reset value but the fuses, the Sluice arrays and their non-volatile state, the NAND
contents, the test access port, and the levels of input pins. -/
def fullReset (s : State) (cause : BitVec 5) : State :=
  let a := s.assay
  { State.reset with
    pending := s.pending
    free := s.free
    mills := .ofFn fun m => { Mill.reset m with sluice := (s.mills[m.val]).sluice.afterReset }
    vault := s.vault.afterReset
    spigot := { Spigot.reset with safePinLow := s.spigot.safePinLow }
    net := { Net.reset with perst := s.net.perst }
    assay := { Assay.reset with fuses := a.fuses, lcState := a.lcState, tap := a.tap, boundary := a.boundary,
                                captured := a.captured, driving := a.driving, highz := a.highz }
    service := { Service.reset with rstCause := cause, porstN := s.service.porstN, thermTrip := s.service.thermTrip } }

/-- Hold the device in reset. -/
def holdReset (s : State) : State := onService s fun x => { x with inReset := true }

/-- POR_ASSERT: full reset while PORST_N is low; RST_CAUSE reads POR only. -/
def porAssert (s : State) : State := onService (holdReset (fullReset s causePor)) fun x => { x with porstN := false }

/-- POR_RELEASE: reset ends, and a thermal trip with it; boot step 0 begins. -/
def porRelease (s : State) : State :=
  if s.service.porstN then s else onService s fun x => { x with porstN := true, thermTrip := false, inReset := false }

/-- A step of Table 18.6 ends: BOOT_T_k, and the next is in progress. -/
def bootStep (s : State) (k : Fin 11) : State :=
  onService s fun x =>
    { x with bootT := vmod x.bootT k fun _ => img (((now s).toNat - x.bootFrom.toNat) / 1000)
             bootPhase := if k = 10 then 0xF else BitVec.ofNat 4 (k.val + 1) }

/-- The device is in boot step `k`, and not held. -/
def inPhase (s : State) (k : Nat) : Bool := decide (s.service.bootPhase.toNat = k) && !s.assay.held && !s.service.inReset

/-- SPINDLE_LOCK: the cogs switch over; a device reset by a loss of lock leaves reset. -/
def spindleLock (s : State) : State :=
  if !s.service.porstN || s.service.thermTrip || s.service.locked then s
  else
    let s := onService s fun x => { x with locked := true, inReset := false }
    if s.service.bootPhase = 0 then bootStep s 0 else s

/-- SOFT_RESET: a write of RST_CTL. -/
def softReset (s : State) (v : Word) : State :=
  if bitsOf v 31 16 = 0xD1E5 && bitOf v 0 then fullReset s (s.service.rstCause ||| causeSoft) else s

/-- LOCK_LOST: full reset until the Spindle locks again. -/
def lockLost (s : State) : State :=
  if s.service.porstN then holdReset (fullReset s (s.service.rstCause ||| causeLock)) else s

/-- TRIP_C in use. -/
def tripAt (s : State) : Nat := stopAt 0x8C s.service.tripC.toNat

/-- Sensors report a temperature; THERM_BELL is raised when TEMP_MAX first reaches WARN_C. -/
def reportTemp (s : State) (tj : Int) : State :=
  let s := onService s fun x => { x with tj := tj, tempMax := if x.tempMax < tj then tj else x.tempMax }
  if !s.service.warned && (s.service.warnC.toNat : Int) ≤ s.service.tempMax then
    raiseBell (onService s fun x => { x with warned := true }) s.service.thermBell
  else s

/-- THERMAL_TRIP: above TRIP_C, full reset until PORST_N falls and rises, THERMTRIP_N low. -/
def thermalTrip (s : State) (tj : Int) : State :=
  if (tripAt s : Int) < tj then
    if s.service.porstN then
      onService (holdReset (fullReset s (s.service.rstCause ||| causeThermal))) fun x => { x with thermTrip := true }
    else s
  else if s.service.inReset then s
  else settleErr (reportTemp s tj)

/-- PERST: PERST_N falls and resets the endpoint only. -/
def perstFall (s : State) : State :=
  let s := onService s fun x => { x with perstCount := bump x.perstCount, rstCause := x.rstCause ||| causePerst }
  onNet s fun n =>
    { n with perst := true, posted := [], barRead := none, msixTable := [], msixPba := 0,
             txns := vmod n.txns (2 : Fin 3) fun t => t.map fun (x : TreeTxn) => { x with host := false } }

/-! ### Steps 1-6 (16 R371, R385, R386, R392, R393; 18 R428) -/

/-- FUSE_LOAD: lifecycle state, repair record, QMAP. -/
def fuseLoad (s : State) : State :=
  if !inPhase s 1 then s
  else
    let f := s.assay.fuses
    let s := onAssay s fun a => { a with lcState := f.state, fuseBad := img f.bad }
    let s := { s with mills := .ofFn fun m => { s.mills[m.val] with regs := { (s.mills[m.val]).regs with qmap := f.qmap m } } }
    let s := onGran s fun g =>
      { g with spares := .ofFn fun q =>
          match f.spare q with
          | some l => { g.spares[q.val] with used := true, lbank := l, progress := 6144 }
          | none => g.spares[q.val] }
    bootStep s 1

/-- A bank beyond its spare rows takes its quad's spare bank, or with that in use the quad's plots are refused
(16 Table 16.2). -/
def bankDead (s : State) (b : BankId) : State :=
  let q := quadOf b
  onGran s fun g =>
    if (g.spares[q.val]).used then { g with quadDead := vmod g.quadDead q fun _ => true }
    else { g with spares := vmod g.spares q fun x => { x with used := true, lbank := inQuad b, progress := 6144 } }

/-- A Quern with an unrepaired bank becomes its Mill's spare, or with a second one the Mill is OFFLINE. -/
def quernDead (acc : State × List MillId × List UnitId) (x : MillId × QuernId) : State × List MillId × List UnitId :=
  let (s, seen, off) := acc
  let (m, p) := x
  if seen.contains m then (s, seen, fin 256 m.val :: off)
  else (onRegs s m fun r => { r with qmap := spareFor r.qmap p }, m :: seen, off)

/-- RESET_TEST: its outcome goes to BOOT_RESULT; units that passed await step 6 in STANDBY, the others are OFFLINE; the device
is held when both pairs or a critical array fail. -/
def resetTest (s : State) (o : ResetTest) : State :=
  if !inPhase s 2 then s
  else
    let s := o.banks.foldl bankDead s
    let (s, _, more) := o.querns.foldl quernDead (s, [], [])
    let off := o.unitsOff ++ more ++ s.assay.fuses.held ++ (if o.millerA then [34] else []) ++ (if o.millerB then [35] else [])
    let s := (List.range 43).foldl (fun s u =>
      onUnit s u fun r => { r with state := if off.contains (fin 256 u) then .offline else .standby }) s
    let degraded := s.granary.quadDead.any id
    let mills := ((List.range 16).map fun m => flag (off.contains (fin 256 m)) m).sum
    let held := (o.millerA && o.millerB) || o.critical
    let s := onAssay s fun a =>
      { a with bootResult := img (flag o.millerA 31 + flag o.millerB 30 + flag o.critical 29 + flag degraded 28 + mills)
               bootTestUs := o.us, repairsSoft := bump a.repairsSoft o.repairs, held := held }
    if held then s else bootStep s 2

/-- GRANARY_BOOT_CLEAR. -/
def bootClear (s : State) : State := if inPhase s 3 then bootStep (zeroMem s 0 granTop) 3 else s

/-- BOOT_ROM_NAND_INIT: the geometry of the parameter pages. -/
def nandInit (s : State) (g : NandGeom) : State := if inPhase s 4 then bootStep (onVault s fun v => { v with nand := g }) 4 else s

/-- The image that an anchor block holds. -/
def anchorImage (v : Vault) (i : Fin 16) : List Byte :=
  let a := v.anchors[i.val]
  readBytes a 0 (0x1000 + stopAt 2048 (readLe a 8 4) * 4096)

/-- Boot an image. -/
def bootImage (s : State) (bs : List Byte) : State :=
  bootStep (onAssay (onService s fun x => { x with firmware := bs, firmwareOk := true }) fun a => { a with held := false, bootFail := false }) 5

/-- The lifecycle state boots firmware (16 Table 16.7). -/
def bootsFirmware (lc : Fin 8) : Bool := lc ≠ 0 && lc ≠ 5

/-- FIRMWARE_VERIFY: the first anchor copy that was read and verifies is booted; with none the device is held with BOOT_FAIL. -/
def firmwareVerify (s : State) (readable : Vector Bool 16) : State :=
  if !inPhase s 5 then s
  else
    let good := (List.finRange 16).find? fun i =>
      readable[i.val] && bootsFirmware s.assay.lcState && (imageSlot s.assay.fuses (anchorImage s.vault i)).isSome
    match good with
    | some i => bootImage s (anchorImage s.vault i)
    | none => onAssay s fun a => { a with held := true, bootFail := true }

/-- BOOT_DOORBELL: the image at BAR2 offset 0 is verified while the ROM waits for it. -/
def bootDoorbell (s : State) (v : Word) : State :=
  if bitOf v 0 && s.assay.bootFail && s.service.bootPhase = 5 then
    let len := 0x1000 + stopAt 2048 (readLe s.mem 8 4) * 4096
    let (st, bs, s) := readRange s none 0 len
    if st = .ok && bootsFirmware s.assay.lcState && (imageSlot s.assay.fuses bs).isSome then bootImage s bs else s
  else s

/-- FIRMWARE_INIT: SVN and revoke fuses; the pair that passed is active, units that passed are ONLINE (a quad with refused plots
DEGRADED), and the other pair starts. -/
def firmwareInit (s : State) : State :=
  if !inPhase s 6 then s
  else
    let s := match imageSlot s.assay.fuses s.service.firmware with
      | some i => onAssay s fun a => { a with fuses := a.fuses.burnSvn i s.service.firmware }
      | none => s
    let s := onService s fun x => { x with millerB := unitState s 34 ≠ .standby }
    let spare := otherPair s
    let s := onService s fun x => { x with booting := unitState s spare = .standby }
    let s := (List.range 43).foldl (fun s u =>
      if u = spare || unitState s u ≠ .standby then s
      else if 16 ≤ u && u < 20 && s.granary.quadDead[(fin 4 (u - 16)).val] then
        let (c, s) := draw s 8
        onUnit s u fun r => { r with state := .degraded, cause := c }
      else onUnit s u fun r => { r with state := .online }) s
    bootStep ((List.range 43).foldl forceView s) 6

/-! ### Steps 7-10 (14 R341; 18 R429-R431) -/

/-- VAULT_MOUNT. -/
def vaultMount (s : State) : State := if inPhase s 7 then bootStep (onVault s fun v => { v with en := true }.mount) 7 else s

/-- GRIST_SELECT. -/
def gristSelect (s : State) : State :=
  if !inPhase s 8 then s
  else
    let v := s.vault
    match (if v.mounted then gristChoice v s.assay.fuses else none) with
    | some (b, gen, secs) =>
      bootStep (onVault s fun v => { v with booted := true, bootedB := b, noImage := false, generation := gen, sections := secs }) 8
    | none => bootStep (onVault s fun v => { v with booted := false, noImage := true, sections := [] }) 8

/-- The SLUICE section of the booted image that names a Mill. -/
def sluiceSection (v : Vault) (m : MillId) : Option Section := v.sections.find? fun x => x.type = 2 && x.mills.getLsbD m.val

/-- The Sluice of a Mill needs programming (18 R429). -/
def sluiceNeeds (s : State) (m : MillId) : Bool :=
  match (if s.vault.booted then sluiceSection s.vault m else none) with
  | none => false
  | some x =>
    let r := s.vault.sluRecords[m.val]
    !((s.mills[m.val]).sluice.usable) || !(r.present && r.generation = s.vault.generation && r.digests = digestList s.vault x)

/-- SLUICE_CHECK. -/
def sluiceCheck (s : State) : State :=
  if !inPhase s 9 then s
  else bootStep (onService s fun x =>
    { x with sluNeeds := BitVec.ofNat 16 ((List.finRange 16).map fun m => flag (sluiceNeeds s m) m.val).sum }) 9

/-- BOOT_STREAM: streaming begins; with nothing to stream it has ended. -/
def bootStream (s : State) : State :=
  if !inPhase s 10 || !s.vault.streams.isEmpty then s
  else
    let s := onVault s fun v => { v with streams := streamList v.sections s.service.sluNeeds, streamFrom := now s }
    if s.vault.streams.isEmpty then streamsEnd s else s

/-- A docket of all 128 fields that firmware issues to a Sluice. -/
def sluiceDocket (op : Nat) (m : MillId) (g : Word) : DocketWords :=
  #v[BitVec.ofNat 32 op, img (2 ^ (16 + m.val)), 0, 0, 0, 0xFFFFFFFF, 0xFFFFFFFF, 0xFFFFFFFF, 0xFFFFFFFF, g, 0, 0, 0, 0, 0, 0]

/-- The descriptor of 512 KiB of INT8 weights at an address. -/
def sluiceDesc (a : Nat) : Desc :=
  { base := a, fmt := 1, rows := 1024, cols := 512, rowStride := 512, batchStride := 0, headStride := 0, heads := 1, batches := 1,
    len := none, lenDim := 0, mintType := 0, mint := [], mintOff := 0xFFFFFFFF, scale := 0x3F800000, zpad := 0, ownHop := false }

/-- Firmware issues a Sluice docket to a Mill whose dispatcher is idle. -/
def issueSluice (s : State) (m : MillId) (op : Nat) (g : Word) (descs : List (Nat × Desc)) : State :=
  let x := s.mills[m.val]
  match slotFor s.control m 0 with
  | none => s
  | some slot =>
    if x.running.isSome || !x.mayIssue || (s.service.sluBoot[m.val]).isSome then s
    else
      let id := s.control.nextId
      let h : HandoutMsg := { docket := sluiceDocket op m g, granBase := 0, granBound := 0xC0000, hop := 0, cls := 0, chute := 0,
                              tenant := 0, slot := slot }
      let s := onControl s fun k => { k with nextId := id + 1, credits := vmod k.credits m fun v => vmod v slot fun _ => some id }
      let s := onMill s m fun x =>
        { x with slots := vmod x.slots slot fun _ => some { msg := h, order := x.arrivals }, arrivals := x.arrivals + 1
                 running := some { newRun s h with descs := descs } }
      onService s fun y => { y with sluBoot := vmod y.sluBoot m fun _ => some { id := id, refresh := op = 0x13, result := none } }

/-- SLU_PROG of a Mill from its part of a streamed section (18 R430). -/
def programMill (x : Section) (s : State) (m : MillId) : State :=
  if x.mills.getLsbD m.val && s.service.sluNeeds.getLsbD m.val then
    let k := ((maskMills x.mills).takeWhile (· ≠ m)).length
    let g := img (bitsOf (readByte s.mem (x.dest + 2 * m.val)) 2 0 + bitsOf (readByte s.mem (x.dest + 2 * m.val + 1)) 2 0 * 16)
    issueSluice s m 0x11 g [(0, sluiceDesc (x.dest + 512 + 524288 * k))]
  else s

/-- A Sluice docket of firmware has ended on a Mill: all fields VALID rewrite its record; else the Mill is left in STANDBY,
SLUICE_STALE, with BOOT_BELL. -/
def concludeSluice (s : State) (m : MillId) : State :=
  match s.service.sluBoot[m.val] with
  | some { id := _, refresh := refresh, result := some st } =>
    let s := onService s fun x => { x with sluBoot := vmod x.sluBoot m fun _ => none }
    if refresh then s
    else
      let s := onService s fun x => { x with sluNeeds := x.sluNeeds &&& ~~~(BitVec.twoPow 16 m.val) }
      if okStatus st && (s.mills[m.val]).sluice.fields.all fun f => f.state = .valid then
        match sluiceSection s.vault m with
        | some x => onVault s fun v =>
            { v with sluRecords := vmod v.sluRecords m fun _ => { present := true, generation := v.generation, digests := digestList v x } }
        | none => s
      else
        let s := onUnit s m.val fun r => { r with state := .standby, cause := 0x01 }
        raiseBell (forceView s m.val) s.service.bootBell
  | _ => s

/-- BOOT_SLUICE_PROGRAM: dockets are issued for the SLUICE sections that are complete, and those that have ended are
concluded. -/
def bootSluice (s : State) : State :=
  let s := s.vault.sluReady.foldl (fun s i =>
    match s.vault.sections[i]? with
    | some x => (List.finRange 16).foldl (programMill x) s
    | none => s) s
  (List.finRange 16).foldl concludeSluice s

/-- BOOT_SLUICE_REFRESH of a Mill whose record is more than 12 months old, once boot is complete. -/
def bootRefresh (s : State) (m : MillId) : State :=
  if s.service.bootPhase = 0xF then issueSluice (concludeSluice s m) m 0x13 0 [] else s

/-! ### Meanings -/

def execPorAssert (s : State) : Result := .next (porAssert s)
def execPorRelease (s : State) : Result := .next (porRelease s)
def execSpindleLock (s : State) : Result := .next (spindleLock s)
def execFuseLoad (s : State) : Result := live s fuseLoad
def execResetTest (o : ResetTest) (s : State) : Result := live s fun s => resetTest s o
def execGranaryBootClear (s : State) : Result := live s bootClear
def execBootRomNandInit (g : NandGeom) (s : State) : Result := live s fun s => nandInit s g
def execFirmwareVerify (cws : Vector Bool 16) (s : State) : Result := live s fun s => firmwareVerify s cws
def execBootDoorbell (v : Word) (s : State) : Result := liveRows s fun s => bootDoorbell s v
def execFirmwareInit (s : State) : Result := live s firmwareInit
def execVaultMount (s : State) : Result := live s vaultMount
def execGristSelect (s : State) : Result := live s gristSelect
def execSluiceCheck (s : State) : Result := live s sluiceCheck
def execBootStream (s : State) : Result := live s bootStream
def execBootSluiceProgram (s : State) : Result := liveRows s bootSluice
def execBootSluiceRefresh (m : MillId) (s : State) : Result := liveRows s fun s => bootRefresh s m
def execSoftReset (v : Word) (s : State) : Result := live s fun s => softReset s v
def execLockLost (s : State) : Result := .next (lockLost s)
def execThermalTrip (tj : Int) (s : State) : Result := .next (thermalTrip s tj)
def execThermWarn (tj : Int) (s : State) : Result := liveRows s fun s => reportTemp s tj
def execPerst (s : State) : Result := .next (perstFall s)
def execPerstRelease (s : State) : Result := .next (onNet s fun n => { n with perst := false })

end Sys2Proof.Machine
end

