-- ==== Sys2Proof/Machine/Spigots.lean ====
section
/-! DEFINITION. The Spigot: edge lists, the schedule queue, due edges, PWM and safe states (10 R228-R240). -/

namespace Sys2Proof.Machine

/-! ### SPIGOT_SCHEDULE (R232, R233, R236) -/

/-- The Weir 0 solution that distance-form entries use: s0 of its stamp, and the element SPEED_IDX (R233). A batch whose
stamp or element cannot be read does not qualify. -/
def speedBatch (s : State) (m : MillId) (at_ : Nat) : Option (Word × Word × Word) :=
  let idx := bitsOf s.spigot.speedCfg 11 0
  let ok := fun a len => decide (512 ≤ at_) && (rowsOf a len).all fun r => rowStatus s (some m) r = .ok
  if ok (at_ - 512) 32 && ok (at_ + 4 * idx) 4 then
    let st := readByte s.mem (at_ - 512 + 4)
    if st = stOk || st = stSat then
      some (readW s.mem (at_ - 512 + 20), readW s.mem (at_ - 512), readW s.mem (at_ + 4 * idx))
    else none
  else none

/-- The batch with the larger s5: s0 and v. -/
def speedNow (s : State) (m : MillId) : Option (Word × Word) :=
  let base := s.spigot.speedBase.toNat
  match speedBatch s m base, speedBatch s m (base + s.spigot.speedStride.toNat) with
  | none, none => none
  | some (_, q, v), none => some (q, v)
  | none, some (_, q, v) => some (q, v)
  | some (a, q, v), some (b, q', v') => if a < b then some (q', v') else some (q, v)

/-- The edge of one list entry (Table 10.1, R233); none: refused as NO_SPEED. `free` stands for a quotient that is no
number. -/
def edgeOf (s : State) (speed : Option (Word × Word)) (free : Word64) (ws : List Word) : Option Edge :=
  let e0 := nthW ws 0
  let ch : ChanId := fin 256 (bitsOf e0 7 0)
  let action : Fin 4 := fin 4 (bitsOf e0 13 12)
  let duty := dutyOf (bitsOf e0 25 16)
  let ref := (nthW ws 2).toNat + (nthW ws 3).toNat * 2 ^ 32
  let edge := fun t => ({ chan := ch, action := action, duty := duty, time := t } : Edge)
  if !bitOf e0 8 then some (edge (BitVec.ofNat 64 ref))
  else
    match speed with
    | none => none
    | some (_, v) =>
      let thousand := fofInt 1000
      if flt (fmul v thousand) (fofInt (bitsOf s.spigot.speedCfg 31 16)) then none
      else
        let leads := (s.spigot.chans[ch.val]).leads
        let lead := if action = 1 then bitsOf leads 31 16 else if action = 0 then bitsOf leads 15 0 else 0
        let q := fdiv (fmul (fofInt (sx (nthW ws 1))) thousand) v
        match fval q with
        | .fin neg k e => some (edge (BitVec.ofInt 64 (ref + FVal.roundInt false neg k e - 1000 * lead)))
        | _ => some (edge free)

/-- Edges as messages of at most 24 (19 Table 19.2). -/
def edgeMsgs : Nat → List Edge → List (List Edge)
  | 0, _ => []
  | _, [] => []
  | n + 1, es => es.take 24 :: edgeMsgs n (es.drop 24)

/-- The schedule queue has an entry for a class: 64, of which 16 only for URGENT (R236). -/
def Spigot.room (sp : Spigot) (urgent : Bool) : Bool :=
  decide (sp.queue.length < 64) && (urgent || decide ((sp.queue.filter (!·.urgent)).length < 48))

/-- The entries of an edge list, or the status and subcode of the docket. -/
def edgeList (s : State) (m : MillId) (h : HandoutMsg) : Except DFault (List (List Word)) := do
  let n := bitsOf h.docket[5] 8 0
  if maskCount (wMask h.docket) ≠ 1 ∨ n = 0 ∨ 256 < n then .error { st := stFormat, sub := 0x0D }
  else
    let w := msgWin h
    let d ← readDesc s m w h.docket[4] 0
    match effRange s.granary.flat m.val w d.base (16 * n) with
    | none => .error (outsideFault 0)
    | some a =>
      match (rowsOf a (16 * n)).find? fun r => rowStatus s (some m) r ≠ .ok with
      | some r =>
        let st := rowStatus s (some m) r
        .error { st := (netReceipt st).1, sub := (netReceipt st).2, row := if st = .uncorr then some r else none }
      | none =>
        let ws := wordsOf (readBytes s.mem a (16 * n))
        return (List.range n).map fun i => ws.drop (4 * i)

/-- The Spigot takes part in a docket's completion. -/
def joinSpigot (s : State) (c : ChuteId) (id : Nat) : State :=
  onChute s c fun ch => { ch with out := ch.out.map fun o => if o.id = id then { o with others := o.others + 1 } else o }

/-- SPIGOT_SCHEDULE: the Winnow reads and converts the list and passes the docket to the schedule queue; the Mill's part is
done. -/
def spigotSchedule (s : State) (m : MillId) : State :=
  match runOf s m .spigotSchedule with
  | none => s
  | some r =>
    let h := r.msg
    let urgent := decide (h.cls = 3)
    match r.abort with
    | some a => endAborted s m r a
    | none =>
      if !bitOf s.spigot.ctl 31 then endRun s m r stOffline 0 0 0
      else
        match edgeList s m h with
        | .error f =>
          let s := match f.row with | some a => logError s a true true false 0 | none => s
          endRun s m r f.st f.sub 0 0
        | .ok entries =>
          if !s.spigot.room urgent then s
          else
            let dist := entries.any fun ws => bitOf (nthW ws 0) 8
            let speed := if dist then speedNow s m else none
            let edges := entries.mapIdx fun i ws => edgeOf s speed (Config.fresh 64 (s.free + i)) ws
            let bad := (edges.filter (·.isNone)).length
            let good := edges.filterMap id
            let conv := (entries.zip edges).any fun p => bitOf (nthW p.1 0) 8 && p.2.isSome
            let id := ((s.control.credits[m.val])[h.slot.val]).getD 0
            let job : SchedJob :=
              { id := id, words := h.docket, start := r.start.getD r.dispatched, mill := m, slot := h.slot, chute := h.chute,
                urgent := urgent, edges := [], awaiting := good.length, taken := 0, refused := bad, remote := [],
                seqUsed := if conv then (speed.map (·.1)).getD 0 else 0, noSpeed := decide (0 < bad) }
            let s := { s with free := s.free + entries.length }
            let s := onSpigot s fun sp =>
              { sp.count 6 bad with
                queue := sp.queue ++ [job]
                flying := sp.flying ++ (edgeMsgs good.length good).map fun es => (m, h.chute, h.slot, es) }
            endRun (joinSpigot s h.chute id) m r stOk 0 0 0

/-! ### Boom frames (R239) -/

/-- Queue a boom frame on its node's MAC, ahead of the other frames of its class. -/
def Spigot.queueBoom (sp : Spigot) (k : BoomId) (edges : List (ChanId × Fin 4 × BitVec 10 × Word64)) : Spigot :=
  let mac : MacId := if bitOf (sp.nodes[k.val]).cfg 30 then 1 else 0
  let tc : Fin 8 := fin 8 (bitsOf sp.ctl 2 0)
  let isBoom := fun f : TxFrame => match f with | .boom _ _ _ => true | .ring _ _ _ => false
  { sp with macs := vmod sp.macs mac fun x =>
      { x with queues := vmod x.queues tc fun q => q.takeWhile isBoom ++ [.boom k edges false] ++ q.dropWhile isBoom } }

/-- Frames of at most 12 edges. -/
def Spigot.packBoom (k : BoomId) : Nat → List (ChanId × Fin 4 × BitVec 10 × Word64) → Spigot → Spigot
  | 0, _, sp => sp
  | _, [], sp => sp
  | n + 1, es, sp => Spigot.packBoom k n (es.drop 12) (sp.queueBoom k (es.take 12))

/-- Pack a docket's accepted remote edges for each enabled node. -/
def Spigot.packAll (sp : Spigot) (es : List (ChanId × Fin 4 × BitVec 10 × Word64)) : Spigot :=
  (List.finRange 8).foldl (fun sp k =>
    if bitOf (sp.nodes[k.val]).cfg 31 then
      let mine := es.filter fun e => boomOf e.1 = k
      Spigot.packBoom k mine.length mine sp
    else sp) sp

/-! ### EDGE_ACCEPT (R234, R235) -/

/-- What becomes of an edge. -/
inductive Accept where
  | full | refused | late | merged (old : Word64) | appended
deriving DecidableEq, Repr

/-- MIN_LEAD_US of a remote channel's node, in ns; 40 ns for a direct channel. -/
def Spigot.minLead (sp : Spigot) (ch : ChanId) : Nat :=
  if direct ch then 40 else 1000 * bitsOf (sp.nodes[(boomOf ch).val]).timing 15 0

/-- An accepted edge: HOLDING clears, and FORCED when no cause is left (R231, R238). -/
def Spigot.accepted (sp : Spigot) (ch : ChanId) : Spigot :=
  let cause := sp.cause
  sp.onChan ch fun c => { c with holding := false, holdFrom := none, forced := c.forced && cause }

/-- Table 10.2 for one edge of a docket of chute `c`, at moment `a`: LATE_BELL is due. -/
def Spigot.accept (sp : Spigot) (c : ChuteId) (e : Edge) (a : Word64) : Accept × Bool × Spigot :=
  let x := sp.chans[e.chan.val]
  let last := x.fifo.getLast?
  if e.action = 3 then (.refused, false, sp)
  else if x.chute ≠ c && !x.any then (.refused, false, sp.count 3)
  else if decide (e.time.toNat < a.toNat + sp.minLead e.chan) then
    if (e.action = 0 && !x.safeLevel) || (e.action = 1 && x.safeLevel) then
      let sp := (sp.count 1).count 0
      let sp := if sp.cause then sp else sp.onChan e.chan fun x => x.act e.action e.duty a (direct e.chan)
      (.late, false, sp.accepted e.chan)
    else (.refused, true, sp.count 1)
  else
    match last with
    | some q =>
      if e.action = 1 && q.action = 0 && e.time ≤ q.time then
        (.merged q.time, false, ((sp.onChan e.chan fun x => { x with fifo := x.fifo.dropLast }).count 4).accepted e.chan)
      else if e.time ≤ q.time then (.refused, false, sp.count 2)
      else if 32 ≤ x.fifo.length then (.full, false, sp)
      else (.appended, false, (if sp.cause then sp else sp.onChan e.chan fun x => { x with fifo := x.fifo ++ [e] }).accepted e.chan)
    | none => (.appended, false, (if sp.cause then sp else sp.onChan e.chan fun x => { x with fifo := [e] }).accepted e.chan)

/-- A docket leaves the schedule queue: its boom frames are packed and its receipt part reported (R235, R239). -/
def schedDone (s : State) (j : SchedJob) (st : Byte) : State :=
  let s := onSpigot s fun sp => { sp with queue := sp.queue.drop 1 }.packAll j.remote
  unitDone s j.chute j.id
    { chute := j.chute, status := st, tag := wTag j.words, detail := mkDetail (if j.noSpeed then 0x0E else 0) (stopAt 255 j.refused) (bitsOf j.seqUsed 15 0),
      doneTime := now s, startTime := j.start, tiles := img j.taken, sat := 0, slot := 0 }

/-- A docket of the schedule queue was told to stop. -/
def schedStop (s : State) (j : SchedJob) : Option AbortReason :=
  match (s.control.chutes[j.chute.val]).out.find? (·.id = j.id) with
  | some o => o.stop
  | none => none

/-- EDGE_ACCEPT: the next edge of the docket at the head of the schedule queue; with none left, the docket ends. -/
def edgeAccept (s : State) : State :=
  match s.spigot.queue with
  | [] => s
  | j :: rest =>
    match schedStop s j with
    | some a => if j.awaiting = 0 then schedDone s j (abortStatus a) else s
    | none =>
      match j.edges with
      | [] => if j.awaiting = 0 then schedDone s j stOk else s
      | e :: es =>
        let (r, bell, sp) := s.spigot.accept j.chute e (now s)
        if r = .full then s
        else
          let taken := r ≠ .refused
          let wire := match r with
            | .merged old => [(e.chan, (3 : Fin 4), (0 : BitVec 10), old)]
            | .refused => []
            | _ => [(e.chan, e.action, e.duty, e.time)]
          let j := { j with
            edges := es
            taken := j.taken + if taken then 1 else 0
            refused := j.refused + if taken then 0 else 1
            remote := if direct e.chan then j.remote else j.remote ++ wire }
          let s := onSpigot s fun _ => { sp with queue := j :: rest }
          let s := if bell then raiseBell s (fin 256 (bitsOf s.spigot.ctl 15 8)) else s
          if es.isEmpty && j.awaiting = 0 then schedDone s j stOk else s

/-! ### Time-driven events (R229, R230, R238, R239) -/

/-- EDGE_DUE: the first queued edge of a channel is applied at its time. -/
def edgeDue (s : State) (ch : ChanId) : State :=
  match (s.spigot.chans[ch.val]).fifo with
  | [] => s
  | e :: rest =>
    if now s < e.time then s
    else onSpigot s fun sp =>
      (sp.onChan ch fun c => { c with fifo := rest }.act e.action e.duty e.time (direct ch)).count 0

/-- PWM_HIT_END. -/
def hitEnd (s : State) (ch : ChanId) : State :=
  onSpigot s fun sp => sp.onChan ch fun c =>
    if c.hit && elapsed s c.since (1000 * c.hitUs) then c.startPeriod (c.since + BitVec.ofNat 64 (1000 * c.hitUs)) else c

/-- PWM_PERIOD_START. -/
def periodStart (s : State) (ch : ChanId) : State :=
  onSpigot s fun sp => sp.onChan ch fun c =>
    if c.running && elapsed s c.since (1000 * c.periodUs) then c.startPeriod (c.since + BitVec.ofNat 64 (1000 * c.periodUs)) else c

/-- HOLD_LIMIT_EXPIRE. -/
def holdLimit (s : State) (ch : ChanId) : State :=
  let c := s.spigot.chans[ch.val]
  let ms := bitsOf s.spigot.ctl 23 16
  match c.holdFrom with
  | some t => if c.holding && ms ≠ 0 && elapsed s t (1000000 * ms) then onSpigot s fun sp => sp.safe ch else s
  | none => s

/-- SPG_CTL written (Table 10.6, R231). -/
def spigotCtl (s : State) (v : Word) : State :=
  onSpigot s fun sp =>
    let sp := { sp with ctl := v &&& 0xA0FFFF07 }
    if bitOf v 29 then sp.allSafe else sp

/-- HEARTBEAT_TIMER: no frame has gone to an enabled node for HB_US, and none waits. -/
def heartbeat (s : State) (k : BoomId) : State :=
  let n := s.spigot.nodes[k.val]
  let waits := s.spigot.macs.any fun x => x.queues.any fun q => q.any fun f => match f with | .boom i _ _ => i = k | .ring _ _ _ => false
  if bitOf n.cfg 31 && !waits && usElapsed s n.lastSent (bitsOf n.timing 31 16) then onSpigot s fun sp => sp.queueBoom k []
  else s

def execSpigotSchedule (m : MillId) (s : State) : Result := liveRows s fun s => spigotSchedule s m
def execEdgeAccept (s : State) : Result := liveRows s edgeAccept
def execEdgeDue (ch : ChanId) (s : State) : Result := live s fun s => edgeDue s ch
def execPwmHitEnd (ch : ChanId) (s : State) : Result := live s fun s => hitEnd s ch
def execPwmPeriodStart (ch : ChanId) (s : State) : Result := live s fun s => periodStart s ch
def execSafePinFall (s : State) : Result := live s fun s => onSpigot s fun sp => { sp.allSafe with safePinLow := true }
def execSafePinRise (s : State) : Result := live s fun s => onSpigot s fun sp => { sp with safePinLow := false }
def execForceSafeWrite (v : Word) (s : State) : Result := live s fun s => spigotCtl s v
def execHoldLimitExpire (ch : ChanId) (s : State) : Result := live s fun s => holdLimit s ch
def execHeartbeatTimer (k : BoomId) (s : State) : Result := live s fun s => heartbeat s k

end Sys2Proof.Machine
end

