-- ==== Sys2Proof/Machine/Fields.lean ====
section
/-! DEFINITION. The field networks: Ethernet MACs with their gates and rings, and CAN FD controllers (10 R239-R248). -/

namespace Sys2Proof.Machine

def onMac (s : State) (m : MacId) (f : Mac → Mac) : State := onSpigot s fun sp => { sp with macs := vmod sp.macs m f }
def onCan (s : State) (n : CanId) (f : Can → Can) : State := onSpigot s fun sp => { sp with cans := vmod sp.cans n f }

/-! ### Gates (R243) -/

/-- INTERVAL_NS values below 64 act as 64. -/
def Gate.ns (g : Gate) : Nat := max 64 g.interval.toNat

/-- The entry in force at an offset of the cycle, and the time left in it; the last entry lasts to the end of the cycle. -/
def gateAt (cycle : Nat) : List (Nat × Gate) → Nat → Nat → Option (Nat × Nat)
  | [], _, _ => none
  | (i, g) :: rest, from_, off =>
    if rest.isEmpty then some (i, cycle - off)
    else if off < from_ + g.ns then some (i, min (from_ + g.ns) cycle - off)
    else gateAt cycle rest (from_ + g.ns) off

/-- The operating entries with their numbers. -/
def Mac.entries (x : Mac) : List (Nat × Gate) := (x.oper.toList.take x.operLen).zipIdx.map fun p => (p.2, p.1)

/-- The entry of the operating list in force at a moment, and how long it still lasts. -/
def Mac.entryAt (x : Mac) (t : Nat) : Option (Nat × Nat) :=
  if x.operCycle = 0 || t < x.operBase.toNat then none
  else gateAt x.operCycle.toNat x.entries 0 ((t - x.operBase.toNat) % x.operCycle.toNat)

/-- The gate of a class is open at a moment; with TAS_EN 0 all gates are open. -/
def Mac.opens (x : Mac) (tc : Fin 8) (t : Nat) : Bool :=
  !x.tasEn || (match x.entryAt t with
    | some (i, _) => ((x.oper[(fin 256 i).val]).gates).getLsbD tc.val
    | none => false)

/-- The gate of a class stays open for `n` ns from a moment; at most `k` entries are looked at. -/
def Mac.staysOpen (x : Mac) (tc : Fin 8) : Nat → Nat → Nat → Bool
  | 0, _, _ => false
  | k + 1, t, n =>
    match x.entryAt t with
    | none => false
    | some (i, left) =>
      ((x.oper[(fin 256 i).val]).gates).getLsbD tc.val && (decide (n ≤ left) || x.staysOpen tc k (t + left) (n - left))

/-- ns that `n` bytes take at the port rate, rounded up (R240, Table 10.7). -/
def Mac.bytesNs (x : Mac) (n : Nat) : Nat :=
  let tenths := if bitsOf x.ctl 17 16 = 0 then 80 else if bitsOf x.ctl 17 16 = 1 then 32 else 8
  ceilDiv (n * tenths) 10

/-! ### Rings (R244, R247) -/

/-- Descriptors of a ring: a power of two, 16 to 4,096. -/
def IoRing.size (r : IoRing) : Nat := 2 ^ clampNat 4 12 r.log2.toNat
/-- Address of a 32-byte descriptor. -/
def IoRing.descAt (r : IoRing) (i : Nat) : Nat := r.base.toNat + 32 * (i % r.size)

/-- A descriptor: buffer address, length, VLAN tag, OWN (log entry 26). -/
structure EthDesc where
  buf : Nat
  len : Nat
  vlan : Nat
  own : Bool

/-- Read a descriptor; none: its row cannot be read. -/
def ethDesc (s : State) (a : Nat) : Option EthDesc :=
  if (rowsOf a 32).all fun r => rowStatus s none r = .ok then
    some { buf := readLe s.mem a 6, len := readLe s.mem (a + 6) 2, vlan := readLe s.mem (a + 8) 2,
           own := (readByte s.mem (a + 10)).getLsbD 0 }
  else none

/-- Write a descriptor back: length, VLAN tag, an unstated status byte, the timestamp, and OWN cleared last (R244). -/
def ethBack (s : State) (a len vlan : Nat) (t : Word64) : State :=
  let (st, s) := draw s 8
  let s := (writeRange s none (a + 16) (leBytes 8 t.toNat)).2
  (writeRange s none (a + 6) (leBytes 2 len ++ leBytes 2 vlan ++ [0, st])).2

/-! ### Frames (R239, R240, R242) -/

/-- Big-endian bytes. -/
def beBytes (n x : Nat) : List Byte := (leBytes n x).reverse

/-- One edge of a boom frame (Table 10.3). -/
def boomEdge (e : ChanId × Fin 4 × BitVec 10 × Word64) : List Byte :=
  leBytes 8 (boomChan e.1 + e.2.1.val * 2 ^ 12 + e.2.2.1.toNat * 2 ^ 14 + e.2.2.2.toNat % 2 ^ 40 * 2 ^ 24)

/-- A boom-node frame without its FCS (Table 10.3). DESIGN CHOICE: the fields of Ethernet itself go in network order, SEQ and DROP_MASK
little-endian like the edges (log entry 27). -/
def boomBytes (sp : Spigot) (k : BoomId) (edges : List (ChanId × Fin 4 × BitVec 10 × Word64)) (seq : BitVec 16) (drop : BitVec 24) :
    List Byte :=
  let n := sp.nodes[k.val]
  let mac := sp.macs[(if bitOf n.cfg 30 then 1 else 0 : Fin 2).val]
  let b := beBytes 6 n.dst.toNat ++ beBytes 6 mac.addr.toNat
    ++ beBytes 4 (0x8100 * 65536 + bitsOf sp.ctl 2 0 * 2 ^ 13 + bitsOf n.cfg 11 0) ++ beBytes 2 sp.etype.toNat
    ++ leBytes 2 seq.toNat ++ [BitVec.ofNat 8 (edges.length + 16 * k.val)] ++ leBytes 3 drop.toNat ++ [0, 0]
    ++ edges.flatMap boomEdge
  b ++ List.replicate (60 - b.length) 0

/-- Length of a queued frame from destination to FCS. -/
def frameLen (s : State) (x : Mac) : TxFrame → Nat
  | .boom _ es _ => max 64 (26 + 8 * es.length + 4)
  | .ring r i _ =>
    match ethDesc s ((x.rings[(fin 12 r.val).val]).descAt i) with
    | some d => max 64 (d.len + (if d.vlan = 0 then 0 else 4) + 4)
    | none => 64

/-- A frame of a transmit ring. -/
def TxFrame.ofRing (r : Fin 8) : TxFrame → Bool
  | .ring k _ _ => k = r
  | .boom _ _ _ => false
def TxFrame.hold : TxFrame → TxFrame
  | .boom k es _ => .boom k es true
  | .ring r i _ => .ring r i true

/-- The earliest edge of a boom frame minus MIN_LEAD_US has passed (R240). -/
def boomLate (sp : Spigot) (k : BoomId) (edges : List (ChanId × Fin 4 × BitVec 10 × Word64)) (t : Nat) : Bool :=
  edges.any fun e => e.2.2.2.toNat < t + 1000 * bitsOf (sp.nodes[k.val]).timing 15 0

/-- Drop a held boom frame (R240): its edges leave the mirror FIFOs, their channels are set in DROP_PEND, LATE_BELL is due;
with no frame pending for the node, a heartbeat is queued. -/
def dropBoom (s : State) (k : BoomId) (edges : List (ChanId × Fin 4 × BitVec 10 × Word64)) : State :=
  let s := onSpigot s fun sp =>
    edges.foldl (fun sp e => (sp.onChan e.1 fun c => { c with fifo := c.fifo.filter fun q => q.time ≠ e.2.2.2 }).dropPend e.1) (sp.count 5)
  let s := onSpigot s fun sp =>
    let waits := sp.macs.any fun x => x.queues.any fun q => q.any fun f => match f with | .boom i _ _ => i = k | .ring _ _ _ => false
    if waits then sp else sp.queueBoom k []
  raiseBell s (fin 256 (bitsOf s.spigot.ctl 15 8))

/-- Put a frame on the wire: a boom frame carries the next SEQ and DROP_PEND; a ring frame is read from its buffer and
waits for its completion (R239, R244). -/
def sendFrame (s : State) (m : MacId) : TxFrame → State
  | .boom k es _ =>
    onSpigot s fun sp =>
      let n := sp.nodes[k.val]
      let seq := n.seq + 1
      let bytes := boomBytes sp k es seq n.dropPend
      { sp with
        nodes := vmod sp.nodes k fun n => { n with seq := seq, dropPend := 0, lastSent := now s }
        macs := vmod sp.macs m fun x => { x with wire := bytes :: x.wire } }
  | .ring r i h =>
    let x := s.spigot.macs[m.val]
    match ethDesc s ((x.rings[(fin 12 r.val).val]).descAt i) with
    | some d =>
      let (_, data, s) := readRange s none d.buf d.len
      let tag := if d.vlan = 0 then [] else beBytes 4 (0x8100 * 65536 + d.vlan)
      onMac s m fun x =>
        { x with sending := x.sending ++ [.ring r i h], wire := (data.take 12 ++ tag ++ data.drop 12) :: x.wire }
    | none => onMac s m fun x => { x with sending := x.sending ++ [.ring r i h] }

/-- Send the frames of one class in order from a moment, at most `n`: those that fit go out, the first that does not is
held, a held boom frame that is late is dropped (R240). -/
def sendClass (s : State) (m : MacId) (tc : Fin 8) : Nat → Nat → Nat × State
  | 0, t => (t, s)
  | n + 1, t =>
    let x := s.spigot.macs[m.val]
    match x.queues[tc.val] with
    | [] => (t, s)
    | f :: rest =>
      let pop := fun (s : State) => onMac s m fun x => { x with queues := vmod x.queues tc fun _ => rest }
      let late := match f with
        | .boom k es h => h && boomLate s.spigot k es t
        | .ring _ _ _ => false
      if !x.opens tc t then (t, s)
      else if late then
        match f with
        | .boom k es _ => sendClass (dropBoom (pop s) k es) m tc n t
        | .ring _ _ _ => (t, s)
      else
        let ns := x.bytesNs (frameLen s x f + 20)
        if x.tasEn && !x.staysOpen tc 512 t ns then
          (t, onMac s m fun x => { x with queues := vmod x.queues tc fun _ => f.hold :: rest, tasHeld := bump x.tasHeld })
        else sendClass (sendFrame (pop s) m f) m tc n (t + ns)

/-- Send the open classes, the highest first. -/
def sendAll (s : State) (m : MacId) : State :=
  let x := s.spigot.macs[m.val]
  (([7, 6, 5, 4, 3, 2, 1, 0] : List (Fin 8)).foldl (fun (p : Nat × State) tc =>
    sendClass p.2 m tc (2 * (x.queues[tc.val]).length + 8) p.1) ((now s).toNat, s)).2

/-- GATE_ENTRY_START: the entry of the moment is in force, and the MAC sends what fits. -/
def gateStart (s : State) (m : MacId) : State :=
  if !bitOf (s.spigot.macs[m.val]).ctl 31 then s
  else
    sendAll (onMac s m fun x => { x with entry := match x.entryAt (now s).toNat with | some (i, _) => i | none => x.entry }) m

/-- CHANGE written (R243). -/
def gateChange (s : State) (m : MacId) (v : Word) : State :=
  onMac s m fun x => if bitOf v 0 then { x with changePend := true } else x

/-- ADMIN_LIST_SWITCH: at a cycle start at or after ADMIN_BASE the administrative list becomes the operating one. -/
def adminSwitch (s : State) (m : MacId) : State :=
  onMac s m fun x =>
    if x.changePend && x.adminBase ≤ now s then
      { x with changePend := false, operList := !x.operList, oper := x.admin, operLen := x.adminLen.toNat,
               operBase := x.adminBase, operCycle := x.cycleNs, entry := 0 }
    else x

/-! ### Descriptor rings of a MAC (R244) -/

/-- Transmit descriptors from one index to another that the MAC owns, as frames. -/
def txFrames (s : State) (ring : IoRing) (r : Fin 8) : Nat → Nat → List TxFrame
  | 0, _ => []
  | n + 1, i =>
    let rest := txFrames s ring r n (i + 1)
    match ethDesc s (ring.descAt i) with
    | some d => if d.own then .ring r i false :: rest else rest
    | none => rest

/-- A transmit doorbell: the new descriptors join the queue of the ring's class. -/
def txDoorbell (s : State) (m : MacId) (r : Fin 8) (tail : Word) : State :=
  let ring := (s.spigot.macs[m.val]).rings[(fin 12 r.val).val]
  let n := (tail.toNat + ring.size - ring.tail % ring.size) % ring.size
  let fs := txFrames s ring r n ring.tail
  onMac s m fun x =>
    { x with rings := vmod x.rings (fin 12 r.val) fun k => { k with tail := tail.toNat % k.size },
             queues := vmod x.queues r fun q => q ++ fs }

/-- ETH_TX_DONE: the oldest frame sent from a ring is finished with. -/
def txDone (s : State) (m : MacId) (r : Fin 8) : State :=
  let x := s.spigot.macs[m.val]
  match x.sending.find? (TxFrame.ofRing r) with
  | some (.ring k i h) =>
    let a := (x.rings[(fin 12 r.val).val]).descAt i
    let s := onMac s m fun x =>
      { x with sending := x.sending.erase (.ring k i h), rings := vmod x.rings (fin 12 r.val) fun q => { q with head := (i + 1) % q.size } }
    match ethDesc s a with
    | some d => ethBack s a d.len d.vlan (now s)
    | none => s
  | _ => s

/-- The class of a priority (Table 10.7). -/
def Mac.classOf (x : Mac) (pcp : Fin 8) : Fin 8 := fin 8 (bitsOf x.pcpMap (3 * pcp.val + 2) (3 * pcp.val))

/-- ETH_RX_FRAME: stored in the next owned descriptor of the class's ring, or counted (R244). -/
def rxFrame (s : State) (m : MacId) (f : EthFrame) : State :=
  let x := s.spigot.macs[m.val]
  if !bitOf x.ctl 31 then s
  else
    let r : Fin 12 := fin 12 (8 + (x.classOf f.pcp).val / 2)
    let ring := x.rings[r.val]
    let a := ring.descAt ring.head
    match ethDesc s a with
    | some d =>
      if d.own then
        let s := (writeRange s none d.buf f.bytes).2
        ethBack (onMac s m fun x => { x with rings := vmod x.rings r fun q => { q with head := (q.head + 1) % q.size } }) a
          f.bytes.length f.vlan.toNat (now s)
      else onMac s m fun x => { x with rxNospace := bump x.rxNospace }
    | none => onMac s m fun x => { x with rxNospace := bump x.rxNospace }

/-! ### CAN FD (R246-R248) -/

/-- Entries of a CAN ring: a power of two. -/
def IoRing.canSize (r : IoRing) : Nat := 2 ^ stopAt 16 r.log2.toNat
def IoRing.entryAt (r : IoRing) (i : Nat) : Nat := r.base.toNat + 80 * (i % r.canSize)

/-- Filter `f` takes a frame (Table 10.7). -/
def filterTakes (f : Word × Word) (c : CanFrame) : Bool :=
  bitOf f.1 31 && (bitOf f.1 29 == c.ext) && decide (c.id.toNat &&& bitsOf f.2 28 0 = bitsOf f.1 28 0 &&& bitsOf f.2 28 0)

/-- The 80 bytes of a ring entry: time, identifier and flags, length, data (R247). -/
def canEntry (t : Word64) (c : CanFrame) : List Byte :=
  leBytes 8 t.toNat ++ leBytes 4 (c.id.toNat + flag c.ext 29 + c.flags.toNat * 2 ^ 30) ++ leBytes 4 c.data.length
    ++ (c.data ++ List.replicate 64 0).take 64

/-- CAN_RX_FRAME. -/
def canRx (s : State) (n : CanId) (c : CanFrame) : State :=
  let x := s.spigot.cans[n.val]
  if !bitOf x.ctl 31 then s
  else
    match x.filters.toList.find? fun f => filterTakes f c with
    | none => onCan s n fun x => { x with filtered := bump x.filtered }
    | some f =>
      let r : Fin 4 := if bitOf f.1 30 then 3 else 2
      let ring := x.rings[r.val]
      if ring.canSize ≤ ring.head - ring.tail then onCan s n fun x => { x with rxNospace := bump x.rxNospace }
      else
        let s := (writeRange s none (ring.entryAt ring.head) (canEntry (now s) c)).2
        onCan s n fun x => { x with rings := vmod x.rings r fun q => { q with head := q.head + 1 } }

/-- A doorbell of a CAN ring: it names the entries up to a free-running index. -/
def canDoorbell (s : State) (n : CanId) (r : Fin 4) (tail : Word) : State :=
  onCan s n fun x => { x with rings := vmod x.rings r fun q => { q with tail := tail.toNat } }

/-- CAN_TX_DONE: the next entry, of the HIGH ring first, has been sent and stamped (R247). -/
def canTxDone (s : State) (n : CanId) : State :=
  let x := s.spigot.cans[n.val]
  if !bitOf x.ctl 31 || bitOf x.ctl 29 || x.busOff then s
  else
    let r : Fin 4 := if (x.rings[0]).head < (x.rings[0]).tail then 0 else 1
    let ring := x.rings[r.val]
    if ring.head < ring.tail then
      let a := ring.entryAt ring.head
      let s := (writeRange s none a (leBytes 8 (now s).toNat)).2
      let (_, bytes, s) := readRange s none a 80
      onCan s n fun x => { x with rings := vmod x.rings r fun q => { q with head := q.head + 1 }, wire := bytes :: x.wire }
    else s

/-- CAN_BUS_OFF (R248). -/
def canOff (s : State) (n : CanId) : State := onCan s n fun x => { x with busOff := true, recovering := bitOf x.ctl 28 }

/-- A write of a controller's first register: RECOVER starts the recovery sequence (R248). -/
def canCtl (s : State) (n : CanId) (v : Word) : State :=
  onCan s n fun x => { x with ctl := v &&& 0xF8000000, recovering := x.recovering || (bitOf v 0 && x.busOff) }

/-- BUS_OFF_RECOVERY_DONE: the ISO 11898-1 sequence ends error-active, with both error counters zero. -/
def canRecovered (s : State) (n : CanId) : State :=
  onCan s n fun x =>
    if x.recovering then { x with busOff := false, recovering := false, errPassive := false, tec := 0, rxErr := 0 } else x

def execGateEntryStart (mac : MacId) (s : State) : Result := liveRows s fun s => gateStart s mac
def execGateListChange (mac : MacId) (v : Word) (s : State) : Result := live s fun s => gateChange s mac v
def execAdminListSwitch (mac : MacId) (s : State) : Result := live s fun s => adminSwitch s mac
def execEthTxDoorbell (mac : MacId) (r : Fin 8) (tail : Word) (s : State) : Result := live s fun s => txDoorbell s mac r tail
def execEthTxDone (mac : MacId) (r : Fin 8) (s : State) : Result := liveRows s fun s => txDone s mac r
def execEthRxFrame (mac : MacId) (f : EthFrame) (s : State) : Result := liveRows s fun s => rxFrame s mac f
def execCanRxFrame (n : CanId) (f : CanFrame) (s : State) : Result := liveRows s fun s => canRx s n f
def execCanTxDoorbell (n : CanId) (r : Fin 2) (tail : Word) (s : State) : Result :=
  live s fun s => canDoorbell s n (fin 4 r.val) tail
def execCanTxDone (n : CanId) (s : State) : Result := liveRows s fun s => canTxDone s n
def execCanBusOff (n : CanId) (s : State) : Result := live s fun s => canOff s n
def execCanRecover (n : CanId) (v : Word) (s : State) : Result := live s fun s => canCtl s n v
def execBusOffRecoveryDone (n : CanId) (s : State) : Result := live s fun s => canRecovered s n

end Sys2Proof.Machine
end

