-- ==== Sys2Proof/Machine/Gauges.lean ====
section
/-! DEFINITION. The Gauge: camera ports, band rings, encoders, IMUs, device time and the records to the Weirs (09). -/

namespace Sys2Proof.Machine

/-! ### Fields of the registers (09 Table 9.4) -/

def CamPort.store (p : CamPort) : Nat := if bitsOf p.cfg 13 12 = 1 then 1 else 0
def CamPort.dt (p : CamPort) : BitVec 6 := BitVec.ofNat 6 (bitsOf p.cfg 11 6)
def CamPort.vc (p : CamPort) : Fin 4 := fin 4 (bitsOf p.cfg 5 4)
def CamPort.route (p : CamPort) : Nat := bitsOf p.cfg 17 16
def CamPort.x0 (p : CamPort) : Nat := bitsOf p.cropX 15 0
def CamPort.w (p : CamPort) : Nat := bitsOf p.cropX 31 16
def CamPort.y0 (p : CamPort) : Nat := bitsOf p.cropY 15 0
def CamPort.h (p : CamPort) : Nat := bitsOf p.cropY 31 16
def CamPort.count (p : CamPort) (i : Fin 8) (n : Nat := 1) : CamPort := { p with counters := vmod p.counters i fun x => bump x n }

/-- Bits a pixel value has, and values a pixel has (09 Table 9.1); none: a data type outside the table. -/
def dtBits (dt : BitVec 6) : Option (Nat × Nat) :=
  if dt = 0x2A then some (8, 1) else if dt = 0x1E then some (8, 2) else if dt = 0x2B then some (10, 1)
  else if dt = 0x2C then some (12, 1) else none

/-- Bytes of one stored value (R208). -/
def CamPort.width (p : CamPort) : Option Nat := (dtBits p.dt).map fun (b, _) => if b = 8 then 1 else 2
/-- Stored length of a line. -/
def CamPort.lineLen (p : CamPort) : Option Nat := (dtBits p.dt).map fun (b, k) => p.w * k * (if b = 8 then 1 else 2)

def onCam (s : State) (c : CamId) (f : CamPort → CamPort) : State := onGauge s fun g => { g with ports := vmod g.ports c f }

/-- SERVO_SRC; values 4 to 7 act as 0. -/
def Gauge.servo (g : Gauge) : Nat := let n := bitsOf g.ctl 2 0; if 3 < n then 0 else n
/-- LOCKED (R219, R221). -/
def Gauge.isLocked (g : Gauge) : Bool := if g.servo = 3 then bitOf g.ctl 28 else g.locked

/-! ### Records (R224-R226) -/

/-- ROUTE of a source (R225). -/
def Gauge.routeOf (g : Gauge) (src : Nat) : Nat :=
  if src < 8 then bitsOf (g.encs[(fin 8 src).val]).cfg 9 8
  else if src < 12 then bitsOf (((g.imus[(fin 2 ((src - 8) / 2)).val]).slots)[(fin 2 src).val]).cfg 17 16
  else if src = 12 then bitsOf g.ctl 17 16
  else if src = 13 then bitsOf g.ctl 19 18
  else if src < 16 then 0
  else if src < 24 then (g.ports[(fin 8 (src - 16)).val]).route
  else if src < 32 then 0
  else bitsOf g.ctl 21 20

/-- The Weirs of a route. -/
def routeWeirs (r : Nat) : List WeirId := (List.finRange 2).filter fun w => r / 2 ^ w.val % 2 = 1

/-- Bursts under way whose records a Weir will get. -/
def Gauge.bursts (g : Gauge) (w : WeirId) : Nat :=
  (List.range 4).foldl (fun acc k =>
    let i := g.imus[(fin 2 (k / 2)).val]
    let under := (i.trigger[(fin 2 k).val]).isSome && (routeWeirs (g.routeOf (8 + k))).contains w
    acc + if under then 1 else 0) 0

/-- The Gauge holds a credit of a Weir: sixteen, less the records on their way, held there, or being read (08 R190). -/
def creditFree (s : State) (w : WeirId) : Bool :=
  decide ((s.gauge.sent.filter (·.1 = w)).length + (s.weirs[w.val]).held.length + s.gauge.bursts w < 16)

/-- A credit of every Weir of a route. -/
def routeFree (s : State) (r : Nat) : Bool := (routeWeirs r).all fun w => creditFree s w

/-- Send a record to the Weirs of a route under a number. -/
def sendRecord (s : State) (route no : Nat) (r : Record) : State :=
  onGauge s fun g => { g with sent := g.sent ++ (routeWeirs route).map fun w => (w, no, r) }

/-- A fresh record number. -/
def takeNo (s : State) : Nat × State := (s.gauge.recNo, onGauge s fun g => { g with recNo := g.recNo + 1 })

/-- A record of a source, made now from up to four values. -/
def recordNow (s : State) (src : Nat) (mask : BitVec 4) (t : Word64) (v : List Word) : Record :=
  { src := fin 64 src, mask := mask, seq := (s.gauge.ports[s.gauge.seqCam.val]).bandSeq, time := t, v0 := nthW v 0, v1 := nthW v 1,
    v2 := nthW v 2, v3 := nthW v 3 }

/-- FP32 of a number of ns or counts. -/
def fofNat (n : Nat) : Word := fofInt n

/-- Form the record of an encoder (Table 9.3). The times from an edge that was never counted are unstated. -/
def encoderVals (s : State) (e : Fin 8) : List Word × State :=
  let x := s.gauge.encs[e.val]
  let v0 := fofInt (sx (x.count - x.recCount))
  let (f1, s) := draw s 32
  let (f3, s) := draw s 32
  let v1 := match x.lastEdge, x.recEdge with
    | some a, some b => fofNat (a.toNat - b.toNat)
    | _, _ => f1
  let v2 := if fisZero v0 || fisZero v1 then 0 else fdiv (fmul v0 (fofNat 1000000000)) v1
  let v3 := match x.lastEdge with
    | some a => fofNat ((now s).toNat - a.toNat)
    | none => f3
  ([v0, v1, v2, v3],
   onGauge s fun g => { g with encs := vmod g.encs e fun x => { x with recCount := x.count, recEdge := x.lastEdge } })

/-- RATE in ppb (Table 9.3): RATE * 2^-32 ns each 10 ns. -/
def ratePpb (g : Gauge) : Word := fofInt (sx g.rate * 100000000) (-32)

/-- Values and mask of a source that needs no bus read. -/
def sourceVals (s : State) (src : Nat) : BitVec 4 × List Word × State :=
  if src < 8 then
    let (v, s) := encoderVals s (fin 8 src)
    (0xF, v, s)
  else if src < 16 then (0x7, [fofInt (sx s.gauge.ppsErr), ratePpb s.gauge, if s.gauge.isLocked then fOne else 0, 0], s)
  else (0x7, (s.gauge.ports[(fin 8 (src - 16)).val]).recVals, s)

/-- An IMU slot's burst starts. -/
def startBurst (s : State) (src no : Nat) : State :=
  onGauge s fun g =>
    { g with imus := vmod g.imus (fin 2 ((src - 8) / 2)) fun i => { i with trigger := vmod i.trigger (fin 2 src) fun _ => some (now s, no) } }

/-- Form a source's record now, or start its burst. -/
def formRecord (s : State) (src no : Nat) : State :=
  if 8 ≤ src && src < 12 then startBurst s src no
  else
    let (mask, v, s) := sourceVals s src
    sendRecord s (s.gauge.routeOf src) no (recordNow s src mask (now s) v)

/-- A source is pending, or its burst is under way: the number of its record. -/
def Gauge.underWay (g : Gauge) (src : Nat) : Option Nat :=
  match g.pendingSrc.find? fun p => p.1.val = src with
  | some p => some p.2
  | none =>
    if 8 ≤ src && src < 12 then
      ((g.imus[(fin 2 ((src - 8) / 2)).val]).trigger[(fin 2 src).val]).map (·.2)
    else none

/-- Insert a pending source in ascending order. -/
def insertSrc (p : Fin 64 × Nat) : List (Fin 64 × Nat) → List (Fin 64 × Nat)
  | [] => [p]
  | q :: rest => if p.1.val < q.1.val then p :: q :: rest else q :: insertSrc p rest

/-- A trigger of a source: its record is formed, or it becomes or stays pending (R225). The record's number, if any. -/
def trigger (s : State) (src : Nat) : Option Nat × State :=
  let route := s.gauge.routeOf src
  if route = 0 then (none, s)
  else
    match s.gauge.underWay src with
    | some no => (some no, onGauge s fun g => { g with recLate := bump g.recLate })
    | none =>
      let (no, s) := takeNo s
      if routeFree s route then (some no, formRecord s src no)
      else (some no, onGauge s fun g => { g with pendingSrc := insertSrc (fin 64 src, no) g.pendingSrc })

/-- RECORD_PENDING_SERVE: the first pending source in ascending order, then the oldest held injection. -/
def servePending (s : State) : State :=
  match s.gauge.pendingSrc with
  | (src, no) :: rest =>
    if routeFree s (s.gauge.routeOf src.val) then formRecord (onGauge s fun g => { g with pendingSrc := rest }) src.val no else s
  | [] =>
    match s.gauge.injHeld with
    | r :: rest =>
      let route := s.gauge.routeOf 32
      if routeFree s route then
        let (no, s) := takeNo s
        sendRecord (onGauge s fun g => { g with injHeld := rest }) route no r
      else s
    | [] => s

/-- REC_INJ w7 (R224, R225). -/
def injectRecord (s : State) (w7 : Word) : State :=
  let s := onGauge s fun g => { g with recInj := vmod g.recInj (7 : Fin 8) fun _ => w7 }
  let w := s.gauge.recInj
  let route := s.gauge.routeOf 32
  if route = 0 then s
  else
    let r := recordNow s (bitsOf w[0] 5 0) (BitVec.ofNat 4 (bitsOf w[0] 11 8)) (now s) [w[4], w[5], w[6], w[7]]
    if s.gauge.injHeld.isEmpty && routeFree s route then
      let (no, s) := takeNo s
      sendRecord s route no r
    else onGauge s fun g => { g with injHeld := g.injHeld ++ [r] }

/-! ### Bands (R209-R215) -/

/-- Store one pixel value (R208). -/
def storePixel (store bits v : Nat) : List Byte :=
  let x : Int := if store = 1 then (v : Int) - 2 ^ (bits - 1) else v
  if bits = 8 then [BitVec.ofInt 8 x] else leBytes 2 (BitVec.ofInt 16 x).toNat

/-- The bytes of a line: kept pixels, missing ones zero, and zeros up to ROW_STRIDE. -/
def lineBytes (p : CamPort) (stride : Nat) (pixels : List Nat) : List Byte :=
  match dtBits p.dt with
  | none => List.replicate stride 0
  | some (bits, k) =>
    let kept := (List.range (p.w * k)).flatMap fun i => match pixels[p.x0 * k + i]? with
      | some v => storePixel p.store bits v
      | none => List.replicate (if bits = 8 then 1 else 2) 0
    (kept ++ List.replicate stride 0).take stride

/-- Write whole rows for a port: the refused ones. -/
def writeBand (s : State) (a : Nat) (bs : List Byte) : Nat → Nat × State
  | 0 => (0, s)
  | n + 1 =>
    let (st, s) := writeRowPart s none a (bs.take 512)
    let (k, s) := writeBand s (a + 512) (bs.drop 512) n
    ((if st = .ok then k else k + 1), s)

/-- Bits of a band's FLAGS (Table 9.2). -/
def fShort : Byte := 0x01
def fLostLine : Byte := 0x02
def fCrcErr : Byte := 0x04
def fNoFe : Byte := 0x08
def fWriteFail : Byte := 0x10
def fTimeUnlocked : Byte := 0x20

/-- Change the open band. -/
def onBand (s : State) (c : CamId) (f : BandRun → BandRun) : State := onCam s c fun p => { p with band := p.band.map f }

/-- The first row write of a band claims the next slot, or the band is dropped (R213). -/
def openBand (s : State) (c : CamId) (j : Nat) : State :=
  onCam s c fun p =>
    match p.band, p.ring with
    | none, some r =>
      let new := fun slot : Option Nat =>
        ({ slot := slot, index := j / 64, line := j % 64, valid := 0, stamps := .replicate 64 0, flags := 0 } : BandRun)
      if p.heldSlots < r.batches then
        { p with band := some (new (some p.nextSlot)), heldSlots := p.heldSlots + 1, nextSlot := (p.nextSlot + 1) % r.batches }
      else { p with band := some (new none) }
    | _, _ => p

/-- Write one line of the open band (R212): pixels, or zeros. -/
def writeLine (s : State) (c : CamId) (pixels : List Nat) : State :=
  let p := s.gauge.ports[c.val]
  match p.band, p.ring with
  | some b, some r =>
    match b.slot with
    | none => s
    | some k =>
      let (bad, s) := writeBand s (r.base + k * r.batchStride + b.line * r.rowStride) (lineBytes p r.rowStride pixels) (r.rowStride / 512)
      if bad = 0 then s
      else onBand (onCam s c fun p => p.count 6 bad) c fun b => { b with flags := b.flags ||| fWriteFail }
  | _, _ => s

/-- The stamp block of a band (Table 9.2). -/
def stampBlock (p : CamPort) (b : BandRun) (seq : Word) : List Byte :=
  wordBytes [seq, img (p.frameNo.toNat + b.index % 256 * 2 ^ 16 + b.flags.toNat * 2 ^ 24)]
    ++ leBytes 8 b.valid.toNat ++ leBytes 4 p.droppedSince.toNat ++ List.replicate 492 0
    ++ b.stamps.toList.flatMap fun t => leBytes 8 t.toNat

/-- VAL0 to VAL2 of a camera record. With no valid line the time between them is unstated. -/
def bandVals (s : State) (b : BandRun) : List Word × State :=
  let on := setBits b.valid
  let (f, s) := draw s 32
  let span := match on.head?, on.getLast? with
    | some i, some j => fofNat ((b.stamps[(fin 64 j).val]).toNat - (b.stamps[(fin 64 i).val]).toNat)
    | _, _ => f
  ([fofNat on.length, span, fofNat b.flags.toNat], s)

/-- Fire sources in order: the (number, Weir) pairs whose credits are awaited. -/
def triggerAll (s : State) : List Nat → List (Nat × WeirId) × State
  | [] => ([], s)
  | src :: rest =>
    let ws := routeWeirs (s.gauge.routeOf src)
    let (no, s) := trigger s src
    let (more, s) := triggerAll s rest
    ((match no with | some n => ws.map fun w => (n, w) | none => []) ++ more, s)

/-- A band ends: BAND_SEQ, its stamp block, its records, and its Bell (R212-R214, R226). -/
def endBand (s : State) (c : CamId) : State :=
  let p := s.gauge.ports[c.val]
  match p.band, p.ring with
  | some b, some r =>
    let seq := bump p.bandSeq
    let s := onCam s c fun p => { p with bandSeq := seq, band := none }
    let sources := if s.gauge.seqCam = c then (List.range 8) else []
    match b.slot with
    | none =>
      let s := onCam s c fun p => { p.count 0 with droppedSince := bump p.droppedSince }
      raiseBell (triggerAll s sources).2 p.dropBell
    | some k =>
      let (bad, s) := writeBand s (r.base + k * r.batchStride - 1024) (stampBlock p b seq) 2
      let s := onCam s c fun p => { p.count 6 bad with droppedSince := 0 }
      let (vals, s) := bandVals s b
      let s := onCam s c fun p => { p with recVals := vals }
      let (waits, s) := triggerAll s (sources ++ [16 + c.val])
      onCam s c fun p => { p with ended := p.ended ++ [{ seq := seq, waits := if s.gauge.seqCam = c then waits else [] }] }
  | _, _ => s

/-- After a line the band goes on, or ends with line 63. -/
def nextLine (s : State) (c : CamId) : State :=
  match (s.gauge.ports[c.val]).band with
  | some b => if b.line = 63 then endBand s c else onBand s c fun b => { b with line := b.line + 1 }
  | none => s

/-- Zero lines up to the end of the open band, at most `n`. -/
def fillBand (s : State) (c : CamId) : Nat → State
  | 0 => s
  | n + 1 => if (s.gauge.ports[c.val]).band.isSome then fillBand (nextLine (writeLine s c []) c) c n else s

/-- Close a frame: an open band becomes short (Corners). -/
def closeFrame (s : State) (c : CamId) (flags : Byte) : State :=
  fillBand (onBand s c fun b => { b with flags := b.flags ||| flags }) c 64

/-- Stamp of a line received now (R215). -/
def lineStamp (s : State) (p : CamPort) : Word64 := now s + p.lineOffset.signExtend 64

/-- One line of the selected stream, received (pixels) or lost (R207, R209). -/
def takeLine (s : State) (c : CamId) (pixels : Option (List Nat)) (crc : Bool) : State :=
  let p := s.gauge.ports[c.val]
  if !p.inFrame then s
  else
    let s := onCam s c fun p => { p with lines := p.lines + 1 }
    if p.ring.isNone || p.lines < p.y0 || p.y0 + p.h ≤ p.lines then s
    else
      let s := openBand s c (p.lines - p.y0)
      let s := match pixels with
        | some _ =>
          onBand s c fun b =>
            { b with
              valid := b.valid ||| BitVec.twoPow 64 b.line
              stamps := vmod b.stamps (fin 64 b.line) fun _ => lineStamp s p
              flags := b.flags ||| (if crc then fCrcErr else 0) ||| (if s.gauge.isLocked then 0 else fTimeUnlocked) }
        | none => onBand (onCam s c fun p => p.count 1) c fun b => { b with flags := b.flags ||| fLostLine }
      nextLine (writeLine s c (pixels.getD [])) c

/-- The measured length is within 4 bytes of the expected one. -/
def nearLen (p : CamPort) (n : Nat) : Bool :=
  match p.expected with
  | some e => decide (e ≤ n + 4) && decide (n ≤ e + 4)
  | none => false

/-- CSI_LONG_PACKET (R207). -/
def longPacket (s : State) (c : CamId) (k : LongPacket) : State :=
  let p := s.gauge.ports[c.val]
  if k.hdr = .bad then
    let s := onCam s c fun p => p.count 3
    if nearLen p k.measured then takeLine s c none false else s
  else
    let s := if k.hdr = .corrected then onCam s c fun p => p.count 2 else s
    if k.vc = p.vc && k.dt = p.dt then
      let s := onCam s c fun p => let p := if k.crcErr then p.count 4 else p; { p with expected := some k.measured }
      takeLine s c (some k.pixels) k.crcErr
    else onCam s c fun p => p.count 5

/-- BAND_COMPLETE: the Bell of the oldest ended band, once the credits of its records are back (R212, R226). -/
def bandBell (s : State) (c : CamId) : State :=
  let p := s.gauge.ports[c.val]
  match p.ended with
  | e :: rest => if e.waits.isEmpty then raiseBell (onCam s c fun p => { p with ended := rest }) p.bandBell else s
  | [] => s

/-- FRAME_START: the previous frame is closed, a pending GAUGE_ARM takes effect (R209, R211). -/
def frameBegin (s : State) (c : CamId) (vc : Fin 4) (no : BitVec 16) : State :=
  let p := s.gauge.ports[c.val]
  if vc ≠ p.vc then onCam s c fun p => p.count 5
  else
    let s := if p.inFrame then closeFrame s c (fShort ||| fNoFe) else s
    onCam s c fun p =>
      let p := match p.arm with
        | some ring => { p with ring := ring, arm := none, heldSlots := 0, nextSlot := 0, bandSeq := 0, droppedSince := 0 }
        | none => p
      { p with inFrame := true, frameNo := no, lines := 0, band := none }

/-- FRAME_END. -/
def frameFinish (s : State) (c : CamId) (vc : Fin 4) : State :=
  let p := s.gauge.ports[c.val]
  if vc ≠ p.vc then onCam s c fun p => p.count 5
  else if p.inFrame then onCam (closeFrame s c fShort) c fun p => { p with inFrame := false } else s

/-- The checks of R210; none: a disarm (R211). -/
def armPlan (s : State) (j : Job) : Except WFail (CamId × Option BandRing) := do
  let c : CamId := fin 8 j.words[4].toNat
  if absent j.words[5] then return (c, none)
  else
    let p := s.gauge.ports[c.val]
    let w := j.win
    let d ← weirDesc s w j.words[5]
    let bad : WFail := { st := stFormat, sub := 0x0C }
    need (decide (d.rows = 64) && decide (d.base % 512 = 0) && decide (d.rowStride % 512 = 0)) bad
    need (decide ((p.lineLen.getD 0) ≤ d.rowStride) && decide (2 ≤ d.batches) && decide (d.batches ≤ 256)) bad
    need (decide (64 * d.rowStride + 1024 ≤ d.batchStride) && decide (d.batchStride % 512 = 0)) bad
    need (decide (p.width = some 1 ∧ bitsOf d.fmt 3 0 = 1 ∨ p.width = some 2 ∧ bitsOf d.fmt 3 0 = 2)) bad
    need (decide (p.h % 64 = 0) && decide (p.h ≤ 64 * 255)) bad
    need (decide (1024 ≤ d.base) && decide (d.base < granTop)
      && decide (w.base + d.base + max d.extent ((d.batches - 1) * d.batchStride + 64 * d.rowStride) ≤ w.bound)) weirOutside
    return (c, some { base := w.base + d.base, rowStride := d.rowStride, batches := d.batches, batchStride := d.batchStride })

/-- GAUGE_ARM completes at once and takes effect at the port's next frame start (R210, R211). -/
def gaugeArmOp (s : State) : State :=
  match headJob s.gauge.queue .gaugeArm with
  | none => s
  | some (j, rest) =>
    let s := onGauge s fun g => { g with queue := rest }
    match jobStop s j with
    | some a => finishJob s j (abortStatus a) 0 0 0 (now s) 0 0
    | none =>
      match armPlan s j with
      | .error f => weirFail s j f
      | .ok (c, ring) => finishJob (onCam s c fun p => { p with arm := some ring }) j stOk 0 0 0 (now s) 0 0

/-! ### Device time (R216-R221) -/

/-- RATE as it acts: within 500 ppm. -/
def effRate (g : Gauge) : Int := max (-21474836) (min 21474836 (sx g.rate))
/-- 0.01 ns in units of 2^-32 ns. -/
def slewStep : Int := 42949673

/-- One CK_SLU tick (R216, R217). -/
def tick (g : Gauge) : Gauge :=
  let step := max (-slewStep) (min slewStep g.slew)
  let total := (10 * 2 ^ 32 + effRate g + step + g.frac.toNat).toNat
  { g with time := g.time + BitVec.ofNat 64 (total / 2 ^ 32), frac := BitVec.ofNat 32 total, slew := g.slew - step }

/-- SLEW written (R217). -/
def slewSet (s : State) (v : Word) : State := onGauge s fun g => { g with slew := sx v * 2 ^ 32 }

/-- SLEW as it reads: whole ns towards zero. -/
def Gauge.slewRead (g : Gauge) : Word := BitVec.ofInt 32 (g.slew.tdiv (2 ^ 32))

/-- A Spigot channel holds a scheduled edge. -/
def edgesScheduled (s : State) : Bool := s.spigot.chans.any fun c => !c.fifo.isEmpty

/-- TIME_LOAD_HI written (R218). -/
def timeLoadHi (s : State) (hi : Word) : State :=
  onGauge s fun g =>
    if g.ports.any (·.ring.isSome) || edgesScheduled s then { g with loadRej := true }
    else { g with time := BitVec.ofNat 64 (hi.toNat * 2 ^ 32 + g.loadLo.toNat) }

/-- A read of TIME_LO latches TIME_HI (Table 9.4). -/
def timeLo (s : State) : Word × State := (lo32 (now s), onGauge s fun g => { g with timeHi := hi32 g.time })

/-- Round a quotient half to even. -/
def rheDiv (a : Int) (b : Nat) : Int :=
  let q := a.fdiv b
  let r := a - q * b
  if (b : Int) < 2 * r || (2 * r = (b : Int) && q % 2 = 1) then q + 1 else q

/-- The PPS input the servo follows; none: no hardware servo. -/
def Gauge.ppsInput (g : Gauge) : Option (Fin 2) :=
  if g.servo = 1 then some (if g.otherInput then 1 else 0)
  else if g.servo = 2 then some (if g.otherInput then 0 else 1)
  else none

/-- A rising PPS edge (R219). -/
def ppsRise (s : State) (p : Fin 2) : State :=
  let s := onGauge s fun g => { g with ppsCap := vmod g.ppsCap p fun _ => g.time }
  if s.gauge.ppsInput ≠ some p then s
  else
    let g := s.gauge
    let e : Int := ((g.time.toNat : Int) - sx g.ppsOffset + 500000000) % 1000000000 - 500000000
    if g.isLocked && bitsOf g.servoCfg 31 16 * 1000 < e.natAbs then
      onGauge s fun g => { g with ppsErr := BitVec.ofInt 32 e, ppsGlitch := bump g.ppsGlitch }
    else
      let (f, s) := draw s 32
      let rate := sx g.rate - rheDiv (4295 * e) (100 * 2 ^ bitsOf g.servoCfg 3 0)
      let near := decide (e.natAbs ≤ bitsOf g.servoCfg 15 8 * 10)
      let s := onGauge s fun g =>
        { g with
          ppsErr := BitVec.ofInt 32 e
          slew := -e * 2 ^ 32
          rate := if -(2 ^ 31) ≤ rate ∧ rate < 2 ^ 31 then BitVec.ofInt 32 rate else f
          lockRun := if near then stopAt 4 (g.lockRun + 1) else 0
          locked := near && (g.locked || decide (4 ≤ g.lockRun + 1))
          holdover := false
          ppsLost := false
          lastPps := g.time }
      (trigger s (12 + p.val)).2

/-- PPS_HOLDOVER: no edge accepted for 1.5 s (R220). -/
def holdoverStart (s : State) : State :=
  let g := s.gauge
  if g.ppsInput.isSome && !g.holdover && elapsed s g.lastPps 1500000000 then
    raiseBell (onGauge s fun g =>
      { g with holdover := true, ppsLost := true, locked := false, lockRun := 0, ppsLoss := bump g.ppsLoss,
               otherInput := if bitOf g.ctl 3 then !g.otherInput else g.otherInput }) (fin 256 (bitsOf g.ctl 15 8))
  else s

/-! ### Encoders and IMUs (R222, R223) -/

/-- An accepted change of an encoder's inputs (R222). -/
def encoderStep (s : State) (e : Fin 8) (k : QuadStep) : State :=
  onGauge s fun g =>
    { g with encs := vmod g.encs e fun x =>
        if !bitOf x.cfg 0 then x
        else if k = .both then { x with err := bump x.err }
        else
          let up := (k = .up) != bitOf x.cfg 1
          { x with count := if up then x.count + 1 else x.count - 1, lastEdge := some g.time } }

/-- A trigger of an IMU's data-ready edge (false) or timer (true), for each slot that is routed (R223, R225). -/
def imuTrigger (s : State) (i : Fin 2) (timer : Bool) : State :=
  let c := (s.gauge.imus[i.val]).cfg
  if bitOf c 0 && bitOf c 2 = timer then (trigger (trigger s (8 + 2 * i.val)).2 (9 + 2 * i.val)).2 else s

/-- LEN of a slot's burst; the five bits of 0 stand for 32. -/
def ImuSlot.len (x : ImuSlot) : Nat := let n := bitsOf x.cfg 12 8; if n = 0 then 32 else n

/-- Field `k` of a burst, scaled; a field that the burst does not hold is unstated. -/
def imuField (s : State) (x : ImuSlot) (burst : List Byte) (k : Nat) : Word × State :=
  let b := bitsOf x.fieldOff (8 * k + 7) (8 * k)
  let off := b % 32
  let (f, s) := draw s 32
  if b / 128 = 0 then (0, s)
  else if off + 1 < x.len then
    let lo := (burst.getD off 0).toNat
    let hi := (burst.getD (off + 1) 0).toNat
    (fmul (fofInt (sval 16 (if b / 64 % 2 = 1 then 256 * lo + hi else lo + 256 * hi))) x.scale, s)
  else (f, s)

/-- The record of one slot whose burst has been read. -/
def imuRecord (s : State) (i k : Fin 2) (burst : List Byte) : State :=
  let m := s.gauge.imus[i.val]
  match m.trigger[k.val] with
  | none => s
  | some (t, no) =>
    let x := m.slots[k.val]
    let src := 8 + 2 * i.val + k.val
    let (v0, s) := imuField s x burst 0
    let (v1, s) := imuField s x burst 1
    let (v2, s) := imuField s x burst 2
    let (v3, s) := imuField s x burst 3
    let mask := BitVec.ofNat 4 ((List.range 4).foldl (fun acc k => acc + bitsOf x.fieldOff (8 * k + 7) (8 * k + 7) * 2 ^ k) 0)
    let s := onGauge s fun g =>
      { g with imus := vmod g.imus i fun m => { m with trigger := vmod m.trigger k fun _ => none } }
    sendRecord s (s.gauge.routeOf src) no (recordNow s src mask t [v0, v1, v2, v3])

/-- IMU_BURST_DONE. -/
def burstsDone (s : State) (i : Fin 2) (b : Vector (List Byte) 2) : State := imuRecord (imuRecord s i 0 b[0]) i 1 b[1]

def execCsiLongPacket (c : CamId) (p : LongPacket) (s : State) : Result := liveRows s fun s => longPacket s c p
def execBandComplete (c : CamId) (s : State) : Result := liveRows s fun s => bandBell s c
def execFrameStart (c : CamId) (vc : Fin 4) (frame : BitVec 16) (s : State) : Result := liveRows s fun s => frameBegin s c vc frame
def execFrameEnd (c : CamId) (vc : Fin 4) (s : State) : Result := liveRows s fun s => frameFinish s c vc
def execGaugeArm (s : State) : Result := liveRows s gaugeArmOp
def execRelAddWrite (c : CamId) (v : Word) (s : State) : Result := live s fun s => onCam s c fun p => releaseSlots p (bitsOf v 8 0)
def execSlewWrite (v : Word) (s : State) : Result := live s fun s => slewSet s v
def execTimeLoad (hi : Word) (s : State) : Result := live s fun s => timeLoadHi s hi
def execPpsEdge (p : Fin 2) (s : State) : Result := live s fun s => ppsRise s p
def execPpsHoldover (s : State) : Result := liveRows s holdoverStart
def execEncoderEdge (e : Fin 8) (step : QuadStep) (s : State) : Result := live s fun s => encoderStep s e step
def execImuDrdyEdge (i : Fin 2) (s : State) : Result := live s fun s => imuTrigger s i false
def execImuTimer (i : Fin 2) (s : State) : Result := live s fun s => imuTrigger s i true
def execImuBurstDone (i : Fin 2) (bursts : Vector (List Byte) 2) (s : State) : Result := live s fun s => burstsDone s i bursts
def execRecordPendingServe (s : State) : Result := live s servePending
def execRecInjWrite (w7 : Word) (s : State) : Result := live s fun s => injectRecord s w7
/-- CK_SLU_TICK: device time advances, and running PWM channels take the level of the moment (R216, 10 R230). -/
def sluTick (s : State) : State :=
  let s := onGauge s tick
  onSpigot s fun sp => { sp with chans := sp.chans.map fun c => c.pwmLevel (now s) }

def execCkSluTick (s : State) : Result := live s sluTick

end Sys2Proof.Machine
end

