-- ==== Sys2Proof/Machine/Ledgers.lean ====
section
/-! DEFINITION. The ledger engine: home store and directory, cache, operations, nodes that leave (13). -/

namespace Sys2Proof.Machine

/-! ### Messages and counters (R308, R327) -/

/-- Count an event: SNOOPS_SENT, CROSSED, EVICT_DISCARDED, OP_TIMEOUTS, LOST_LINES, DIRTY_DROPPED. -/
def Ledger.count (l : Ledger) (i : Fin 6) (n : Nat := 1) : Ledger := { l with counters := vmod l.counters i fun x => bump x n }

/-- A message of Table 13.2 without payload. -/
def lmsg (target : NodeId) (kind lm : Nat) (line : LineId) : LedgerMsg :=
  { target := target, kind := BitVec.ofNat 4 kind, lmsg := BitVec.ofNat 4 lm, line := line, crossed := false, req := none, data := none,
    value := 0, status := 0 }

/-- Send a message. -/
def Ledger.send (l : Ledger) (m : LedgerMsg) : Ledger := { l with sent := m :: l.sent }

/-- A message to this node has arrived: it is no longer on its way. -/
def Ledger.take (l : Ledger) (me : NodeId) (kind lm : Nat) (line : LineId) : Ledger :=
  match l.sent.reverse.find? fun m => m.target = me && m.kind.toNat = kind && m.lmsg.toNat = lm && m.line = line with
  | some m => { l with sent := (l.sent.reverse.erase m).reverse }
  | none => l

/-- A message from a node set in NODE_GONE is discarded and counted (R322). -/
def fromNode (s : State) (n : NodeId) (kind lm : Nat) (line : LineId) (f : State → State) : State :=
  let s := onLedger s fun l => if n = s.flume.nodeId then l.take n kind lm line else l
  if s.ledger.nodeGone.getLsbD n.val then onLedger s fun l => { l with goneDiscarded := bump l.goneDiscarded } else f s

/-! ### Home store and directory (R304, R307, R310) -/

def wordKey (line : LineId) (w : Nat) : Nat := 8 * line.val + w
def Ledger.word (l : Ledger) (line : LineId) (w : Nat) : Word64 := sGet l.store (wordKey line w)
/-- The eight words of a line. -/
def Ledger.lineData (l : Ledger) (line : LineId) : Vector Word64 8 := .ofFn fun w => l.word line w.val

/-- The directory entry of a line. -/
def Ledger.entry (l : Ledger) (line : LineId) : DirEntry :=
  (l.dir.find? (·.line = line)).getD { line := line, state := .unowned, lost := false }

/-- Insert an entry, by rising line. -/
def insertDir (e : DirEntry) : List DirEntry → List DirEntry
  | [] => [e]
  | d :: rest => if e.line < d.line then e :: d :: rest else d :: insertDir e rest

/-- Replace the entry of a line; UNOWNED and not LOST is not listed. -/
def Ledger.setEntry (l : Ledger) (e : DirEntry) : Ledger :=
  let rest := l.dir.filter (·.line ≠ e.line)
  { l with dir := if e.state = .unowned && !e.lost then rest else insertDir e rest }

/-- A sharer vector, UNOWNED when it is empty. -/
def sharers (v : BitVec 32) : DirState := if v = 0 then .unowned else .shared v
def nodeBit (n : NodeId) : BitVec 32 := BitVec.twoPow 32 n.val

/-- Remove a node from a directory state. -/
def DirState.without (d : DirState) (n : NodeId) : DirState :=
  match d with
  | .unowned => .unowned
  | .shared v => sharers (v &&& ~~~nodeBit n)
  | .owned o => if o = n then .unowned else .owned o

/-- Remove a node from a line's directory entry. -/
def Ledger.dropNode (l : Ledger) (line : LineId) (n : NodeId) : Ledger :=
  let e := l.entry line
  l.setEntry { e with state := e.state.without n }

/-- Nodes of a vector. -/
def nodesOf (v : BitVec 32) : List NodeId := (List.finRange 32).filter fun n => v.getLsbD n.val

/-- A changed word raises the Bells of its watches (R325). -/
def watchWord (s : State) (idx : Nat) : State :=
  s.ledger.watches.toList.foldl (fun s w =>
    if bitOf w.2 31 && bitsOf w.1 16 0 = idx then raiseBell s (fin 256 (bitsOf w.2 7 0)) else s) s

/-- A home operation that changes a TAIL_WORD acts as a write of DB_TAIL (R324). -/
def tailWord (s : State) (idx : Nat) (v : Word64) : State :=
  (List.finRange 128).foldl (fun s c =>
    let t := (s.ledger.chuteWords[c.val]).1
    if bitOf t 31 && bitsOf t 16 0 = idx then dbTailWrite s c (BitVec.ofNat 16 v.toNat) else s) s

/-- Write a word of the home store; a change is watched. -/
def setWord (s : State) (line : LineId) (w : Nat) (v : Word64) : State :=
  let k := wordKey line w
  if sGet s.ledger.store k = v then s
  else watchWord (onLedger s fun l => { l with store := sSet l.store k v }) k

/-- Data taken into the store (R309, R316). -/
def setLine (s : State) (line : LineId) (data : Vector Word64 8) : State :=
  (List.finRange 8).foldl (fun s w => setWord s line w.val data[w.val]) s

/-! ### Operations on a word (Table 13.5) -/

/-- The new value of a word and what the operation returns; `op` is 0 to 4. -/
def wordOp (op : Nat) (old operand compare : Word64) : Word64 × Word64 :=
  if op = 1 then (operand, 0)
  else if op = 2 then (old + operand, old)
  else if op = 3 then (operand, old)
  else if op = 4 then (if old = compare then operand else old, old)
  else (old, old)

/-- An operation of Table 13.5: its number below 8, and whether it is a home operation. -/
def opListed (op : Nat) : Bool := op ≤ 4 || (8 ≤ op && op ≤ 12)

/-- A home operation in the home store: the old value and its status; a changed word that is a TAIL_WORD acts as a write of
DB_TAIL (R317, R318, R324). -/
def homeExec (s : State) (line : LineId) (op : Fin 16) (w : Fin 8) (operand compare : Word64) : Word64 × Byte × State :=
  let e := s.ledger.entry line
  if op.val < 8 || !opListed op.val then (0, stFormat, s)
  else if e.lost && op.val ≠ 9 then (0, stUncorr, s)
  else
    let before := s.ledger.lineData line
    let base := if e.lost then .replicate 8 0 else before
    let (new, ret) := wordOp (op.val - 8) base[w.val] operand compare
    let after := vmod base w fun _ => new
    let s := setLine (if e.lost then onLedger s fun l => l.setEntry { e with lost := false } else s) line after
    (ret, stOk, (List.finRange 8).foldl (fun s u =>
      if after[u.val] = before[u.val] then s else tailWord s (wordKey line u.val) after[u.val]) s)

/-! ### Transactions (R309-R316) -/

def Ledger.busy (l : Ledger) (line : LineId) : Bool := l.txns.any (·.line = line)

/-- The grant of a finished transaction, and the directory after it (Table 13.4). A requester that has left gets no grant. -/
def finishTxn (s : State) (t : Txn) : State :=
  let s := onLedger s fun l => { l with txns := l.txns.filter (·.line ≠ t.line) }
  let e := s.ledger.entry t.line
  if s.ledger.nodeGone.getLsbD t.node.val then
    onLedger s fun l =>
      let l := { l with goneDiscarded := bump l.goneDiscarded }
      match t.req with
      | .getS =>
        match e.state with
        | .owned o => l.setEntry { e with state := .shared (nodeBit o) }
        | _ => l
      | .getM | .op _ _ _ _ => l.setEntry { e with state := .unowned }
  else
    match t.req with
    | .getS =>
      if e.lost then onLedger s fun l => l.send { lmsg t.node 0xB 3 t.line with status := stUncorr }
      else
        let v := match e.state with | .unowned => 0 | .shared v => v | .owned o => nodeBit o
        onLedger s fun l =>
          (l.setEntry { e with state := .shared (v ||| nodeBit t.node) }).send { lmsg t.node 0xB 0 t.line with data := some (l.lineData t.line) }
    | .getM =>
      if e.lost then
        onLedger s fun l => (l.setEntry { e with state := .unowned }).send { lmsg t.node 0xB 3 t.line with status := stUncorr }
      else
        onLedger s fun l =>
          (l.setEntry { e with state := .owned t.node }).send { lmsg t.node 0xB 1 t.line with data := some (l.lineData t.line) }
    | .op op w operand compare =>
      let s := onLedger s fun l => l.setEntry { e with state := .unowned }
      let (old, st, s) := homeExec s t.line op w operand compare
      onLedger s fun l => l.send { lmsg t.node 0xB 3 t.line with value := old, status := st }

/-- Start a transaction: the snoops it sends at once (Table 13.4, R316). -/
def startTxn (s : State) (line : LineId) (n : NodeId) (req : HomeReq) : State :=
  let snoops : List NodeId × Bool × Option NodeId := match (s.ledger.entry line).state, req with
    | .unowned, _ => ([], true, none)
    | .shared _, .getS => ([], true, none)
    | .shared v, .getM => (nodesOf (v &&& ~~~nodeBit n), true, none)
    | .shared v, .op _ _ _ _ => (nodesOf v, true, none)
    | .owned o, .getS => ([o], false, some o)
    | .owned o, _ => ([o], true, some o)
  let (asked, inv, owner) := snoops
  let t : Txn := { line := line, node := n, req := req, snooped := asked, awaiting := asked, owner := owner }
  let s := onLedger s fun l =>
    asked.foldl (fun l o => l.send (lmsg o 0x9 (if inv then 1 else 0) line)) ({ l with txns := l.txns ++ [t] }.count 0 asked.length)
  if asked.isEmpty then finishTxn s t else s

/-- A request at the home (R309). -/
def homeRequest (s : State) (line : LineId) (n : NodeId) (req : HomeReq) : State :=
  let l := s.ledger
  if l.busy line || l.waiting.any (·.line = line) || 64 ≤ l.txns.length then
    onLedger s fun l => { l with waiting := l.waiting ++ [{ line := line, node := n, req := req }] }
  else startTxn s line n req

/-- HOME_TXN_START: the oldest waiting request of a line that is no longer BUSY. -/
def nextTxn (s : State) (line : LineId) : State :=
  let l := s.ledger
  if l.busy line || 64 ≤ l.txns.length then s
  else
    match l.waiting.find? (·.line = line) with
    | some w => startTxn (onLedger s fun l => { l with waiting := l.waiting.erase w }) line w.node w.req
    | none => s

/-- A snoop response (R310, R315). -/
def snoopAnswer (s : State) (n : NodeId) (line : LineId) (crossed : Bool) (data : Option (Vector Word64 8)) : State :=
  match s.ledger.txns.find? fun t => t.line = line && t.awaiting.contains n with
  | none => s
  | some t =>
    let s := match data with | some d => setLine s line d | none => s
    let s := if crossed then onLedger s fun l => (l.dropNode line n).count 1 else s
    let t' := { t with awaiting := t.awaiting.filter (· ≠ n) }
    if t'.awaiting.isEmpty then finishTxn s t'
    else onLedger s fun l => { l with txns := l.txns.map fun x => if x.line = line then t' else x }

/-- An eviction (R316). -/
def evictIn (s : State) (n : NodeId) (line : LineId) (data : Option (Vector Word64 8)) : State :=
  let ack := fun (l : Ledger) => l.send (lmsg n 0xB 2 line)
  if s.ledger.txns.any fun t => t.line = line && t.snooped.contains n then onLedger s fun l => ack (l.count 2)
  else
    let s := match data with | some d => setLine s line d | none => s
    onLedger s fun l => ack (l.dropNode line n)

/-! ### The cache (R306, R311, R314) -/

def CacheLine.is (home : NodeId) (line : LineId) (c : CacheLine) : Bool := c.home = home && c.line = line
/-- The set of a line: 256 sets of 8 ways. -/
def cacheSet (line : LineId) : Nat := line.val % 256

/-- The cached line, if held in S or M. -/
def Ledger.cached (l : Ledger) (home : NodeId) (line : LineId) : Option CacheLine := l.cache.find? (CacheLine.is home line)

/-- Evict the least recently used line of a set while it holds more lines, with those asked for, than its ways: none when
the evict-pending entries are full. -/
def Ledger.makeRoom (l : Ledger) (line : LineId) : Option Ledger :=
  let set := cacheSet line
  let mine := l.cache.filter fun c => cacheSet c.line = set
  let asked := l.reqs.filter fun r => cacheSet r.line = set && !r.blocked && (l.cached r.home r.line).isNone && (r.req = .getS || r.req = .getM)
  if mine.length + asked.length < 8 then some l
  else
    match mine.getLast? with
    | none => some l
    | some v =>
      if 16 ≤ l.evicts.length then none
      else
        let dirty := v.state = .m && v.dirty
        some ({ l with cache := l.cache.erase v, evicts := l.evicts ++ [({ home := v.home, line := v.line, dirty := dirty, data := v.data } : EvictPend)] }.send
          { lmsg v.home 0x8 (if dirty then 3 else 2) v.line with data := if dirty then some v.data else none })

/-- The message of a request. -/
def reqMsg (r : ReqEntry) : LedgerMsg :=
  match r.req with
  | .getS => lmsg r.home 0x8 0 r.line
  | .getM => lmsg r.home 0x8 1 r.line
  | .op _ _ _ _ => { lmsg r.home 0x8 4 r.line with req := some r.req }

/-- Send the blocked requests that may go now: at most 16 entries in use, the line not in EP, and room in its set. Entries sent
stand in the order of sending, which is the order of their answers (R312). -/
def Ledger.launch (l : Ledger) : Ledger :=
  l.reqs.foldl (fun l r =>
    if !r.blocked || 16 ≤ (l.reqs.filter (!·.blocked)).length || l.evicts.any (fun e => e.home = r.home && e.line = r.line) then l
    else
      let go := fun (l : Ledger) => { l with reqs := l.reqs.erase r ++ [{ r with blocked := false }] }.send (reqMsg r)
      match r.req with
      | .op _ _ _ _ => go l
      | _ => if (l.cached r.home r.line).isSome then go l else match l.makeRoom r.line with | some l => go l | none => l) l

/-- A slot's operation completes. -/
def Ledger.slotDone (l : Ledger) (k : Fin 4) (st : Byte) (result : Word64) : Ledger :=
  { l with slots := vmod l.slots k fun x => { x with busy := false, status := st, result := result } }

/-- Word index of a slot's address in its line, and its line. -/
def LedgerSlot.word (x : LedgerSlot) : Fin 8 := fin 8 (x.addr.toNat / 8)
def LedgerSlot.line (x : LedgerSlot) : LineId := fin 16384 (x.addr.toNat % 0x100000 / 64)

/-- Perform a cached operation on the line held (R317); the line becomes the most recently used. -/
def Ledger.perform (l : Ledger) (c : CacheLine) (k : Fin 4) : Ledger :=
  let x := l.slots[k.val]
  let (new, ret) := wordOp (bitsOf x.op 3 0) (c.data[x.word.val]) x.operand x.compare
  let c' := { c with data := vmod c.data x.word fun _ => new, dirty := c.dirty || bitsOf x.op 3 0 ≠ 0 }
  { l with cache := c' :: l.cache.erase c }.slotDone k stOk ret

/-- SNP_SHARE (false) or SNP_INV (true) from a home (R311, R314). -/
def snoopIn (s : State) (home : NodeId) (line : LineId) (inv : Bool) : State :=
  onLedger s fun l =>
    let ack := fun (l : Ledger) (crossed : Bool) => l.send { lmsg home 0xA 0 line with crossed := crossed }
    let data := fun (l : Ledger) (d : Vector Word64 8) (crossed : Bool) => l.send { lmsg home 0xA 1 line with crossed := crossed, data := some d }
    match l.cached home line with
    | some c =>
      if c.state = .m then
        data { l with cache := if inv then l.cache.erase c
          else l.cache.map fun x => if x = c then { c with state := .s, dirty := false } else x } c.data false
      else ack { l with cache := if inv then l.cache.erase c else l.cache } false
    | none =>
      match l.evicts.find? fun e => e.home = home && e.line = line with
      | some e => if e.dirty then data l e.data true else ack l true
      | none => ack l false

/-- DATA_S or DATA_M: the line is installed and the waiting operation performed (R317, R320). -/
def grantIn (s : State) (home : NodeId) (line : LineId) (st : CacheState) (d : Vector Word64 8) : State :=
  onLedger s fun l =>
    let want : HomeReq := if st = .s then .getS else .getM
    match l.reqs.find? fun r => r.home = home && r.line = line && r.req = want && !r.blocked with
    | none => l
    | some r =>
      let c : CacheLine := { home := home, line := line, state := st, dirty := false, data := d }
      let l := { l with reqs := l.reqs.erase r, cache := c :: l.cache.filter fun x => !x.is home line }
      (match r.slot with | some k => l.perform c k | none => l).launch

/-- EVICT_ACK. -/
def evictAcked (s : State) (home : NodeId) (line : LineId) : State :=
  onLedger s fun l => { l with evicts := l.evicts.filter fun e => !(e.home = home && e.line = line) }.launch

/-- HOME_RESULT. -/
def resultIn (s : State) (home : NodeId) (line : LineId) (old : Word64) (st : Byte) : State :=
  onLedger s fun l =>
    match l.reqs.find? fun r => r.home = home && r.line = line && !r.blocked with
    | none => l
    | some r =>
      let l := { l with reqs := l.reqs.erase r }
      (match r.slot with | some k => l.slotDone k st old | none => l).launch

/-! ### Slots (R317-R320) -/

/-- The home of a ledger address (R304). -/
def homeNode (s : State) (a : Addr) : NodeId := if a.toNat < 2 ^ 47 then s.flume.nodeId else fin 32 (a.toNat / 2 ^ 42)

/-- A ledger address (R304): 8-byte aligned, in the 1 MiB region of its node. -/
def ledgerAddr (a : Addr) : Bool :=
  let x := a.toNat % 2 ^ 42
  decide (a.toNat % 8 = 0 ∧ ledgerTop ≤ x ∧ x < ledgerTop + 0x100000) && (decide (2 ^ 47 ≤ a.toNat) || decide (a.toNat < 2 ^ 42))

/-- SLOT_CTL written: with GO, an idle slot starts its operation (R317-R319). -/
def slotGo (s : State) (k : Fin 4) (v : Word) : State :=
  let x := s.ledger.slots[k.val]
  if x.busy then s
  else
    let op := bitsOf v 3 0
    let s := onLedger s fun l => { l with slots := vmod l.slots k fun x => { x with op := BitVec.ofNat 4 op } }
    if !bitOf v 31 then s
    else
      let home := homeNode s x.addr
      let own := home = s.flume.nodeId
      if !opListed op then onLedger s fun l => l.slotDone k stFormat 0
      else if !ledgerAddr x.addr then onLedger s fun l => l.slotDone k stBound 0
      else if !own && (!bitOf (s.flume.routes[home.val]) 31 || s.ledger.nodeGone.getLsbD home.val) then
        onLedger s fun l => l.slotDone k stLinkDown 0
      else
        onLedger s fun l =>
          let l := { l with slots := vmod l.slots k fun x => { x with busy := true, since := now s } }
          let ask := fun req => ({ l with reqs := l.reqs ++ [{ home := home, line := x.line, req := req, slot := some k, blocked := true }] } : Ledger).launch
          if 8 ≤ op then ask (.op (fin 16 op) x.word x.operand x.compare)
          else
            match l.cached home x.line with
            | some c => if op = 0 || c.state = .m then l.perform c k else ask .getM
            | none => ask (if op = 0 then .getS else .getM)

/-- LEDGER_OP_TIMEOUT (R320). -/
def slotTimeout (s : State) (k : Fin 4) : State :=
  let x := s.ledger.slots[k.val]
  let us := atLeast1 (bitsOf s.ledger.cfg 15 0)
  if x.busy && usElapsed s x.since us then
    let s := onLedger s fun l =>
      { (l.count 3).slotDone k stTimeout x.result with
        reqs := (l.reqs.filter fun r => !(r.slot = some k && r.blocked)).map fun r => if r.slot = some k then { r with slot := none } else r }
    raiseBell s (fin 256 (bitsOf s.ledger.cfg 23 16))
  else s

/-! ### A node leaves the group (R322) -/

/-- NODE_GONE_SET written. -/
def goneSet (s : State) (v : Word) : State :=
  onLedger s fun l => if v = 0 then l else { l with nodeGone := l.nodeGone ||| v, goneBusy := true }

/-- One line's directory entry without a node that left: a sharer goes, an owner leaves the line LOST. -/
def goneLine (d : NodeId) (l : Ledger) (line : LineId) : Ledger :=
  let e := l.entry line
  match e.state with
  | .owned o => if o = d then (l.setEntry { e with state := .unowned, lost := true }).count 4 else l
  | .shared _ => l.setEntry { e with state := e.state.without d }
  | .unowned => l

/-- The directory without a node that left. -/
def goneDir (l : Ledger) (d : NodeId) : Ledger := (l.dir.map (·.line)).foldl (goneLine d) l

/-- The cache without lines, entries and operations of a home that left. -/
def goneCache (l : Ledger) (d : NodeId) : Ledger :=
  let dirty := (l.cache.filter fun c => c.home = d && c.state = .m && c.dirty).length
  let l := { l.count 5 dirty with cache := l.cache.filter (·.home ≠ d), evicts := l.evicts.filter (·.home ≠ d) }
  let l := l.reqs.foldl (fun l r =>
    match r.slot with
    | some k => if r.home = d then l.slotDone k stLinkDown 0 else l
    | none => l) l
  { l with reqs := l.reqs.filter (·.home ≠ d) }

/-- One node of NODE_GONE: the four steps. -/
def goneNode (s : State) (d : NodeId) : State :=
  let gone := (s.ledger.waiting.filter (·.node = d)).length
  let s := onLedger s fun l =>
    let l := goneDir l d
    { l with waiting := l.waiting.filter (·.node ≠ d), goneDiscarded := bump l.goneDiscarded gone }
  let mine := s.ledger.txns.filter fun t => t.awaiting.contains d
  let s := mine.foldl (fun s t => snoopAnswer s d t.line false none) s
  onLedger s fun l => (goneCache l d).launch

/-- GONE_DONE. -/
def goneFinish (s : State) : State :=
  if s.ledger.goneBusy then
    onLedger ((nodesOf s.ledger.nodeGone).foldl goneNode s) fun l => { l with goneBusy := false }
  else s

def execGetS (node : NodeId) (line : LineId) (s : State) : Result :=
  liveRows s fun s => fromNode s node 0x8 0 line fun s => homeRequest s line node .getS
def execGetM (node : NodeId) (line : LineId) (s : State) : Result :=
  liveRows s fun s => fromNode s node 0x8 1 line fun s => homeRequest s line node .getM
def execEvictClean (node : NodeId) (line : LineId) (s : State) : Result :=
  liveRows s fun s => fromNode s node 0x8 2 line fun s => evictIn s node line none
def execEvictDirty (node : NodeId) (line : LineId) (data : Vector Word64 8) (s : State) : Result :=
  liveRows s fun s => fromNode s node 0x8 3 line fun s => evictIn s node line (some data)
def execHomeOp (node : NodeId) (line : LineId) (op : Fin 16) (word : Fin 8) (operand compare : Word64) (s : State) : Result :=
  liveRows s fun s => fromNode s node 0x8 4 line fun s => homeRequest s line node (.op op word operand compare)
def execHomeTxnStart (line : LineId) (s : State) : Result := liveRows s fun s => nextTxn s line
def execSnpShare (home : NodeId) (line : LineId) (s : State) : Result :=
  live s fun s => fromNode s home 0x9 0 line fun s => snoopIn s home line false
def execSnpInv (home : NodeId) (line : LineId) (s : State) : Result :=
  live s fun s => fromNode s home 0x9 1 line fun s => snoopIn s home line true
def execSnpAck (node : NodeId) (line : LineId) (crossed : Bool) (s : State) : Result :=
  liveRows s fun s => fromNode s node 0xA 0 line fun s => snoopAnswer s node line crossed none
def execSnpData (node : NodeId) (line : LineId) (crossed : Bool) (data : Vector Word64 8) (s : State) : Result :=
  liveRows s fun s => fromNode s node 0xA 1 line fun s => snoopAnswer s node line crossed (some data)
def execDataS (home : NodeId) (line : LineId) (data : Vector Word64 8) (s : State) : Result :=
  live s fun s => fromNode s home 0xB 0 line fun s => grantIn s home line .s data
def execDataM (home : NodeId) (line : LineId) (data : Vector Word64 8) (s : State) : Result :=
  live s fun s => fromNode s home 0xB 1 line fun s => grantIn s home line .m data
def execEvictAck (home : NodeId) (line : LineId) (s : State) : Result :=
  live s fun s => fromNode s home 0xB 2 line fun s => evictAcked s home line
def execHomeResult (home : NodeId) (line : LineId) (old : Word64) (status : BitVec 8) (s : State) : Result :=
  live s fun s => fromNode s home 0xB 3 line fun s => resultIn s home line old status
def execLedgerOpGo (slot : Fin 4) (v : Word) (s : State) : Result := live s fun s => slotGo s slot v
def execLedgerOpTimeout (slot : Fin 4) (s : State) : Result := liveRows s fun s => slotTimeout s slot
def execNodeGoneSet (v : Word) (s : State) : Result := live s fun s => goneSet s v
def execGoneDone (s : State) : Result := liveRows s goneFinish

end Sys2Proof.Machine
end

