-- ==== Sys2Proof/Machine/Sluice.lean ====
section
/-! DEFINITION. The Sluice: vectors, programming, verify, refresh, temperature compensation and the VPP rail (04, 20 R464). -/

namespace Sys2Proof.Machine

/-- Change the Sluice of a Mill. -/
def onSluice (s : State) (m : MillId) (f : Sluice → Sluice) : State := onMill s m fun x => { x with sluice := f x.sluice }

/-! ### Compute (04 R69-R73) -/

/-- SLUICE_VECTOR: the next input vector of the tile, all 1024 rows and 512 channels. -/
def sluiceVector (s : State) (m : MillId) : State :=
  let x := s.mills[m.val]
  match x.running with
  | none => s
  | some r =>
    match r.cur with
    | none => s
    | some c =>
      let i := c.vecDone[0]
      if !r.onSluice || r.plan.isNone || c.tile.rows ≤ i then s
      else
        let row := c.tile.row0 + i
        let bad := firstBad ((r.vectorReads c.tile row 0 1024).map fun (a, n) => rangeStatus s m a n)
        if bad.1 ≠ .ok then endWith (noteRead s bad) m r (netEnding r bad.1)
        else
          let (mem, off) := srcOf s r c.tile (r.descD 0)
          let vs := r.inputs mem off c.tile row 0 1024
          let bx := r.shape.bx
          let bs := if bx then r.blocks vs else []
          let (e, ms) := if bx then alignBlocks bs else (0, vs.map intOf)
          let xb := if bx then 10 else r.shape.planes
          let xs := ms.map (planesOf xb)
          let res := (List.range 512).map fun n => x.sluice.part s.free xb xs n
          let s := { s with free := s.free + 2 * 512 * xb }
          let s := onSluice s m fun u => { u with adcClip := bump u.adcClip (res.map (·.2)).sum }
          let s := countInputs s m bs
          onRun s m fun r =>
            { r with cur := r.cur.map fun c =>
                { c with vecDone := vmod c.vecDone (0 : Fin 6) fun n => n + 1
                         flight := c.flight ++ [{ vec := i, quern := 0, parts := [(e, res.map (·.1))] }] } }

/-- SLUICE_PARTIALS_OUT: the oldest vector's partial sums are accumulated. -/
def sluiceOut (s : State) (m : MillId) : State :=
  let x := s.mills[m.val]
  match x.running with
  | none => s
  | some r =>
    match r.cur with
    | none => s
    | some c =>
      if !r.onSluice || r.plan.isNone then s
      else match c.flight.find? fun g => g.vec = c.outDone with
        | none => s
        | some g =>
          let ch := r.shape.ch
          let (acc, sats) := accumulate r.shape.bx ch (c.outDone * (c.tile.ns * ch)) g.parts c.acc
          let s := onRegs s m fun y => { y with accSat := bump y.accSat sats }
          onRun s m fun r =>
            { r with
              sat := r.sat + sats
              cur := some { c with outDone := c.outDone + 1, acc := acc, flight := c.flight.filter fun y => y.vec ≠ g.vec } }

/-! ### Fields and wear (04 R74, R76, R82, R83) -/

/-- Fields of a docket's mask, ascending. -/
def maskFields (w : DocketWords) : List (Fin 128) :=
  (List.finRange 128).filter fun f => (opWord w (1 + f.val / 32)).getLsbD (f.val % 32)

/-- A defect entry lies in a field: rows 64 (f mod 16) on, weights 64 (f div 16) on. -/
def inField (f : Fin 128) (row pair : Nat) : Bool := decide (row / 64 = f.val % 16) && decide (pair / 128 = f.val / 16)

/-- Change one field. -/
def Sluice.onField (u : Sluice) (f : Fin 128) (g : SField → SField) : Sluice := { u with fields := vmod u.fields f g }

/-- Add wear to a field; past 100,000 tenths the Sluice is WORN. -/
def Sluice.addWear (u : Sluice) (f : Fin 128) (n : Nat) : Sluice :=
  let u := u.onField f fun y => { y with wear := bump y.wear n }
  { u with worn := u.worn || decide (100000 < ((u.fields[f.val]).wear).toNat) }

/-- Enter cells in the defect table: entries added, and whether one found no free entry. -/
def Sluice.enter (u : Sluice) : List (Fin 1024 × Fin 1024 × BitVec 8) → Sluice × Nat × Bool
  | [] => (u, 0, false)
  | (row, pair, err) :: rest =>
    match (List.finRange 256).find? fun i => !(u.defects[i.val]).valid with
    | none => (u, 0, true)
    | some i =>
      let (u, n, full) :=
        ({ u with defects := vmod u.defects i fun _ => { valid := true, row := row, pair := pair, err := err } }).enter rest
      (u, n + 1, full)

/-- SLU_PROG starts a field: PROGRAMMING, its defect entries cleared, 1.0 cycle of wear (04 R76, R78). -/
def Sluice.startField (u : Sluice) (f : Fin 128) : Sluice :=
  let u := (u.addWear f 10).onField f fun y => { y with state := .programming }
  { u with defects := u.defects.map fun d => if inField f d.row.val d.pair.val then { d with valid := false } else d }

/-- The weights of a field as SLU_PROG read them. -/
def Sluice.loadField (u : Sluice) (f : Fin 128) (w : SMem 8) : Sluice :=
  let keys := (List.range 64).flatMap fun i => (List.range 64).map fun j =>
    512 * (64 * (f.val % 16) + i) + 64 * (f.val / 16) + j
  { u with weights := keys.foldl (fun acc k => sSet acc k (sGet w k)) u.weights }

/-! ### SLU_PROG (04 R76-R79) -/

/-- A Sluice docket ends: DETAIL names the fields left FAILED and the entries added, or the largest count (06 Table 6.6). -/
def endSluice (s : State) (m : MillId) (r : Run) (st : Byte) (sub : Nat) (j : SluJob) : State :=
  let low := if j.op = .verify then j.worst else j.added
  let mid := if j.op = .verify then 0 else stopAt 255 j.failed
  match r.abort with
  | some a => endRun s m r (abortStatus a) 0 mid (stopAt 0xFFFF low)
  | none => endRun s m r st sub mid (stopAt 0xFFFF low)

/-- A job before its first field. -/
def newJob (op : SluOp) (w : DocketWords) : SluJob :=
  { op := op, todo := maskFields w, weights := [], gHi := BitVec.ofNat 3 (bitsOf (opWord w 5) 2 0),
    gLo := BitVec.ofNat 3 (bitsOf (opWord w 5) 6 4), failed := 0, added := 0, worst := 0 }

/-- The INT8 weights of a descriptor: outside the matrix, zero (04 R76, 02 R34, 07 R164). -/
def progWeights (mem : Memory) (d : Desc) : SMem 8 :=
  (List.range (min 1024 d.effRows)).foldl (fun acc k =>
    (List.range (min 512 d.effCols)).foldl (fun acc n =>
      let code := elemCode mem (d.row 0 0 k) d.bits n
      let w : BitVec 8 := if d.fm.isCodebook then BitVec.ofNat 8 (d.mint.getD code 0).toNat else BitVec.ofNat 8 code
      sSet acc (512 * k + n) w) acc) []

/-- The first field of a job's list starts, or the job ends. -/
def progNext (s : State) (m : MillId) (r : Run) (j : SluJob) : State :=
  match j.todo with
  | [] => endSluice s m r stOk 0 j
  | f :: _ => onRun (onSluice s m fun u => u.startField f) m fun r => { r with walked := true, slu := some j }

/-- SLU_PROG of the running docket: the VPP check, the weights, the first field. -/
def sluProg (s : State) (m : MillId) : State :=
  match runOf s m .sluProg with
  | none => s
  | some r =>
    if r.walked then s
    else
      let j := newJob .prog r.msg.docket
      let d := r.descD 0
      let bad := firstBad ((List.range (min 1024 d.effRows)).map fun k => rangeStatus s m (d.row 0 0 k) (rowLen d.bits d.cols))
      if !((s.mills[m.val]).sluice.vppOk) then endSluice s m r stInternal 0x01 j
      else if bad.1 ≠ .ok then endSluice (noteRead s bad) m r (netReceipt bad.1).1 (netReceipt bad.1).2 j
      else progNext s m r { j with weights := progWeights s.mem d }

/-- SLU_FIELD_DONE: the field in programming becomes VALID, or FAILED when the defect table overflows. -/
def fieldDone (s : State) (m : MillId) (o : FieldOutcome) : State :=
  match runOf s m .sluProg with
  | none => s
  | some r =>
    match r.slu with
    | none => s
    | some j =>
      match j.todo with
      | [] => s
      | f :: rest =>
        let u := ((s.mills[m.val]).sluice).loadField f j.weights
        let (u, n, full) := u.enter (o.outOfBand.filter fun x => inField f x.1.val x.2.1.val)
        let u := u.onField f fun y => { y with state := if full then .failed else .valid }
        let u := if full then u else { u with gHi := j.gHi, gLo := j.gLo }
        let j := { j with todo := rest, added := j.added + n, failed := j.failed + (if full then 1 else 0) }
        progNext (onSluice s m fun _ => u) m { r with slu := some j } j

/-! ### SLU_VERIFY and SLU_REFRESH (04 R79, R81, R85) -/

/-- Verify fields in turn. -/
def verifyFields (u : Sluice) (worst : Nat) : List (Fin 128) → List FieldScan → Sluice × Nat × List (Fin 128)
  | f :: fs, x :: xs => verifyFields (u.onField f fun y => { y with oob := x.oob }) (max worst x.oob.toNat) fs xs
  | fs, _ => (u, worst, fs)

/-- SLU_VERIFY: `scans` are the counts that the next masked fields read; the docket ends with the last of them. -/
def sluVerify (s : State) (m : MillId) (scans : List FieldScan) : State :=
  match runOf s m .sluVerify with
  | none => s
  | some r =>
    let j := r.slu.getD (newJob .verify r.msg.docket)
    if r.abort.isSome then endSluice s m r stOk 0 j
    else
      let (u, worst, todo) := verifyFields (s.mills[m.val]).sluice j.worst j.todo scans
      let s := onSluice s m fun _ => u
      let j := { j with todo := todo, worst := worst }
      let r := { r with walked := true, slu := some j }
      if todo.isEmpty then endSluice s m r stOk 0 j else onRun s m fun _ => r

/-- Wear of a refresh that pulsed `n` of a field's 16,384 cells, in tenths (04 R82). -/
def refreshWear (n : Nat) : Nat := ceilDiv (10 * n) 16384

/-- One field refreshed. -/
def Sluice.refreshField (u : Sluice) (f : Fin 128) (x : FieldScan) : Sluice × Nat × Bool :=
  let u := (u.addWear f (refreshWear x.pulsed)).onField f fun y => { y with oob := x.oob }
  let (u, n, full) := u.enter (x.outOfBand.filter fun c => inField f c.1.val c.2.1.val)
  (if full then u.onField f fun y => { y with state := .failed } else u, n, full)

/-- SLU_REFRESH of the next masked field; between fields the docket yields. -/
def sluRefresh (s : State) (m : MillId) (scan : FieldScan) : State :=
  match runOf s m .sluRefresh with
  | none => s
  | some r =>
    let j := r.slu.getD (newJob .refresh r.msg.docket)
    if r.abort.isSome then endSluice s m r stOk 0 j
    else if !((s.mills[m.val]).sluice.vppOk) then endSluice s m r stInternal 0x01 j
    else match j.todo with
      | [] => endSluice s m r stOk 0 j
      | f :: rest =>
        let (u, n, full) := ((s.mills[m.val]).sluice).refreshField f scan
        let s := onSluice s m fun _ => u
        let j := { j with todo := rest, added := j.added + n, failed := j.failed + (if full then 1 else 0) }
        let r := { r with walked := true, slu := some j }
        if rest.isEmpty then endSluice s m r stOk 0 j else onRun s m fun _ => r

/-! ### Temperature compensation (04 R87-R90) -/

/-- TEMP code of a temperature: code - 64 degrees; outside -55 to +150 failed. -/
def tempCode (t : Int) : Byte := if t < -55 || 150 < t then 0xFF else BitVec.ofNat 8 (t + 64).toNat

/-- A sensor has moved 2 degrees from its value at the previous update, failed or recovered. -/
def sensorMoved (a b : Byte) : Bool :=
  if (a = 0xFF) != (b = 0xFF) then true else decide (2 ≤ (a.toNat - b.toNat) + (b.toNat - a.toNat))

/-- SENSOR_POLL. -/
def sensorPoll (s : State) (m : MillId) (t : Vector Int 4) : State :=
  onSluice s m fun u =>
    let codes := t.map tempCode
    { u with
      temp := codes
      moved := u.moved || (codes.toList.zip u.tempAtComp.toList).any fun x => sensorMoved x.1 x.2
      compFault := u.compFault || codes.all (· = 0xFF) }

/-- PERIOD in use, µs; out of range it acts as 1,000. -/
def Sluice.period (u : Sluice) : Nat := let p := bitsOf u.compCtl 19 8; if p < 100 || 1000 < p then 1000 else p

/-- An update is due: the first after reset, after PERIOD, or after a move, at most one in 100 µs. -/
def compDue (s : State) (u : Sluice) : Bool :=
  !u.compDone || elapsed s u.lastComp (1000 * u.period) || (u.moved && elapsed s u.lastComp 100000)

/-- COMP_UPDATE with the residual the fit leaves; with every sensor failed the last trims stay. -/
def compUpdate (s : State) (m : MillId) (resid : BitVec 16) : State :=
  let u := (s.mills[m.val]).sluice
  if !compDue s u then s
  else
    let dead := u.temp.all (· = 0xFF)
    let s := onSluice s m fun u =>
      { u with
        lastComp := now s
        compDone := true
        moved := false
        tempAtComp := u.temp
        compFault := dead
        refResid := if dead then u.refResid else resid }
    if !dead && bitsOf u.compCtl 7 1 < resid.toNat then raiseBell s (fin 256 (bitsOf u.compCtl 31 24)) else s

/-! ### VPP_SLU (20 R461, R464) -/

/-- A pulse phase stops: the field in progress becomes INVALID, and the docket completes with VPP_LOW. -/
def vppLost (s : State) (m : MillId) : State :=
  match (s.mills[m.val]).running with
  | none => s
  | some r =>
    match r.slu with
    | none => s
    | some j =>
      if j.op = .verify then s
      else
        let s := match j.todo with
          | f :: _ => onSluice s m fun u => u.onField f fun y => { y with state := .invalid }
          | [] => s
        endSluice s m r stInternal 0x01 j

/-- VPP_OK of every Sluice. -/
def setVpp (s : State) (ok : Bool) : State :=
  { s with mills := s.mills.map fun x => { x with sluice := { x.sluice with vppOk := ok } } }

/-- The rail rises to `mv` millivolts: beyond 3.80 V its rating is exceeded; VPP_OK sets above 3.10 V. -/
def vppRise (s : State) (mv : Nat) : Result :=
  if 3800 < mv then .fault .ratingExceeded else .next (if 3100 < mv then setVpp s true else s)

/-- The rail falls to `mv` millivolts: VPP_OK clears below 3.00 V. -/
def vppFall (s : State) (mv : Nat) : Result :=
  if 3800 < mv then .fault .ratingExceeded
  else .next (if mv < 3000 then
      (List.finRange 16).foldl (fun s m => if ((s.mills[m.val]).sluice).vppOk then vppLost s m else s) s |> (setVpp · false)
    else s)

/-! ### Meanings -/

def execSluiceVector (m : MillId) (s : State) : Result := liveRows s fun s => sluiceVector s m
def execSluicePartialsOut (m : MillId) (s : State) : Result := live s fun s => sluiceOut s m
def execSluProg (m : MillId) (s : State) : Result := liveRows s fun s => sluProg s m
def execSluFieldDone (m : MillId) (o : FieldOutcome) (s : State) : Result := live s fun s => fieldDone s m o
def execSluVerify (m : MillId) (scans : List FieldScan) (s : State) : Result := live s fun s => sluVerify s m scans
def execSluRefresh (m : MillId) (scan : FieldScan) (s : State) : Result := live s fun s => sluRefresh s m scan
def execSensorPoll (m : MillId) (t : Vector Int 4) (s : State) : Result := live s fun s => sensorPoll s m t
def execCompUpdate (m : MillId) (resid : BitVec 16) (s : State) : Result := liveRows s fun s => compUpdate s m resid
def execVppSluRise (mv : Nat) (s : State) : Result := vppRise s mv
def execVppSluFall (mv : Nat) (s : State) : Result := vppFall s mv

end Sys2Proof.Machine
end

