-- ==== Sys2Proof/Machine/Registers.lean ====
section
/-! DEFINITION. What register reads and writes are built from: the access codes of 00 Table 0.4. -/

namespace Sys2Proof.Machine

/-- What a register read answers: the value, and the state after it. -/
abbrev Read := Word × State

/-- A read of an RC counter: its value; it is left at the increments of the same cycle (00 R8, R9). -/
def rc (c : Word) (incs : Nat) (put : Word → State) : Read := (c, put (satAdd 32 0 incs))

/-- A read without an effect. -/
def ro (s : State) (n : Nat) : Read := (img n, s)

/-- A register after a write of W1C bits: bits of `mask` written 1 are cleared. -/
def w1c (mask old v : Word) : Word := old &&& ~~~(v &&& mask)

/-- VALID of a log register. -/
def logBit : Word := 0x80000000

/-- Counter `k` of a bank of counters that lies at `base`, one in each word. -/
def counterAt (base n off : Nat) : Option (Fin n) :=
  if h : base ≤ off ∧ off % 4 = 0 ∧ (off - base) / 4 < n then some ⟨(off - base) / 4, h.2.2⟩ else none

/-- Element of a register array of `n` entries `step` bytes apart, and the offset inside it. -/
def slotAt (base step n off : Nat) : Option (Fin n × Nat) :=
  if h : base ≤ off ∧ (off - base) / step < n then some (⟨(off - base) / step, h.2⟩, (off - base) % step) else none

end Sys2Proof.Machine
end

