-- ==== Sys2Proof/Machine/CsrControl.lean ====
section
/-! DEFINITION. The register block of the chute controller: chutes and Bells (06 Table 6.8), task windows (05 Table 5.8), ledger
(13 Table 13.6). -/

namespace Sys2Proof.Machine

/-- CH_STAT. -/
def chuteStat (ch : Chute) : Nat :=
  flag (ch.inst.isSome || ch.outstanding ≠ 0) 31 + flag ch.held 30 + flag ch.dbRej 29 + flag ch.cfgRej 28 + flag ch.rcptFail 27
    + ch.credits

/-- Registers of a chute. -/
def chuteRead (s : State) (c : ChuteId) (r incs : Nat) : Read :=
  let ch := s.control.chutes[c.val]
  match r with
  | 0x00 => (ch.cfg, s)
  | 0x04 => (lo32 ch.ring, s)
  | 0x08 => (hi32 ch.ring, s)
  | 0x0C => (lo32 ch.rcpt, s)
  | 0x10 => (hi32 ch.rcpt, s)
  | 0x14 => ro s (at_ ch.head 16 + ch.tail.toNat)
  | 0x18 => ro s (at_ ch.rcptHead 16 + ch.rcptTail.toNat)
  | 0x1C => (ch.period, s)
  | 0x20 => (ch.phaseLo, s)
  | 0x24 => (hi32 ch.phase, s)
  | 0x28 => ro s ch.waitTimeout.toNat
  | 0x2C => ro s (chuteStat ch)
  | 0x30 => rc ch.releases incs fun w => onChute s c fun ch => { ch with releases := w }
  | 0x34 => rc ch.overruns incs fun w => onChute s c fun ch => { ch with overruns := w }
  | _ => ro s 0

/-- Registers of a ledger slot. -/
def slotRead (s : State) (k : Fin 4) (r : Nat) : Read :=
  let x := s.ledger.slots[k.val]
  match r with
  | 0x00 => (lo32 x.addr, s)
  | 0x04 => (hi32 x.addr, s)
  | 0x08 => (lo32 x.operand, s)
  | 0x0C => (hi32 x.operand, s)
  | 0x10 => (lo32 x.compare, s)
  | 0x14 => (hi32 x.compare, s)
  | 0x18 => ro s (flag x.busy 30 + at_ x.status 16 + x.op.toNat)
  | 0x1C => (lo32 x.result, s)
  | 0x20 => (hi32 x.result, s)
  | _ => ro s 0

/-- A pair of words by number, watches or chute words. -/
def pairRead (s : State) (p : Word × Word) (r : Nat) : Read := if r = 0 then (p.1, s) else if r = 4 then (p.2, s) else ro s 0

/-- The ledger's own registers. -/
def ledgerRead (s : State) (off incs : Nat) : Read :=
  let l := s.ledger
  match off with
  | 0xA000 => (l.cfg, s)
  | 0xA004 => ro s (flag l.goneBusy 31 + l.reqs.length * 2 ^ 24 + l.evicts.length * 2 ^ 16 + l.txns.length)
  | 0xA020 => (l.nodeGone, s)
  | 0xA024 => (l.nodeGone, s)
  | 0xA028 => rc l.goneDiscarded incs fun w => onLedger s fun l => { l with goneDiscarded := w }
  | _ =>
    match counterAt 0xA008 6 off, slotAt 0xA100 0x40 4 off, slotAt 0xA400 8 8 off, slotAt 0xA800 8 128 off with
    | some k, _, _, _ => rc l.counters[k.val] incs fun w => onLedger s fun l => { l with counters := vmod l.counters k fun _ => w }
    | _, some (k, r), _, _ => slotRead s k r
    | _, _, some (k, r), _ => pairRead s l.watches[k.val] r
    | _, _, _, some (k, r) => pairRead s l.chuteWords[k.val] r
    | none, none, none, none => ro s 0

/-- Registers of a task context. -/
def contextRead (s : State) (t : Fin 64) (r : Nat) : Read :=
  let x := s.control.ctx[t.val]
  match r with
  | 0x0 => ro s x.granBase.toNat
  | 0x4 => ro s x.granBound.toNat
  | 0x8 => (x.hop, s)
  | _ => ro s 0

/-- Controller registers that belong to no chute. -/
def controlRegRead (s : State) (off incs : Nat) : Read :=
  let k := s.control
  match off with
  | 0x4000 => ro s k.urgentMills.toNat
  | 0x4004 => rc k.bellLost incs fun w => onControl s fun k => { k with bellLost := w }
  | _ =>
    match counterAt 0x4100 16 off, counterAt 0x4200 16 off, counterAt 0x6000 8 off, counterAt 0x6020 8 off with
    | some m, _, _, _ => ro s (k.scoreboard[m.val]).length
    | _, some m, _, _ => ro s (k.millTenant[m.val]).val
    | _, _, some g, _ => ro s (bitsOf k.bells (32 * g.val + 31) (32 * g.val))
    | _, _, _, some g => ro s (bitsOf k.bells (32 * g.val + 31) (32 * g.val))
    | none, none, none, none =>
      match slotAt 0x8000 0x10 64 off, counterAt 0x8400 64 off with
      | some (t, r), _ => contextRead s t r
      | _, some t => let x := k.ctx[t.val]; ro s (flag x.valid 31 + x.tenant.val)
      | none, none => ro s 0

/-- A read in the controller's block. -/
def controlRead (s : State) (off incs : Nat) : Read :=
  if 0xA000 ≤ off then ledgerRead s off incs
  else match slotAt 0 0x40 128 off with
    | some (c, r) => chuteRead s c r incs
    | none => controlRegRead s off incs

/-- Ring addresses are 4 KiB aligned. -/
def ringLo (v : Word) : Word := v &&& 0xFFFFF000

/-- A write to a register of a chute. -/
def chuteWrite (s : State) (c : ChuteId) (r : Nat) (v : Word) : State :=
  match r with
  | 0x00 => chCfgWrite s c v
  | 0x04 => onChute s c fun ch => { ch with ring := withLo ch.ring (ringLo v) }
  | 0x08 => onChute s c fun ch => { ch with ring := withHi ch.ring v }
  | 0x0C => onChute s c fun ch => { ch with rcpt := withLo ch.rcpt (ringLo v) }
  | 0x10 => onChute s c fun ch => { ch with rcpt := withHi ch.rcpt v }
  | 0x1C => periodWrite s c v
  | 0x20 => onChute s c fun ch => { ch with phaseLo := v }
  | 0x24 => phaseHi s c v
  | 0x28 => onChute s c fun ch => { ch with waitTimeout := BitVec.ofNat 24 v.toNat }
  | 0x2C => onChute s c fun ch =>
    { ch with dbRej := ch.dbRej && !bitOf v 29, cfgRej := ch.cfgRej && !bitOf v 28, rcptFail := ch.rcptFail && !bitOf v 27 }
  | 0x38 => dbTailWrite s c (BitVec.ofNat 16 v.toNat)
  | 0x3C => dbRcptWrite s c (BitVec.ofNat 16 v.toNat)
  | _ => s

/-- A write to a register of a ledger slot. -/
def slotWrite (s : State) (k : Fin 4) (r : Nat) (v : Word) : State :=
  let put := fun (f : LedgerSlot → LedgerSlot) => onLedger s fun l => { l with slots := vmod l.slots k f }
  match r with
  | 0x00 => put fun x => { x with addr := withLo x.addr v }
  | 0x04 => put fun x => { x with addr := withHi x.addr v }
  | 0x08 => put fun x => { x with operand := withLo x.operand v }
  | 0x0C => put fun x => { x with operand := withHi x.operand v }
  | 0x10 => put fun x => { x with compare := withLo x.compare v }
  | 0x14 => put fun x => { x with compare := withHi x.compare v }
  | 0x18 => slotGo s k v
  | _ => s

/-- A write to the ledger's own registers. -/
def ledgerWrite (s : State) (off : Nat) (v : Word) : State :=
  match off with
  | 0xA000 => onLedger s fun l => { l with cfg := v &&& 0x00FFFFFF }
  | 0xA020 => goneSet s v
  | 0xA024 => onLedger s fun l => { l with nodeGone := l.nodeGone &&& ~~~v }
  | _ =>
    match slotAt 0xA100 0x40 4 off, slotAt 0xA400 8 8 off, slotAt 0xA800 8 128 off with
    | some (k, r), _, _ => slotWrite s k r v
    | _, some (k, r), _ => onLedger s fun l =>
      { l with watches := vmod l.watches k fun p =>
          if r = 0 then (v &&& 0x1FFFF, p.2) else if r = 4 then (p.1, v &&& 0x800000FF) else p }
    | _, _, some (k, r) => onLedger s fun l =>
      { l with chuteWords := vmod l.chuteWords k fun p =>
          if r = 0 then (v &&& 0x8001FFFF, p.2) else if r = 4 then (p.1, v &&& 0x8001FFFF) else p }
    | none, none, none => s

/-- A write to a register of a task context. -/
def contextWrite (s : State) (t : Fin 64) (r : Nat) (v : Word) : State :=
  let put := fun (f : Context → Context) => onControl s fun k => { k with ctx := vmod k.ctx t f }
  match r with
  | 0x0 => put fun x => { x with granBase := BitVec.ofNat 20 v.toNat }
  | 0x4 => put fun x => { x with granBound := BitVec.ofNat 20 v.toNat }
  | 0x8 => put fun x => { x with hop := v }
  | _ => s

/-- A write to controller registers that belong to no chute. -/
def controlRegWrite (s : State) (off : Nat) (v : Word) : State :=
  if off = 0x4000 then urgentWrite s v
  else match counterAt 0x6000 8 off, counterAt 0x6020 8 off, slotAt 0x8000 0x10 64 off, counterAt 0x8400 64 off with
    | some g, _, _, _ => raiseBells s (groupBells g.val v)
    | _, some g, _, _ => clearBells s (groupBells g.val v)
    | _, _, some (t, r), _ => contextWrite s t r v
    | _, _, _, some t => onControl s fun k =>
      { k with ctx := vmod k.ctx t fun x => { x with valid := bitOf v 31, tenant := fin 8 (bitsOf v 2 0) } }
    | none, none, none, none => s

/-- A write in the controller's block. -/
def controlWrite (s : State) (off : Nat) (v : Word) : State :=
  if 0xA000 ≤ off then ledgerWrite s off v
  else match slotAt 0 0x40 128 off with
    | some (c, r) => chuteWrite s c r v
    | none => controlRegWrite s off v

end Sys2Proof.Machine
end

