-- ==== Sys2Proof/Machine/CsrMill.lean ====
section
/-! DEFINITION. The register block of a Mill: formats (02 Table 2.5), Querns (03 Table 3.5), Sluice and Tally (04 Tables 4.5, 4.6),
memory (05 Table 5.7), sequencer (07 Table 7.5) and boundary (19 Table 19.8). -/

namespace Sys2Proof.Machine

/-- Codes of the bank states (03 R51). -/
def BankState.code : BankState → Nat
  | .empty => 0
  | .filling => 1
  | .full => 2
  | .repair => 3

/-- No logical Quern maps to a physical one (03 Table 3.5). -/
def isSpare (x : Mill) (p : QuernId) : Bool := !((List.finRange 6).any fun l => physOf x l = p)

/-- QSTAT. -/
def quernStat (x : Mill) (p : QuernId) : Nat :=
  let q := x.querns[p.val]
  flag (isSpare x p) 9 + at_ q.b.wfmt 7 + at_ q.a.wfmt 5 + q.b.state.code * 8 + q.a.state.code * 2 + flag q.active

/-- Registers of a physical Quern. -/
def quernRead (s : State) (m : MillId) (p : QuernId) (r incs : Nat) : Read :=
  let x := s.mills[m.val]
  let q := x.querns[p.val]
  let put := fun (f : Quern → Quern) => onMill s m fun x => { x with querns := vmod x.querns p f }
  match r with
  | 0x00 => ro s (quernStat x p)
  | 0x04 => (lo32 q.a.gold, s)
  | 0x08 => ro s (flag q.a.gvalid 31 + (hi32 q.a.gold).toNat)
  | 0x0C => (lo32 q.b.gold, s)
  | 0x10 => ro s (flag q.b.gvalid 31 + (hi32 q.b.gold).toNat)
  | 0x14 => (q.a.goldMint, s)
  | 0x18 => (q.parLog, s)
  | 0x1C => rc q.parCount incs fun w => put fun q => { q with parCount := w }
  | 0x20 => (lo32 q.expose, s)
  | 0x24 => (hi32 q.expose, s)
  | 0x28 => rc q.swapStall incs fun w => put fun q => { q with swapStall := w }
  | 0x2C => (q.b.goldMint, s)
  | _ => ro s 0

/-- Codes of the field states (04 Table 4.2). -/
def FieldState.code : FieldState → Nat
  | .valid => 0
  | .programming => 1
  | .invalid => 2
  | .failed => 3

/-- Codes of SLU_STAT.OP. -/
def SluOp.code : SluOp → Nat
  | .prog => 1
  | .verify => 2
  | .refresh => 3

/-- SLU_STAT. -/
def sluStat (x : Mill) : Nat :=
  let u := x.sluice
  let op := x.running.bind (·.slu)
  flag op.isSome 31 + ((op.map fun j => j.op.code).getD 0) * 2 ^ 29 + flag u.worn 28 + flag u.compFault 27 + flag u.vppOk 26
    + (u.fields.toList.filter fun f => f.state = .invalid || f.state = .failed).length * 2 ^ 16
    + (u.defects.toList.filter (·.valid)).length

/-- WEAR_MAX. -/
def wearMax (u : Sluice) : Nat := u.fields.toList.foldl (fun n f => max n f.wear.toNat) 0

/-- Sluice registers. -/
def sluiceRead (s : State) (m : MillId) (off incs : Nat) : Read :=
  let x := s.mills[m.val]
  let u := x.sluice
  match off with
  | 0x0800 => ro s (sluStat x)
  | 0x0804 => ro s (at_ u.gLo 4 + u.gHi.toNat)
  | 0x0808 => (u.compCtl, s)
  | 0x080C => ro s (at_ u.temp[3] 24 + at_ u.temp[2] 16 + at_ u.temp[1] 8 + (u.temp[0]).toNat)
  | 0x0810 => ro s u.refResid.toNat
  | 0x0814 => rc u.adcClip incs fun w => onMill s m fun x => { x with sluice := { x.sluice with adcClip := w } }
  | 0x0818 => (lo32 u.lastComp, s)
  | 0x081C => (hi32 u.lastComp, s)
  | 0x0820 => ro s (wearMax u)
  | 0x0824 => ro s u.fieldSel.val
  | 0x0828 => ro s ((u.fields[u.fieldSel.val]).state.code * 2 ^ 30 + (u.fields[u.fieldSel.val]).oob.toNat)
  | 0x082C => ((u.fields[u.fieldSel.val]).wear, s)
  | 0x0830 => ro s u.defectSel.val
  | 0x0834 =>
    let d := u.defects[u.defectSel.val]
    ro s (d.row.val * 2 ^ 22 + d.pair.val * 2 ^ 11 + flag d.valid 8 + d.err.toNat)
  | _ => ro s 0

/-- Registers of a histogram. -/
def histRead (s : State) (m : MillId) (h : Fin 4) (r : Nat) : Read :=
  let y := (s.mills[m.val]).hists[h.val]
  match r with
  | 0x000 => ro s (flag y.mode 1 + flag y.en)
  | 0x004 => (y.lo, s)
  | 0x008 => (y.width, s)
  | 0x00C => (y.count, s)
  | 0x010 => (y.min, s)
  | 0x014 => (y.max, s)
  | 0x018 => (lo32 y.sum, s)
  | 0x01C => (hi32 y.sum, s)
  | 0x020 => (lo32 y.sumsq, s)
  | 0x024 => (hi32 y.sumsq, s)
  | 0x140 => (y.under, s)
  | 0x144 => (y.overs, s)
  | _ =>
    match counterAt 0x040 64 r with
    | some i => (y.bins[i.val], s)
    | none => ro s 0

/-- Registers of a signature band. -/
def bandRead (s : State) (m : MillId) (b : Fin 8) (r incs : Nat) : Read :=
  let y := (s.mills[m.val]).bands[b.val]
  match r with
  | 0x00 => (y.cfg, s)
  | 0x04 => (y.window, s)
  | 0x08 => (y.fracMin, s)
  | 0x0C => (y.fracMax, s)
  | 0x10 => rc y.viol incs fun w => onMill s m fun x => { x with bands := vmod x.bands b fun y => { y with viol := w } }
  | 0x14 => (y.lastFrac, s)
  | _ => ro s 0

/-- SEQ_STAT. -/
def seqStat (x : Mill) : Nat :=
  flag x.running.isSome 31 + x.preempted.length * 2 ^ 24 + ((x.running.map fun r => (wTag r.msg.docket).toNat).getD 0)

/-- Memory, sequencer, format and boundary registers. -/
def millRegRead (s : State) (m : MillId) (off incs : Nat) : Read :=
  let x := s.mills[m.val]
  let g := x.regs
  let reg := fun (c : Word) (f : Word → MillRegs → MillRegs) => rc c incs fun w => onRegs s m (f w)
  let mb := fun (c : Word) (f : Word → Millblock → Millblock) => rc c incs fun w => onMill s m fun x => { x with mb := f w x.mb }
  match off with
  | 0x0600 => ro s (flag g.remapRej 31 + flag g.remapBusy 30 + g.qmap.toNat)
  | 0x0604 => (g.scrubCtl, s)
  | 0x0A00 => ro s (flag g.hopClearing 1 + flag g.hopPowered)
  | 0x0A04 => reg g.hopCe fun w g => { g with hopCe := w }
  | 0x0A08 => reg g.hopUe fun w g => { g with hopUe := w }
  | 0x0A0C => reg g.purseCe fun w g => { g with purseCe := w }
  | 0x0A10 => reg g.purseUe fun w g => { g with purseUe := w }
  | 0x0A14 => (g.memErrLog, s)
  | 0x0A18 => reg g.portRd fun w g => { g with portRd := w }
  | 0x0A1C => reg g.portWr fun w g => { g with portWr := w }
  | 0x0C00 => ro s g.tileCap.toNat
  | 0x0C04 => ro s (seqStat x)
  | 0x0C08 => reg g.tilesIssued fun w g => { g with tilesIssued := w }
  | 0x0C0C => reg g.stageWait fun w g => { g with stageWait := w }
  | 0x0C10 => (g.ovfLog, s)
  | 0x0C14 => (g.ovfBh, s)
  | 0x0C18 => (g.ovfM, s)
  | 0x0C1C => (g.ovfN, s)
  | 0x0C20 => (g.ovfK, s)
  | 0x0C24 => (g.tbound, s)
  | 0x0E00 => reg g.nanIn fun w g => { g with nanIn := w }
  | 0x0E04 => reg g.infIn fun w g => { g with infIn := w }
  | 0x0E08 => reg g.satOut fun w g => { g with satOut := w }
  | 0x0E0C => reg g.accSat fun w g => { g with accSat := w }
  | 0x0E10 => reg g.nanOut fun w g => { g with nanOut := w }
  | 0x0E14 => (g.fmtFault, s)
  | 0x0E18 => (g.fmtFaultInfo, s)
  | 0x2000 => (0x4D424101, s)
  | 0x2004 => ro s x.mb.ctrlNi.toNat
  | 0x2008 => (x.mb.rowportWin, s)
  | 0x2010 => mb x.mb.rtCe fun w b => { b with rtCe := w }
  | 0x2014 => mb x.mb.rtUe fun w b => { b with rtUe := w }
  | 0x2018 => mb x.mb.protoErr fun w b => { b with protoErr := w }
  | 0x201C => mb x.mb.grPar fun w b => { b with grPar := w }
  | _ => ro s 0

/-- A read in the block of a Mill. -/
def millRead (s : State) (m : MillId) (off incs : Nat) : Read :=
  if 0x0800 ≤ off ∧ off < 0x0A00 then sluiceRead s m off incs
  else match slotAt 0x0400 0x40 7 off, slotAt 0x1000 0x200 4 off, slotAt 0x1800 0x20 8 off with
    | some (p, r), _, _ => quernRead s m p r incs
    | _, some (h, r), _ => histRead s m h r
    | _, _, some (b, r) => bandRead s m b r incs
    | none, none, none => millRegRead s m off incs

/-- A write to a register of a histogram. -/
def histWrite (s : State) (m : MillId) (h : Fin 4) (r : Nat) (v : Word) : State :=
  let put := fun (f : Hist → Hist) => onMill s m fun x => { x with hists := vmod x.hists h f }
  match r with
  | 0x000 => histCfg s m h v []
  | 0x004 => put fun y => { y with lo := v }
  | 0x008 => put fun y => { y with width := v }
  | _ => s

/-- A write to a register of a signature band. -/
def bandWrite (s : State) (m : MillId) (b : Fin 8) (r : Nat) (v : Word) : State :=
  let put := fun (f : SigBand → SigBand) => onMill s m fun x => { x with bands := vmod x.bands b f }
  match r with
  | 0x00 => put fun y => { y with cfg := v &&& 0xBFFF00FF }
  | 0x04 => put fun y => { y with window := v }
  | 0x08 => put fun y => { y with fracMin := v }
  | 0x0C => put fun y => { y with fracMax := v }
  | _ => s

/-- A write to the other registers of a Mill. -/
def millRegWrite (s : State) (m : MillId) (off : Nat) (v : Word) : State :=
  let slu := fun (f : Sluice → Sluice) => onMill s m fun x => { x with sluice := f x.sluice }
  match off with
  | 0x0600 => qmapWrite s m v
  | 0x0604 => onRegs s m fun g => { g with scrubCtl := v &&& 0xFFFFFF03 }
  | 0x0808 => slu fun u => { u with compCtl := v &&& 0xFF0FFFFE }
  | 0x0824 => slu fun u => { u with fieldSel := fin 128 v.toNat }
  | 0x0830 => slu fun u => { u with defectSel := fin 256 v.toNat }
  | 0x0A14 => onRegs s m fun g => { g with memErrLog := w1c logBit g.memErrLog v }
  | 0x0C00 => onRegs s m fun g => { g with tileCap := BitVec.ofNat 13 v.toNat }
  | 0x0C10 => onRegs s m fun g => { g with ovfLog := w1c logBit g.ovfLog v }
  | 0x0E14 => onRegs s m fun g => { g with fmtFault := w1c logBit g.fmtFault v }
  | 0x2004 => onMill s m fun x => { x with mb := { x.mb with ctrlNi := BitVec.ofNat 6 v.toNat } }
  | 0x2008 => onMill s m fun x => { x with mb := { x.mb with rowportWin := v &&& 0x07FF07FF } }
  | 0x200C => if bitOf v 0 then clearMill s m else s
  | _ => s

/-- A write in the block of a Mill. -/
def millWriteReg (s : State) (m : MillId) (off : Nat) (v : Word) : State :=
  match slotAt 0x0400 0x40 7 off, slotAt 0x1000 0x200 4 off, slotAt 0x1800 0x20 8 off with
  | some (p, r), _, _ =>
    if r = 0x18 then onMill s m fun x => { x with querns := vmod x.querns p fun q => { q with parLog := w1c logBit q.parLog v } }
    else s
  | _, some (h, r), _ => histWrite s m h r v
  | _, _, some (b, r) => bandWrite s m b r v
  | none, none, none => millRegWrite s m off v

end Sys2Proof.Machine
end

