-- ==== Sys2Proof/Machine/CsrSpindle.lean ====
section
/-! DEFINITION. The Spindle register block: identification (00 Table 0.2), clocks, reset and boot (18 Table 18.7), Granary (05 Table
5.6), service (17 Table 17.7), routers, tree and network interfaces (11 Tables 11.9, 11.10). -/

namespace Sys2Proof.Machine

/-- VID in force: the requested code within the fused limits (18 Table 18.7). -/
def vidInForce (s : State) : Nat :=
  clampNat s.assay.fuses.vidMin.toNat s.assay.fuses.vidMax.toNat s.service.vid.toNat

/-- POWERED of a unit. -/
def unitPowered (s : State) (u : Nat) : Bool := ((unitRec s u).map (·.powered)).getD false

/-- PDOM_STAT: Mills, Weirs, Flume ports, Vault, Clapper, field networks, VPP_SLU. -/
def pdomStat (s : State) : Nat :=
  let units := (List.range 16) ++ [20, 21] ++ [22, 23, 24, 25, 26, 27] ++ [28, 29, 30]
  (units.zipIdx.foldl (fun n p => n + flag (unitPowered s p.1) p.2) 0) + flag (s.mills.any fun x => x.sluice.vppOk) 27

/-- Clock, reset and boot registers. -/
def clockRead (s : State) (off incs : Nat) : Read :=
  let x := s.service
  match off with
  | 0x1000 => ro s (flag x.locked 31)
  | 0x1008 => ro s x.rstCause.toNat
  | 0x100C => ro s (at_ s.assay.fuses.vidMax 24 + at_ s.assay.fuses.vidMin 16 + x.vid.toNat)
  | 0x1010 => ro s (at_ (BitVec.ofInt 8 x.tempMax) 24 + x.thermBell.val * 65536 + at_ x.tripC 8 + x.warnC.toNat)
  | 0x1014 => rc x.perstCount incs fun w => onService s fun x => { x with perstCount := w }
  | 0x1018 => ro s (pdomStat s)
  | 0x101C => ro s (x.bootBell.val * 2 ^ 24 + x.bootPhase.toNat)
  | _ =>
    match counterAt 0x1020 11 off with
    | some k => (x.bootT[k.val], s)
    | none => ro s 0

/-- A write to a clock, reset or boot register. -/
def clockWrite (s : State) (off : Nat) (v : Word) : State :=
  match off with
  | 0x1004 => softReset s v
  | 0x1008 => onService s fun x => { x with rstCause := x.rstCause &&& ~~~(BitVec.ofNat 5 v.toNat) }
  | 0x100C => onService s fun x => { x with vid := BitVec.ofNat 5 v.toNat }
  | 0x1010 => onService s fun x =>
    { x with thermBell := fin 256 (bitsOf v 23 16), tripC := BitVec.ofNat 8 (bitsOf v 15 8), warnC := BitVec.ofNat 8 v.toNat }
  | 0x101C => onService s fun x => { x with bootBell := fin 256 (bitsOf v 31 24) }
  | _ => s

/-- SPARE_q and PLOT_CFG. -/
def spareImg (x : Spare) : Nat := flag x.used 31 + flag x.migrating 30 + flag x.rej 29 + x.progress * 65536 + x.lbank.val
def plotImg (x : Plot) : Nat := flag x.clearing 31 + x.owner.val * 16 + flag x.cls

/-- Granary registers. -/
def granRead (s : State) (off incs : Nat) : Read :=
  let g := s.granary
  match off with
  | 0x4000 => ro s (flag g.modeRej 31 + flag g.busy 30 + flag g.flat)
  | 0x4004 => (g.scrubCfg, s)
  | 0x4008 => (g.errBell, s)
  | 0x400C => rc g.ceCount incs fun w => onGran s fun g => { g with ceCount := w }
  | 0x4010 => rc g.ueCount incs fun w => onGran s fun g => { g with ueCount := w }
  | 0x4014 => (g.errLog, s)
  | 0x4018 => (lo32 g.errTime, s)
  | 0x401C => (hi32 g.errTime, s)
  | _ =>
    match counterAt 0x4020 4 off, counterAt 0x4100 96 off with
    | some q, _ => ro s (spareImg g.spares[q.val])
    | _, some p => ro s (plotImg g.plots[p.val])
    | none, none => ro s 0

/-- A write to a Granary register. -/
def granWrite (s : State) (off : Nat) (v : Word) : State :=
  match off with
  | 0x4000 => granMode s v
  | 0x4004 => onGran s fun g => { g with scrubCfg := v &&& 0x8000FFFF }
  | 0x4008 => onGran s fun g => { g with errBell := v &&& 0x800000FF }
  | 0x4014 => onGran s fun g => { g with errLog := w1c logBit g.errLog v }
  | _ =>
    match counterAt 0x4020 4 off, counterAt 0x4100 96 off with
    | some q, _ => spareWrite s q v
    | _, some p => plotCfg s p v
    | none, none => s

/-- UNIT_MGMT. -/
def mgmtImg (r : UnitRec) : Nat := flag r.powered 30 + at_ r.cause 16 + at_ r.epoch 8 + at_ r.step 4 + r.state.code

/-- Service registers. -/
def serviceRead (s : State) (off incs : Nat) : Read :=
  let x := s.service
  match off with
  | 0x5000 => ro s (flag x.auditEn 31 + x.skewBell.val)
  | 0x5004 => ro s x.drainTimeout.toNat
  | 0x5008 => rc x.stateSkew incs fun w => onService s fun x => { x with stateSkew := w }
  | 0x500C => (x.skewLog, s)
  | 0x5010 => ro s (flag x.millerB 31 + flag x.standbyReady 30 + flag x.failover 29 + x.millerBell.val)
  | 0x5014 => rc x.handovers incs fun w => onService s fun x => { x with handovers := w }
  | 0x5018 => (x.lastPause, s)
  | _ =>
    match counterAt 0x5100 43 off with
    | some u => ro s (mgmtImg x.units[u.val])
    | none => ro s 0

/-- A write to a service register; UNIT_MGMT takes none from the PCIe master (17 R401). -/
def serviceWrite (s : State) (master : TreeMaster) (off : Nat) (v : Word) : State :=
  match off with
  | 0x5000 => onService s fun x => { x with auditEn := bitOf v 31, skewBell := fin 256 (bitsOf v 7 0) }
  | 0x5004 => onService s fun x => { x with drainTimeout := BitVec.ofNat 20 v.toNat }
  | 0x500C => onService s fun x => { x with skewLog := w1c logBit x.skewLog v }
  | 0x5010 => onService s fun x => { x with failover := x.failover && !bitOf v 29, millerBell := fin 256 (bitsOf v 7 0) }
  | _ =>
    match counterAt 0x5100 43 off with
    | some u => mgmtWrite s master u.val v
    | none => s

/-- Router and tree registers. -/
def treeRegRead (s : State) (off incs : Nat) : Read :=
  let n := s.net
  match off with
  | 0x6100 => ro s (flag n.treeLog 31 + at_ n.treeMaster 29 + flag n.treeWrite 28 + n.treeTimeoutUs.toNat)
  | 0x6104 => (n.treeErrAddr, s)
  | 0x6108 => rc n.treeTimeouts incs fun w => onNet s fun n => { n with treeTimeouts := w }
  | 0x610C => rc n.treeLate incs fun w => onNet s fun n => { n with treeLate := w }
  | 0x6110 => rc n.treeDecodeErr incs fun w => onNet s fun n => { n with treeDecodeErr := w }
  | _ =>
    match slotAt 0x6000 0x40 4 off with
    | some (q, r) =>
      let x := n.routers[q.val]
      let put := fun (f : Router → Router) => onNet s fun n => { n with routers := vmod n.routers q f }
      if r = 0 then rc x.ce incs fun w => put fun x => { x with ce := w }
      else if r = 4 then rc x.ue incs fun w => put fun x => { x with ue := w }
      else if r = 8 then rc x.misroute incs fun w => put fun x => { x with misroute := w }
      else ro s 0
    | none => ro s 0

/-- NI_CTL. -/
def niCtlImg (x : Ni) : Nat := flag x.admits 31 + flag x.routeRej 28 + at_ x.epoch 16 + x.out.length

/-- Registers of a network interface. -/
def niRead (s : State) (n : NiId) (r incs : Nat) : Read :=
  let x := s.net.nis[n.val]
  match r with
  | 0x000 => ro s (niCtlImg x)
  | 0x004 => ro s x.timeoutUs.toNat
  | 0x008 => rc x.timeouts incs fun w => onNi s n fun x => { x with timeouts := w }
  | 0x00C => rc x.lateResp incs fun w => onNi s n fun x => { x with lateResp := w }
  | 0x010 => rc x.staleEpoch incs fun w => onNi s n fun x => { x with staleEpoch := w }
  | 0x014 => rc x.offlineSent incs fun w => onNi s n fun x => { x with offlineSent := w }
  | 0x018 => (x.errLog, s)
  | 0x01C => rc x.e2eUe incs fun w => onNi s n fun x => { x with e2eUe := w }
  | _ =>
    match counterAt 0x040 16 r, counterAt 0x100 64 r with
    | some k, _ =>
      ro s ((x.epv.toList.drop (4 * k.val)).take 4 |>.zipIdx.foldl (fun n p => n + p.1.toNat * 2 ^ (8 * p.2)) 0)
    | _, some d => (x.routes[d.val], s)
    | none, none => ro s 0

/-- A write to a register of a network interface. -/
def niWrite (s : State) (n : NiId) (r : Nat) (v : Word) : State :=
  match r with
  | 0x000 => niCtl s n v
  | 0x004 => onNi s n fun x => { x with timeoutUs := BitVec.ofNat 20 v.toNat }
  | 0x018 => onNi s n fun x => { x with errLog := w1c logBit x.errLog v }
  | _ =>
    match counterAt 0x100 64 r with
    | some d => routeWrite s n d v
    | none => s

/-- A read in the Spindle block. -/
def spindleRead (s : State) (off incs : Nat) : Read :=
  if off = 0 then (0x4D481640, s)
  else if off = 4 then (0x00004101, s)
  else if off < 0x4000 then clockRead s off incs
  else if off < 0x5000 then granRead s off incs
  else if off < 0x6000 then serviceRead s off incs
  else match slotAt 0x8000 0x200 64 off with
    | some (n, r) => niRead s n r incs
    | none => treeRegRead s off incs

/-- A write in the Spindle block. -/
def spindleWrite (s : State) (master : TreeMaster) (off : Nat) (v : Word) : State :=
  if off < 0x4000 then clockWrite s off v
  else if off < 0x5000 then granWrite s off v
  else if off < 0x6000 then serviceWrite s master off v
  else match slotAt 0x8000 0x200 64 off with
    | some (n, r) => niWrite s n r v
    | none =>
      if off = 0x6100 then onNet s fun n => { n with treeLog := n.treeLog && !bitOf v 31, treeTimeoutUs := BitVec.ofNat 24 v.toNat }
      else s

end Sys2Proof.Machine
end

