-- ==== Sys2Proof/Machine/CsrUnits.lean ====
section
/-! DEFINITION. The register blocks of the Weirs (08 Table 8.8), the Gauge (09 Table 9.4), the Spigot and the field networks (10
Tables 10.6, 10.7), the Flume ports (12 Tables 12.7, 12.8), the Vault (14 Table 14.6), the Clapper (15 Table 15.4), Assay and
Lifecycle (16 Tables 16.10, 16.11). -/

namespace Sys2Proof.Machine

/-! ### Weirs -/

/-- WEIR_STAT: a WEIR_BIND is a docket too. -/
def weirStat (x : Weir) : Nat :=
  flag x.busy 31 + flag x.binding.isSome 30 + flag x.bound 29 + flag x.activePair 28 + x.mat.mode * 2 ^ 26 + x.mat.n

def weirRegRead (s : State) (w : WeirId) (off incs : Nat) : Read :=
  let x := s.weirs[w.val]
  match off with
  | 0x00 => (x.cfg, s)
  | 0x04 => (x.resTarget, s)
  | 0x08 => ro s (weirStat x)
  | 0x0C => ro s (x.held.length * 65536 + x.pending.length)
  | 0x10 => (x.lastRes, s)
  | 0x14 => (x.lastSeq, s)
  | 0x18 => (x.solves, s)
  | 0x1C => rc x.refused incs fun v => onWeir s w fun x => { x with refused := v }
  | 0x20 => rc x.nonfinite incs fun v => onWeir s w fun x => { x with nonfinite := v }
  | 0x24 => rc x.solveLate incs fun v => onWeir s w fun x => { x with solveLate := v }
  | 0x28 => rc x.nanIn incs fun v => onWeir s w fun x => { x with nanIn := v }
  | _ => ro s 0

def weirRegWrite (s : State) (w : WeirId) (off : Nat) (v : Word) : State :=
  match off with
  | 0x00 => weirCfg s w v
  | 0x04 => onWeir s w fun x => { x with resTarget := v }
  | _ => s

/-! ### Gauge -/

/-- TIME_CTL. -/
def timeCtl (g : Gauge) : Nat := flag g.isLocked 31 + flag g.holdover 30 + flag g.loadRej 29 + (g.ctl &&& 0x103FFF0F).toNat

/-- Registers of a camera port. -/
def camRead (s : State) (c : CamId) (r incs : Nat) : Read :=
  let p := s.gauge.ports[c.val]
  match r with
  | 0x00 => ro s (flag p.ring.isSome 31 + (p.cfg &&& 0x00033FF3).toNat)
  | 0x04 => (p.laneMap, s)
  | 0x08 => (p.cropX, s)
  | 0x0C => (p.cropY, s)
  | 0x10 => (p.lineOffset, s)
  | 0x14 => (p.bells, s)
  | 0x1C => (p.bandSeq, s)
  | 0x20 => ro s (((p.ring.map fun k => k.batches - p.heldSlots).getD 0) * 65536 + p.nextSlot)
  | _ =>
    match counterAt 0x24 8 r with
    | some k => rc p.counters[k.val] incs fun v => onCam s c fun p => { p with counters := vmod p.counters k fun _ => v }
    | none => ro s 0

/-- Registers of an IMU: slot `k` at 0x10 + 0x10 k. -/
def imuRead (s : State) (i : Fin 2) (r : Nat) : Read :=
  let x := s.gauge.imus[i.val]
  if r = 0 then (x.cfg, s)
  else match slotAt 0x10 0x10 2 r with
    | some (k, 0) => ((x.slots[k.val]).cfg, s)
    | some (k, 4) => ((x.slots[k.val]).fieldOff, s)
    | some (k, 8) => ((x.slots[k.val]).scale, s)
    | _ => ro s 0

/-- Registers of an encoder. -/
def encRead (s : State) (e : Fin 8) (r incs : Nat) : Read :=
  let x := s.gauge.encs[e.val]
  match r with
  | 0 => (x.cfg, s)
  | 4 => (x.count, s)
  | 8 => rc x.err incs fun v => onGauge s fun g => { g with encs := vmod g.encs e fun x => { x with err := v } }
  | _ => ro s 0

/-- Registers of device time and its servo. -/
def timeRead (s : State) (off incs : Nat) : Read :=
  let g := s.gauge
  match off with
  | 0x00 => timeLo s
  | 0x04 => (g.timeHi, s)
  | 0x08 => (g.rate, s)
  | 0x0C => (g.slewRead, s)
  | 0x10 => ro s (timeCtl g)
  | 0x1C => (g.servoCfg, s)
  | 0x20 => (g.ppsOffset, s)
  | 0x28 => (lo32 g.ppsCap[0], s)
  | 0x2C => (hi32 g.ppsCap[0], s)
  | 0x30 => (lo32 g.ppsCap[1], s)
  | 0x34 => (hi32 g.ppsCap[1], s)
  | 0x38 => (g.ppsErr, s)
  | 0x3C => rc g.ppsGlitch incs fun v => onGauge s fun g => { g with ppsGlitch := v }
  | 0x40 => rc g.ppsLoss incs fun v => onGauge s fun g => { g with ppsLoss := v }
  | 0x44 => ro s g.seqCam.val
  | 0x48 => rc g.recLate incs fun v => onGauge s fun g => { g with recLate := v }
  | _ => ro s 0

def gaugeRead (s : State) (off incs : Nat) : Read :=
  match slotAt 0x1000 0x100 8 off, slotAt 0x2000 0x10 8 off, slotAt 0x3000 0x40 2 off with
  | some (c, r), _, _ => camRead s c r incs
  | _, some (e, r), _ => encRead s e r incs
  | _, _, some (i, r) => imuRead s i r
  | none, none, none => timeRead s off incs

/-- A write to a register of a camera port. -/
def camWrite (s : State) (c : CamId) (r : Nat) (v : Word) : State :=
  match r with
  | 0x00 => onCam s c fun p => { p with cfg := v &&& 0x00033FF3 }
  | 0x04 => onCam s c fun p => { p with laneMap := v &&& 0xFFF }
  | 0x08 => onCam s c fun p => { p with cropX := v }
  | 0x0C => onCam s c fun p => { p with cropY := v }
  | 0x10 => onCam s c fun p => { p with lineOffset := v }
  | 0x14 => onCam s c fun p => { p with bells := v &&& 0x00FFFFFF }
  | 0x18 => onCam s c fun p => releaseSlots p (bitsOf v 8 0)
  | _ => s

/-- A write to a register of an IMU. -/
def imuWrite (s : State) (i : Fin 2) (r : Nat) (v : Word) : State :=
  let put := fun (f : Imu → Imu) => onGauge s fun g => { g with imus := vmod g.imus i f }
  let slot := fun (k : Fin 2) (f : ImuSlot → ImuSlot) => put fun x => { x with slots := vmod x.slots k f }
  if r = 0 then put fun x => { x with cfg := v &&& 0xFFFFFF07 }
  else match slotAt 0x10 0x10 2 r with
    | some (k, 0) => slot k fun x => { x with cfg := v &&& 0x00031FFF }
    | some (k, 4) => slot k fun x => { x with fieldOff := v }
    | some (k, 8) => slot k fun x => { x with scale := v }
    | _ => s

/-- A write to a register of device time, its servo or record injection. -/
def timeWrite (s : State) (off : Nat) (v : Word) : State :=
  match off with
  | 0x08 => onGauge s fun g => { g with rate := v }
  | 0x0C => slewSet s v
  | 0x10 => onGauge s fun g => { g with ctl := v &&& 0x103FFF0F, loadRej := g.loadRej && !bitOf v 29 }
  | 0x14 => onGauge s fun g => { g with loadLo := v }
  | 0x18 => timeLoadHi s v
  | 0x1C => onGauge s fun g => { g with servoCfg := v &&& 0xFFFFFF0F }
  | 0x20 => onGauge s fun g => { g with ppsOffset := v }
  | 0x44 => onGauge s fun g => { g with seqCam := fin 8 v.toNat }
  | 0x6C => injectRecord s v
  | _ =>
    match counterAt 0x50 8 off with
    | some k => onGauge s fun g => { g with recInj := vmod g.recInj k fun _ => v }
    | none => s

def gaugeWrite (s : State) (off : Nat) (v : Word) : State :=
  match slotAt 0x1000 0x100 8 off, slotAt 0x2000 0x10 8 off, slotAt 0x3000 0x40 2 off with
  | some (c, r), _, _ => camWrite s c r v
  | _, some (e, r), _ =>
    if r = 0 then onGauge s fun g => { g with encs := vmod g.encs e fun x => { x with cfg := v &&& 0x3F3 } } else s
  | _, _, some (i, r) => imuWrite s i r v
  | none, none, none => timeWrite s off v

/-! ### Spigot -/

/-- Registers of a boom node. -/
def nodeRead (s : State) (k : BoomId) (r : Nat) : Read :=
  let n := s.spigot.nodes[k.val]
  match r with
  | 0x00 => (n.cfg, s)
  | 0x04 => (lo32 n.dst, s)
  | 0x08 => (hi32 n.dst, s)
  | 0x0C => (n.timing, s)
  | 0x10 => ro s n.dropPend.toNat
  | 0x14 => ro s n.seq.toNat
  | _ => ro s 0

/-- Registers of a channel. -/
def chanRead (s : State) (ch : ChanId) (r : Nat) : Read :=
  let c := s.spigot.chans[ch.val]
  match r with
  | 0x0 => (c.cfg, s)
  | 0x4 => (c.leads, s)
  | 0x8 => (c.pwm, s)
  | 0xC => ro s (flag c.level 31 + flag c.holding 30 + flag c.forced 29 + c.fifo.length * 65536 + c.dutyNow.toNat)
  | _ => ro s 0

def spigotRead (s : State) (off incs : Nat) : Read :=
  let sp := s.spigot
  match off with
  | 0x00 => ro s (flag sp.safePinLow 30 + (sp.ctl &&& 0xA0FFFF07).toNat)
  | 0x04 => (lo32 sp.speedBase, s)
  | 0x08 => (hi32 sp.speedBase, s)
  | 0x0C => (sp.speedStride, s)
  | 0x10 => (sp.speedCfg, s)
  | 0x14 => ro s sp.etype.toNat
  | _ =>
    match counterAt 0x20 7 off, slotAt 0x0200 0x20 8 off, slotAt 0x1000 0x10 256 off with
    | some k, _, _ => rc sp.counters[k.val] incs fun v => onSpigot s fun sp => { sp with counters := vmod sp.counters k fun _ => v }
    | _, some (k, r), _ => nodeRead s k r
    | _, _, some (ch, r) => chanRead s ch r
    | none, none, none => ro s 0

/-- A write to a register of a boom node or a channel. -/
def nodeWrite (s : State) (k : BoomId) (r : Nat) (v : Word) : State :=
  let put := fun (f : BoomNode → BoomNode) => onSpigot s fun sp => { sp with nodes := vmod sp.nodes k f }
  match r with
  | 0x00 => put fun n => { n with cfg := v &&& 0xC0000FFF }
  | 0x04 => put fun n => { n with dst := withLo n.dst v }
  | 0x08 => put fun n => { n with dst := withHi n.dst v }
  | 0x0C => put fun n => { n with timing := v }
  | _ => s

def chanWrite (s : State) (ch : ChanId) (r : Nat) (v : Word) : State :=
  let put := fun (f : Channel → Channel) => onSpigot s fun sp => sp.onChan ch f
  match r with
  | 0x0 => put fun c => { c with cfg := v &&& 0xFBFF007F }
  | 0x4 => put fun c => { c with leads := v }
  | 0x8 => put fun c => { c with pwm := v }
  | _ => s

def spigotWrite (s : State) (off : Nat) (v : Word) : State :=
  match off with
  | 0x00 => spigotCtl s v
  | 0x04 => onSpigot s fun sp => { sp with speedBase := withLo sp.speedBase v }
  | 0x08 => onSpigot s fun sp => { sp with speedBase := withHi sp.speedBase v }
  | 0x0C => onSpigot s fun sp => { sp with speedStride := v }
  | 0x10 => onSpigot s fun sp => { sp with speedCfg := v &&& 0xFFFF0FFF }
  | 0x14 => onSpigot s fun sp => { sp with etype := BitVec.ofNat 16 v.toNat }
  | _ =>
    match slotAt 0x0200 0x20 8 off, slotAt 0x1000 0x10 256 off with
    | some (k, r), _ => nodeWrite s k r v
    | _, some (ch, r) => chanWrite s ch r v
    | none, none => s

/-! ### Ethernet and CAN -/

/-- Base and size registers of a ring. -/
def ringRead (s : State) (q : IoRing) (r : Nat) : Read :=
  match r with
  | 0x0 => (lo32 q.base, s)
  | 0x4 => (hi32 q.base, s)
  | 0x8 => (q.log2, s)
  | _ => ro s 0

def IoRing.written (q : IoRing) (r : Nat) (v : Word) : IoRing :=
  match r with
  | 0x0 => { q with base := withLo q.base v }
  | 0x4 => { q with base := withHi q.base v }
  | 0x8 => { q with log2 := v }
  | _ => q

def macRead (s : State) (m : MacId) (off incs : Nat) : Read :=
  let x := s.spigot.macs[m.val]
  match off with
  | 0x00 => (x.ctl, s)
  | 0x04 => (lo32 x.addr, s)
  | 0x08 => (hi32 x.addr, s)
  | 0x10 => ro s x.pcpMap.toNat
  | 0x20 => ro s (flag x.tasEn 31 + flag x.operList 30 + flag x.changePend 29 + x.adminLen.toNat)
  | 0x24 => (lo32 x.adminBase, s)
  | 0x28 => (hi32 x.adminBase, s)
  | 0x2C => (x.cycleNs, s)
  | 0x34 => rc x.tasHeld incs fun v => onMac s m fun x => { x with tasHeld := v }
  | 0x38 => rc x.rxNospace incs fun v => onMac s m fun x => { x with rxNospace := v }
  | _ =>
    match slotAt 0x100 0x10 12 off, slotAt 0x1000 8 256 off with
    | some (k, r), _ => ringRead s x.rings[k.val] r
    | _, some (i, 0) => ro s (x.admin[i.val]).gates.toNat
    | _, some (i, 4) => ((x.admin[i.val]).interval, s)
    | _, _ => ro s 0

def macWrite (s : State) (m : MacId) (off : Nat) (v : Word) : State :=
  match off with
  | 0x00 => onMac s m fun x => { x with ctl := v &&& 0x80030000 }
  | 0x04 => onMac s m fun x => { x with addr := withLo x.addr v }
  | 0x08 => onMac s m fun x => { x with addr := withHi x.addr v }
  | 0x10 => onMac s m fun x => { x with pcpMap := BitVec.ofNat 24 v.toNat }
  | 0x20 => onMac s m fun x => { x with tasEn := bitOf v 31, adminLen := BitVec.ofNat 9 v.toNat }
  | 0x24 => onMac s m fun x => { x with adminBase := withLo x.adminBase v }
  | 0x28 => onMac s m fun x => { x with adminBase := withHi x.adminBase v }
  | 0x2C => onMac s m fun x => { x with cycleNs := v }
  | 0x30 => gateChange s m v
  | _ =>
    match slotAt 0x100 0x10 12 off, slotAt 0x1000 8 256 off with
    | some (k, 0xC), _ =>
      if k.val < 8 then txDoorbell s m (fin 8 k.val) v
      else onMac s m fun x => { x with rings := vmod x.rings k fun q => { q with tail := v.toNat % q.size } }
    | some (k, r), _ => onMac s m fun x => { x with rings := vmod x.rings k fun q => q.written r v }
    | _, some (i, 0) => onMac s m fun x => { x with admin := vmod x.admin i fun g => { g with gates := BitVec.ofNat 8 v.toNat } }
    | _, some (i, 4) => onMac s m fun x => { x with admin := vmod x.admin i fun g => { g with interval := v } }
    | _, _ => s

def canRead (s : State) (n : CanId) (off incs : Nat) : Read :=
  let x := s.spigot.cans[n.val]
  match off with
  | 0x00 => (x.ctl, s)
  | 0x04 => (x.nbt, s)
  | 0x08 => (x.dbt, s)
  | 0x0C => ro s (flag x.busOff 31 + flag x.errPassive 30 + at_ x.tec 8 + x.rxErr.toNat)
  | 0x10 => rc x.filtered incs fun v => onCan s n fun x => { x with filtered := v }
  | 0x14 => rc x.rxNospace incs fun v => onCan s n fun x => { x with rxNospace := v }
  | _ =>
    match slotAt 0x40 0x10 4 off, slotAt 0x100 8 32 off with
    | some (k, r), _ => ringRead s x.rings[k.val] r
    | _, some (f, 0) => ((x.filters[f.val]).1, s)
    | _, some (f, 4) => ((x.filters[f.val]).2, s)
    | _, _ => ro s 0

def canWrite (s : State) (n : CanId) (off : Nat) (v : Word) : State :=
  match off with
  | 0x00 => canCtl s n v
  | 0x04 => onCan s n fun x => { x with nbt := v &&& 0xFFFF7F7F }
  | 0x08 => onCan s n fun x => { x with dbt := v &&& 0xFFFF7F7F }
  | _ =>
    match slotAt 0x40 0x10 4 off, slotAt 0x100 8 32 off with
    | some (k, 0xC), _ => canDoorbell s n k v
    | some (k, r), _ => onCan s n fun x => { x with rings := vmod x.rings k fun q => q.written r v }
    | _, some (f, 0) => onCan s n fun x => { x with filters := vmod x.filters f fun p => (v, p.2) }
    | _, some (f, 4) => onCan s n fun x => { x with filters := vmod x.filters f fun p => (p.1, v &&& 0x1FFFFFFF) }
    | _, _ => s

/-! ### Flume -/

/-- Codes of the training states (12 Table 12.2). -/
def TrainState.code : TrainState → Nat
  | .off => 0
  | .detect => 1
  | .adapt => 2
  | .align => 3
  | .param => 4
  | .active => 5
  | .recover => 6
  | .down => 7

/-- PORT_STAT. -/
def portStat (f : FlumePort) : Nat :=
  flag (f.state = .active) 31 + f.state.code * 2 ^ 28 + flag f.rateNow 27 + flag f.widthNow 26 + flag f.spareUsed 25
    + f.spareFor.val * 2 ^ 21 + at_ f.fail 17 + at_ f.peerPort 13 + at_ f.peerNode 8

/-- Group registers (12 Table 12.8). -/
def groupRead (s : State) (off : Nat) : Read :=
  let g := s.flume
  if off = 0x8000 then ro s (at_ g.groupId 16 + flag g.grpRej 15 + flag g.routeRej 14 + g.nodeId.val)
  else match counterAt 0x8100 32 off, slotAt 0x8200 0x10 16 off, counterAt 0x8400 4 off with
    | some n, _, _ => (g.routes[n.val], s)
    | _, some (w, 0), _ => (lo32 (g.windows[w.val]).base, s)
    | _, some (w, 4), _ => (hi32 (g.windows[w.val]).base, s)
    | _, some (w, 8), _ => ro s (g.windows[w.val]).size.toNat
    | _, some (w, 12), _ => ro s (flag ((g.windows[w.val]).size ≠ 0) 31)
    | _, _, some k => ro s (bitsOf g.dbAllow (32 * k.val + 31) (32 * k.val))
    | _, _, _ => ro s 0

def flumeRead (s : State) (p : FlumeId) (off incs : Nat) : Read :=
  let f := s.flume.ports[p.val]
  match off with
  | 0x000 => (f.ctl, s)
  | 0x004 => ro s (portStat f)
  | 0x030 => ro s (f.credits[3] * 2 ^ 24 + f.credits[2] * 2 ^ 16 + f.credits[1] * 2 ^ 8 + f.credits[0])
  | 0x034 => ro s f.credits[4]
  | _ =>
    match counterAt 0x010 8 off, counterAt 0x040 17 off, counterAt 0x0C0 17 off with
    | some k, _, _ => rc f.counters[k.val] incs fun v => onPort s p fun f => { f with counters := vmod f.counters k fun _ => v }
    | _, some l, _ => let x := f.lanes[l.val]; ro s (flag x.idle 31 + flag x.pol 30 + x.logical.val * 2 ^ 24)
    | _, _, some l =>
      rc (f.lanes[l.val]).symErr incs fun v => onPort s p fun f => { f with lanes := vmod f.lanes l fun x => { x with symErr := v } }
    | none, none, none => if p = 0 then groupRead s off else ro s 0

/-- One word of a 128-bit set replaced. -/
def setWord128 (x : BitVec 128) (k : Fin 4) (v : Word) : BitVec 128 :=
  (x &&& ~~~(0xFFFFFFFF#128 <<< (32 * k.val))) ||| (v.zeroExtend 128 <<< (32 * k.val))

def groupWrite (s : State) (off : Nat) (v : Word) : State :=
  if off = 0x8000 then groupCfg s v
  else match counterAt 0x8100 32 off, slotAt 0x8200 0x10 16 off, counterAt 0x8400 4 off with
    | some n, _, _ => flumeRoute s n v
    | _, some (w, r), _ => onFlume s fun g =>
      { g with windows := vmod g.windows w fun x =>
          if r = 0 then { x with base := withLo x.base v }
          else if r = 4 then { x with base := withHi x.base v }
          else if r = 8 then { x with size := BitVec.ofNat 13 v.toNat } else x }
    | _, _, some k => onFlume s fun g => { g with dbAllow := setWord128 g.dbAllow k v }
    | none, none, none => s

def flumeWrite (s : State) (p : FlumeId) (off : Nat) (v : Word) : State :=
  if off = 0 then portCtl s p v else if p = 0 then groupWrite s off v else s

/-! ### Vault -/

/-- GEOM: what the parameter pages reported, and BOOT_SLOT_SIZE. -/
def geomImg (v : Vault) : Nat :=
  at_ v.nand.ce 28 + at_ v.nand.luns 24 + at_ v.nand.planes 20 + flag v.nand.tlc 19 + flag v.nand.page16 18 + v.slotSize.toNat

/-- RC for the first eight counters; BAD_BLOCKS and SPARE_FREE are RO. -/
def vaultRegRead (s : State) (off incs : Nat) : Read :=
  let v := s.vault
  match off with
  | 0x00 =>
    ro s (flag v.en 31 + flag v.mounted 30 + flag v.readOnly 29 + flag v.noImage 28 + flag v.bootedB 27 + flag v.gristFail 26
      + at_ v.fail 22 + v.bells.toNat)
  | 0x04 => ro s (geomImg v)
  | 0x08 => ro s v.mts.toNat
  | 0x0C => ro s v.wlDelta.toNat
  | 0x10 => (v.rdLimit, s)
  | 0x14 => (v.patrol, s)
  | 0x48 => (img v.maxBits.toNat, onVault s fun v => { v with maxBits := satAdd 16 0 incs })
  | 0x4C => (v.eraseMax, s)
  | 0x50 => (v.eraseMin, s)
  | 0x54 => (v.fillTime, s)
  | 0x58 => ro s (flag v.formatting 30 + flag v.fmtRej 29 + v.fmtSlotMb.toNat)
  | _ =>
    match counterAt 0x20 10 off with
    | some k =>
      if k.val < 8 then rc v.counters[k.val] incs fun w => onVault s fun v => { v with counters := vmod v.counters k fun _ => w }
      else (v.counters[k.val], s)
    | none => ro s 0

/-- A write of VAULT_FMT: the factory bad-block marks are what the NAND holds, which no operand names here. -/
def fmtWrite (s : State) (v : Word) : State :=
  let (marks, s) := draw s s.vault.nand.blocks
  vaultFormat s v (setBits marks)

def vaultRegWrite (s : State) (off : Nat) (w : Word) : State :=
  match off with
  | 0x00 => vaultCtl s w
  | 0x08 => onVault s fun v => { v with mts := BitVec.ofNat 16 w.toNat }
  | 0x0C => onVault s fun v => { v with wlDelta := BitVec.ofNat 16 w.toNat }
  | 0x10 => onVault s fun v => { v with rdLimit := w }
  | 0x14 => onVault s fun v => { v with patrol := w }
  | 0x58 => fmtWrite s w
  | _ => s

/-! ### Clapper -/

/-- Codes of the states (15 Table 15.4). -/
def TouchState.code : TouchState → Nat
  | .boot => 0
  | .deferred => 1
  | .settling => 2
  | .idle => 3
  | .touched => 4

def ClapState.code : ClapState → Nat
  | .idle => 0
  | .attack => 1
  | .sustain => 2
  | .braking => 3

/-- Registers of a channel. -/
def clapChanRead (s : State) (c : Fin 2) (r : Nat) : Read :=
  let ch := s.clapper.chans[c.val]
  match r with
  | 0x00 =>
    ro s (ch.state.code * 2 ^ 28 + flag ch.latched.isSome 27 + ((ch.latched.map fun p => p.1.val).getD 0) * 65536 + ch.trigFx.val)
  | 0x04 => (ch.brake, s)
  | 0x08 => ro s ch.brakeStop.toNat
  | _ => ro s 0

def clapperRead (s : State) (off incs : Nat) : Read :=
  let x := s.clapper
  match off with
  | 0x00 => ro s (flag x.loading 29 + flag x.libValid 28 + (x.ctl &&& 0xC83FFF00).toNat)
  | 0x04 => ro s (flag x.panelPresent 31 + flag x.stuck 30 + flag x.relative 29 + x.tstate.code * 2 ^ 25 + x.events.length)
  | 0x08 => (x.deltas, s)
  | 0x0C => (x.timing, s)
  | 0x10 => (x.untouched, s)
  | 0x14 => (x.probe, s)
  | 0x18 => ro s (at_ x.reading 16 + x.baseline.toNat)
  | 0x20 => (lo32 ((x.events.head?.map (·.time)).getD 0), s)
  | 0x24 => (hi32 ((x.events.head?.map (·.time)).getD 0), s)
  | 0x28 =>
    match x.events with
    | e :: _ => ro s (at_ e.force 16 + flag e.rel 2 + e.type.toNat)
    | [] => ro s 0
  | _ =>
    match counterAt 0x30 3 off, slotAt 0x40 0x20 2 off, counterAt 0x80 4 off with
    | some k, _, _ => rc x.counters[k.val] incs fun v => onClapper s fun x => { x with counters := vmod x.counters k fun _ => v }
    | _, some (c, r), _ => clapChanRead s c r
    | _, _, some p => (x.pins[p.val], s)
    | none, none, none => ro s 0

/-- A write of CH_CTL: TRIG_FX, then TRIG, then STOP. -/
def clapChanCtl (s : State) (c : Fin 2) (v : Word) : State :=
  let s := onClapper s fun x => { x with chans := vmod x.chans c fun ch => { ch with trigFx := fin 64 (bitsOf v 5 0) } }
  let s := if bitOf v 31 then trigWrite s c else s
  if bitOf v 30 then onClapper s fun x => x.stop c (now s) else s

def clapperWrite (s : State) (off : Nat) (v : Word) : State :=
  match off with
  | 0x00 => clpCtl s v
  | 0x04 => onClapper s fun x => { x with panelPresent := x.panelPresent && !bitOf v 31, stuck := x.stuck && !bitOf v 30 }
  | 0x08 => onClapper s fun x => { x with deltas := v }
  | 0x0C => onClapper s fun x => { x with timing := v &&& 0xFF00000F }
  | 0x10 => onClapper s fun x => { x with untouched := v }
  | 0x14 => onClapper s fun x => { x with probe := v &&& 0xFFFF000F }
  | _ =>
    match slotAt 0x40 0x20 2 off, counterAt 0x80 4 off with
    | some (c, 0), _ => clapChanCtl s c v
    | some (c, 4), _ => onClapper s fun x => { x with chans := vmod x.chans c fun ch => { ch with brake := v &&& 0xFF0007FF } }
    | some (c, 8), _ => onClapper s fun x => { x with chans := vmod x.chans c fun ch => { ch with brakeStop := BitVec.ofNat 16 v.toNat } }
    | none, some p => onClapper s fun x => { x with pins := vmod x.pins p fun _ => v &&& 0xC000FF3F }
    | _, _ => s

/-! ### Assay and Lifecycle -/

def assayRead (s : State) (off incs : Nat) : Read :=
  let a := s.assay
  match off with
  | 0x00 => ro s (flag a.test.isSome 31 + flag a.held 30 + flag a.bootFail 29 + a.bell.val * 256)
  | 0x04 => (lo32 a.reportBase, s)
  | 0x08 => (hi32 a.reportBase, s)
  | 0x0C => ro s (at_ a.reportTail 16 + a.reportCfg.toNat)
  | 0x10 => (a.sched, s)
  | 0x14 => ro s a.schedMills.toNat
  | 0x18 => ro s a.schedOther.toNat
  | 0x20 => rc a.slicesRun incs fun v => onAssay s fun a => { a with slicesRun := v }
  | 0x24 => rc a.slicesFailed incs fun v => onAssay s fun a => { a with slicesFailed := v }
  | 0x28 => rc a.repairsSoft incs fun v => onAssay s fun a => { a with repairsSoft := v }
  | 0x2C => (a.fuseBad, s)
  | 0x30 => ro s a.fuses.repair.length
  | 0x34 => (a.bootResult, s)
  | 0x38 => (a.bootTestUs, s)
  | _ => ro s 0

/-- REPORT_HEAD and REPORT_LOG2: a changed head frees the records before it. -/
def reportWrite (s : State) (v : Word) : State :=
  onAssay s fun a =>
    let head := bitsOf v 15 4
    { a with
      reportCfg := BitVec.ofNat 16 v.toNat
      reportHeld := if head = bitsOf a.reportCfg 15 4 then a.reportHeld else (a.reportTail.toNat + 4096 - head) % 4096 }

def assayWrite (s : State) (off : Nat) (v : Word) : State :=
  match off with
  | 0x00 => onAssay s fun a => { a with bell := fin 256 (bitsOf v 15 8) }
  | 0x04 => onAssay s fun a => { a with reportBase := withLo a.reportBase v }
  | 0x08 => onAssay s fun a => { a with reportBase := withHi a.reportBase v }
  | 0x0C => reportWrite s v
  | 0x10 => onAssay s fun a => { a with sched := v &&& 0x8000FFFF }
  | 0x14 => onAssay s fun a => { a with schedMills := BitVec.ofNat 16 v.toNat }
  | 0x18 => onAssay s fun a => { a with schedOther := BitVec.ofNat 13 v.toNat }
  | _ => s

def lifecycleRead (s : State) (off : Nat) : Read :=
  let a := s.assay
  let f := a.fuses
  match off with
  | 0x00 => ro s a.lcState.val
  | 0x04 => ro s (flag a.lcRej 28 + a.target.toNat)
  | 0x08 => ro s a.tokenStat.toNat
  | 0x40 => ro s f.svn.toNat
  | 0x44 => ro s (flag f.serviceKeySet 9 + flag f.imageKeySet 8 + at_ f.keyRevoked 4 + f.keyValid.toNat)
  | 0x48 => ro s f.visits.toNat
  | _ =>
    match counterAt 0x10 4 off, counterAt 0x20 8 off with
    | some k, _ => ro s (bitsOf f.uid (32 * k.val + 31) (32 * k.val))
    | _, some k => ro s (bitsOf a.challenge (32 * k.val + 31) (32 * k.val))
    | none, none => ro s 0

def lifecycleWrite (s : State) (off : Nat) (v : Word) : State :=
  match off with
  | 0x04 => lcWrite s v
  | 0x4C => bootDoorbell s v
  | _ =>
    match counterAt 0x100 40 off with
    | some k => onAssay s fun a => { a with token := vmod a.token k fun _ => v }
    | none => s

end Sys2Proof.Machine
end

