-- ==== Sys2Proof/Machine/Tree.lean ====
section
/-! DEFINITION. CSR accesses, the Tally tree (11 R272-R274) and the BARs of the PCIe endpoint (21). -/

namespace Sys2Proof.Machine

/-! ### CSR blocks (21 R477, R478) -/

/-- A block of 21 Table 21.2. -/
inductive Block where
  | spindle | control | mill (m : MillId) | flume (p : FlumeId) | gauge | spigot | weir (w : WeirId) | vault | clapper | assay
  | lifecycle | mac (m : MacId) | can (n : CanId) | msix
deriving DecidableEq, Repr

/-- The block a CSR address lies in, and the offset there; bits 1:0 are not decoded. -/
def blockOf (addr : Word) : Option (Block × Nat) :=
  let a := addr.toNat / 4 * 4
  let b := a / 0x10000
  let o := a % 0x10000
  match slotAt 0x01000000 0x10000 16 a, slotAt 0x02000000 0x10000 6 a, slotAt 0x03200000 0x10000 2 a,
        slotAt 0x03700000 0x4000 2 a, slotAt 0x03800000 0x4000 2 a with
  | some (m, o), _, _, _, _ => some (.mill m, o)
  | _, some (p, o), _, _, _ => some (.flume p, o)
  | _, _, some (w, o), _, _ => some (.weir w, o)
  | _, _, _, some (m, o), _ => some (.mac m, o)
  | _, _, _, _, some (n, o) => some (.can n, o)
  | none, none, none, none, none =>
    if b = 0 then some (.spindle, o)
    else if b = 1 then some (.control, o)
    else if b = 0x300 then some (.gauge, o)
    else if b = 0x310 then some (.spigot, o)
    else if b = 0x330 then some (.vault, o)
    else if b = 0x340 then some (.clapper, o)
    else if b = 0x350 then some (.assay, o)
    else if b = 0x360 then some (.lifecycle, o)
    else if b = 0x3F0 && decide (o < 0x2000) then some (.msix, o)
    else none

/-- The unit whose wrapper clamps a block during TESTING (16 R378). -/
def Block.unit : Block → Option Nat
  | .mill m => some m.val
  | .weir w => some (20 + w.val)
  | .flume p => some (22 + p.val)
  | .vault => some 28
  | .clapper => some 29
  | .mac _ | .can _ => some 30
  | .spindle | .control | .gauge | .spigot | .assay | .lifecycle | .msix => none

/-- The unit of a block is TESTING. -/
def blockTested (s : State) (b : Block) : Bool :=
  match b.unit with
  | some u => unitState s u = .testing
  | none => false

/-- A read in a block, with the increments its counter receives in the same cycle. -/
def blockRead (s : State) (b : Block) (off incs : Nat) : Read :=
  if blockTested s b then ro s 0
  else match b with
    | .spindle => spindleRead s off incs
    | .control => controlRead s off incs
    | .mill m => millRead s m off incs
    | .flume p => flumeRead s p off incs
    | .gauge => gaugeRead s off incs
    | .spigot => spigotRead s off incs
    | .weir w => weirRegRead s w off incs
    | .vault => vaultRegRead s off incs
    | .clapper => clapperRead s off incs
    | .assay => assayRead s off incs
    | .lifecycle => lifecycleRead s off
    | .mac m => macRead s m off incs
    | .can n => canRead s n off incs
    | .msix => ro s 0

/-- A write in a block. -/
def blockWrite (s : State) (master : TreeMaster) (b : Block) (off : Nat) (v : Word) : State :=
  if blockTested s b then s
  else match b with
    | .spindle => spindleWrite s master off v
    | .control => controlWrite s off v
    | .mill m => millWriteReg s m off v
    | .flume p => flumeWrite s p off v
    | .gauge => gaugeWrite s off v
    | .spigot => spigotWrite s off v
    | .weir w => weirRegWrite s w off v
    | .vault => vaultRegWrite s off v
    | .clapper => clapperWrite s off v
    | .assay => assayWrite s off v
    | .lifecycle => lifecycleWrite s off v
    | .mac m => macWrite s m off v
    | .can n => canWrite s n off v
    | .msix => s

/-- A transaction whose address lies in no block is counted (R478). -/
def decodeErr (s : State) : State := onNet s fun n => { n with treeDecodeErr := bump n.treeDecodeErr }

/-! ### The Tally tree (11 R272-R274) -/

/-- Number of a master, as TREE_CTL shows it. -/
def masterNo : TreeMaster → Fin 3
  | .pairA => 0
  | .pairB => 1
  | .pcie => 2

/-- The master of a number. -/
def masterOf (m : Fin 3) : TreeMaster := if m = 0 then .pairA else if m = 1 then .pairB else .pcie

/-- A master receives an answer. -/
def answer (s : State) (m : Fin 3) (err : Bool) (data : Word) : State :=
  onNet s fun n => { n with answers := vmod n.answers m fun _ => { err := err, data := data } }

/-- A transaction of a master ends with an answer; the host's read, if it was one, completes with the data. A full reset that the
transaction itself caused has ended it already. -/
def endTxn (s : State) (m : Fin 3) (t : TreeTxn) (err : Bool) (data : Word) : State :=
  if (s.net.txns[m.val]).isNone then s
  else
    let s := onNet (answer s m err data) fun n => { n with txns := vmod n.txns m fun _ => none }
    if t.host && !t.write then onNet s fun n => { n with barRead := some (leBytes 4 data.toNat) } else s

/-- A leaf acts on a transaction: a write has its effect, a read takes its data. -/
def leafAct (s : State) (m : Fin 3) (t : TreeTxn) : TreeTxn × State :=
  match blockOf t.addr with
  | none => (t, s)
  | some (b, off) =>
    if t.write then ({ t with acted := true }, blockWrite s (masterOf m) b off t.data)
    else let (v, s) := blockRead s b off 0; ({ t with acted := true, data := v }, s)

/-- A Mill's Tally port takes a downward beat, unless it still owes an answer (19 R441). -/
def portTakes (s : State) (t : TreeTxn) : Bool × State :=
  match blockOf t.addr with
  | some (.mill m, _) =>
    if (s.mills[m.val]).mb.tallyBusy then (false, onMill s m fun x => { x with mb := { x.mb with protoErr := bump x.mb.protoErr } })
    else (true, onMill s m fun x => { x with mb := { x.mb with tallyBusy := true } })
  | _ => (true, s)

/-- A Mill's Tally port has answered. -/
def portFree (s : State) (t : TreeTxn) : State :=
  match blockOf t.addr with
  | some (.mill m, _) => onMill s m fun x => { x with mb := { x.mb with tallyBusy := false } }
  | _ => s

/-- The root grants a transaction: an address in no block is answered ERR; another is forwarded to its leaf, which acts at once
when it is prompt. -/
def grantTxn (s : State) (m : Fin 3) (t : TreeTxn) : State :=
  if (blockOf t.addr).isNone then endTxn (decodeErr s) m t true (if t.write then 0 else 0xFFFFFFFF)
  else
    let (takes, s) := portTakes s t
    let t := { t with granted := true, since := now s, dead := !takes }
    let (t, s) := if takes && t.prompt then leafAct s m t else (t, s)
    onNet s fun n => { n with txns := vmod n.txns m fun x => x.map fun _ => t }

/-- The transaction the root grants next: masters in round robin, one transaction at a time. -/
def nextGrant (n : Net) : Option (Fin 3 × TreeTxn) :=
  if n.txns.any fun t => (t.map (·.granted)).getD false then none
  else ([n.treeNext, n.treeNext + 1, n.treeNext + 2] : List (Fin 3)).findSome? fun m => (n.txns[m.val]).map fun t => (m, t)

/-- The next BAR0 access becomes the endpoint's transaction, when it has none (R273). -/
def feedBar0 (s : State) : State :=
  match s.net.posted with
  | [] => s
  | q :: rest =>
    if (s.net.txns[2]).isSome then s
    else onNet s fun n =>
      { n with posted := rest,
               txns := vmod n.txns (2 : Fin 3) fun _ =>
                 some { addr := q.addr, write := q.write, data := q.data, prompt := q.prompt, granted := false, since := 0,
                        acted := false, dead := false, host := true } }

/-- Serve the tree until a transaction waits for its leaf, or none is left. -/
def serveTree : Nat → State → State
  | 0, s => s
  | k + 1, s =>
    let s := feedBar0 s
    match nextGrant s.net with
    | none => s
    | some (m, t) => serveTree k (grantTxn (onNet s fun n => { n with treeNext := m + 1 }) m t)

/-- Rounds enough to serve what waits. -/
def serveAll (s : State) : State := serveTree (s.net.posted.length + 4) s

/-- A master sends a transaction; it has at most one outstanding. -/
def sendTxn (s : State) (master : TreeMaster) (addr : Word) (write : Bool) (v : Word) (prompt : Bool) : State :=
  if (s.net.txns[(masterNo master).val]).isSome then s
  else serveAll (onNet s fun n =>
    { n with txns := vmod n.txns (masterNo master) fun _ =>
              some { addr := addr, write := write, data := v, prompt := prompt, granted := false, since := 0, acted := false,
                     dead := false, host := false } })

/-- TREE_TIMEOUT_US in use. -/
def treeTimeout (n : Net) : Nat := clampNat 10 100000 n.treeTimeoutUs.toNat

/-- TREE_TIMEOUT: all ones to the master, logged and counted; the answer may still come (R274). -/
def txnTimeout (s : State) (m : Fin 3) : State :=
  match s.net.txns[m.val] with
  | none => s
  | some t =>
    if t.granted && usElapsed s t.since (treeTimeout s.net) then
      let s := onNet s fun n =>
        { n with
          treeTimeouts := bump n.treeTimeouts
          treeLog := true
          treeMaster := if n.treeLog then n.treeMaster else BitVec.ofNat 2 m.val
          treeWrite := if n.treeLog then n.treeWrite else t.write
          treeErrAddr := if n.treeLog then n.treeErrAddr else t.addr
          abandoned := if t.dead then n.abandoned else n.abandoned ++ [(m, t)] }
      serveAll (endTxn s m t true 0xFFFFFFFF)
    else s

/-- The leaf's answer of a transaction: it has acted by now. -/
def answered (s : State) (m : Fin 3) (t : TreeTxn) : TreeTxn × State :=
  let (t, s) := if t.acted then (t, s) else leafAct s m t
  (t, portFree s t)

/-- TREE_ANSWER in time. -/
def txnAnswer (s : State) (m : Fin 3) : State :=
  match s.net.txns[m.val] with
  | none => s
  | some t =>
    if t.granted && !t.dead then
      let (t, s) := answered s m t
      serveAll (endTxn s m t false (if t.write then 0 else t.data))
    else s

/-- TREE_ANSWER late: discarded and counted. -/
def txnLate (s : State) (m : Fin 3) : State :=
  match s.net.abandoned.find? fun p => p.1 = m with
  | none => s
  | some p =>
    let s := onNet s fun n => { n with abandoned := n.abandoned.erase p }
    let (_, s) := answered s m p.2
    onNet s fun n => { n with treeLate := bump n.treeLate }

/-! ### Direct register accesses (00 R8, R9; 21 R483) -/

/-- CSR_WRITE: the write at its register. -/
def csrWrite (s : State) (master : TreeMaster) (addr v : Word) : State :=
  match blockOf addr with
  | none => decodeErr s
  | some (b, off) => blockWrite s master b off v

/-- RC_READ: the read at its register, with the increments of the same cycle. -/
def csrRead (s : State) (master : TreeMaster) (addr : Word) (incs : Nat) : State :=
  match blockOf addr with
  | none => answer (decodeErr s) (masterNo master) true 0xFFFFFFFF
  | some (b, off) => let (v, s) := blockRead s b off incs; answer s (masterNo master) false v

/-! ### BAR0 (21 R479, R480; 16 R386) -/

/-- Addresses a held device answers: Spindle identification, Assay, Lifecycle. -/
def heldAnswers (addr : Word) : Bool :=
  match blockOf addr with
  | some (.spindle, off) => off = 0 || off = 4
  | some (.assay, _) | some (.lifecycle, _) => true
  | _ => false

/-- An access of one DW with all byte enables, inside BAR0. -/
def bar0Full (off : Word) (dws : Nat) (be : BitVec 4) : Bool := dws = 1 && be = 0xF && decide (off.toNat < 0x04000000)

/-- The MSI-X table and the pending-bit array are the endpoint's own. -/
def msixRead (n : Net) (o : Nat) : List Byte :=
  if o < 0x1000 then readBytes n.msixTable (o / 4 * 4) 4
  else if o < 0x1020 then leBytes 4 (bitsOf n.msixPba (8 * ((o - 0x1000) / 4 * 4) + 31) (8 * ((o - 0x1000) / 4 * 4)))
  else leBytes 4 0

/-- BAR0_READ. -/
def bar0Read (s : State) (off : Word) (dws : Nat) (be : BitVec 4) (prompt : Bool) : State :=
  if s.net.perst then s
  else if !bar0Full off dws be then onNet s fun n => { n with barRead := none }
  else if s.assay.held && !heldAnswers off then onNet s fun n => { n with barRead := some (leBytes 4 0xFFFFFFFF) }
  else match blockOf off with
    | some (.msix, o) => onNet s fun n => { n with barRead := some (msixRead n o) }
    | _ => serveAll (onNet s fun n => { n with posted := n.posted ++ [({ write := false, addr := off, data := 0, prompt := prompt } : BarReq)] })

/-- BAR0_WRITE: at most 16 writes wait. -/
def bar0Write (s : State) (off : Word) (dws : Nat) (be : BitVec 4) (v : Word) (prompt : Bool) : State :=
  if s.net.perst then s
  else if !bar0Full off dws be then onNet s fun n => { n with aer := n.aer + 1 }
  else if s.assay.held && !heldAnswers off then s
  else match blockOf off with
    | some (.msix, o) => onNet s fun n => if o < 0x1000 then { n with msixTable := writeBytes n.msixTable (o / 4 * 4) (leBytes 4 v.toNat) } else n
    | _ =>
      if 16 ≤ (s.net.posted.filter (·.write)).length then s
      else serveAll (onNet s fun n => { n with posted := n.posted ++ [({ write := true, addr := off, data := v, prompt := prompt } : BarReq)] })

/-! ### BAR2 (21 Table 21.3, R480; 05 R99) -/

/-- The local address of a BAR2 offset. -/
def bar2Addr (off : Nat) : Nat :=
  if off < 0x18000000 then off
  else hopTop + (off - 0x18000000) / 0x800000 * 0x01000000 + (off - 0x18000000) % 0x800000

/-- A range lies inside BAR2 and inside one memory. -/
def bar2Fits (off len : Nat) : Bool :=
  decide (off + len ≤ 0x20000000)
    && (decide (off + len ≤ 0x18000000) || (decide (0x18000000 ≤ off) && decide ((off - 0x18000000) % 0x800000 + len ≤ 0x800000)))

/-- An AER event is logged. -/
def logAer (s : State) : State := onNet s fun n => { n with aer := n.aer + 1 }

/-- BAR2_READ: the data, or Completer Abort. -/
def bar2Read (s : State) (off len : Nat) : State :=
  if s.net.perst then s
  else if !bar2Fits off len then logAer (onNet s fun n => { n with barRead := none })
  else
    let (st, bs, s) := readRange s none (bar2Addr off) len
    if st = .ok then onNet s fun n => { n with barRead := some bs } else logAer (onNet s fun n => { n with barRead := none })

/-- BAR2_WRITE: row by row; a row that cannot be written is discarded. -/
def bar2Write (s : State) (off : Nat) (bs : List Byte) : State :=
  if s.net.perst then s
  else if !bar2Fits off bs.length then logAer s
  else
    let (st, s) := writeRange s none (bar2Addr off) bs
    if st = .ok then s else logAer s

/-! ### Meanings -/

def execCsrWrite (master : TreeMaster) (addr value : Word) (s : State) : Result := liveRows s fun s => csrWrite s master addr value
def execRcRead (master : TreeMaster) (addr : Word) (incs : Nat) (s : State) : Result :=
  liveRows s fun s => csrRead s master addr incs
def execTimeLoRead (master : TreeMaster) (s : State) : Result :=
  live s fun s => let (v, s) := timeLo s; answer s (masterNo master) false v
def execTreeRead (master : TreeMaster) (addr : Word) (prompt : Bool) (s : State) : Result :=
  liveRows s fun s => sendTxn s master addr false 0 prompt
def execTreeWrite (master : TreeMaster) (addr : Word) (v : Word) (prompt : Bool) (s : State) : Result :=
  liveRows s fun s => sendTxn s master addr true v prompt
def execTreeTimeout (master : TreeMaster) (s : State) : Result := liveRows s fun s => txnTimeout s (masterNo master)
def execTreeAnswer (master : TreeMaster) (late : Bool) (s : State) : Result :=
  liveRows s fun s => if late then txnLate s (masterNo master) else txnAnswer s (masterNo master)
def execBar0Read (off : Word) (dws : Nat) (be : BitVec 4) (prompt : Bool) (s : State) : Result :=
  liveRows s fun s => bar0Read s off dws be prompt
def execBar0Write (off : Word) (dws : Nat) (be : BitVec 4) (v : Word) (prompt : Bool) (s : State) : Result :=
  liveRows s fun s => bar0Write s off dws be v prompt
def execBar2Read (off : Word) (len : Nat) (s : State) : Result := liveRows s fun s => bar2Read s off.toNat len
def execBar2Write (off : Word) (data : List Byte) (s : State) : Result := liveRows s fun s => bar2Write s off.toNat data

end Sys2Proof.Machine
end

