-- ==== Sys2Proof/Machine/Dispatch.lean ====
section
/-! DEFINITION. The meaning of every command: one arm for each row of spec/opcode_table.json. -/

namespace Sys2Proof.Machine

def exec (i : Instr) (s : State) : Host.Outcome State Fault Refusal :=
  match i with
  | .csrWrite master addr value => Sys2Proof.Machine.execCsrWrite master addr value s
  | .rcRead master addr incs => Sys2Proof.Machine.execRcRead master addr incs s
  | .dbTail c v => Sys2Proof.Machine.execDbTail c v s
  | .dbRcpt c v => Sys2Proof.Machine.execDbRcpt c v s
  | .docketRead c net => Sys2Proof.Machine.execDocketRead c net s
  | .handOut => Sys2Proof.Machine.execHandOut s
  | .waitTimeoutExpire c => Sys2Proof.Machine.execWaitTimeoutExpire c s
  | .chuteEnable c v => Sys2Proof.Machine.execChuteEnable c v s
  | .chuteDisable c v => Sys2Proof.Machine.execChuteDisable c v s
  | .chuteReconfigure c v => Sys2Proof.Machine.execChuteReconfigure c v s
  | .phaseHiWrite c v => Sys2Proof.Machine.execPhaseHiWrite c v s
  | .periodNsWrite c v => Sys2Proof.Machine.execPeriodNsWrite c v s
  | .timerRelease c => Sys2Proof.Machine.execTimerRelease c s
  | .heldReleaseStart c => Sys2Proof.Machine.execHeldReleaseStart c s
  | .bellSetWrite g v => Sys2Proof.Machine.execBellSetWrite g v s
  | .bellClrWrite g v => Sys2Proof.Machine.execBellClrWrite g v s
  | .fence c => Sys2Proof.Machine.execFence c s
  | .waitEvent c => Sys2Proof.Machine.execWaitEvent c s
  | .signal c => Sys2Proof.Machine.execSignal c s
  | .tenantSwitch => Sys2Proof.Machine.execTenantSwitch s
  | .tenantClearDone m => Sys2Proof.Machine.execTenantClearDone m s
  | .handout m src msg => Sys2Proof.Machine.execHandout m src msg s
  | .done m msg => Sys2Proof.Machine.execDone m msg s
  | .abort m src tag chute reason => Sys2Proof.Machine.execAbort m src tag chute reason s
  | .bell m b => Sys2Proof.Machine.execBell m b s
  | .edges m chute slot es => Sys2Proof.Machine.execEdges m chute slot es s
  | .dispatch m => Sys2Proof.Machine.execDispatch m s
  | .docketResume m => Sys2Proof.Machine.execDocketResume m s
  | .l2Stage m => Sys2Proof.Machine.execL2Stage m s
  | .tileIssue m => Sys2Proof.Machine.execTileIssue m s
  | .tileComplete m => Sys2Proof.Machine.execTileComplete m s
  | .matmul m => Sys2Proof.Machine.execMatmul m s
  | .matmulAcc m => Sys2Proof.Machine.execMatmulAcc m s
  | .fuse2 m => Sys2Proof.Machine.execFuse2 m s
  | .winnow m => Sys2Proof.Machine.execWinnow m s
  | .hist m => Sys2Proof.Machine.execHist m s
  | .loadw m => Sys2Proof.Machine.execLoadw m s
  | .bankFillStart m => Sys2Proof.Machine.execBankFillStart m s
  | .bankFillDone m => Sys2Proof.Machine.execBankFillDone m s
  | .bankSwap m => Sys2Proof.Machine.execBankSwap m s
  | .quernVector m q => Sys2Proof.Machine.execQuernVector m q s
  | .quernPartialsOut m => Sys2Proof.Machine.execQuernPartialsOut m s
  | .scrubRead m p bankB find => Sys2Proof.Machine.execScrubRead m p bankB find s
  | .rowRepairDone m p bankB => Sys2Proof.Machine.execRowRepairDone m p bankB s
  | .qmapWrite m v => Sys2Proof.Machine.execQmapWrite m v s
  | .remapDone m => Sys2Proof.Machine.execRemapDone m s
  | .sluiceVector m => Sys2Proof.Machine.execSluiceVector m s
  | .sluicePartialsOut m => Sys2Proof.Machine.execSluicePartialsOut m s
  | .sluProg m => Sys2Proof.Machine.execSluProg m s
  | .sluFieldDone m o => Sys2Proof.Machine.execSluFieldDone m o s
  | .sluVerify m scans => Sys2Proof.Machine.execSluVerify m scans s
  | .sluRefresh m scan => Sys2Proof.Machine.execSluRefresh m scan s
  | .sensorPoll m t => Sys2Proof.Machine.execSensorPoll m t s
  | .compUpdate m resid => Sys2Proof.Machine.execCompUpdate m resid s
  | .histClear m h v samples => Sys2Proof.Machine.execHistClear m h v samples s
  | .sigWindowEnd m b => Sys2Proof.Machine.execSigWindowEnd m b s
  | .vppSluRise mv => Sys2Proof.Machine.execVppSluRise mv s
  | .vppSluFall mv => Sys2Proof.Machine.execVppSluFall mv s
  | .rdRow pkt => Sys2Proof.Machine.execRdRow pkt s
  | .wrRow pkt ecc => Sys2Proof.Machine.execWrRow pkt ecc s
  | .bankSlotGrant bank ecc => Sys2Proof.Machine.execBankSlotGrant bank ecc s
  | .ceWriteback bank => Sys2Proof.Machine.execCeWriteback bank s
  | .patrolScrubRead bank ecc => Sys2Proof.Machine.execPatrolScrubRead bank ecc s
  | .fill q => Sys2Proof.Machine.execFill q s
  | .copy q net => Sys2Proof.Machine.execCopy q net s
  | .bankEngineNext q => Sys2Proof.Machine.execBankEngineNext q s
  | .plotCfgWrite p v => Sys2Proof.Machine.execPlotCfgWrite p v s
  | .plotClearDone q => Sys2Proof.Machine.execPlotClearDone q s
  | .granModeWrite v => Sys2Proof.Machine.execGranModeWrite v s
  | .modeSwitchDone => Sys2Proof.Machine.execModeSwitchDone s
  | .spareGo q v => Sys2Proof.Machine.execSpareGo q v s
  | .migrationDone q ecc => Sys2Proof.Machine.execMigrationDone q ecc s
  | .weirBind w => Sys2Proof.Machine.execWeirBind w s
  | .bindComplete w => Sys2Proof.Machine.execBindComplete w s
  | .measurementRecord w r => Sys2Proof.Machine.execMeasurementRecord w r s
  | .solve w => Sys2Proof.Machine.execSolve w s
  | .solveDelta w => Sys2Proof.Machine.execSolveDelta w s
  | .solveComplete w => Sys2Proof.Machine.execSolveComplete w s
  | .weirTenantWrite w v => Sys2Proof.Machine.execWeirTenantWrite w v s
  | .csiLongPacket c p => Sys2Proof.Machine.execCsiLongPacket c p s
  | .bandComplete c => Sys2Proof.Machine.execBandComplete c s
  | .frameStart c vc frame => Sys2Proof.Machine.execFrameStart c vc frame s
  | .frameEnd c vc => Sys2Proof.Machine.execFrameEnd c vc s
  | .gaugeArm => Sys2Proof.Machine.execGaugeArm s
  | .relAddWrite c v => Sys2Proof.Machine.execRelAddWrite c v s
  | .slewWrite v => Sys2Proof.Machine.execSlewWrite v s
  | .timeLoad hi => Sys2Proof.Machine.execTimeLoad hi s
  | .timeLoRead master => Sys2Proof.Machine.execTimeLoRead master s
  | .ppsEdge p => Sys2Proof.Machine.execPpsEdge p s
  | .ppsHoldover => Sys2Proof.Machine.execPpsHoldover s
  | .encoderEdge e step => Sys2Proof.Machine.execEncoderEdge e step s
  | .imuDrdyEdge idx => Sys2Proof.Machine.execImuDrdyEdge idx s
  | .imuTimer idx => Sys2Proof.Machine.execImuTimer idx s
  | .imuBurstDone idx bursts => Sys2Proof.Machine.execImuBurstDone idx bursts s
  | .recordPendingServe => Sys2Proof.Machine.execRecordPendingServe s
  | .recInjWrite w7 => Sys2Proof.Machine.execRecInjWrite w7 s
  | .spigotSchedule m => Sys2Proof.Machine.execSpigotSchedule m s
  | .edgeAccept => Sys2Proof.Machine.execEdgeAccept s
  | .edgeDue ch => Sys2Proof.Machine.execEdgeDue ch s
  | .pwmHitEnd ch => Sys2Proof.Machine.execPwmHitEnd ch s
  | .pwmPeriodStart ch => Sys2Proof.Machine.execPwmPeriodStart ch s
  | .safePinFall => Sys2Proof.Machine.execSafePinFall s
  | .safePinRise => Sys2Proof.Machine.execSafePinRise s
  | .forceSafeWrite v => Sys2Proof.Machine.execForceSafeWrite v s
  | .holdLimitExpire ch => Sys2Proof.Machine.execHoldLimitExpire ch s
  | .gateEntryStart mac => Sys2Proof.Machine.execGateEntryStart mac s
  | .heartbeatTimer k => Sys2Proof.Machine.execHeartbeatTimer k s
  | .gateListChange mac v => Sys2Proof.Machine.execGateListChange mac v s
  | .adminListSwitch mac => Sys2Proof.Machine.execAdminListSwitch mac s
  | .ethTxDoorbell mac r tail => Sys2Proof.Machine.execEthTxDoorbell mac r tail s
  | .ethTxDone mac r => Sys2Proof.Machine.execEthTxDone mac r s
  | .ethRxFrame mac f => Sys2Proof.Machine.execEthRxFrame mac f s
  | .canRxFrame n f => Sys2Proof.Machine.execCanRxFrame n f s
  | .canTxDoorbell n r tail => Sys2Proof.Machine.execCanTxDoorbell n r tail s
  | .canTxDone n => Sys2Proof.Machine.execCanTxDone n s
  | .canBusOff n => Sys2Proof.Machine.execCanBusOff n s
  | .canRecover n v => Sys2Proof.Machine.execCanRecover n v s
  | .routerPacket q pkt sideband => Sys2Proof.Machine.execRouterPacket q pkt sideband s
  | .rdResp pkt ecc => Sys2Proof.Machine.execRdResp pkt ecc s
  | .wrResp pkt => Sys2Proof.Machine.execWrResp pkt s
  | .msgResp pkt => Sys2Proof.Machine.execMsgResp pkt s
  | .niTimeout n slot => Sys2Proof.Machine.execNiTimeout n slot s
  | .rejoin n => Sys2Proof.Machine.execRejoin n s
  | .flush n => Sys2Proof.Machine.execFlush n s
  | .routeWrite n d v => Sys2Proof.Machine.execRouteWrite n d v s
  | .routeTakeEffect n d => Sys2Proof.Machine.execRouteTakeEffect n d s
  | .treeRead master addr prompt => Sys2Proof.Machine.execTreeRead master addr prompt s
  | .treeWrite master addr v prompt => Sys2Proof.Machine.execTreeWrite master addr v prompt s
  | .treeTimeout master => Sys2Proof.Machine.execTreeTimeout master s
  | .treeAnswer master late => Sys2Proof.Machine.execTreeAnswer master late s
  | .flumePortEnable p v => Sys2Proof.Machine.execFlumePortEnable p v s
  | .flumePortDisable p v => Sys2Proof.Machine.execFlumePortDisable p v s
  | .peerDetect p => Sys2Proof.Machine.execPeerDetect p s
  | .adaptDone p => Sys2Proof.Machine.execAdaptDone p s
  | .alignDone p map => Sys2Proof.Machine.execAlignDone p map s
  | .param p group node port => Sys2Proof.Machine.execParam p group node port s
  | .trainTimeout p => Sys2Proof.Machine.execTrainTimeout p s
  | .retrainTimer p => Sys2Proof.Machine.execRetrainTimer p s
  | .recoverDone p width8 ok => Sys2Proof.Machine.execRecoverDone p width8 ok s
  | .flitReceive p f => Sys2Proof.Machine.execFlitReceive p f s
  | .nak p ack => Sys2Proof.Machine.execNak p ack s
  | .idleTimer p => Sys2Proof.Machine.execIdleTimer p s
  | .laneSwap p lane immediate seq => Sys2Proof.Machine.execLaneSwap p lane immediate seq s
  | .swapAck p lane immediate seq => Sys2Proof.Machine.execSwapAck p lane immediate seq s
  | .disable p => Sys2Proof.Machine.execDisable p s
  | .swapThreshold p lane errors => Sys2Proof.Machine.execSwapThreshold p lane errors s
  | .swapReq p v => Sys2Proof.Machine.execSwapReq p v s
  | .immediateSwapTrigger p lane => Sys2Proof.Machine.execImmediateSwapTrigger p lane s
  | .swapSwitch p => Sys2Proof.Machine.execSwapSwitch p s
  | .flumeEgressPacket p pkt => Sys2Proof.Machine.execFlumeEgressPacket p pkt s
  | .flumeIngressPacket p pkt => Sys2Proof.Machine.execFlumeIngressPacket p pkt s
  | .ingressIssue p => Sys2Proof.Machine.execIngressIssue p s
  | .groupCfgWrite v => Sys2Proof.Machine.execGroupCfgWrite v s
  | .flumeRouteWrite n v => Sys2Proof.Machine.execFlumeRouteWrite n v s
  | .windowOpen => Sys2Proof.Machine.execWindowOpen s
  | .getS node line => Sys2Proof.Machine.execGetS node line s
  | .getM node line => Sys2Proof.Machine.execGetM node line s
  | .evictClean node line => Sys2Proof.Machine.execEvictClean node line s
  | .evictDirty node line data => Sys2Proof.Machine.execEvictDirty node line data s
  | .homeOp node line op word operand compare => Sys2Proof.Machine.execHomeOp node line op word operand compare s
  | .homeTxnStart line => Sys2Proof.Machine.execHomeTxnStart line s
  | .snpShare home line => Sys2Proof.Machine.execSnpShare home line s
  | .snpInv home line => Sys2Proof.Machine.execSnpInv home line s
  | .snpAck node line crossed => Sys2Proof.Machine.execSnpAck node line crossed s
  | .snpData node line crossed data => Sys2Proof.Machine.execSnpData node line crossed data s
  | .dataS home line data => Sys2Proof.Machine.execDataS home line data s
  | .dataM home line data => Sys2Proof.Machine.execDataM home line data s
  | .evictAck home line => Sys2Proof.Machine.execEvictAck home line s
  | .homeResult home line old status => Sys2Proof.Machine.execHomeResult home line old status s
  | .ledgerOpGo slot v => Sys2Proof.Machine.execLedgerOpGo slot v s
  | .ledgerOpTimeout slot => Sys2Proof.Machine.execLedgerOpTimeout slot s
  | .nodeGoneSet v => Sys2Proof.Machine.execNodeGoneSet v s
  | .goneDone => Sys2Proof.Machine.execGoneDone s
  | .vaultRead cws => Sys2Proof.Machine.execVaultRead cws s
  | .vaultWrite cws => Sys2Proof.Machine.execVaultWrite cws s
  | .vaultFormat v factoryBad => Sys2Proof.Machine.execVaultFormat v factoryBad s
  | .vaultEnable v => Sys2Proof.Machine.execVaultEnable v s
  | .wearLevelMove boot => Sys2Proof.Machine.execWearLevelMove boot s
  | .readDisturbReloc block => Sys2Proof.Machine.execReadDisturbReloc block s
  | .retentionPatrol block cw => Sys2Proof.Machine.execRetentionPatrol block cw s
  | .chunkVerify section_ chunk cws => Sys2Proof.Machine.execChunkVerify section_ chunk cws s
  | .porAssert => Sys2Proof.Machine.execPorAssert s
  | .porRelease => Sys2Proof.Machine.execPorRelease s
  | .spindleLock => Sys2Proof.Machine.execSpindleLock s
  | .fuseLoad => Sys2Proof.Machine.execFuseLoad s
  | .resetTest o => Sys2Proof.Machine.execResetTest o s
  | .granaryBootClear => Sys2Proof.Machine.execGranaryBootClear s
  | .bootRomNandInit g => Sys2Proof.Machine.execBootRomNandInit g s
  | .firmwareVerify cws => Sys2Proof.Machine.execFirmwareVerify cws s
  | .firmwareInit => Sys2Proof.Machine.execFirmwareInit s
  | .vaultMount => Sys2Proof.Machine.execVaultMount s
  | .gristSelect => Sys2Proof.Machine.execGristSelect s
  | .sluiceCheck => Sys2Proof.Machine.execSluiceCheck s
  | .bootStream => Sys2Proof.Machine.execBootStream s
  | .bootSluiceProgram => Sys2Proof.Machine.execBootSluiceProgram s
  | .bootSluiceRefresh m => Sys2Proof.Machine.execBootSluiceRefresh m s
  | .softReset v => Sys2Proof.Machine.execSoftReset v s
  | .lockLost => Sys2Proof.Machine.execLockLost s
  | .thermalTrip tj => Sys2Proof.Machine.execThermalTrip tj s
  | .thermWarn tj => Sys2Proof.Machine.execThermWarn tj s
  | .perst => Sys2Proof.Machine.execPerst s
  | .clpTrigEdge p => Sys2Proof.Machine.execClpTrigEdge p s
  | .trig c => Sys2Proof.Machine.execTrig c s
  | .stop c => Sys2Proof.Machine.execStop c s
  | .attackEnd c => Sys2Proof.Machine.execAttackEnd c s
  | .sustainEnd c => Sys2Proof.Machine.execSustainEnd c s
  | .brakeEmfSample v => Sys2Proof.Machine.execBrakeEmfSample v s
  | .brakingEnd c => Sys2Proof.Machine.execBrakingEnd c s
  | .clapLoad => Sys2Proof.Machine.execClapLoad s
  | .touchReading r => Sys2Proof.Machine.execTouchReading r s
  | .evtPop => Sys2Proof.Machine.execEvtPop s
  | .assayRun => Sys2Proof.Machine.execAssayRun s
  | .lbistComplete signature expected => Sys2Proof.Machine.execLbistComplete signature expected s
  | .mbistComplete o => Sys2Proof.Machine.execMbistComplete o s
  | .prbsComplete errors bits => Sys2Proof.Machine.execPrbsComplete errors bits s
  | .fieldSliceTimer => Sys2Proof.Machine.execFieldSliceTimer s
  | .urgentMillsWrite v => Sys2Proof.Machine.execUrgentMillsWrite v s
  | .advance v => Sys2Proof.Machine.execAdvance v s
  | .newNonce v random => Sys2Proof.Machine.execNewNonce v random s
  | .tokenGo v => Sys2Proof.Machine.execTokenGo v s
  | .tokenVerifyDone => Sys2Proof.Machine.execTokenVerifyDone s
  | .bootDoorbell v => Sys2Proof.Machine.execBootDoorbell v s
  | .idcode => Sys2Proof.Machine.execIdcode s
  | .samplePreload pins preload => Sys2Proof.Machine.execSamplePreload pins preload s
  | .extest pins preload => Sys2Proof.Machine.execExtest pins preload s
  | .extestPulse pins preload => Sys2Proof.Machine.execExtestPulse pins preload s
  | .extestTrain pins preload => Sys2Proof.Machine.execExtestTrain pins preload s
  | .clamp => Sys2Proof.Machine.execClamp s
  | .highz => Sys2Proof.Machine.execHighz s
  | .assayAccess => Sys2Proof.Machine.execAssayAccess s
  | .lcAdvance target => Sys2Proof.Machine.execLcAdvance target s
  | .bypass code => Sys2Proof.Machine.execBypass code s
  | .unitState => Sys2Proof.Machine.execUnitState s
  | .resetUnit => Sys2Proof.Machine.execResetUnit s
  | .drainComplete u => Sys2Proof.Machine.execDrainComplete u s
  | .drainTimeout u => Sys2Proof.Machine.execDrainTimeout u s
  | .svcIsolate u => Sys2Proof.Machine.execSvcIsolate u s
  | .svcReset u => Sys2Proof.Machine.execSvcReset u s
  | .svcReinit u => Sys2Proof.Machine.execSvcReinit u s
  | .svcRejoin u => Sys2Proof.Machine.execSvcRejoin u s
  | .unitMgmtForce master u v => Sys2Proof.Machine.execUnitMgmtForce master u v s
  | .stateAudit => Sys2Proof.Machine.execStateAudit s
  | .fwStage => Sys2Proof.Machine.execFwStage s
  | .millerFailover => Sys2Proof.Machine.execMillerFailover s
  | .mbPorstRelease m strap flat => Sys2Proof.Machine.execMbPorstRelease m strap flat s
  | .mbRstAssert m => Sys2Proof.Machine.execMbRstAssert m s
  | .mbRstRelease m flat => Sys2Proof.Machine.execMbRstRelease m flat s
  | .mbIso m level => Sys2Proof.Machine.execMbIso m level s
  | .mbClear m v => Sys2Proof.Machine.execMbClear m v s
  | .grResponse m tag st row parityOk => Sys2Proof.Machine.execGrResponse m tag st row parityOk s
  | .recordRamWrite m off v => Sys2Proof.Machine.execRecordRamWrite m off v s
  | .bar0Read off dws be prompt => Sys2Proof.Machine.execBar0Read off dws be prompt s
  | .bar0Write off dws be v prompt => Sys2Proof.Machine.execBar0Write off dws be v prompt s
  | .bar2Read off len => Sys2Proof.Machine.execBar2Read off len s
  | .bar2Write off data => Sys2Proof.Machine.execBar2Write off data s
  | .conv2d m => Sys2Proof.Machine.execConv2d m s
  | .mbPorstAssert m => Sys2Proof.Machine.execMbPorstAssert m s
  | .ckSluTick => Sys2Proof.Machine.execCkSluTick s
  | .busOffRecoveryDone n => Sys2Proof.Machine.execBusOffRecoveryDone n s
  | .standbyReady => Sys2Proof.Machine.execStandbyReady s
  | .perstRelease => Sys2Proof.Machine.execPerstRelease s

end Sys2Proof.Machine
end

