-- ==== Sys2Proof/Safety.lean ====
section
/-! DEFINITION. What counts as a safe run, in the terms the statements use: commands within the ratings, no stop, storage in its
canonical form. -/

namespace Sys2Proof.Machine

/-- The command drives no pin beyond its rating (20 R461): the only ground on which a step stops. -/
def withinRating : Instr → Bool
  | .vppSluRise mv => decide (mv ≤ 3800)
  | .vppSluFall mv => decide (mv ≤ 3800)
  | _ => true

/-- Every waiting command is within the ratings. -/
def ratingsHold (s : State) : Bool := s.pending.all withinRating

/-- A step that goes on. -/
def goesOn (o : Result) : Bool :=
  match o with
  | .next _ => true
  | .fault _ => false
  | .refused _ => false

/-- Every byte store of a Mill is in canonical form. -/
def Mill.stored (m : Mill) : Bool := Memory.wf m.purses && Memory.wf m.mb.recordRam

/-- Every addressed store of the block is in canonical form: Granary and Hoppers, Purses and record RAMs, the Vault's NAND, the
Clapper's library, the MSI-X table, the ledger's home store. -/
def storesOk (s : State) : Bool :=
  Memory.wf s.mem && s.mills.all Mill.stored && Memory.wf s.vault.boot && Memory.wf s.vault.dataPart
    && s.vault.anchors.all Memory.wf && Memory.wf s.clapper.library && Memory.wf s.net.msixTable && sWf s.ledger.store

/-- The state after `n` steps of the queue, while they go on. -/
def runSteps : Nat → State → Result
  | 0, s => .next s
  | n + 1, s =>
    match step s with
    | .next t => runSteps n t
    | o => o

/-- The block is out of reset: PORST_N is high and no full reset is in force (18 R426). -/
abbrev State.up (s : State) : Prop := s.service.inReset = false

/-- Every row that a range of bytes touches can be accessed by the Mill `own` (none: another initiator): its unit answers and
it holds no poisoned word. -/
def rowsOk (s : State) (own : Option MillId) (a len : Nat) : Prop := ∀ r ∈ rowsOf a len, rowStatus s own r = .ok

/-! ### What reporting changes

Completing a docket posts a receipt, raises a Bell, may end an instance and notify the Spigot, and a Bell may release chutes,
band-ring slots and waiting dockets. The statements say of a command what it does before that, and that what follows is such
reporting. -/

/-- An address lies in no chute's receipt ring. -/
def outsideReceipts (s : State) (a : Nat) : Prop :=
  ∀ c : ChuteId, a < (s.control.chutes[c.val]).rcpt.toNat ∨
    (s.control.chutes[c.val]).rcpt.toNat + 32 * (s.control.chutes[c.val]).depth ≤ a

/-- What reporting leaves of a chute: its registers and its host's counters; dockets only leave it, and those of doorbell mode
that are not handed out stay. -/
structure chuteReported (a b : Chute) : Prop where
  rest : b = { a with rcptTail := b.rcptTail, rcptFail := b.rcptFail, rcptWait := b.rcptWait, releases := b.releases, overruns := b.overruns,
                      readAt := b.readAt, pending := b.pending, out := b.out, held := b.held, inst := b.inst, pendRel := b.pendRel,
                      ordinal := b.ordinal }
  read : (b.pending.map fun p => (p.words, p.fault, p.inst)).Sublist (a.pending.map fun p => (p.words, p.fault, p.inst))
  waiting : (b.pending.filter (!·.inst)).map (fun p => (p.words, p.fault)) = (a.pending.filter (!·.inst)).map (fun p => (p.words, p.fault))
  out : (b.out.map (·.id)).Sublist (a.out.map (·.id))

/-- What reporting leaves of a bank: everything but the rows whose CE write-back a whole-row write has cancelled. -/
def bankReported (a b : Bank) : Prop := b = { a with ceRows := b.ceRows }

/-- What reporting leaves of a Mill: everything but the error counters of its Hopper. -/
def millReported (a b : Mill) : Prop :=
  b = { a with regs := { a.regs with hopCe := b.regs.hopCe, hopUe := b.regs.hopUe, memErrLog := b.regs.memErrLog } }

/-- What reporting leaves of a camera port. -/
def portReported (a b : CamPort) : Prop := b = { a with heldSlots := b.heldSlots, counters := b.counters }

/-- From `s` to `t` nothing has happened but reporting: receipts, Bells, releases, notices, and the memory errors that a
refused receipt row records. -/
structure Reported (s t : State) : Prop where
  rest : t = { s with mem := t.mem, mills := t.mills, control := t.control, granary := t.granary, gauge := t.gauge,
                      spigot := t.spigot }
  mills : ∀ m : MillId, millReported s.mills[m.val] t.mills[m.val]
  control : t.control = { s.control with chutes := t.control.chutes, bells := t.control.bells, bellLost := t.control.bellLost,
                                         msix := t.control.msix, aborts := t.control.aborts,
                                         scoreboard := t.control.scoreboard }
  chutes : ∀ c : ChuteId, chuteReported s.control.chutes[c.val] t.control.chutes[c.val]
  granary : t.granary = { s.granary with poison := t.granary.poison, banks := t.granary.banks, ceCount := t.granary.ceCount,
                                         ueCount := t.granary.ueCount, errLog := t.granary.errLog,
                                         errTime := t.granary.errTime, errPend := t.granary.errPend }
  banks : ∀ b : BankId, bankReported s.granary.banks[b.val] t.granary.banks[b.val]
  gauge : t.gauge = { s.gauge with ports := t.gauge.ports }
  ports : ∀ p : CamId, portReported s.gauge.ports[p.val] t.gauge.ports[p.val]
  spigot : t.spigot = { s.spigot with chans := t.spigot.chans, nodes := t.spigot.nodes, counters := t.spigot.counters }
  mem : ∀ a, outsideReceipts s a → readByte t.mem a = readByte s.mem a
  canonical : Memory.wf s.mem = true → Memory.wf t.mem = true

end Sys2Proof.Machine
end

