-- ==== Sys2Proof/Certificates/Slice0/Obligations.lean ====
section
/-! DEFINITION. The statements for the provers, in the order of OBLIGATIONS.json. `s.up` says that no full reset is in force;
`Reported u t` that from `u` to `t` nothing has happened but reporting (receipts, Bells and what they release). Where a
conclusion is an equation with the next state, everything it does not name stands. -/

open Sys2Proof Sys2Proof.Machine

/-! ### The queue, reset and the whole block -/

/-- A step runs the command at the front of the queue on the state with the rest of the queue; with none it idles (the
model's choice). -/
def Obligations.StepRunsTheFrontCommand : Prop :=
  (∀ (c : Instr) (rest : List Instr) (s : State), s.pending = c :: rest → step s = exec c { s with pending := rest }) ∧
  (∀ s : State, s.pending = [] → step s = .next s)

/-! ### Chutes, dockets and Bells (06) -/

/-- 06 R140 items 1 and 6: a doorbell moves its counter only within the ring; any other value sets DB_REJ and nothing else. -/
def Obligations.DoorbellsStayWithinTheRing : Prop :=
  ∀ (s : State) (c : ChuteId) (v : BitVec 16), s.up →
    let ch := s.control.chutes[c.val]
    ((v - ch.tail).toNat ≤ ch.depth - (ch.tail - ch.head).toNat →
      exec (.dbTail c v) s = .next (onChute s c fun ch => { ch with tail := v })) ∧
    (¬ (v - ch.tail).toNat ≤ ch.depth - (ch.tail - ch.head).toNat →
      exec (.dbTail c v) s = .next (onChute s c fun ch => { ch with dbRej := true })) ∧
    ((v - ch.rcptHead).toNat ≤ (ch.rcptTail - ch.rcptHead).toNat →
      ∃ t, exec (.dbRcpt c v) s = .next t ∧ Reported (onChute s c fun ch => { ch with rcptHead := v }) t ∧
        (ch.rcptWait = [] → s.granary.errPend = false → t = onChute s c fun ch => { ch with rcptHead := v })) ∧
    (¬ (v - ch.rcptHead).toNat ≤ (ch.rcptTail - ch.rcptHead).toNat → s.granary.errPend = false →
      exec (.dbRcpt c v) s = .next (onChute s c fun ch => { ch with dbRej := true }))

/-- 06 R140 items 2 and 7: a docket read appends the sixteen words of its ring slot, and a network status that is not OK
completes the docket with its receipt status and RING_READ. -/
def Obligations.DocketReadTakesTheRingSlot : Prop :=
  ∀ (s : State) (c : ChuteId) (slot : BitVec 16), s.up →
    let ch := s.control.chutes[c.val]
    let a := ch.ring.toNat + slot.toNat % ch.depth * 64
    let words : DocketWords := .ofFn fun i => readW s.mem (a + 4 * i.val)
    ch.en = true → (∀ p ∈ ch.pending, p.fault = .ok) → rowsOk s none a 64 →
    (ch.relMode = 0 → ch.inst = none → ch.readAt ≠ ch.tail → slot = ch.readAt →
      (∃ t, exec (.docketRead c .ok) s = .next t ∧
        Reported (onChute s c fun ch =>
          { ch with pending := ch.pending ++ [{ words := words, fault := .ok, waitOk := false, waitFrom := none, inst := false }],
                    readAt := ch.readAt + 1 }) t) ∧
      (∀ net : NetStatus, net ≠ .ok → ch.pending = [] →
        exec (.docketRead c net) s = .next (settleErr (checkWaits
          (controllerDone (advanceHead (onChute s c fun ch => { ch with readAt := ch.readAt + 1 }) c) c
            { words := .replicate 16 0, fault := net, waitOk := false, waitFrom := none, inst := false } (netReceipt net).1 0x17))))) ∧
    (∀ i : Instance, ch.relMode ≠ 0 → ch.inst = some i → i.next ≠ i.stop → slot = i.next →
      ∃ t, exec (.docketRead c .ok) s = .next t ∧
        Reported (onChute s c fun ch =>
          { ch with pending := ch.pending ++ [{ words := words, fault := .ok, waitOk := false, waitFrom := none, inst := true }],
                    inst := some { i with next := i.next + 1 } }) t)

/-- 06 R141: what a write of CH_CFG does, whichever of its rows brings it. -/
def Obligations.ChuteConfigurationFollowsItsRules : Prop :=
  ∀ (s : State) (c : ChuteId) (v : Word), s.up → s.granary.errPend = false →
    let ch := s.control.chutes[c.val]
    let six := v &&& 0x7FF70000 = ch.cfg &&& 0x7FF70000
    -- EN from 0 to 1 with no docket outstanding: counters and receipt ring are zeroed
    (ch.en = false → bitOf v 31 = true → ch.outstanding = 0 →
      ∃ t, exec (.chuteEnable c v) s = .next t ∧
        let ch' := t.control.chutes[c.val]
        Reported (onChute s c fun ch =>
          { ch with cfg := v, head := 0, tail := 0, rcptHead := 0, rcptTail := 0, readAt := 0, pending := [], rcptWait := [],
                    inst := none, pendRel := none, held := false, ordinal := 0, nextRel := ch'.nextRel }) t ∧
        (rowsOk s none ch.rcpt.toNat (32 * ch'.depth) → Memory.wf s.mem = true →
          ch'.rcptTail = 0 ∧ ch'.inst = none ∧ ch'.held = false ∧
          (∀ d : ChuteId, d ≠ c → t.control.chutes[d.val] = s.control.chutes[d.val]) ∧
          (∀ i, i < 32 * ch'.depth → readByte t.mem (ch.rcpt.toNat + i) = 0) ∧
          (∀ a, (a < ch.rcpt.toNat ∨ ch.rcpt.toNat + 32 * ch'.depth ≤ a) → readByte t.mem a = readByte s.mem a))) ∧
    -- EN from 1 to 0: everything read and not handed out completes with CHUTE_DISABLED
    (ch.en = true → bitOf v 31 = false → six →
      (ch.pending = [] → exec (.chuteDisable c v) s = .next (onChute s c fun ch =>
        { ch with cfg := v, inst := none, held := false, pendRel := none, nextRel := none })) ∧
      (∃ t, exec (.chuteDisable c v) s = .next t ∧
        let ch' := t.control.chutes[c.val]
        ch'.cfg = v ∧ ch'.pending = [] ∧
        ch'.head = ch.head + BitVec.ofNat 16 (ch.pending.filter (!·.inst)).length)) ∧
    -- neither EN nor the six fields change: accepted at any time
    (ch.en = bitOf v 31 → six → exec (.chuteReconfigure c v) s = .next (onChute s c fun ch => { ch with cfg := v })) ∧
    -- an enable or a change of the six fields while EN reads 1 or a docket is outstanding: refused as a whole
    ((ch.en = true ∨ ch.outstanding ≠ 0) → ((ch.en = false ∧ bitOf v 31 = true) ∨ ¬ six) →
      exec (.chuteEnable c v) s = .next (onChute s c fun ch => { ch with cfgRej := true }) ∧
      exec (.chuteDisable c v) s = .next (onChute s c fun ch => { ch with cfgRej := true }) ∧
      exec (.chuteReconfigure c v) s = .next (onChute s c fun ch => { ch with cfgRej := true }))

/-- 06 R149: a write of PHASE's high word or of PERIOD_NS sets the next release time of an enabled timer chute to the smallest
PHASE + n * PERIOD_NS at or after the present device time. -/
def Obligations.TimerWritesSetTheNextReleaseTime : Prop :=
  ∀ (s : State) (c : ChuteId) (v : Word), s.up →
    let ch := s.control.chutes[c.val]
    let first := fun (phase : Word64) (period : Word) (t : State) =>
      (ch.en = true → ch.relMode = 1 → period ≠ 0 → phase.toNat + (now s).toNat + period.toNat < 2 ^ 64 →
        ∃ r : Word64, (t.control.chutes[c.val]).nextRel = some r ∧
          (∃ n, r.toNat = phase.toNat + n * period.toNat) ∧ (now s).toNat ≤ r.toNat ∧
          (∀ n, (now s).toNat ≤ phase.toNat + n * period.toNat → r.toNat ≤ phase.toNat + n * period.toNat)) ∧
      ((ch.en = false ∨ ch.relMode ≠ 1 ∨ period = 0) → (t.control.chutes[c.val]).nextRel = none)
    (∃ t, exec (.phaseHiWrite c v) s = .next t ∧
      let phase := v ++ ch.phaseLo
      t = onChute s c (fun ch => { ch with phase := phase, nextRel := (t.control.chutes[c.val]).nextRel }) ∧
      first phase ch.period t) ∧
    (∃ t, exec (.periodNsWrite c v) s = .next t ∧
      t = onChute s c (fun ch => { ch with period := v, nextRel := (t.control.chutes[c.val]).nextRel }) ∧ first ch.phase v t)

/-- 06 R148, R149, R150, Table 6.7: a timer release starts an instance of the program, or is an overrun handled by
OVR_POLICY; a held release starts when the old instance has completed. -/
def Obligations.ReleasesAndOverruns : Prop :=
  ∀ (s : State) (c : ChuteId), s.up → s.granary.errPend = false →
    let ch := s.control.chutes[c.val]
    (∀ r : Word64, ch.en = true → ch.relMode = 1 → ch.nextRel = some r → r ≤ now s →
      ∃ t, exec (.timerRelease c) s = .next t ∧
        let ch' := t.control.chutes[c.val]
        (r.toNat + ch.period.toNat ≥ (now s).toNat → ch.period ≠ 0 → ch'.nextRel = some (r + ch.period.zeroExtend 64)) ∧
        Reported (onChute s c fun ch => { ch with nextRel := ch'.nextRel }) t ∧
        (ch.inst = none → ch.held = false → ch.head ≠ ch.tail →
          ch'.inst = some { next := ch.head, stop := ch.tail, aborting := false } ∧ ch'.releases = bump ch.releases ∧
          ch'.overruns = ch.overruns ∧ ch'.head = ch.head) ∧
        (∀ i, ch.inst = some i → ch.policy = 2 → ch.held = false →
          ch'.held = true ∧ ch'.inst = some i ∧ ch'.releases = bump ch.releases ∧ ch'.overruns = bump ch.overruns)) ∧
    (∀ i, ch.inst = some i → ch.policy = 1 →
      ∃ u, release s c = skipReceipt u c (ch.ordinal + 1) ∧
        u = onChute s c fun ch => { ch with releases := bump ch.releases, ordinal := ch.ordinal + 1, overruns := bump ch.overruns }) ∧
    (∀ i, ch.inst = some i → ch.policy = 0 → i.aborting = false → (ch.out.any (·.inst)) = true →
      let u := release s c
      let ch' := u.control.chutes[c.val]
      ch'.inst = some { i with next := i.stop, aborting := true } ∧ ch'.pending = ch.pending.filter (!·.inst) ∧
      ch'.overruns = bump ch.overruns ∧ ch'.pendRel = some (ch.ordinal + 1) ∧ (∀ o ∈ ch'.out, o.inst = true → o.stop = some .overrun)) ∧
    (ch.held = true → ch.inst = none → ch.head ≠ ch.tail → ch.en = true →
      exec (.heldReleaseStart c) s = .next (onChute s c fun ch =>
        { ch with held := false, pendRel := none, inst := some { next := ch.head, stop := ch.tail, aborting := false }, readAt := ch.head }))

/-- 06 R155: Bells set and cleared by the host, and the dockets the controller executes itself. -/
def Obligations.BellsAndControllerDockets : Prop :=
  ∀ (s : State), s.up →
    -- BELL_SET: the Bells are set, those set before are counted as lost; with nothing that releases or waits, nothing else changes
    (∀ (g : Fin 8) (v : Word), ∃ t, exec (.bellSetWrite g v) s = .next t ∧ Reported s t ∧
      ((∀ c : ChuteId, (s.control.chutes[c.val]).pending = [] ∧ (s.control.chutes[c.val]).relMode ≠ 2) →
        (∀ p : CamId, (s.gauge.ports[p.val]).ring = none) → s.granary.errPend = false →
        t = onControl s fun k =>
          { k with bells := k.bells ||| groupBells g.val v,
                   bellLost := bump k.bellLost (setBits (groupBells g.val v &&& k.bells)).length })) ∧
    (∀ (g : Fin 8) (v : Word), exec (.bellClrWrite g v) s =
      .next (onControl s fun k => { k with bells := k.bells &&& ~~~(groupBells g.val v) })) ∧
    -- FENCE, WAIT_EVENT, SIGNAL at the head of a chute, past their waits, fences and checks
    (∀ (c : ChuteId) (p : Pending) (rest : List Pending),
      let ch := s.control.chutes[c.val]
      let after := onControl (popHead s c) fun k => { k with nextId := k.nextId + 1 }
      ch.en = true → ch.pending = p :: rest → (∀ q ∈ ch.pending, q.fault = .ok) → headReady ch p = true →
      docketCheck s c p.words = none → ch.outstanding < ch.depth →
      (wOpcode p.words = some .fence → ch.out = [] → ∃ t, exec (.fence c) s = .next t ∧ Reported after t) ∧
      (wOpcode p.words = some .waitEvent → ∃ t, exec (.waitEvent c) s = .next t ∧ Reported after t) ∧
      (wOpcode p.words = some .signal → ∃ t, exec (.signal c) s = .next t ∧ Reported after t ∧
        let b := groupBells (bitsOf p.words[4] 2 0) p.words[5]
        t = settleErr (settleHead (controllerDone
          (if bitOf p.words[4] 31 then clearBells (popHead s c) b else raiseBells (popHead s c) b) c p stOk 0) c))) ∧
    -- a wait whose interval has ended completes with TIMEOUT and WAIT_EXPIRED
    (∀ (c : ChuteId) (p : Pending) (rest : List Pending) (t0 : Word64),
      let ch := s.control.chutes[c.val]
      ch.pending = p :: rest → p.waitOk = false → p.waitFrom = some t0 → ch.waitTimeout ≠ 0 →
      t0.toNat / 1000 + ch.waitTimeout.toNat + 1 ≤ (now s).toNat / 1000 →
      exec (.waitTimeoutExpire c) s =
        .next (settleErr (settleHead (controllerDone (popHead s c) c p stTimeout 0x07) c)))

/-- 06 R485: the controller's checks, in their order: the first that fails gives status and subcode. -/
def Obligations.ControllerChecksKeepTheirOrder : Prop :=
  ∀ (s : State) (c : ChuteId) (w : DocketWords),
    let ch := s.control.chutes[c.val]
    (wOpcode w = none → docketCheck s c w = some (stFormat, 0x02)) ∧
    (∀ o, wOpcode w = some o →
      let urgentFw := o.isFirmware = true ∧ ch.cls = 3
      let mask := badMask o (wMask w) = true
      let np := wPreemptible w = false ∧ ch.cls ≠ 3 ∧ wMask w &&& s.control.urgentMills ≠ 0
      let ctx := (s.control.ctx[(wContext w).val]).valid = false
      let tenant := badTenant s ch o w = true
      let offline := ¬ ∀ u ∈ targetUnits o w, unitTakes s u = true
      (urgentFw → docketCheck s c w = some (stFormat, 0x06)) ∧
      (¬ urgentFw → mask → docketCheck s c w = some (stFormat, 0x15)) ∧
      (¬ urgentFw → ¬ mask → np → docketCheck s c w = some (stFormat, 0x05)) ∧
      (¬ urgentFw → ¬ mask → ¬ np → ctx → docketCheck s c w = some (stBound, 0x03)) ∧
      (¬ urgentFw → ¬ mask → ¬ np → ¬ ctx → tenant → docketCheck s c w = some (stBound, 0x04)) ∧
      (¬ urgentFw → ¬ mask → ¬ np → ¬ ctx → ¬ tenant → offline → docketCheck s c w = some (stOffline, 0)))

/-- 06 R140 item 3, R143, R146, R485: the head docket of the first chute in hand-out order that has one: a failing check
completes it there; otherwise it is handed to its targets. -/
def Obligations.HandOutReachesTheTargets : Prop :=
  ∀ (s : State) (c : ChuteId) (p : Pending) (rest : List Pending) (before after : List ChuteId), s.up →
    let ch := s.control.chutes[c.val]
    let j := jobOf s c p.words
    let out := outOf s.control.nextId p.words
    let ends := fun (f : State → State) (mills : List MillId) (others : Nat) =>
      ∃ t, exec .handOut s = .next t ∧
        Reported (rotate (f (onChute (popHead (onControl s fun k => { k with nextId := k.nextId + 1 }) c) c fun ch =>
          { ch with out := ch.out ++ [out mills others p.inst (now s)] })) c) t
    handOutOrder s.control = before ++ c :: after → (∀ d ∈ before, (s.control.chutes[d.val]).pending = []) →
    ch.pending = p :: rest → (∀ q ∈ ch.pending, q.fault = .ok) → headReady ch p = true →
    -- a failing check
    (∀ st sub, docketCheck s c p.words = some (st, sub) →
      exec .handOut s = .next (settleErr (rotate (settleHead (controllerDone (popHead s c) c p st sub) c) c))) ∧
    (docketCheck s c p.words = none → ch.outstanding < ch.depth →
      (ch.sync = true → scoreboardHolds s p.words
        (if (wOpcode p.words).any (·.onMills) then maskMills (wMask p.words) else []) = false) →
      -- Mills: one HANDOUT message each, with the windows, class and tenant of the docket; in scoreboard mode its outputs' ranges
      (∀ o, wOpcode p.words = some o → o.onMills = true →
        (∀ m ∈ maskMills (wMask p.words), (slotFor s.control m ch.cls).isSome = true) →
        ends (fun u => (maskMills (wMask p.words)).foldl (sendHandout c j.id j) u) (maskMills (wMask p.words)) 0 ∧
        (ch.sync = true → s.granary.errPend = false → ∃ t, exec .handOut s = .next t ∧
          ∀ m ∈ maskMills (wMask p.words), t.control.scoreboard[m.val] = s.control.scoreboard[m.val] ++
            (docketRanges s p.words j.win m.val).2.map fun r => { id := j.id, lo := r.1, hi := r.2 })) ∧
      -- firmware: the queue of 16
      (∀ o, wOpcode p.words = some o → o.isFirmware = true → s.control.fwQueue.length < 16 →
        ends (fun u => onControl u fun k => { k with fwQueue := k.fwQueue ++ [j] }) [] 1) ∧
      -- FILL and COPY: the bank engine of the quad
      ((wOpcode p.words = some .copy ∨ wOpcode p.words = some .fill) →
        ends (fun u => onGran u fun g => { g with engineQ := vmod g.engineQ (engineQuad s j) fun q => q ++ [j] }) [] 1) ∧
      (wOpcode p.words = some .gaugeArm → ends (fun u => onGauge u fun g => { g with queue := g.queue ++ [j] }) [] 1) ∧
      -- a Weir, by its credits
      ((wOpcode p.words = some .solve ∨ wOpcode p.words = some .solveDelta ∨ wOpcode p.words = some .weirBind) →
        weirCredit (s.weirs[(fin 2 p.words[4].toNat : WeirId).val]) ch.cls = true →
        ends (fun u => onWeir u (fin 2 p.words[4].toNat) fun x => { x with queue := x.queue ++ [j] }) [] 1))

/-- 06 R137, R140 item 5, R142: a receipt is written at RCPT_TAIL with its PHASE bit, RCPT_TAIL advances, and MSI-X is sent
only for a receipt whose row was written; with the ring full of unconsumed receipts it waits. -/
def Obligations.ReceiptsAreWrittenAtTheTail : Prop :=
  ∀ (s : State) (r : DoneMsg),
    let ch := s.control.chutes[r.chute.val]
    let a := ch.rcpt.toNat + ch.rcptTail.toNat % ch.depth * 32
    let phase := decide (ch.rcptTail.toNat / ch.depth % 2 = 0)
    Reported s (postReceipt s r) ∧
    (ch.unconsumed < ch.depth → ch.rcptWait = [] → rowsOk s none a 32 → Memory.wf s.mem = true →
      let t := postReceipt s r
      let ch' := t.control.chutes[r.chute.val]
      readBytes t.mem a 32 = receiptBytes phase r ∧ ch'.rcptTail = ch.rcptTail + 1 ∧ ch'.rcptFail = ch.rcptFail ∧
      t.control.msix = (if ch.irqEn && !s.net.perst then [ch.vec] else []) ++ s.control.msix) ∧
    (ch.unconsumed < ch.depth → ch.rcptWait = [] → ch.rcpt.toNat % 512 = 0 → placeStatus s none a ≠ .ok →
      let t := postReceipt s r
      let ch' := t.control.chutes[r.chute.val]
      t.mem = s.mem ∧ ch'.rcptTail = ch.rcptTail + 1 ∧ ch'.rcptFail = true ∧ t.control.msix = s.control.msix) ∧
    (¬ ch.unconsumed < ch.depth → postReceipt s r = onChute s r.chute fun ch => { ch with rcptWait := ch.rcptWait ++ [r] })

/-- 06 R147, 05 R120: TENANT_SWITCH clears its drained Mills; when the last clear has ended MILL_TENANT is written and the
docket completes. -/
def Obligations.TenantSwitchClearsTheMills : Prop :=
  ∀ (s : State) (j : Job) (rest : List Job), s.up →
    let ms := maskMills (wMask j.words)
    (headJob s.control.fwQueue .tenantSwitch = some (j, rest) → s.control.tenantJob = none → ms ≠ [] →
      (∀ m ∈ ms, drained s m = true) → s.granary.errPend = false →
      ∃ t, exec .tenantSwitch s = .next t ∧ t.control = { s.control with fwQueue := rest, tenantJob := some j } ∧
        (∀ m : MillId, m ∈ ms → (t.mills[m.val]).regs.hopClearing = true ∧ (t.mills[m.val]).purses = [] ∧
          (∀ q : QuernId, ((t.mills[m.val]).querns[q.val]).a = QBank.reset ∧ ((t.mills[m.val]).querns[q.val]).b = QBank.reset) ∧
          (s.granary.flat = false → ∀ i, i < 0x00800000 → readByte t.mem (0x1000000000 + m.val * 0x01000000 + i) = 0)) ∧
        (∀ m : MillId, m ∉ ms → t.mills[m.val] = s.mills[m.val]) ∧
        (∀ a, (∀ m ∈ ms, a < 0x1000000000 + m.val * 0x01000000 ∨ 0x1000000000 + m.val * 0x01000000 + 0x00800000 ≤ a) →
          readByte t.mem a = readByte s.mem a)) ∧
    (∀ m : MillId, s.control.tenantJob = some j → m ∈ ms →
      (∀ m' ∈ ms, m' ≠ m → (s.mills[m'.val]).regs.hopClearing = false) →
      ∃ t, exec (.tenantClearDone m) s = .next t ∧
        Reported (onControl (onRegs s m fun r => { r with hopClearing := false }) fun k =>
          { k with tenantJob := none,
                   millTenant := .ofFn fun m => if m ∈ ms then fin 8 j.words[4].toNat else k.millTenant[m.val] }) t) ∧
    (∀ m : MillId, s.control.tenantJob = some j → (∃ m' ∈ ms, m' ≠ m ∧ (s.mills[m'.val]).regs.hopClearing = true) →
      s.granary.errPend = false → exec (.tenantClearDone m) s = .next (onRegs s m fun r => { r with hopClearing := false }))

/-! ### The Mill's messages and its boundary (19) -/

/-- 19 R438, R439, R440: HANDOUT fills the slot it names, is refused from another interface or for a slot that is taken or
closed to its class; ABORT stops what the Mill holds; DONE is merged; BELL and EDGES reach their units. -/
def Obligations.MillMessagesFollowTheirRules : Prop :=
  ∀ (s : State) (m : MillId), s.up → s.granary.errPend = false →
    let x := s.mills[m.val]
    -- HANDOUT
    (∀ (src : NiId) (h : HandoutMsg), (s.net.nis[m.val]).admits = true →
      let u := onControl s fun k => { k with toMills := k.toMills.erase (m, h) }
      (src.val = x.mb.ctrlNi.toNat → x.slots[h.slot.val] = none → slotTakes h.slot.val h.cls = true →
        exec (.handout m src h) s = .next (onMill u m fun x =>
          { x with slots := vmod x.slots h.slot fun _ => some { msg := h, order := x.arrivals }, arrivals := x.arrivals + 1 })) ∧
      (src.val ≠ x.mb.ctrlNi.toNat →
        exec (.handout m src h) s = .next (onMill u m fun x => { x with mb := { x.mb with protoErr := bump x.mb.protoErr } })) ∧
      (src.val = x.mb.ctrlNi.toNat → (x.slots[h.slot.val] ≠ none ∨ slotTakes h.slot.val h.cls = false) →
        (m, h) ∉ s.control.toMills →
        exec (.handout m src h) s = .next (onMill s m fun x => { x with mb := { x.mb with protoErr := bump x.mb.protoErr } }))) ∧
    -- DONE: the last part completes the docket, an earlier one is merged, and a first fault tells the other Mills to stop
    (∀ (r : DoneMsg) (id : Nat) (o : Outstanding),
      (s.control.credits[m.val])[r.slot.val] = some id →
      (s.control.chutes[r.chute.val]).out.find? (fun o => o.id = id && o.mills.contains m) = some o →
      let o' := merge { o with mills := o.mills.filter (· ≠ m) } r
      let u := onControl s fun k =>
        { k with toControl := k.toControl.erase (m, r), credits := vmod k.credits m fun v => vmod v r.slot fun _ => none }
      (o'.mills = [] → o.others = 0 → exec (.done m r) s = .next (settleErr (complete u r.chute o'))) ∧
      (o'.mills ≠ [] → (okStatus r.status = true ∨ okStatus o.status = false ∨ o.stop ≠ none) →
        exec (.done m r) s = .next (onChute u r.chute fun ch =>
          { ch with out := ch.out.map fun y => if y.id = id then o' else y })) ∧
      (o'.mills ≠ [] → okStatus r.status = false → okStatus o.status = true → o.stop = none →
        exec (.done m r) s = .next (onControl (onChute u r.chute fun ch =>
            { ch with out := ch.out.map fun y => if y.id = id then { o' with stop := some .faultElsewhere } else y }) fun k =>
          { k with aborts := k.aborts ++ o'.mills.map fun y => (y, wTag o.words, r.chute, .faultElsewhere) }))) ∧
    -- ABORT: nothing for a tag not held; at once for a docket that does not run; at its boundary for one inside a tile
    (∀ (src : NiId) (tag : BitVec 16) (c : ChuteId) (a : AbortReason), (s.net.nis[m.val]).admits = true →
      src.val = x.mb.ctrlNi.toNat →
      let u := onControl s fun k => { k with aborts := k.aborts.erase (m, tag, c, a) }
      ((∀ (i : Fin 8) (h : Held), x.slots[i.val] = some h → ¬ (wTag h.msg.docket = tag ∧ h.msg.chute = c)) →
        exec (.abort m src tag c a) s = .next u) ∧
      (∀ (i : Fin 8) (h : Held), x.slots[i.val] = some h → wTag h.msg.docket = tag → h.msg.chute = c →
        (∀ (j : Fin 8) (g : Held), x.slots[j.val] = some g → wTag g.msg.docket = tag → g.msg.chute = c → j = i) →
        h.msg.slot = i →
        (x.running = none → x.preempted = [] → x.mb.iso = false →
          exec (.abort m src tag c a) s = .next (onControl (onMill u m fun x => { x with slots := vmod x.slots i fun _ => none }) fun k =>
            { k with toControl := k.toControl ++ [(m,
                { chute := c, status := abortStatus a, tag := tag, detail := mkDetail 0 (noOperand h.msg.docket) 0, doneTime := now s,
                  startTime := now s, tiles := 0, sat := 0, slot := i })] })) ∧
        (∀ r : Run, x.running = some r → x.preempted = [] → r.slot = i → r.busy = true →
          exec (.abort m src tag c a) s = .next (onMill u m fun x => { x with running := some { r with abort := some a } })))) ∧
    -- BELL
    (∀ b : BellId, exec (.bell m b) s = .next (settleErr (raiseBell s b)) ∧ Reported s (settleErr (raiseBell s b))) ∧
    -- EDGES join the first entry of their docket that still awaits some
    (∀ (c : ChuteId) (slot : Fin 8) (es : List Edge) (before after : List SchedJob) (j : SchedJob),
      s.spigot.queue = before ++ j :: after → j.mill = m → j.chute = c → j.slot = slot → 0 < j.awaiting →
      (∀ k ∈ before, ¬ (k.mill = m ∧ k.chute = c ∧ k.slot = slot ∧ 0 < k.awaiting)) →
      exec (.edges m c slot es) s = .next (onSpigot s fun sp =>
        { sp with flying := sp.flying.erase (m, c, slot, es),
                  queue := before ++ { j with edges := j.edges ++ es, awaiting := j.awaiting - es.length } :: after }))

/-- 19 R435, R437, R442-R445, R448, R450, R451, R456, 05 R120, 17 Table 17.5: the boundary of a Mill: its resets, straps,
clamp and clear, its record RAM and its row port. -/
def Obligations.MillblockBoundaryFollowsItsRules : Prop :=
  ∀ (s : State) (m : MillId), s.up →
    let x := s.mills[m.val]
    let cleared := fun (t : State) => (∀ d : MillId, d ≠ m → t.mills[d.val] = s.mills[d.val]) ∧
      (∀ a, (a < 0x1000000000 + m.val * 0x01000000 ∨ 0x1000000000 + m.val * 0x01000000 + 0x00800000 ≤ a) → readByte t.mem a = readByte s.mem a) ∧
      (s.granary.flat = false → ∀ i, i < 0x00800000 → readByte t.mem (0x1000000000 + m.val * 0x01000000 + i) = 0) ∧
      (∀ q : QuernId, ((t.mills[m.val]).querns[q.val]).a = QBank.reset ∧ ((t.mills[m.val]).querns[q.val]).b = QBank.reset) ∧
      (t.mills[m.val]).purses = []
    let resetMill := fun (t : State) => cleared t ∧
      let y := t.mills[m.val]
      y.regs = { MillRegs.reset with hopPowered := x.regs.hopPowered } ∧ y.slots = .replicate 8 none ∧ y.running = none ∧
      y.preempted = [] ∧ y.sluice.weights = x.sluice.weights ∧ y.sluice.defects = x.sluice.defects ∧ y.sluice.compDone = false ∧
      (∀ f : Fin 128, (y.sluice.fields[f.val]).state =
        if (x.sluice.fields[f.val]).state = .programming then .invalid else (x.sluice.fields[f.val]).state)
    -- MB_PORST_N falls: everything, the record RAM and the interface included
    (∃ t, exec (.mbPorstAssert m) s = .next t ∧ resetMill t ∧
      t = { s with mem := t.mem, granary := { s.granary with poison := t.granary.poison }, mills := t.mills, net := t.net } ∧
      (t.mills[m.val]).mb = { Millblock.reset m with porstN := false, credited := false, iso := x.mb.iso } ∧
      t.net = { s.net with nis := t.net.nis } ∧ (∀ n : NiId, n.val ≠ m.val → t.net.nis[n.val] = s.net.nis[n.val]) ∧
      (t.net.nis[m.val]).routes = .replicate 64 0 ∧ (t.net.nis[m.val]).admits = false) ∧
    -- MB_RST_N falls: the Mill, not its interface, record RAM or outstanding row-port tags
    (∃ t, exec (.mbRstAssert m) s = .next t ∧ resetMill t ∧
      t = { s with mem := t.mem, granary := { s.granary with poison := t.granary.poison }, mills := t.mills } ∧
      (t.mills[m.val]).mb = { x.mb with rstN := false }) ∧
    (∀ (strap : NiId) (flat : Bool), exec (.mbPorstRelease m strap flat) s = .next (onMill s m fun x =>
      { x with mb := { x.mb with porstN := true, niId := strap, credited := true, flat := if x.mb.rstN then flat else x.mb.flat } })) ∧
    (∀ flat : Bool,
      let q := readLe x.mb.recordRam 4 4 % 2 ^ 18
      ∃ t, exec (.mbRstRelease m flat) s = .next t ∧
      (∃ y : Mill, t = onMill s m (fun _ => y) ∧
        y = { x with regs := { x.regs with qmap := if q = 0 then 0x2C688 else BitVec.ofNat 18 q },
                     sluice := { x.sluice with fields := y.sluice.fields, compFault := decide (readW x.mb.recordRam 0 ≠ 0x5245434B) },
                     mb := { x.mb with rstN := true, flat := flat } } ∧
        ∀ f : Fin 128, y.sluice.fields[f.val] = { x.sluice.fields[f.val] with state :=
          if (x.sluice.fields[f.val]).state = .programming then .invalid else (x.sluice.fields[f.val]).state })) ∧
    (∀ level : Bool, exec (.mbIso m level) s = .next (onMill s m fun x => { x with mb := { x.mb with iso := level } })) ∧
    (∀ v : Word, (bitOf v 0 = true → ∃ t, exec (.mbClear m v) s = .next t ∧ cleared t ∧ (t.mills[m.val]).regs.hopClearing = true ∧
        t = { s with mem := t.mem, granary := { s.granary with poison := t.granary.poison }, mills := t.mills }) ∧
      (bitOf v 0 = false → exec (.mbClear m v) s = .next s)) ∧
    -- a row-port response frees its tag; a parity error of a read row counts and acts as UNCORR
    (∀ (tag : Fin 16) (st : Fin 4) (row : List Byte) (parityOk : Bool) (q : RowReq), x.mb.tags[tag.val] = some q →
      let bad := !parityOk && !q.write
      let code : Byte := if st = 2 then stOffline else stUncorr
      let u := onMill s m fun x => { x with mb := { x.mb with tags := vmod x.mb.tags tag fun _ => none, grPar := if bad then bump x.mb.grPar else x.mb.grPar } }
      (((st = 0 ∧ bad = false) ∨ x.mb.rstN = false) → exec (.grResponse m tag st row parityOk) s = .next u) ∧
      (∀ r : Run, ¬ (st = 0 ∧ bad = false) → x.mb.rstN = true → x.running = some r → r.ending = none →
        let e : Ending := { status := code, subcode := 0, operand := BitVec.ofNat 8 (noOperand r.msg.docket) }
        exec (.grResponse m tag st row parityOk) s = .next (onMill u m fun x => { x with running := some { r with ending := some e } }))) ∧
    -- the record RAM is written only while MB_RST_N is low; otherwise the write is answered ERR
    (∀ (off : BitVec 12) (v : Word),
      (x.mb.rstN = true → exec (.recordRamWrite m off v) s = .next (onMill s m fun x => { x with mb := { x.mb with ttErr := true } })) ∧
      (x.mb.rstN = false → ∃ t, exec (.recordRamWrite m off v) s = .next t ∧
        t = onMill s m (fun x => { x with mb := { x.mb with recordRam := (t.mills[m.val]).mb.recordRam, ttErr := false } }) ∧
        (Memory.wf x.mb.recordRam = true → readW (t.mills[m.val]).mb.recordRam (off.toNat / 4 * 4) = v) ∧
        ∀ a, (a < off.toNat / 4 * 4 ∨ off.toNat / 4 * 4 + 4 ≤ a) →
          readByte (t.mills[m.val]).mb.recordRam a = readByte x.mb.recordRam a))

/-! ### Number formats (02) -/

/-- 02 R26, R37, R38: the Winnow's conversion to an output format, with the rounding and the E5M2_INF that the descriptor selects: a NaN becomes the canonical
quiet NaN of a floating-point format (and, R39, a counted 0 of an integer format); a value that lies beyond the largest finite code once rounded becomes
that code with its sign, or infinity for E5M2 under E5M2_INF, and counts as a saturation either way; any other value is not counted. -/
def Obligations.OutputsConvertAndSaturate : Prop :=
  (∀ (d : Desc) (vs : List FVal), d.convert vs = vs.map fun v => d.fm.quantise (bitOf d.fmt 4) (bitOf d.fmt 5) v) ∧
  (∀ (away toInf : Bool),
    (∀ (f : Fmt) (ff : FFmt) (nan max : Nat),
      (f, ff, nan, max) ∈ [(Fmt.e4m3, fE4M3, 0x7F, 0x7E), (.e5m2, fE5M2, 0x7E, 0x7B), (.fp16, fFP16, 0x7E00, 0x7BFF), (.bf16, fBF16, 0x7FC0, 0x7F7F),
        (.fp32, fFP32, 0x7FC00000, 0x7F7FFFFF)] →
      let signed := fun (neg : Bool) (code : Nat) => if neg then 2 ^ (f.bits - 1) + code else code
      let inf := f = .e5m2 ∧ toInf = true
      let limit := fun (neg : Bool) => (signed neg (if inf then 0x7C else max), true, false)
      f.quantise away toInf .nan = (nan, false, false) ∧
      (∀ neg, f.quantise away toInf (.inf neg) = limit neg) ∧
      (∀ neg m e, let r := ff.round away m e
        (magLt ff.maxM ff.maxE r.1 r.2 = true → f.quantise away toInf (.fin neg m e) = limit neg) ∧
        (magLt ff.maxM ff.maxE r.1 r.2 = false → f.quantise away toInf (.fin neg m e) = (signed neg (ff.encodeMag r.1 r.2), false, false))) ∧
      ff.decode max = .fin false ff.maxM ff.maxE) ∧
    (∀ (f : Fmt) (w : Nat), (f, w) ∈ [(Fmt.int4, 4), (.int8, 8), (.int16, 16), (.int32, 32)] →
      let hi : Int := 2 ^ (w - 1) - 1
      let code := fun (x : Int) => (BitVec.ofInt f.bits x).toNat
      f.quantise away toInf .nan = (0, false, true) ∧
      (∀ neg, f.quantise away toInf (.inf neg) = (code (if neg then -hi - 1 else hi), true, false)) ∧
      (∀ neg m e, let v := FVal.roundInt away neg m e
        (hi < v → f.quantise away toInf (.fin neg m e) = (code hi, true, false)) ∧ (v < -hi - 1 → f.quantise away toInf (.fin neg m e) = (code (-hi - 1), true, false)) ∧
        (v ≤ hi → -hi - 1 ≤ v → f.quantise away toInf (.fin neg m e) = (code v, false, false))))) ∧
  fE4M3.decode 0x7E = .fin false 14 5 ∧ fE5M2.decode 0x7B = .fin false 7 13 ∧ fFP16.decode 0x7BFF = .fin false 2047 5

/-- 02 R35, 07 R158: an integer accumulator is the exact sum while every partial sum's magnitude stays at or below 2^47 - 1, and sticks at that limit from the
first that would pass it, counted once; its spill element gives it back, sticky state included. -/
def Obligations.AccumulatorsAreExactOrStick : Prop :=
  let limit : Int := 2 ^ 47 - 1
  let within := fun (x : Int) => -limit ≤ x ∧ x ≤ limit
  let total := fun (xs : List Int) => xs.foldl (fun (a : Acc × Nat) x => let r := accAdd a.1 x; (r.1, a.2 + if r.2 then 1 else 0)) (Acc.int 0 false, 0)
  (∀ xs : List Int, (∀ n, n ≤ xs.length → within (xs.take n).sum) → total xs = (Acc.int xs.sum false, 0)) ∧
  (∀ (xs more : List Int) (x : Int), (∀ n, n ≤ xs.length → within (xs.take n).sum) → ¬ within (xs.sum + x) →
    total (xs ++ x :: more) = (Acc.int (if 0 < xs.sum + x then limit else -limit) true, 1)) ∧
  (∀ (v : Int) (sat : Bool), within v → unspill false (spillWord (.int v sat)) = .int v sat) ∧
  (∀ w : Word, unspill true (spillWord (.fp w)) = .fp w)

/-! ### Querns (03) -/

/-- 03 R51, R52, R53, R59, 06 Table 6.2: LOADW asks for the masked Querns' fills, N-blocks ascending; the port starts the fill of the
lowest logical Quern, whose idle bank is FILLING; when it ends that bank alone is FULL, with parity on every row and its golden
record, or EMPTY when a source row was refused. -/
def Obligations.FillsLoadTheIdleBank : Prop :=
  ∀ (s : State) (m : MillId) (r : Run), s.up → s.granary.errPend = false →
    let x := s.mills[m.val]
    x.running = some r →
    (wOpcode r.msg.docket = some .loadw → r.walked = false → ∀ (q : Fin 6) (qs : List (Fin 6)),
      (List.finRange 6).filter (fun q => (opWord r.msg.docket 1).getLsbD q.val) = q :: qs →
      exec (.loadw m) s = .next (onMill s m fun x =>
        { x with
          fills := ((q :: qs).zipIdx.map fun y =>
            { quern := y.1, kblk := (opWord r.msg.docket 2).toNat, nblk := (opWord r.msg.docket 3).toNat + y.2, vOperand := false })
          running := some { r with walked := true } })) ∧
    (∀ q : FillReq, x.filling = none → nextFill x.fills = some q →
      q ∈ x.fills ∧ (∀ g ∈ x.fills, q.quern ≤ g.quern) ∧
      exec (.bankFillStart m) s = .next (onMill s m fun x =>
        { onQuern x (physOf x q.quern) (fun u => u.onIdle fun b => { b with state := .filling, repairRow := none }) with
          fills := x.fills.erase q, filling := some q })) ∧
    (∀ q : FillReq, x.filling = some q →
      let d := r.descD (r.fillOperand q)
      let g := r.fillSrc r.fillTile q
      let src := if wOpcode r.msg.docket = some .loadw then (s.mem, 0) else srcOf s r r.fillTile d
      let p := physOf x q.quern
      (d.ownHop = true ∨ wOpcode r.msg.docket = some .loadw) → src.2 = 0 →
      ((∀ z ∈ g.ranges, rowsOk s (some m) z.1 z.2) → g.integer = true → (wOpcode r.msg.docket ≠ some .loadw ∨ x.fills ≠ []) →
        ∃ t, exec (.bankFillDone m) s = .next t ∧
          let u := (s.mills[m.val]).querns[p.val]
          let v := (t.mills[m.val]).querns[p.val]
          t = onMill s m (fun y => { y with filling := none, querns := (t.mills[m.val]).querns }) ∧
          (∀ d : QuernId, d ≠ p → (t.mills[m.val]).querns[d.val] = x.querns[d.val]) ∧
          v.act = u.act ∧ v.active = u.active ∧ v.parCount = u.parCount ∧ v.idle.state = .full ∧ v.idle.wfmt = wfmtOf d.weightBits ∧
          (∀ i : Fin 256, v.idle.rows[i.val] = g.row src.1 src.2 d.mint d.weightBits i.val ∧ v.idle.parity[i.val] = rowParity v.idle.rows[i.val]) ∧
          v.idle.gvalid = decide (g.addr < 0x18000000) ∧ (d.fm.isCodebook = true → v.idle.goldMint = d.mintOff)) ∧
      (∀ z ∈ g.ranges, ∀ before rest st, g.ranges = before ++ z :: rest → (∀ y ∈ before, rowsOk s (some m) y.1 y.2) →
        (rangeStatus s m z.1 z.2).1 = st → st ≠ .ok → st ≠ .uncorr → r.cur = none → x.mb.iso = false →
        let e := netReceipt st
        ∃ t w, exec (.bankFillDone m) s = .next t ∧ t.control = { s.control with toControl := s.control.toControl ++ [(m, w)] } ∧
          w.status = (if e.1 = stOk ∧ r.sat ≠ 0 then stSat else e.1) ∧ w.tag = wTag r.msg.docket ∧ w.chute = r.msg.chute ∧
          (t.mills[m.val]).running = none ∧ (t.mills[m.val]).filling = none ∧ ((t.mills[m.val]).querns[p.val]).idle.state = .empty))

/-- 03 R46, R49, R55, R56, 02 R33: at a vector boundary with every idle bank of the set FULL and none in REPAIR the whole set changes
its active bank, contents standing; otherwise it waits and counts SWAP_STALL. A Quern with a FULL active bank takes the next vector;
the oldest vector that all Querns of the set have finished is accumulated and leaves. -/
def Obligations.SwapsVectorsAndPartialSums : Prop :=
  ∀ (s : State) (m : MillId) (r : Run) (c : TileRun), s.up → s.granary.errPend = false →
    let x := s.mills[m.val]
    x.running = some r → r.cur = some c →
    (∀ set : List FillReq, c.dueSet = some set →
      (∃ t, exec (.bankSwap m) s = .next t ∧ t = onMill s m (fun x =>
          { x with querns := (t.mills[m.val]).querns, fills := (t.mills[m.val]).fills, running := (t.mills[m.val]).running }) ∧
        ((∀ f ∈ set, ∀ g ∈ set, physOf x f.quern = physOf x g.quern → f = g) → set.Nodup →
          ∀ p : QuernId,
            let u := x.querns[p.val]
            ((¬ ∃ f ∈ set, physOf x f.quern = p) → (t.mills[m.val]).querns[p.val] = u) ∧
            ((∃ f ∈ set, physOf x f.quern = p) →
              (setReady x set = true → (t.mills[m.val]).querns[p.val] = { u with active := !u.active }) ∧
              (setReady x set = false → (t.mills[m.val]).querns[p.val] = { u with swapStall := bump u.swapStall })))) ∧
      (setReady x set = true ↔ ∀ f ∈ set,
        let u := x.querns[(physOf x f.quern).val]
        u.idle.state = .full ∧ u.act.state ≠ .repair ∧ u.act.repairRow = none)) ∧
    (∀ (q : Fin 6) (f : FillReq), (c.sets.headD []).find? (fun f => f.quern = q && !f.vOperand) = some f →
      let u := x.querns[(physOf x q).val]
      let i := c.vecDone[q.val]
      let k0 := if r.isFuse then 0 else 256 * f.kblk
      let row := c.tile.row0 + i
      c.swapped = true → i < c.tile.rows →
      (∀ z, u.act.repairRow = some z →
        exec (.quernVector m q) s = .next (onMill s m fun x => onQuern x (physOf x q) fun u => { u with swapStall := bump u.swapStall })) ∧
      (u.act.repairRow = none → u.act.state = .full → r.shape.bx = false →
        (∀ z ∈ r.vectorReads c.tile row k0 256, rowsOk s (some m) z.1 z.2) →
        let src := srcOf s r c.tile (r.descD 0)
        let planes := (r.inputs src.1 src.2 c.tile row k0 256).map fun v => planesOf r.shape.planes (intOf v)
        exec (.quernVector m q) s = .next (onMill s m fun x =>
          let out : Flight :=
            { vec := i, quern := q.val, parts := [(0, quernParts r.shape.planes (bankWb u.act.wfmt) planes u.act.rows.toList)] }
          let c' := { c with vecDone := vmod c.vecDone q fun n => n + 1, flight := c.flight ++ [out] }
          { x with running := some { r with cur := some c' } }))) ∧
    (r.isFuse = false → c.sets.headD [] ≠ [] → c.swapped = true → c.outDone < c.tile.rows →
      let set := c.sets.headD []
      (∀ f ∈ set, f.vOperand = false ∧ ∃ g ∈ c.flight, g.vec = c.outDone ∧ g.quern = f.quern.val) →
      let acc := accumulateSet r c set c.outDone
      exec (.quernPartialsOut m) s = .next (onMill s m fun x =>
        { x with
          regs := { x.regs with accSat := bump x.regs.accSat acc.2 }
          running := some { r with
            sat := r.sat + acc.2
            cur := some { c with outDone := c.outDone + 1, acc := acc.1, flight := c.flight.filter fun g => g.vec ≠ c.outDone } } }))

/-- 03 R59 to R64, Table 3.4: a scrub read that finds nothing passes on to the next row; one that finds an error counts and logs it,
and the bank is repaired from its golden copy or, without one and idle, is EMPTY. QMAP takes only six different Querns, with no docket
held, and the remapped banks are filled from their golden copies. -/
def Obligations.ScrubbingRepairsAndRemapping : Prop :=
  ∀ (s : State) (m : MillId), s.up → s.granary.errPend = false →
    let x := s.mills[m.val]
    (∀ (p : QuernId) (bankB : Bool),
      let u := x.querns[p.val]
      let b := u.bank bankB
      let row := b.scrubRow
      x.regs.scrubEn = true → b.state = .full → b.repairRow = none →
      (goldPass x.regs b = false → exec (.scrubRead m p bankB .clean) s = .next (onMill s m fun x => onQuern x p fun u =>
        u.onBank bankB fun b => { b with checked := vmod b.checked (fin 256 row) fun _ => now s }.advance)) ∧
      (∀ seg : Fin 8, bitOf x.regs.scrubCtl 1 = false →
        let logged := fun (u : Quern) (bank' : QBank) =>
          { (u.onBank bankB fun _ => bank') with
            parLog := if bitOf u.parLog 31 then u.parLog
              else img (2 ^ 31 + flag bankB 30 + flag (u.active = bankB) 29 + row % 256 * 256 + seg.val)
            expose := b.checked[(fin 256 row).val], parCount := bump u.parCount }
        (u.active ≠ bankB → b.gvalid = true → exec (.scrubRead m p bankB (.parity seg)) s =
          .next (onMill s m fun x => onQuern x p fun u => logged u { b.advance with state := .repair, repairRow := some row })) ∧
        (u.active = bankB → b.gvalid = true → usesActive x p = false → exec (.scrubRead m p bankB (.parity seg)) s =
          .next (onMill s m fun x => onQuern x p fun u => logged u { b.advance with repairRow := some row })) ∧
        (b.gvalid = false → (if u.active = bankB then usesActive x p = false else pendingReq x p = none) →
          exec (.scrubRead m p bankB (.parity seg)) s =
            .next (onMill s m fun x => onQuern x p fun u => logged u { b.advance with state := .empty })))) ∧
    (∀ (p : QuernId) (bankB : Bool) (row : Nat) (g : GoldSrc),
      let b := (x.querns[p.val]).bank bankB
      b.repairRow = some row → b.src = some g →
      (∀ y, goldRow s m g (bankWb b.wfmt) row = some y →
        exec (.rowRepairDone m p bankB) s = .next (onMill s m fun x => onQuern x p fun u => u.onBank bankB fun b =>
          { b with state := .full, repairRow := none, rows := vmod b.rows (fin 256 row) fun _ => y,
                   parity := vmod b.parity (fin 256 row) fun _ => rowParity y, checked := vmod b.checked (fin 256 row) fun _ => now s })) ∧
      (goldRow s m g (bankWb b.wfmt) row = none →
        exec (.rowRepairDone m p bankB) s = .next (onMill s m fun x => onQuern x p fun u => u.onBank bankB fun b =>
          { b with state := .empty, repairRow := none }))) ∧
    (∀ v : Word,
      let new := BitVec.ofNat 18 v.toNat
      (qmapLegal new = true ↔ (∀ l : Fin 6, qmapAt new l.val ≤ 6) ∧ ∀ l k : Fin 6, l ≠ k → qmapAt new l.val ≠ qmapAt new k.val) ∧
      ((x.idle = false ∨ x.regs.remapBusy = true ∨ qmapLegal new = false) →
        exec (.qmapWrite m v) s = .next (onRegs s m fun g => { g with remapRej := true })) ∧
      (x.idle = true → x.regs.remapBusy = false → qmapLegal new = true → new ≠ x.regs.qmap →
        ∃ t, exec (.qmapWrite m v) s = .next t ∧ t = onMill s m (fun x =>
            { x with
              querns := (t.mills[m.val]).querns
              regs := { x.regs with qmap := new, remapBusy := true, remapRej := x.regs.remapRej && !bitOf v 31 } }) ∧
          ∀ l : Fin 6, qmapAt new l.val = qmapAt x.regs.qmap l.val →
            (t.mills[m.val]).querns[(fin 7 (qmapAt new l.val)).val] = x.querns[(fin 7 (qmapAt new l.val)).val])) ∧
    (x.regs.remapBusy = true → ∃ t, exec (.remapDone m) s = .next t ∧
      t = onMill s m (fun x => { x with querns := (t.mills[m.val]).querns, regs := { x.regs with remapBusy := false } }) ∧
      ∀ p : QuernId, ∀ bankB : Bool,
        let b := (x.querns[p.val]).bank bankB
        let b' := ((t.mills[m.val]).querns[p.val]).bank bankB
        (b.state ≠ .filling → b' = b) ∧
        (b.state = .filling → (∀ g, b.src = some g → ∃ i, i < 256 ∧ goldRow s m g (bankWb b.wfmt) i = none) → b' = QBank.reset) ∧
        (b.state = .filling → ∀ g, b.src = some g → (∀ i, i < 256 → ∃ y, goldRow s m g (bankWb b.wfmt) i = some y) →
          b'.state = .full ∧ ∀ i : Fin 256, goldRow s m g (bankWb b.wfmt) i.val = some b'.rows[i.val]))

/-! ### Sluice and Tally (04) -/

/-- 04 R69 to R73, 02 R33: the Sluice takes the next vector of its tile: 512 partial sums of its planes over measured column sums
that are free values, its clips counted, BX10 blocks aligned first; the oldest vector's sums are then accumulated and leave. A
conversion's code lies in the range of its pair and a clip is a code at the range's end. -/
def Obligations.SluiceVectorsAndPartialSums : Prop :=
  (∀ (s : State) (m : MillId) (r : Run) (c : TileRun), s.up → s.granary.errPend = false →
    let x := s.mills[m.val]
    x.running = some r → r.cur = some c → r.onSluice = true → r.plan.isSome = true →
    (let i := c.vecDone[0]
      let row := c.tile.row0 + i
      let src := srcOf s r c.tile (r.descD 0)
      let vs := r.inputs src.1 src.2 c.tile row 0 1024
      let bs := if r.shape.bx then r.blocks vs else []
      let aligned := if r.shape.bx then alignBlocks bs else (0, vs.map intOf)
      let xb := if r.shape.bx then 10 else r.shape.planes
      let res := (List.range 512).map fun n => x.sluice.part s.free xb (aligned.2.map (planesOf xb)) n
      i < c.tile.rows → (∀ z ∈ r.vectorReads c.tile row 0 1024, rowsOk s (some m) z.1 z.2) →
      ∃ u t, exec (.sluiceVector m) s = .next t ∧
        u = onMill { s with free := s.free + 2 * 512 * xb } m (fun x =>
          { x with sluice := { x.sluice with adcClip := bump x.sluice.adcClip (res.map (·.2)).sum } }) ∧
        t = onRun (countInputs u m bs) m (fun r => { r with cur := some { c with
          vecDone := vmod c.vecDone (0 : Fin 6) fun n => n + 1
          flight := c.flight ++ [{ vec := i, quern := 0, parts := [(aligned.1, res.map (·.1))] }] } })) ∧
    (∀ g : Flight, c.flight.find? (fun g => g.vec = c.outDone) = some g →
      let acc := accumulate r.shape.bx r.shape.ch (c.outDone * (c.tile.ns * r.shape.ch)) g.parts c.acc
      exec (.sluicePartialsOut m) s = .next (onMill s m fun x =>
        { x with
          regs := { x.regs with accSat := bump x.regs.accSat acc.2 }
          running := some { r with
            sat := r.sat + acc.2
            cur := some { c with outDone := c.outDone + 1, acc := acc.1, flight := c.flight.filter fun y => y.vec ≠ g.vec } } }))) ∧
  (∀ (draw g : Nat) (ideal : Int),
    let hi := adc draw true g ideal
    let lo := adc draw false g ideal
    hi.1 ≤ 127 ∧ (-128 : Int) ≤ hi.1 ∧ (hi.2 = true ↔ hi.1 = 127 ∨ hi.1 = -128) ∧ 0 ≤ lo.1 ∧ lo.1 ≤ 255 ∧ (lo.2 = true ↔ lo.1 = 255))

/-- 04 R76, R78, R79, R81, R82, R85, 06 Table 6.6: SLU_PROG starts its fields in ascending order, PROGRAMMING, without defect entries
and with 1.0 cycle of wear; a field ends VALID with the new weights, or FAILED when the defect table has no entry left; without
VPP_SLU no pulse is issued and the docket completes with INTERNAL and VPP_LOW; verify records the counts it reads and no wear, and
refresh adds the wear of the cells it pulsed. -/
def Obligations.SluiceFieldsAreProgrammedInOrder : Prop :=
  ∀ (s : State) (m : MillId) (r : Run), s.up → s.granary.errPend = false →
    let x := s.mills[m.val]
    let d := r.descD 0
    let ends := fun (c : Instr) (st : Byte) (sub mid low : Nat) => ∃ t w, exec c s = .next t ∧
      t.control = { s.control with toControl := s.control.toControl ++ [(m, w)] } ∧ w.status = st ∧ w.detail = mkDetail sub mid low ∧
      w.tag = wTag r.msg.docket ∧ w.chute = r.msg.chute ∧ (t.mills[m.val]).running = none
    x.running = some r → r.sat = 0 → r.abort = none → x.mb.iso = false →
    (wOpcode r.msg.docket = some .sluProg → r.walked = false →
      (x.sluice.vppOk = false → ends (.sluProg m) stInternal 0x01 0 0 ∧
        ∀ t, exec (.sluProg m) s = .next t → (t.mills[m.val]).sluice = x.sluice) ∧
      (∀ (f : Fin 128) (rest : List (Fin 128)), x.sluice.vppOk = true → maskFields r.msg.docket = f :: rest →
        (∀ k, k < min 1024 d.effRows → rowsOk s (some m) (d.row 0 0 k) (rowLen d.bits d.cols)) →
        ∃ t, exec (.sluProg m) s = .next t ∧
          t = onMill s m (fun x => { x with sluice := (t.mills[m.val]).sluice, running := some { r with
            walked := true, slu := some { newJob .prog r.msg.docket with weights := progWeights s.mem d } } }) ∧
          let u := (t.mills[m.val]).sluice
          u.fields[f.val] = { x.sluice.fields[f.val] with state := .programming, wear := bump (x.sluice.fields[f.val]).wear 10 } ∧
          (∀ g : Fin 128, g ≠ f → u.fields[g.val] = x.sluice.fields[g.val]) ∧ u.weights = x.sluice.weights ∧
          u.worn = (x.sluice.worn || decide (100000 < (bump (x.sluice.fields[f.val]).wear 10).toNat)) ∧
          (∀ i : Fin 256, ∀ e, x.sluice.defects[i.val] = e →
            (inField f e.row.val e.pair.val = true → (u.defects[i.val]).valid = false) ∧
            (inField f e.row.val e.pair.val = false → u.defects[i.val] = e)))) ∧
    (∀ (j : SluJob) (f : Fin 128) (o : FieldOutcome), wOpcode r.msg.docket = some .sluProg → r.slu = some j → j.op = .prog → j.todo = [f] →
      let new := o.outOfBand.filter fun y => inField f y.1.val y.2.1.val
      let u := (x.sluice.loadField f j.weights).enter new
      let full := u.2.2
      ends (.sluFieldDone m o) stOk 0 (stopAt 255 (j.failed + (if full then 1 else 0))) (stopAt 0xFFFF (j.added + u.2.1)) ∧
      (∀ t v, exec (.sluFieldDone m o) s = .next t → (t.mills[m.val]).sluice = v →
        (v.fields[f.val]).state = (if full then .failed else .valid) ∧
        (full = false → v.gHi = j.gHi ∧ v.gLo = j.gLo) ∧ v.weights = (x.sluice.loadField f j.weights).weights ∧
        (∀ g : Fin 128, g ≠ f → v.fields[g.val] = x.sluice.fields[g.val])) ∧
      (full = true → ∀ i : Fin 256, (u.1.defects[i.val]).valid = true)) ∧
    (∀ (j : SluJob) (f : Fin 128) (scan : FieldScan), r.slu.getD (newJob .verify r.msg.docket) = j → j.todo = [f] →
      wOpcode r.msg.docket = some .sluVerify → j.op = .verify →
      ends (.sluVerify m [scan]) stOk 0 0 (stopAt 0xFFFF (max j.worst scan.oob.toNat)) ∧
      ∀ t, exec (.sluVerify m [scan]) s = .next t →
        (t.mills[m.val]).sluice = { x.sluice with fields := vmod x.sluice.fields f fun y => { y with oob := scan.oob } }) ∧
    (∀ (j : SluJob) (f : Fin 128) (rest : List (Fin 128)) (scan : FieldScan), r.slu.getD (newJob .refresh r.msg.docket) = j →
      wOpcode r.msg.docket = some .sluRefresh → j.op = .refresh →
      (x.sluice.vppOk = false → ends (.sluRefresh m scan) stInternal 0x01 (stopAt 255 j.failed) (stopAt 0xFFFF j.added) ∧
        ∀ t, exec (.sluRefresh m scan) s = .next t → (t.mills[m.val]).sluice = x.sluice) ∧
      (x.sluice.vppOk = true → j.todo = f :: rest → rest ≠ [] → scan.outOfBand = [] →
        exec (.sluRefresh m scan) s = .next (onMill s m fun x =>
          let y := x.sluice.fields[f.val]
          let wear := bump y.wear ((10 * scan.pulsed + 16383) / 16384)
          { x with
            sluice := { x.sluice with
              fields := vmod x.sluice.fields f fun y => { y with wear := wear, oob := scan.oob }
              worn := x.sluice.worn || decide (100000 < wear.toNat) }
            running := some { r with walked := true, slu := some { j with todo := rest } } })))

/-- 04 R87 to R90, 20 R461, R464: a poll shows each sensor's code, 0xFF for one that failed; an update that is due records the sensors and
the residual, which raises COMP_BELL beyond REF_TOL, and with every sensor failed keeps the last residual and sets COMP_FAULT; VPP_OK sets above 3.10 V and
clears below 3.00 V on every Sluice, which ends a field in progress as INVALID; a rail beyond its rating stops the run. -/
def Obligations.CompensationAndTheProgrammingRail : Prop :=
  ∀ (s : State), s.up →
    (∀ (m : MillId) (t : Vector Int 4), exec (.sensorPoll m t) s = .next (onSluice s m fun u =>
        { u with
          temp := t.map tempCode
          moved := u.moved || ((t.map tempCode).toList.zip u.tempAtComp.toList).any fun y => sensorMoved y.1 y.2
          compFault := u.compFault || (t.map tempCode).all (· = 0xFF) }) ∧
      ∀ i : Fin 4, ((-55 ≤ t[i.val] ∧ t[i.val] ≤ 150) → (((t.map tempCode)[i.val]).toNat : Int) = t[i.val] + 64) ∧
        ((t[i.val] < -55 ∨ 150 < t[i.val]) → (t.map tempCode)[i.val] = 0xFF)) ∧
    (∀ (m : MillId) (resid : BitVec 16), s.granary.errPend = false →
      let u := (s.mills[m.val]).sluice
      let dead := u.temp.all (· = 0xFF)
      let v := onSluice s m fun u =>
        { u with lastComp := now s, compDone := true, moved := false, tempAtComp := u.temp, compFault := dead,
                 refResid := if dead then u.refResid else resid }
      (compDue s u = true → (dead = true ∨ resid.toNat ≤ bitsOf u.compCtl 7 1) → exec (.compUpdate m resid) s = .next v) ∧
      (compDue s u = true → dead = false → bitsOf u.compCtl 7 1 < resid.toNat →
        ∃ w, exec (.compUpdate m resid) s = .next w ∧ w = settleErr (raiseBell v (fin 256 (bitsOf u.compCtl 31 24))) ∧ Reported v w) ∧
      (compDue s u = true ↔ u.compDone = false ∨ u.lastComp.toNat + 1000 * u.period ≤ (now s).toNat ∨
        (u.moved = true ∧ u.lastComp.toNat + 100000 ≤ (now s).toNat))) ∧
    (∀ mv : Nat,
      (3800 < mv → exec (.vppSluRise mv) s = .fault .ratingExceeded ∧ exec (.vppSluFall mv) s = .fault .ratingExceeded) ∧
      (3100 < mv → mv ≤ 3800 → exec (.vppSluRise mv) s = .next { s with mills := s.mills.map fun x =>
        { x with sluice := { x.sluice with vppOk := true } } }) ∧
      (mv ≤ 3100 → exec (.vppSluRise mv) s = .next s) ∧
      (3000 ≤ mv → mv ≤ 3800 → exec (.vppSluFall mv) s = .next s) ∧
      (mv < 3000 →
        ((∀ m : MillId, (s.mills[m.val]).running = none ∨ (s.mills[m.val]).sluice.vppOk = false) →
          exec (.vppSluFall mv) s = .next { s with mills := s.mills.map fun x =>
            { x with sluice := { x.sluice with vppOk := false } } }) ∧
        (∀ (m : MillId) (r : Run) (j : SluJob) (f : Fin 128) (rest : List (Fin 128)),
          (∀ d : MillId, d ≠ m → (s.mills[d.val]).running = none ∨ (s.mills[d.val]).sluice.vppOk = false) →
          (s.mills[m.val]).sluice.vppOk = true → (s.mills[m.val]).running = some r → r.slu = some j → j.op ≠ .verify →
          j.todo = f :: rest → r.abort = none → r.sat = 0 → (s.mills[m.val]).mb.iso = false →
          ∃ t w, exec (.vppSluFall mv) s = .next t ∧ t.control = { s.control with toControl := s.control.toControl ++ [(m, w)] } ∧
            w.status = stInternal ∧ bitsOf w.detail 31 24 = 0x01 ∧ w.tag = wTag r.msg.docket ∧
            (t.mills[m.val]).running = none ∧
            (t.mills[m.val]).sluice = { (s.mills[m.val]).sluice with
              vppOk := false
              fields := vmod (s.mills[m.val]).sluice.fields f fun y => { y with state := .invalid } })))

/-- 04 R92 to R94: a write of HCFG sets MODE and EN, and with CLR zeroes the histogram's bins and moments and restarts its bands; a
sample is counted in one bin, a NaN outside the moments; a full window gives its fraction, and one outside its limits counts and
raises its Bell. -/
def Obligations.HistogramsAndSignatureBands : Prop :=
  ∀ (s : State) (m : MillId), s.up → s.granary.errPend = false →
    let x := s.mills[m.val]
    (∀ (h : Fin 4) (v : Word),
      (bitOf v 31 = true → exec (.histClear m h v []) s = .next (onMill s m fun x =>
        { x with
          hists := vmod x.hists h fun y => { Hist.reset with mode := bitOf v 1, en := bitOf v 0, lo := y.lo, width := y.width }
          bands := x.bands.map fun b => if b.hist = h then { b with seen := 0, hits := 0 } else b })) ∧
      (bitOf v 31 = false → exec (.histClear m h v []) s = .next (onMill s m fun x =>
        { x with hists := vmod x.hists h fun y => { y with mode := bitOf v 1, en := bitOf v 0 } })) ∧
      (∀ w : Word, bitOf v 0 = true → (∀ b : Fin 8, (x.bands[b.val]).en = false) →
        ∃ t, exec (.histClear m h v [w]) s = .next t ∧
          t = onMill s m (fun x => { x with hists := (t.mills[m.val]).hists, bands := (t.mills[m.val]).bands }) ∧
          (∀ g : Fin 4, g ≠ h → (t.mills[m.val]).hists[g.val] = x.hists[g.val]) ∧
          let y := (t.mills[m.val]).hists[h.val]
          let old := if bitOf v 31 then Hist.reset else x.hists[h.val]
          let at_ := Hist.binOf { x.hists[h.val] with mode := bitOf v 1, en := true } (fval w) false
          y.count = bump old.count ∧
          (∀ i : Fin 64, y.bins[i.val] = if at_ = .bin i then bump old.bins[i.val] else old.bins[i.val]) ∧
          y.under = (if at_ = .under then bump old.under else old.under) ∧ y.overs = (if at_ = .overs then bump old.overs else old.overs) ∧
          (fisNan w = true → at_ = .under ∧ y.min = old.min ∧ y.max = old.max ∧ y.sum = old.sum ∧ y.sumsq = old.sumsq) ∧
          (fisNan w = false → y.min = (if flt w old.min then w else old.min) ∧ y.max = (if flt old.max w then w else old.max) ∧
            y.sum = dword ((dval old.sum).add (fval w)) ∧ y.sumsq = dword ((dval old.sumsq).add (dval (dword ((fval w).mul (fval w)))))))) ∧
    (∀ b : Fin 8,
      let y := x.bands[b.val]
      let frac := fdiv (fofInt y.hits) (fofInt y.length)
      y.en = true → y.length ≤ y.seen →
      ((flt frac y.fracMin = false ∧ flt y.fracMax frac = false) → exec (.sigWindowEnd m b) s = .next (onMill s m fun x =>
        { x with bands := vmod x.bands b fun y => { y with lastFrac := frac, seen := 0, hits := 0 } })) ∧
      ((flt frac y.fracMin = true ∨ flt y.fracMax frac = true) → ∃ t, exec (.sigWindowEnd m b) s = .next t ∧
        t = settleErr (raiseBell (onMill s m fun x =>
          { x with bands := vmod x.bands b fun y => { y with lastFrac := frac, viol := bump y.viol, seen := 0, hits := 0 } }) (fin 256 (bitsOf y.cfg 7 0)))))

/-! ### The memory (05) -/

/-- 05 R98, R121, R124, 11 R258, R270, Table 11.4: a row request of an issued tag reaches its interface: admitted and its row open, it
waits at its bank; refused by the interface or by a closed row, it is answered OFFLINE; outside the interface's rows BOUND; a write
whose payload fails its check is answered UNCORR and counted. -/
def Obligations.RowRequestsReachTheirBank : Prop :=
  ∀ (s : State) (p : Packet), s.up → s.granary.errPend = false →
    ((s.net.nis[p.src.val]).slotOf p.slot p.gen).isSome = true →
    let u := takePacket s p
    let ni := s.net.nis[p.dst.val]
    let a := p.addr.toNat
    let both := fun (t : State) => exec (.rdRow p) s = .next t ∧ exec (.wrRow p .good) s = .next t
    let ends := fun (t : State) => both t ∧ exec (.wrRow p .bad) s = .next t
    let answer := fun (v : State) (st : NetStatus) =>
      onNet (onNi v p.dst fun x => { x with accepted := x.accepted.erase p }) fun n => { n with sent := n.sent ++ [responseOf ni p st []] }
    (knownKind p.kind = false → ends (logNi u p.dst .ok p p.src)) ∧
    (knownKind p.kind = true → ni.admits = true → p.epoch = ni.epoch →
      (∀ b : BankRef, bankRefOf a = some b → niOf a = p.dst → targetOpen s a = true →
        both (onBank (accept u p) b fun x => { x with queue := x.queue ++ [.narrow p] })) ∧
      (p ∉ ni.suppressed → routeValid ni.routes[p.src.val] = true →
        (∀ b : BankRef, bankRefOf a = some b → niOf a = p.dst → targetOpen s a = false → both (answer (accept u p) .offline)) ∧
        ((bankRefOf a = none ∨ niOf a ≠ p.dst) → both (answer (accept u p) .bound)) ∧
        exec (.wrRow p .bad) s = .next (onNet (onNi u p.dst fun x =>
          { x with e2eUe := bump x.e2eUe, accepted := x.accepted.erase p }) fun n =>
            { n with sent := n.sent ++ [responseOf { ni with e2eUe := bump ni.e2eUe } p .uncorr []] }))) ∧
    (knownKind p.kind = true → (ni.admits = false ∨ p.epoch ≠ ni.epoch) → p ∉ ni.suppressed → routeValid ni.routes[p.src.val] = true →
      ends (onNet (onNi u p.dst fun x => { x with offlineSent := bump x.offlineSent, accepted := x.accepted.erase p }) fun n =>
        { n with sent := n.sent ++ [responseOf { ni with offlineSent := bump ni.offlineSent } p .offline []] }))

/-- 05 R103, R108, R109, R110: each slot of a bank grants the clear engine, the migration engine, or the waiting request that comes
first: after 15 wide grants the oldest narrow one, else wide ones in round robin, else VN3, else the oldest. A read answers the row's
bytes or UNCORR; a write stores its row whole and ends its poison,
and one that has timed out (11 R268) leaves the bytes of that row alone open; corrected rows are written back. -/
def Obligations.BankSlotsGrantInOrder : Prop :=
  ∀ (s : State) (ref : BankRef), s.up → s.granary.errPend = false →
    let x := bankOf s ref
    let narrow := fun (r : BankReq) => ∃ p, r = .narrow p
    let port := fun (k : Nat) (r : BankReq) => ∃ m w row, r = .wide m w row ∧ m.val % 4 = (x.rr.val + k) % 4
    let counted := onBank s ref fun x => { x with slots := x.slots + 1 }
    let taken := fun (r : BankReq) => onBank counted ref fun x => x.after r
    let free := match ref with
      | .hop _ _ => True
      | .gran i => ¬ (x.slots % 1000 = 999 ∧ quadClearing s (quadOf i) = true) ∧
          ¬ (x.slots % 16 = 8 ∧ (s.granary.spares[(quadOf i).val]).migrating = true)
    -- which request comes first
    (∀ r, nextReq x = some r → r ∈ x.queue ∧
      (15 ≤ x.wideRun → (∃ q ∈ x.queue, narrow q) → narrow r ∧ ∃ before after, x.queue = before ++ r :: after ∧ ∀ q ∈ before, ¬ narrow q) ∧
      ((x.wideRun < 15 ∨ ¬ ∃ q ∈ x.queue, narrow q) → (∃ q ∈ x.queue, ¬ narrow q) →
        ∃ k, k < 4 ∧ port k r ∧ ∀ j, j < k → ∀ q ∈ x.queue, ¬ port j q) ∧
      ((∀ q ∈ x.queue, narrow q) → x.wideRun < 15 → (∃ p, .narrow p ∈ x.queue ∧ p.vn = 3) → ∃ p, r = .narrow p ∧ p.vn = 3)) ∧
    (x.queue = [] ↔ nextReq x = none) ∧
    -- a slot in which requests are served
    (free → ∀ ecc : RowEcc,
      (x.queue = [] → exec (.bankSlotGrant ref ecc) s = .next counted) ∧
      (∀ p : Packet, nextReq x = some (.narrow p) → targetOpen s p.addr.toNat = true → p.addr.toNat % 512 = 0 →
        (p.kind = 0 → poisoned s p.addr.toNat = false →
          exec (.bankSlotGrant ref .clean) s = .next (respond (taken (.narrow p)) p .ok (readBytes s.mem p.addr.toNat 512))) ∧
        (p.kind = 0 → poisoned s p.addr.toNat = true →
          exec (.bankSlotGrant ref ecc) s = .next (settleErr (respond
            (logError (taken (.narrow p)) p.addr.toNat true true false 0) p .uncorr (readBytes s.mem p.addr.toNat 512)))) ∧
        (p.kind ≠ 0 → ∃ t, exec (.bankSlotGrant ref ecc) s = .next t ∧ poisoned t p.addr.toNat = false ∧
          ((s.net.nis[p.src.val]).gens[p.slot.val] = p.gen → t.mem = writeBytes s.mem p.addr.toNat (p.payload.take 512)) ∧
          ((s.net.nis[p.src.val]).gens[p.slot.val] ≠ p.gen →
            ∀ b, (b < p.addr.toNat ∨ p.addr.toNat + 512 ≤ b) → readByte t.mem b = readByte s.mem b))) ∧
      (∀ m row, nextReq x = some (.wide m true row) → exec (.bankSlotGrant ref ecc) s = .next (taken (.wide m true row)))) ∧
    -- the slots of the clear engine and of the migration engine
    (∀ (i : BankId) (ecc : RowEcc), ref = .gran i →
      (x.slots % 1000 = 999 → quadClearing s (quadOf i) = true → exec (.bankSlotGrant ref ecc) s = .next counted) ∧
      (let sp := s.granary.spares[(quadOf i).val]
       ¬ (x.slots % 1000 = 999 ∧ quadClearing s (quadOf i) = true) → x.slots % 16 = 8 → sp.migrating = true → sp.lbank = inQuad i →
        sp.progress < 6143 → poisoned s (bankAddr i sp.progress) = false →
        exec (.bankSlotGrant ref .clean) s = .next (onGran counted fun g =>
          { g with spares := vmod g.spares (quadOf i) fun y => { y with progress := y.progress + 1 } }))) ∧
    exec (.ceWriteback ref) s = .next (onBank s ref fun x => { x with ceRows := x.ceRows.drop 1 }) ∧
    -- the patrol scrubber
    (∀ (i : BankId) (ecc : RowEcc), ref = .gran i →
      let row := x.patrolRow
      let due := x.patrolFrom.toNat + row * patrolNs s.granary.scrubCfg / 6144
      ((bitOf s.granary.scrubCfg 31 = false ∨ (now s).toNat < due) → exec (.patrolScrubRead i ecc) s = .next s) ∧
      (bitOf s.granary.scrubCfg 31 = true → due ≤ (now s).toNat → row < 6143 → poisoned s (bankAddr i row) = false →
        exec (.patrolScrubRead i .clean) s = .next (onBank s ref fun x => { x with patrolRow := row + 1 })))

/-- 05 R113, R114, R116, R117, R108, R109: a bank engine runs one docket at a time; FILL leaves the pattern in every row of its
range, COPY the source's bytes, nothing else changes, and tiles done counts the rows; a range that breaks R114 or leaves the window
writes nothing. -/
def Obligations.BankEnginesFillAndCopy : Prop :=
  ∀ (s : State) (q : QuadId), s.up →
    (∀ (j : Job) (rest : List Job), s.granary.engine[q.val] = none → s.granary.engineQ[q.val] = j :: rest →
      ∃ e, exec (.bankEngineNext q) s = .next (onGran s fun g =>
        { g with engineQ := vmod g.engineQ q fun _ => rest, engine := vmod g.engine q fun _ => some e }) ∧ e.job = j ∧ e.started = now s) ∧
    (∀ e : EngineJob, s.granary.engine[q.val] = some e →
      let w := e.job.words
      let n := w[8].toNat
      let idle := onGran s fun g => { g with engine := vmod g.engine q fun _ => none }
      let ends := fun (c : Instr) (u : State) (st : Byte) (sub rows : Nat) =>
        exec c s = .next (settleErr (finishJob u e.job st sub 0 0 e.started rows 0))
      jobStop s e.job = none →
      (wOpcode w = some .fill →
        (badRange w [copyDst w] = true → ends (.fill q) idle stBound 0x13 0) ∧
        (badRange w [copyDst w] = false → (localPart s.flume.nodeId (copyDst w)).bind (jobRange s e) = none → ends (.fill q) idle stBound 0x08 0) ∧
        (∀ d, badRange w [copyDst w] = false → (localPart s.flume.nodeId (copyDst w)).bind (jobRange s e) = some d →
          d % 512 = 0 → rowsOk s none d (512 * n) → Memory.wf s.mem = true →
          ∃ u, ends (.fill q) u stOk 0 n ∧ (∀ i, i < 512 * n → readByte u.mem (d + i) = BitVec.ofNat 8 (w[9].toNat / 256 ^ (i % 4))) ∧
            (∀ a, (a < d ∨ d + 512 * n ≤ a) → readByte u.mem a = readByte s.mem a) ∧
            u = { idle with mem := u.mem, granary := { idle.granary with poison := u.granary.poison, banks := u.granary.banks } } ∧
            (∀ b : BankId, bankReported s.granary.banks[b.val] u.granary.banks[b.val]))) ∧
      (wOpcode w = some .copy → ∀ net : NetStatus,
        (badRange w [copySrc w, copyDst w] = true → ends (.copy q net) idle stBound 0x13 0) ∧
        (∀ a b x y, badRange w [copySrc w, copyDst w] = false → localPart s.flume.nodeId (copySrc w) = some a →
          localPart s.flume.nodeId (copyDst w) = some b → jobRange s e a = some x → jobRange s e b = some y → x % 512 = 0 → y % 512 = 0 →
          ((x < y + 512 * n ∧ y < x + 512 * n) → ends (.copy q net) idle stBound 0x13 0) ∧
          ((y + 512 * n ≤ x ∨ x + 512 * n ≤ y) → rowsOk s none x (512 * n) → rowsOk s none y (512 * n) → Memory.wf s.mem = true →
            ∃ u, ends (.copy q net) u stOk 0 n ∧ (∀ i, i < 512 * n → readByte u.mem (y + i) = readByte s.mem (x + i)) ∧
              (∀ z, (z < y ∨ y + 512 * n ≤ z) → readByte u.mem z = readByte s.mem z) ∧
              u = { idle with mem := u.mem, granary := { idle.granary with poison := u.granary.poison, banks := u.granary.banks } } ∧
              (∀ b : BankId, bankReported s.granary.banks[b.val] u.granary.banks[b.val])))))

/-- 05 R121, R123, R125: a plot whose OWNER or CLASS changes is zeroed and CLEARING, the quad's lowest such plot ends first; FLAT
changes only with every dispatcher empty and BUSY 0; a migration starts only on an unused spare and ends after row 6,143. -/
def Obligations.PlotsModesAndSpares : Prop :=
  ∀ (s : State), s.up → s.granary.errPend = false →
    (∀ (p : PlotId) (v : Word),
      let x := s.granary.plots[p.val]
      let owner : Fin 8 := fin 8 (bitsOf v 6 4)
      (x.owner = owner → x.cls = bitOf v 0 → exec (.plotCfgWrite p v) s = .next s) ∧
      ((x.owner ≠ owner ∨ x.cls ≠ bitOf v 0) → ∃ t, exec (.plotCfgWrite p v) s = .next t ∧
        t = { s with mem := t.mem, granary := { s.granary with plots := t.granary.plots, poison := t.granary.poison } } ∧
        t.granary.plots[p.val] = { clearing := true, owner := owner, cls := bitOf v 0 } ∧
        (∀ d : PlotId, d ≠ p → t.granary.plots[d.val] = s.granary.plots[d.val]) ∧
        (∀ i, i < 0x400000 → readByte t.mem (p.val * 0x400000 + i) = 0) ∧
        (∀ a, (a < p.val * 0x400000 ∨ (p.val + 1) * 0x400000 ≤ a) → readByte t.mem a = readByte s.mem a))) ∧
    (∀ (q : QuadId) (p : PlotId), p.val / 24 = q.val → (s.granary.plots[p.val]).clearing = true →
      (∀ d : PlotId, d < p → d.val / 24 = q.val → (s.granary.plots[d.val]).clearing = false) →
      exec (.plotClearDone q) s = .next (onGran s fun g => { g with plots := vmod g.plots p fun x => { x with clearing := false } })) ∧
    (∀ v : Word,
      let rej := s.granary.modeRej && !bitOf v 31
      (bitOf v 0 = s.granary.flat → exec (.granModeWrite v) s = .next (onGran s fun g => { g with modeRej := rej })) ∧
      (bitOf v 0 ≠ s.granary.flat → (s.granary.busy = true ∨ ∃ m : MillId, (s.mills[m.val]).idle = false) →
        exec (.granModeWrite v) s = .next (onGran s fun g => { g with modeRej := true })) ∧
      (bitOf v 0 ≠ s.granary.flat → s.granary.busy = false → (∀ m : MillId, (s.mills[m.val]).idle = true) →
        ∃ t, exec (.granModeWrite v) s = .next t ∧
          t = { s with mem := t.mem, granary := { s.granary with modeRej := rej, flat := bitOf v 0, busy := true, poison := t.granary.poison } } ∧
          (∀ i, i < 16 * 0x01000000 → readByte t.mem (0x1000000000 + i) = 0) ∧
          (∀ a, (a < 0x1000000000 ∨ 0x1000000000 + 16 * 0x01000000 ≤ a) → readByte t.mem a = readByte s.mem a))) ∧
    (s.granary.busy = true → ∃ t, exec .modeSwitchDone s = .next t ∧
      t = { s with granary := { s.granary with busy := false }, mills := t.mills } ∧
      ∀ m : MillId, t.mills[m.val] = { s.mills[m.val] with regs := { (s.mills[m.val]).regs with hopPowered := !s.granary.flat } }) ∧
    (∀ (q : QuadId) (v : Word),
      let x := s.granary.spares[q.val]
      let rej := x.rej && !bitOf v 29
      let becomes := fun (y : Spare) => exec (.spareGo q v) s = .next (onGran s fun g => { g with spares := vmod g.spares q fun _ => y })
      ((x.used = true ∨ x.migrating = true) → becomes { x with rej := rej || bitOf v 5 }) ∧
      (x.used = false → x.migrating = false → bitOf v 5 = true →
        becomes { x with rej := rej, lbank := fin 32 (bitsOf v 4 0), migrating := true, progress := 0 }) ∧
      (x.used = false → x.migrating = false → bitOf v 5 = false → becomes { x with rej := rej, lbank := fin 32 (bitsOf v 4 0) })) ∧
    (∀ q : QuadId,
      let x := s.granary.spares[q.val]
      x.migrating = true → x.progress = 6143 → poisoned s (bankAddr (fin 128 (32 * q.val + x.lbank.val)) 6143) = false →
      exec (.migrationDone q .clean) s = .next (onGran s fun g =>
        { g with spares := vmod g.spares q fun x => { x with progress := 6144, used := true, migrating := false } }))
/-! ### The dispatcher and the tile sequencer (06, 07) -/

/-- 05 R118, 06 R135, R144, 07 R163, R171, 01 R22: an idle dispatcher takes the waiting docket that comes first by class, URGENT ones
by chute, and starts it when its plots are its tenant's, none clears, and every check passes; a plot of another tenant completes
it. A preempted docket runs on once nothing waits that would preempt it. -/
def Obligations.DispatchTakesTheNextDocket : Prop :=
  ∀ (s : State) (m : MillId), s.up → s.granary.errPend = false →
    let x := s.mills[m.val]
    x.mayIssue = true → x.running = none →
    (∀ h : Held, x.nextHeld = some h →
      let plots := winPlots s.granary.flat m (msgWin h.msg)
      (h ∈ x.waiting ∧ (∀ r ∈ x.preempted.head?, preempts h.msg.cls r.msg.cls = true) ∧
        ∀ g ∈ x.waiting, (∀ r ∈ x.preempted.head?, preempts g.msg.cls r.msg.cls = true) →
          g.msg.cls ≤ h.msg.cls ∧ (g.msg.cls = 3 → h.msg.cls = 3 → h.msg.chute ≤ g.msg.chute)) ∧
      (∀ r : Run, (∀ p ∈ plots, (s.granary.plots[p.val]).owner = h.msg.tenant ∧ (s.granary.plots[p.val]).clearing = false) →
        prepare s m h.msg = .ok r → (r.onSluice = false ∨ x.sluice.compDone = true) →
        exec (.dispatch m) s = .next (onMill s m fun x => { x with
          running := some r
          regs := { x.regs with tbound := match r.bound s.granary.flat with
            | some t => img (stopAt 0xFFFFFFFF t) | none => x.regs.tbound } }) ∧
        r.msg = h.msg ∧ r.start = none ∧ r.tiles = 0 ∧
        (∀ b, r.bound s.granary.flat = some b → b * 5 ≤ x.regs.capNs * 8) ∧
        (∀ o, wOpcode h.msg.docket = some o → o.isMatmul = true → ∃ p, r.plan = some p ∧ r.planLegal p = true)) ∧
      ((∃ p ∈ plots, (s.granary.plots[p.val]).owner ≠ h.msg.tenant) → x.mb.iso = false →
        exec (.dispatch m) s = .next (onControl (onMill s m fun x => { x with slots := vmod x.slots h.msg.slot fun _ => none }) fun k =>
          { k with toControl := k.toControl ++ [(m,
              { chute := h.msg.chute, status := stBound, tag := wTag h.msg.docket, detail := mkDetail 0x04 (noOperand h.msg.docket) 0,
                doneTime := now s, startTime := now s, tiles := 0, sat := 0, slot := h.msg.slot })] })) ∧
      ((∀ p ∈ plots, (s.granary.plots[p.val]).owner = h.msg.tenant) → (∃ p ∈ plots, (s.granary.plots[p.val]).clearing = true) →
        exec (.dispatch m) s = .next s)) ∧
    (∀ (r : Run) (rest : List Run), x.preempted = r :: rest → x.nextHeld = none →
      exec (.docketResume m) s = .next (onMill s m fun x => { x with running := some r, preempted := rest }))

/-- 07 R162, R165, R170, R171: the opcode's own command lays out the docket's tiles for this Mill; each tile of a walk takes at most
M1 streamed rows inside the operand and whole K-blocks, and the last of a K range ends at the last K-block; a docket without tiles
ends at once with TILES 0. -/
def Obligations.WalksLayOutTheTiles : Prop :=
  ∀ (s : State) (m : MillId) (r : Run) (o : Opcode), s.up → s.granary.errPend = false →
    (s.mills[m.val]).running = some r → r.walked = false → wOpcode r.msg.docket = some o →
    let walks := fun (c : Instr) (ts : List Tile) =>
      (ts ≠ [] → exec c s = .next (onMill s m fun x => { x with running := some { r with walked := true, todo := ts } })) ∧
      (ts = [] → r.ending = none → r.abort = none → r.issued = [] → (s.mills[m.val]).mb.iso = false →
        wZeroSkipped r.msg.docket = false → r.sat = 0 → r.tiles = 0 →
        ∃ t d, exec c s = .next t ∧ t.control = { s.control with toControl := s.control.toControl ++ [(m, d)] } ∧ t.mem = s.mem ∧
          (t.mills[m.val]).running = none ∧ (t.mills[m.val]).slots = vmod (s.mills[m.val]).slots r.msg.slot (fun _ => none) ∧
          d.status = stOk ∧ d.tiles = 0 ∧ d.tag = wTag r.msg.docket ∧ d.chute = r.msg.chute ∧ d.slot = r.msg.slot)
    (o = .matmul → walks (.matmul m) (r.planTiles m)) ∧
    (o = .matmulAcc → walks (.matmulAcc m) (r.planTiles m)) ∧
    (o = .conv2d → walks (.conv2d m) (r.planTiles m)) ∧
    (o = .fuse2 → walks (.fuse2 m) (r.planTiles m)) ∧
    (o = .winnow → walks (.winnow m) (r.directTiles m)) ∧
    (o = .hist → walks (.hist m) (r.directTiles m)) ∧
    (∀ p : Plan, r.plan = some p → isOrder p.orderL2 = true → isOrder p.orderL1 = true → 1 ≤ p.m1 →
      (r.shape.rows = 0 ∨ r.shape.k = 0 ∨ r.shape.n = 0 → r.planTiles m = []) ∧
      ∀ t ∈ r.planTiles m,
        t.row0 = t.m * p.m1 ∧ 1 ≤ t.rows ∧ t.rows ≤ p.m1 ∧ t.row0 + t.rows ≤ r.shape.rows ∧
        1 ≤ t.ks ∧ (p.kt ≠ 0 → t.ks ≤ p.kt ∧ t.k0 = t.kr * p.kt) ∧ t.k0 + t.ks ≤ r.shape.kb ∧
        (r.isFuse = false → (t.lastK = true ↔ t.k0 + t.ks = r.shape.kb)) ∧
        t.n0 + t.ns ≤ r.shape.nb ∧ t.b < r.shape.batches ∧ t.h < r.shape.heads) ∧
    (∀ t ∈ r.directTiles m,
      t.row0 = t.m * directRows (r.descD 0).padCols ∧ 1 ≤ t.rows ∧ t.rows ≤ directRows (r.descD 0).padCols ∧
      t.row0 + t.rows ≤ (r.descD 0).padRows)

/-- 07 R160: with two L2 tiles or fewer in the staging areas the next one of the walk is staged: its source rows are copied, near
rows are counted on the row port. -/
def Obligations.StagingCopiesTheNextL2Tile : Prop :=
  ∀ (s : State) (m : MillId) (r : Run) (p : Plan) (b h m2 n2 : Nat) (tag : Fin 16), s.up → s.granary.errPend = false →
    let x := s.mills[m.val]
    let src := (if r.stagesIn then r.inRanges p b h m2 else []) ++ (if r.stagesW then r.wRanges p b h n2 else [])
    let near := ((src.filter fun q => nearRows m q.1 q.2 ≠ 0).map fun q => nearRows m q.1 q.2).sum
    x.running = some r → r.plan = some p → r.walked = true → r.ending = none → r.abort = none →
    (r.stagesIn = true ∨ r.stagesW = true) → r.nextStage p = some (b, h, m2, n2) → freeTag x = some tag →
    (∀ q ∈ src, rowsOk s (some m) q.1 q.2) → r.stageFits p s.granary.flat = true → Memory.wf r.stagedMem = true →
    ∃ t r', exec (.l2Stage m) s = .next t ∧ (t.mills[m.val]).running = some r' ∧
      r' = { r with stagedMem := r'.stagedMem, staged := r'.staged, stageCount := r.stageCount + 1 } ∧
      (b, h, m2, n2) ∈ r'.staged ∧ (b, h, m2, n2) ∈ (r.issued ++ r.todo).map (fun t => t.l2 p) ∧ (b, h, m2, n2) ∉ r.staged ∧
      (∀ q ∈ src, ∀ i, i < q.2 → readByte r'.stagedMem (bufferKey r.stageCount + q.1 + i) = readByte t.mem (q.1 + i)) ∧
      (∀ d : MillId, d ≠ m → t.mills[d.val] = s.mills[d.val]) ∧ t.control = s.control ∧
      (t.mills[m.val]).regs = { x.regs with portRd := if near = 0 then x.regs.portRd else bump x.regs.portRd near }

/-- 07 R158, R160, R173: a tile whose operands are staged and whose footprint fits issues, alone or behind the tile that computes;
an operand still to come makes it wait and counts STAGE_WAIT; a footprint that fails ends the docket with OVERFLOW_FAULT and is
logged. -/
def Obligations.TilesIssueInWalkOrder : Prop :=
  ∀ (s : State) (m : MillId) (r : Run) (t : Tile) (rest : List Tile), s.up → s.granary.errPend = false →
    let x := s.mills[m.val]
    x.running = some r → r.walked = true → r.ending = none → r.abort = none → r.issued = [] → r.todo = t :: rest →
    let fails := r.plan.bind fun p => r.footprint p s.granary.flat t
    let fills := (r.setsOf t).headD []
    (fails = none → r.present x t = true →
      (r.cur = none → x.wantsPreempt = false → (t.kr = 0 ∨ r.plan = none) →
        exec (.tileIssue m) s = .next (onMill s m fun x =>
          { x with
            regs := { x.regs with tilesIssued := bump x.regs.tilesIssued }
            fills := x.fills ++ fills
            running := some { r with todo := rest, start := some (r.start.getD (now s)), cur := some (r.tileRun t none) } })) ∧
      (∀ c, r.cur = some c → c.lastSet = true →
        exec (.tileIssue m) s = .next (onMill s m fun x => { x with
          fills := x.fills ++ fills, running := some { r with issued := [t], todo := rest } }))) ∧
    (fails = none → r.present x t = false → r.cur = none →
      exec (.tileIssue m) s = .next (onRegs s m fun g => { g with stageWait := bump g.stageWait })) ∧
    (∀ level operand c, fails = some (level, operand) → r.cur = some c →
      let e : Ending := { status := stOverflow, subcode := BitVec.ofNat 8 (0x10 + level), operand := BitVec.ofNat 8 operand }
      exec (.tileIssue m) s = .next (onMill s m fun x =>
        { x with regs := x.regs.logOverflow (wTag r.msg.docket) level operand t, running := some { r with ending := some e } }))

/-- 07 R158, R174, 06 R144, 05 R108: a tile whose reads and writes are accepted is counted, and at its boundary the docket ends under
a fault or an abort, is preempted, goes on with the tile that was prefetched, or ends with every tile done; a tile with a refused
read is not counted. -/
def Obligations.TilesCompleteAtABoundary : Prop :=
  ∀ (s : State) (m : MillId) (r : Run) (c : TileRun), s.up → (s.mills[m.val]).running = some r → r.cur = some c → c.complete r = true →
    let reads := completionReads r c.tile
    let after := fun (v : State) (r' : Run) (t : State) =>
      (∀ e, r'.ending = some e → t = settleErr (endWith v m r' e)) ∧
      (∀ a, r'.ending = none → r'.abort = some a → t = settleErr (endAborted v m r' a)) ∧
      (r'.ending = none → r'.abort = none → r'.issued = [] → r'.todo = [] → t = settleErr (finishWalk v m r')) ∧
      (r'.ending = none → r'.abort = none → (r'.issued ≠ [] ∨ r'.todo ≠ []) → (v.mills[m.val]).wantsPreempt = true →
        t = settleErr (preemptNow v m)) ∧
      (∀ n l, r'.ending = none → r'.abort = none → r'.issued = n :: l → (v.mills[m.val]).wantsPreempt = false →
        t = settleErr (startTile v m r' n)) ∧
      (r'.ending = none → r'.abort = none → r'.issued = [] → r'.todo ≠ [] → (v.mills[m.val]).wantsPreempt = false → t = settleErr v)
    (∀ u : State, (∀ q ∈ reads, rowsOk s (some m) q.1 q.2) → tileWrites s m r c = (.ok, u) →
      ∀ r₁ : Run, (u.mills[m.val]).running = some r₁ →
        let r' := { r₁ with cur := none, tiles := r₁.tiles + 1 }
        let v := onMill u m fun x => { x with running := some r' }
        ∃ t, exec (.tileComplete m) s = .next t ∧ after v r' t) ∧
    (∀ (q : Nat × Nat) (before rest : List (Nat × Nat)) (st : NetStatus), reads = before ++ q :: rest →
      (∀ z ∈ before, rowsOk s (some m) z.1 z.2) → (rangeStatus s m q.1 q.2).1 = st → st ≠ .ok → st ≠ .uncorr →
      let r' := { r with cur := none, ending := r.ending.orElse fun _ => some (netEnding r st) }
      ∃ t, exec (.tileComplete m) s = .next t ∧ after (onMill s m fun x => { x with running := some r' }) r' t)

/-! ### Weirs (08) -/

/-- 08 R185, R186a, R188, R189, R194, R205: a WEIR_BIND that passes its checks holds its matrix, within the limits of its layout, until it
completes: then the shadow pair (MODE 1: the matrix itself) and the template are the new ones, and the vector buffer, the pending list
and the right-hand side are zero; a bind that fails a check leaves the Weir unchanged. A change of TENANT is taken only while neither a
solve nor a bind runs, and wipes the Weir. -/
def Obligations.WeirBindsItsMatrix : Prop :=
  ∀ (s : State) (w : WeirId), s.up → s.granary.errPend = false →
    let x := s.weirs[w.val]
    (∀ j : Job, x.binding = none → x.nextJob = some j → wOpcode j.words = some .weirBind →
      (∀ b, bindPlan s w j = .ok b →
        (x.en = true ∧ j.tenant = x.tenant ∧ b.job = j ∧ b.started = now s ∧ b.mat.mode ≤ 2 ∧
          1 ≤ b.mat.n ∧ b.mat.n ≤ (if b.mat.mode = 1 then 1024 else 256) ∧ (b.mat.mode = 2 → 1 ≤ b.mat.m ∧ b.mat.m ≤ 256) ∧
          b.mat.blocks.eraseDups.length = b.mat.blocks.length ∧ stripCount b.mat.blocks ≤ 16 ∧ b.rules.length ≤ 1024 ∧
          (∀ r ∈ b.rules, r.row < b.mat.rows ∧ (r.op.val < 2 → r.col < b.mat.n)) ∧
          (∀ i, i < b.mat.n → b.mat.dinv[i]? = some (let v := b.mat.value i i; if fisZero v then 0 else fdiv fOne v))) ∧
        (jobStop s j = none → ¬ (x.exclusive b = true ∧ x.running.isSome = true) →
          exec (.weirBind w) s = .next (onWeir { s with free := s.free + bindDraws } w fun x =>
            { x with queue := x.queue.erase j, binding := some b })) ∧
        (x.exclusive b = true → x.running.isSome = true → exec (.weirBind w) s = .next s)) ∧
      (∀ f, bindPlan s w j = .error f → jobStop s j = none → f.row = none →
        let u := onWeir s w fun x => { x with queue := x.queue.erase j }
        ∃ t, exec (.weirBind w) s = .next t ∧ Reported u t ∧ t = settleErr (finishJob u j f.st f.sub 0 0 (now s) 0 0)) ∧
      (x.en = false → bindPlan s w j = .error { st := stOffline, sub := 0 }) ∧
      (x.en = true → j.tenant ≠ x.tenant → bindPlan s w j = .error { st := stBound, sub := 0x04 })) ∧
    (∀ b, x.binding = some b → x.held = [] →
      let u := onWeir s w fun x =>
        { x with
          binding := none
          bound := true
          mat := if b.mat.mode = 1 then b.mat else x.mat
          shadow := if b.mat.mode = 1 then none else some b.mat
          rules := b.rules
          x := List.replicate b.mat.n 0
          rhs := List.replicate b.mat.rows 0
          rhsOps := []
          pending := []
          seqNew := none
          solves := 0
          running := x.running.map fun r => { r with keep := false } }
      ∃ t, exec (.bindComplete w) s = .next t ∧ Reported u t ∧
        t = settleErr (finishJob u b.job (if b.sat = 0 then stOk else stSat) 0 0 0 b.started 0 b.sat)) ∧
    (∀ v : Word,
      let cfg := v &&& 0xC0000007
      (bitsOf v 2 0 = bitsOf x.cfg 2 0 → exec (.weirTenantWrite w v) s = .next (onWeir s w fun x => { x with cfg := cfg })) ∧
      (bitsOf v 2 0 ≠ bitsOf x.cfg 2 0 → (x.running.isSome = true ∨ x.binding.isSome = true) → exec (.weirTenantWrite w v) s = .next s) ∧
      (bitsOf v 2 0 ≠ bitsOf x.cfg 2 0 → x.running = none → x.binding = none →
        ∃ t, exec (.weirTenantWrite w v) s = .next t ∧ let y := t.weirs[w.val]
          t = onWeir s w (fun _ => y) ∧
          y = { x with cfg := cfg, mat := y.mat, shadow := none, bound := false, x := y.x, rhs := y.rhs, rhsOps := [], pending := [] } ∧
          (∀ i j, y.mat.value i j = fofInt 0 (((y.mat.exps.getD i 0).toNat : Int) - 141)) ∧ (∀ a ∈ y.x, a = 0) ∧ (∀ a ∈ y.rhs, a = 0)))

/-- 08 R190 to R192, R194 to R203: records enter the pending list and the right-hand side; a solve that passes its checks commits them,
takes the largest BAND_SEQ and runs exactly K iterations; when its time has come its solution is written, then its stamp, and its
docket completes by its residual; a solve that fails a check leaves the Weir unchanged. -/
def Obligations.WeirSolvesCommitAndStamp : Prop :=
  ∀ (s : State) (w : WeirId), s.up → s.granary.errPend = false →
    let x := s.weirs[w.val]
    (∀ r : Record,
      (16 ≤ x.held.length → exec (.measurementRecord w r) s = .next s) ∧
      (x.held = [] → s.gauge.sent.find? (fun t => t.1 = w && t.2.2 = r) = none →
        ((∀ k ∈ x.rules, k.src ≠ r.src) → exec (.measurementRecord w r) s = .next s) ∧
        (∀ k v y, x.rules = [k] → k.src = r.src → Record.val r k.val = some v → x.applyRule k v = some y →
          exec (.measurementRecord w r) s = .next (onWeir s w fun _ => { y with seqNew := maxSeq y.seqNew r.seq })) ∧
        (∀ k v, x.rules = [k] → k.src = r.src → Record.val r k.val = some v → x.applyRule k v = none →
          exec (.measurementRecord w r) s = .next (onWeir s w fun x => { x with held := [{ record := r, rule := 0, no := none }] })))) ∧
    (∀ (k : WRule) (v : Word),
      (k.op.val < 2 → x.next.inside k.row k.col = true → x.pending.find? (fun e => e.1 = k.row && e.2.1 = k.col) = none →
        (512 ≤ x.pending.length → x.applyRule k v = none) ∧
        (x.pending.length < 512 → x.applyRule k v = some { x with pending := x.pending ++ [(k.row, k.col,
          if k.op = 1 then fadd (x.next.value k.row k.col) (fmul v k.coef) else fmul v k.coef)] })) ∧
      (2 ≤ k.op.val → ∃ y, x.applyRule k v = some y ∧ y = { x with rhs := y.rhs, rhsOps := y.rhsOps } ∧
        (k.row < x.rhs.length → y.rhs[k.row]? = some (if k.op.val = 3 then fadd (x.rhs.getD k.row 0) (fmul v k.coef) else fmul v k.coef)))) ∧
    (∀ (j : Job) (delta : Bool),
      let c := if delta then Instr.solveDelta w else Instr.solve w
      let o := if delta then Opcode.solveDelta else Opcode.solve
      let u := onWeir s w fun x => { x with queue := x.queue.erase j }
      x.running = none → x.binding = none → x.nextJob = some j → wOpcode j.words = some o → jobStop s j = none →
      (∀ f, solvePlan u w j delta = .error f → f.row = none →
        ∃ t, exec c s = .next t ∧ Reported u t ∧ t = settleErr (finishJob u j f.st f.sub 0 0 (now s) 0 0)) ∧
      (∀ p, solvePlan u w j delta = .ok p →
        (x.en = true ∧ x.bound = true ∧ j.tenant = x.tenant ∧ p.algo ≤ 4 ∧ 1 ≤ p.k ∧ p.k ≤ 4096 ∧ (p.algo = 4 ↔ x.next.mode = 2) ∧
          (p.algo = 3 → delta = false) ∧ (delta = true → 1 ≤ p.deltas.length ∧ p.deltas.length ≤ 512)) ∧
        (x.held = [] →
          let committed := x.next.putAll s.free x.pending
          let changed := applyDeltas committed.1 (s.free + 2 * x.pending.length) p.deltas
          let b := stagedRhs x.rhs p.rhs x.rhsOps
          let inp : SolveIn := { mat := changed.1, algo := p.algo, step := if p.deltas.isEmpty then j.words[8] else 0, b := b, lo := p.lo, hi := p.hi }
          let it := inp.iterate p.k (inp.init x.x)
          let res := inp.residual it.good
          ∃ t run, exec c s = .next t ∧
            t = onWeir { s with free := s.free + 2 * x.pending.length + 2 * p.deltas.length } w (fun x =>
              { x with queue := x.queue.erase j, mat := changed.1, shadow := none,
                       activePair := if x.shadow.isSome then !x.activePair else x.activePair, pending := [], rhs := b, rhsOps := [],
                       seq := x.seqNew.getD x.seq, seqNew := none, refused := bump x.refused changed.2.2,
                       nanIn := bump x.nanIn (it.bad + res.2), running := some run }) ∧
            run.job = j ∧ run.k = p.k ∧ run.x = it.good ∧ run.residual = res.1 ∧ run.finite = it.finite ∧
            run.sat = committed.2 + changed.2.1 ∧ run.seq = x.seqNew.getD x.seq ∧ run.started = now s ∧ run.solAt = p.solAt ∧
            run.cycles = solveCycles changed.1 p.algo p.k p.rd p.wr (x.pending.length + p.deltas.length - changed.2.2)))) ∧
    (∀ r : WeirRun, x.running = some r → jobStop s r.job = none →
      (x.fixedTime = true → cimElapsed s r.started r.cycles 0 = false → exec (.solveComplete w) s = .next s) ∧
      ((x.fixedTime = false ∨ cimElapsed s r.started r.cycles 0 = true) → rowsOk s none r.solAt (4 * r.x.length) → r.solAt % 512 = 0 →
        512 ≤ r.solAt → rowStatus s none (r.solAt - 512) = .ok →
        let st := if !r.finite || overTarget r.residual x.resTarget then stNotConv else if r.sat = 0 then stOk else stSat
        ∃ u t, exec (.solveComplete w) s = .next t ∧
          t = settleErr (finishJob u r.job st 0 0 (fBF16.encode (fval r.residual)) r.started r.k r.sat) ∧ Reported u t ∧
          u = onWeir { s with
              mem := writeBytes (writeBytes s.mem r.solAt (wordBytes r.x)) (r.solAt - 512) (stampRow r st (now s) (bump x.solves))
              granary := u.granary } w (fun x =>
            { x with
              running := none
              x := if r.keep then r.x else x.x
              nonfinite := if r.finite then x.nonfinite else bump x.nonfinite
              solveLate := if r.job.cls ≠ 3 && cimElapsed s r.started r.cycles 10 then bump x.solveLate else x.solveLate
              solves := bump x.solves
              lastRes := r.residual
              lastSeq := r.seq }) ∧
          (stampRow r st (now s) (bump x.solves)).length = 512))

/-! ### Gauge (09) -/

/-- 09 R207 to R215, R226, Corners: packet headers, streams and lines outside the crop are counted and discarded; a line of an open band is
written as whole rows with its stamp; frames close their bands; a release frees slots only if so many are held; an accepted ring waits for the
next frame start, one that fails a check changes nothing; a band's Bell waits for the credits of its records. -/
def Obligations.CameraLinesFillBandRings : Prop :=
  ∀ (s : State) (c : CamId), s.up → s.granary.errPend = false →
    let p := s.gauge.ports[c.val]
    (∀ k : LongPacket,
      (k.hdr = .bad → nearLen p k.measured = false → exec (.csiLongPacket c k) s = .next (onCam s c (·.count 3))) ∧
      (k.hdr ≠ .bad → ¬ (k.vc = p.vc ∧ k.dt = p.dt) →
        exec (.csiLongPacket c k) s = .next (onCam s c fun p => (if k.hdr = .corrected then p.count 2 else p).count 5)) ∧
      (k.hdr = .good → k.crcErr = false → k.vc = p.vc → k.dt = p.dt →
        let seen := fun (p : CamPort) => { p with expected := some k.measured, lines := p.lines + 1 }
        (p.inFrame = true → (p.ring = none ∨ p.lines < p.y0 ∨ p.y0 + p.h ≤ p.lines) →
          exec (.csiLongPacket c k) s = .next (onCam s c seen)) ∧
        (∀ (r : BandRing) (b : BandRun) (slot : Nat), p.inFrame = true → p.ring = some r → p.band = some b → b.slot = some slot →
          p.y0 ≤ p.lines → p.lines < p.y0 + p.h → b.line < 63 →
          let a := r.base + slot * r.batchStride + b.line * r.rowStride
          a % 512 = 0 → r.rowStride % 512 = 0 → (∀ i, i < r.rowStride → placeStatus s none (a + i) = .ok) →
          ∃ g : Granary, exec (.csiLongPacket c k) s = .next (onCam { s with
              mem := writeBytes s.mem a (lineBytes p r.rowStride k.pixels), granary := g } c fun p =>
            { seen p with
              band := some { b with
                line := b.line + 1
                valid := b.valid ||| BitVec.twoPow 64 b.line
                stamps := vmod b.stamps (fin 64 b.line) fun _ => now s + p.lineOffset.signExtend 64
                flags := b.flags ||| (if s.gauge.isLocked then 0 else fTimeUnlocked) } }) ∧
            g = { s.granary with poison := g.poison, banks := g.banks }))) ∧
    (∀ (e : BandEnd) (rest : List BandEnd), p.ended = e :: rest →
      (e.waits = [] → ∃ t, exec (.bandComplete c) s = .next t ∧ Reported (onCam s c fun p => { p with ended := rest }) t ∧
        t = settleErr (raiseBell (onCam s c fun p => { p with ended := rest }) p.bandBell)) ∧
      (e.waits ≠ [] → exec (.bandComplete c) s = .next s)) ∧
    (∀ (vc : Fin 4) (no : BitVec 16),
      (vc ≠ p.vc → exec (.frameStart c vc no) s = .next (onCam s c (·.count 5)) ∧ exec (.frameEnd c vc) s = .next (onCam s c (·.count 5))) ∧
      (vc = p.vc → p.inFrame = false →
        exec (.frameEnd c vc) s = .next s ∧
        (p.arm = none → exec (.frameStart c vc no) s = .next (onCam s c fun p =>
          { p with inFrame := true, frameNo := no, lines := 0, band := none })) ∧
        (∀ ring, p.arm = some ring → exec (.frameStart c vc no) s = .next (onCam s c fun p =>
          { p with ring := ring, arm := none, heldSlots := 0, nextSlot := 0, bandSeq := 0, droppedSince := 0, inFrame := true,
                   frameNo := no, lines := 0, band := none }))) ∧
      (vc = p.vc → p.inFrame = true → p.band = none →
        exec (.frameEnd c vc) s = .next (onCam s c fun p => { p with inFrame := false }))) ∧
    (∀ (j : Job) (rest : List Job), s.gauge.queue = j :: rest → wOpcode j.words = some .gaugeArm → jobStop s j = none →
      let u := onGauge s fun g => { g with queue := rest }
      (∀ d ring, armPlan u j = .ok (d, ring) →
        (∃ t, exec .gaugeArm s = .next t ∧ Reported (onCam u d fun p => { p with arm := some ring }) t) ∧
        (ring = none ↔ j.words[5] = 0xFFFFFFFF) ∧
        (∀ r, ring = some r → let q := s.gauge.ports[d.val]
          r.rowStride % 512 = 0 ∧ 2 ≤ r.batches ∧ r.batches ≤ 256 ∧ 64 * r.rowStride + 1024 ≤ r.batchStride ∧ r.batchStride % 512 = 0 ∧
          q.h % 64 = 0 ∧ q.h ≤ 64 * 255 ∧ q.lineLen.getD 0 ≤ r.rowStride ∧ j.win.base + 1024 ≤ r.base)) ∧
      (∀ f, armPlan u j = .error f → f.row = none → ∃ t, exec .gaugeArm s = .next t ∧ Reported u t ∧
        t = settleErr (finishJob u j f.st f.sub 0 0 (now s) 0 0))) ∧
    (∀ v : Word, let n := bitsOf v 8 0
      (n ≤ p.heldSlots → exec (.relAddWrite c v) s = .next (onCam s c fun p => { p with heldSlots := p.heldSlots - n })) ∧
      (p.heldSlots < n → exec (.relAddWrite c v) s = .next (onCam s c (·.count 7))))

/-- 09 R216 to R221: a tick advances device time by 10 ns, RATE and at most 0.01 ns of SLEW, and device time never decreases; SLEW and
TIME_LOAD as written; a PPS edge is captured, and one that is accepted sets SLEW, RATE and LOCKED; 1.5 s without one is holdover. -/
def Obligations.DeviceTimeAndItsServo : Prop :=
  ∀ (s : State), s.up →
    let g := s.gauge
    (∃ t, exec .ckSluTick s = .next t ∧
      (let step := max (-slewStep) (min slewStep g.slew)
        let after := (g.time.toNat * 2 ^ 32 + g.frac.toNat : Int) + (10 * 2 ^ 32 + effRate g + step)
        t = onSpigot (onGauge s fun g => { g with time := t.gauge.time, frac := t.gauge.frac, slew := g.slew - step }) (fun sp =>
          { sp with chans := sp.chans.map fun c => c.pwmLevel t.gauge.time }) ∧
        -21474836 ≤ effRate g ∧ effRate g ≤ 21474836 ∧
        (g.time.toNat + 11 < 2 ^ 64 → (t.gauge.time.toNat * 2 ^ 32 + t.gauge.frac.toNat : Int) = after ∧ g.time ≤ t.gauge.time))) ∧
    (∀ v : Word, exec (.slewWrite v) s = .next (onGauge s fun g => { g with slew := sx v * 2 ^ 32 })) ∧
    (∀ hi : Word,
      ((∃ p : CamId, (g.ports[p.val]).ring ≠ none) ∨ edgesScheduled s = true → exec (.timeLoad hi) s = .next (onGauge s fun g => { g with loadRej := true })) ∧
      ((∀ p : CamId, (g.ports[p.val]).ring = none) → edgesScheduled s = false →
        exec (.timeLoad hi) s = .next (onGauge s fun g => { g with time := hi ++ g.loadLo }))) ∧
    (∀ m : TreeMaster, ∃ t, exec (.timeLoRead m) s = .next t ∧
      t = answer (onGauge s fun g => { g with timeHi := hi32 g.time }) (masterNo m) false (lo32 g.time)) ∧
    (∀ p : Fin 2,
      let cap := onGauge s fun g => { g with ppsCap := vmod g.ppsCap p fun _ => g.time }
      let e : Int := ((g.time.toNat : Int) - sx g.ppsOffset + 500000000) % 1000000000 - 500000000
      (g.ppsInput ≠ some p → exec (.ppsEdge p) s = .next cap) ∧
      (g.ppsInput = some p → g.isLocked = true → bitsOf g.servoCfg 31 16 * 1000 < e.natAbs →
        exec (.ppsEdge p) s = .next (onGauge cap fun g => { g with ppsErr := BitVec.ofInt 32 e, ppsGlitch := bump g.ppsGlitch })) ∧
      (g.ppsInput = some p → (g.isLocked = false ∨ e.natAbs ≤ bitsOf g.servoCfg 31 16 * 1000) →
        let rate := sx g.rate - rheDiv (4295 * e) (100 * 2 ^ bitsOf g.servoCfg 3 0)
        let near := decide (e.natAbs ≤ bitsOf g.servoCfg 15 8 * 10)
        rate < 2 ^ 31 → -(2 ^ 31) ≤ rate →
        exec (.ppsEdge p) s = .next (trigger (onGauge { cap with free := s.free + 1 } fun g =>
          { g with ppsErr := BitVec.ofInt 32 e, slew := -e * 2 ^ 32, rate := BitVec.ofInt 32 rate,
                   lockRun := if near then stopAt 4 (g.lockRun + 1) else 0,
                   locked := near && (g.locked || decide (4 ≤ g.lockRun + 1)), holdover := false, ppsLost := false, lastPps := g.time })
          (12 + p.val)).2)) ∧
    (s.granary.errPend = false →
      ((g.ppsInput = none ∨ g.holdover = true ∨ (now s).toNat < g.lastPps.toNat + 1500000000) → exec .ppsHoldover s = .next s) ∧
      (g.ppsInput ≠ none → g.holdover = false → g.lastPps.toNat + 1500000000 ≤ (now s).toNat →
        let u := onGauge s fun g =>
          { g with holdover := true, ppsLost := true, locked := false, lockRun := 0, ppsLoss := bump g.ppsLoss,
                   otherInput := if bitOf g.ctl 3 then !g.otherInput else g.otherInput }
        ∃ t, exec .ppsHoldover s = .next t ∧ t = settleErr (raiseBell u (fin 256 (bitsOf g.ctl 15 8))) ∧ Reported u t))

/-- 09 R222 to R225: an encoder counts and stamps each accepted step, both inputs changing counts an error; a trigger of a source forms its
record when every routed Weir has a credit, else the source is pending; pending sources are served in ascending order, then held
injections. -/
def Obligations.EncodersImusAndRecords : Prop :=
  ∀ (s : State), s.up →
    let g := s.gauge
    (∀ (e : Fin 8) (k : QuadStep),
      let x := g.encs[e.val]
      let becomes := fun (y : Encoder) => exec (.encoderEdge e k) s = .next (onGauge s fun g => { g with encs := vmod g.encs e fun _ => y })
      (bitOf x.cfg 0 = false → exec (.encoderEdge e k) s = .next s) ∧
      (bitOf x.cfg 0 = true →
        (k = .both → becomes { x with err := bump x.err }) ∧
        ((k = .up ∧ bitOf x.cfg 1 = false ∨ k = .down ∧ bitOf x.cfg 1 = true) → becomes { x with count := x.count + 1, lastEdge := some g.time }) ∧
        ((k = .down ∧ bitOf x.cfg 1 = false ∨ k = .up ∧ bitOf x.cfg 1 = true) → becomes { x with count := x.count - 1, lastEdge := some g.time }))) ∧
    (∀ (i : Fin 2) (timer : Bool),
      let c := if timer then Instr.imuTimer i else Instr.imuDrdyEdge i
      let cfg := (g.imus[i.val]).cfg
      ((bitOf cfg 0 = false ∨ bitOf cfg 2 ≠ timer) → exec c s = .next s) ∧
      (bitOf cfg 0 = true → bitOf cfg 2 = timer → exec c s = .next (trigger (trigger s (8 + 2 * i.val)).2 (9 + 2 * i.val)).2)) ∧
    (∀ src : Nat,
      let route := g.routeOf src
      (route = 0 → trigger s src = (none, s)) ∧
      (∀ no, route ≠ 0 → g.underWay src = some no → trigger s src = (some no, onGauge s fun g => { g with recLate := bump g.recLate })) ∧
      (route ≠ 0 → g.underWay src = none → routeFree s route = true →
        trigger s src = (some g.recNo, formRecord (onGauge s fun g => { g with recNo := g.recNo + 1 }) src g.recNo)) ∧
      (route ≠ 0 → g.underWay src = none → routeFree s route = false →
        trigger s src = (some g.recNo, onGauge s fun g => { g with recNo := g.recNo + 1, pendingSrc := insertSrc (fin 64 src, g.recNo) g.pendingSrc }))) ∧
    (∀ (i : Fin 2) (b : Vector (List Byte) 2), ∃ t, exec (.imuBurstDone i b) s = .next t ∧
      ((∀ k : Fin 2, ((g.imus[i.val]).trigger[k.val]) = none) → t = s) ∧
      (∀ t0 no, (g.imus[i.val]).trigger[0] = some (t0, no) → (g.imus[i.val]).trigger[1] = none →
        (∀ k, k < 4 → let f := bitsOf ((g.imus[i.val]).slots[0]).fieldOff (8 * k + 7) (8 * k)
          f / 128 = 0 ∨ f % 32 + 1 < ((g.imus[i.val]).slots[0]).len) →
        t = { onGauge s fun g =>
          { g with
            imus := vmod g.imus i fun m => { m with trigger := vmod m.trigger (0 : Fin 2) fun _ => none }
            sent := g.sent ++ (routeWeirs (g.routeOf (8 + 2 * i.val))).map fun w => (w, no,
              let x := (g.imus[i.val]).slots[0]
              let field := fun (k : Nat) =>
                let f := bitsOf x.fieldOff (8 * k + 7) (8 * k)
                let lo := (b[0].getD (f % 32) 0).toNat
                let hi := (b[0].getD (f % 32 + 1) 0).toNat
                if f / 128 = 0 then (0 : Word)
                else fmul (fofInt (sval 16 (if f / 64 % 2 = 1 then 256 * lo + hi else lo + 256 * hi))) x.scale
              { src := fin 64 (8 + 2 * i.val), mask := BitVec.ofNat 4 ((List.range 4).foldl (fun acc k => acc + bitsOf x.fieldOff (8 * k + 7) (8 * k + 7) * 2 ^ k) 0),
                seq := (g.ports[g.seqCam.val]).bandSeq, time := t0, v0 := field 0, v1 := field 1, v2 := field 2, v3 := field 3 }) } with free := s.free + 4 })) ∧
    (∀ (src : Fin 64) (no : Nat) (rest : List (Fin 64 × Nat)), g.pendingSrc = (src, no) :: rest →
      (routeFree s (g.routeOf src.val) = true →
        exec .recordPendingServe s = .next (formRecord (onGauge s fun g => { g with pendingSrc := rest }) src.val no)) ∧
      (routeFree s (g.routeOf src.val) = false → exec .recordPendingServe s = .next s)) ∧
    (∀ v : Word,
      let w := g.recInj
      let u := onGauge s fun g => { g with recInj := vmod g.recInj (7 : Fin 8) fun _ => v }
      let r : Record := { src := fin 64 (bitsOf w[0] 5 0), mask := BitVec.ofNat 4 (bitsOf w[0] 11 8), seq := (g.ports[g.seqCam.val]).bandSeq,
                          time := g.time, v0 := w[4], v1 := w[5], v2 := w[6], v3 := v }
      (g.routeOf 32 = 0 → exec (.recInjWrite v) s = .next u) ∧
      (g.routeOf 32 ≠ 0 → g.injHeld = [] → routeFree s (g.routeOf 32) = true →
        exec (.recInjWrite v) s = .next (onGauge u fun g =>
          { g with recNo := g.recNo + 1, sent := g.sent ++ (routeWeirs (g.routeOf 32)).map fun w => (w, g.recNo, r) })) ∧
      (g.routeOf 32 ≠ 0 → (g.injHeld ≠ [] ∨ routeFree s (g.routeOf 32) = false) →
        exec (.recInjWrite v) s = .next (onGauge u fun g => { g with injHeld := g.injHeld ++ [r] })))

/-! ### Spigot and field networks (10) -/

/-- 10 R232 to R236, R239: SPIGOT_SCHEDULE refuses a list that names more or fewer Mills than one or no 1 to 256 entries, waits for a place
of its class in the schedule queue, and else passes its time-form edges to the Spigot and ends; the Spigot takes the edges in list order by the
first row of Table 10.2 that applies, waits at a full FIFO, and a docket without edges left leaves the queue and reports; a due edge acts. -/
def Obligations.EdgesAreScheduledAcceptedAndApplied : Prop :=
  ∀ s : State, s.up → s.granary.errPend = false →
    (∀ (m : MillId) (r : Run), runOf s m .spigotSchedule = some r → r.abort = none → bitOf s.spigot.ctl 31 = true →
      let n := bitsOf r.msg.docket[5] 8 0
      (maskCount (wMask r.msg.docket) ≠ 1 ∨ n = 0 ∨ 256 < n →
        exec (.spigotSchedule m) s = .next (settleErr (endRun s m r stFormat 0x0D 0 0))) ∧
      (∀ entries, edgeList s m r.msg = .ok entries →
        (s.spigot.room (decide (r.msg.cls = 3)) = false → exec (.spigotSchedule m) s = .next s) ∧
        (s.spigot.room (decide (r.msg.cls = 3)) = true → (∀ ws ∈ entries, bitOf (nthW ws 0) 8 = false) →
          let es := entries.map fun ws => ({
            chan := fin 256 (bitsOf (nthW ws 0) 7 0), action := fin 4 (bitsOf (nthW ws 0) 13 12), duty := dutyOf (bitsOf (nthW ws 0) 25 16),
            time := BitVec.ofNat 64 ((nthW ws 2).toNat + (nthW ws 3).toNat * 2 ^ 32) } : Edge)
          let id := ((s.control.credits[m.val])[r.msg.slot.val]).getD 0
          let u := { s with
            free := s.free + entries.length
            spigot := { s.spigot with
              queue := s.spigot.queue ++ [{
                id := id, words := r.msg.docket, start := r.start.getD r.dispatched, mill := m, slot := r.msg.slot, chute := r.msg.chute,
                urgent := decide (r.msg.cls = 3), edges := [], awaiting := es.length, taken := 0, refused := 0, remote := [],
                seqUsed := 0, noSpeed := false }]
              flying := s.spigot.flying ++ (edgeMsgs es.length es).map fun x => (m, r.msg.chute, r.msg.slot, x) } }
          exec (.spigotSchedule m) s = .next (settleErr (endRun (joinSpigot u r.msg.chute id) m r stOk 0 0 0))))) ∧
    (∀ (j : SchedJob) (rest : List SchedJob), s.spigot.queue = j :: rest → schedStop s j = none →
      let a := now s
      let cause := bitOf s.spigot.ctl 29 || s.spigot.safePinLow
      let leaves := fun (u : State) (j : SchedJob) => if j.edges = [] ∧ j.awaiting = 0 then schedDone u j stOk else u
      let next := fun (j : SchedJob) (sp : Spigot) =>
        exec .edgeAccept s = .next (settleErr (leaves { s with spigot := { sp with queue := j :: rest } } j))
      (∀ u, Reported { u with spigot := { u.spigot with queue := u.spigot.queue.drop 1 }.packAll j.remote } (schedDone u j stOk)) ∧
      (j.edges = [] → exec .edgeAccept s = .next (settleErr (leaves s j))) ∧
      (∀ (e : Edge) (es : List Edge), j.edges = e :: es →
        let x := s.spigot.chans[e.chan.val]
        let lead := if e.chan.val < 64 then 40 else 1000 * bitsOf (s.spigot.nodes[(boomOf e.chan).val]).timing 15 0
        let no := { j with edges := es, refused := j.refused + 1 }
        let yes := fun w => { j with
          edges := es
          taken := j.taken + 1
          remote := if e.chan.val < 64 then j.remote else j.remote ++ [w] }
        let wire := (e.chan, e.action, e.duty, e.time)
        let held := fun (c : Channel) => { c with holding := false, holdFrom := none, forced := c.forced && cause }
        let late := e.time.toNat < a.toNat + lead
        let bound := e.action ≠ 3 ∧ (x.chute = j.chute ∨ x.any = true)
        (e.action = 3 → next no s.spigot) ∧
        (e.action ≠ 3 → x.chute ≠ j.chute → x.any = false → next no (s.spigot.count 3)) ∧
        (bound → late → (e.action = 0 ∧ x.safeLevel = false) ∨ (e.action = 1 ∧ x.safeLevel = true) →
          next (yes wire) (((s.spigot.count 1).count 0).onChan e.chan fun c =>
            held (if cause then c else c.act e.action e.duty a (decide (e.chan.val < 64))))) ∧
        (bound → late → ¬ ((e.action = 0 ∧ x.safeLevel = false) ∨ (e.action = 1 ∧ x.safeLevel = true)) →
          let u := { s with spigot := { s.spigot.count 1 with queue := no :: rest } }
          exec .edgeAccept s = .next (settleErr (leaves (raiseBell u (fin 256 (bitsOf s.spigot.ctl 15 8))) no))) ∧
        (∀ q, bound → ¬ late → x.fifo.getLast? = some q → e.time ≤ q.time →
          (e.action = 1 → q.action = 0 → next (yes (e.chan, 3, 0, q.time)) ((s.spigot.count 4).onChan e.chan fun c =>
            held { c with fifo := c.fifo.dropLast })) ∧
          (¬ (e.action = 1 ∧ q.action = 0) → next no (s.spigot.count 2))) ∧
        (bound → ¬ late → (∀ q, x.fifo.getLast? = some q → q.time < e.time) →
          (32 ≤ x.fifo.length → exec .edgeAccept s = .next s) ∧
          (x.fifo.length < 32 → next (yes wire) (s.spigot.onChan e.chan fun c =>
            held { c with fifo := if cause then c.fifo else c.fifo ++ [e] }))))) ∧
    (∀ ch : ChanId, let x := s.spigot.chans[ch.val]
      (x.fifo = [] → exec (.edgeDue ch) s = .next s) ∧
      (∀ e rest, x.fifo = e :: rest →
        (now s < e.time → exec (.edgeDue ch) s = .next s) ∧
        (e.time ≤ now s → exec (.edgeDue ch) s = .next (onSpigot s fun sp => (sp.onChan ch fun c =>
          { c with fifo := rest }.act e.action e.duty e.time (decide (ch.val < 64))).count 0))))

/-- 10 R229 to R231, R238, R239: how an edge acts in MODE 0 and MODE 1; the end of the hit interval and of a period start a period, high, at
the duty set last; FORCE_SAFE and the falling pin put every channel to its safe level without its edges, which the nodes are told; a HOLDING
channel without an edge for HOLD_LIMIT_MS goes safe; a node that has been sent nothing for HB_US is queued a heartbeat. -/
def Obligations.ChannelsPwmAndSafeLevels : Prop :=
  (∀ (c : Channel) (d : BitVec 10) (t : Word64) (own : Bool),
    c.act 0 d t own = { c with level := false, on := false, hit := false, running := false } ∧
    ((c.act 1 d t own).level = true ∧ (c.act 1 d t own).on = true ∧ (c.act 1 d t own).fifo = c.fifo ∧
      (d ≠ 0 → (c.act 1 d t own).dutyNow = dutyOf d.toNat) ∧ (d = 0 → (c.act 1 d t own).dutyNow = dutyOf (bitsOf c.cfg 25 16)) ∧
      ((c.act 1 d t own).hit = true ↔ own = true ∧ c.pwmMode = true ∧ c.hitUs ≠ 0)) ∧
    ((c.act 2 d t own).level = c.level ∧ (c.act 2 d t own).on = c.on ∧
      (own = true → c.pwmMode = true → c.on = true → c.act 2 d t own = { c with dutyNext := dutyOf d.toNat }) ∧
      (¬ (own = true ∧ c.pwmMode = true ∧ c.on = true) → (c.act 2 d t own).dutyNow = dutyOf d.toNat)) ∧
    50 ≤ c.periodUs ∧ (dutyOf d.toNat).toNat ≤ 1000) ∧
  ∀ s : State, s.up →
    (∀ ch : ChanId, let x := s.spigot.chans[ch.val]
      (x.hit = true → x.since.toNat + 1000 * x.hitUs ≤ (now s).toNat →
        exec (.pwmHitEnd ch) s = .next (onSpigot s fun sp => sp.onChan ch fun c =>
          { c with hit := false, running := true, level := true, dutyNow := c.dutyNext, since := x.since + BitVec.ofNat 64 (1000 * x.hitUs) })) ∧
      (x.hit = false ∨ (now s).toNat < x.since.toNat + 1000 * x.hitUs → exec (.pwmHitEnd ch) s = .next s) ∧
      (x.running = true → x.since.toNat + 1000 * x.periodUs ≤ (now s).toNat →
        exec (.pwmPeriodStart ch) s = .next (onSpigot s fun sp => sp.onChan ch fun c =>
          { c with hit := false, running := true, level := true, dutyNow := c.dutyNext, since := x.since + BitVec.ofNat 64 (1000 * x.periodUs) })) ∧
      (x.running = false ∨ (now s).toNat < x.since.toNat + 1000 * x.periodUs → exec (.pwmPeriodStart ch) s = .next s) ∧
      (∀ f : Word64, x.holding = true → x.holdFrom = some f → bitsOf s.spigot.ctl 23 16 ≠ 0 →
        f.toNat + 1000000 * bitsOf s.spigot.ctl 23 16 ≤ (now s).toNat →
        ∃ t, exec (.holdLimitExpire ch) s = .next t ∧ t = onSpigot s fun sp => { sp.onChan ch Channel.toSafe with nodes := t.spigot.nodes }) ∧
      (x.holding = false ∨ x.holdFrom = none ∨ bitsOf s.spigot.ctl 23 16 = 0 → exec (.holdLimitExpire ch) s = .next s)) ∧
    (let safe := fun (c : Instr) (sp : Spigot) => ∃ t, exec c s = .next t ∧
        t = { s with spigot := { sp with chans := s.spigot.chans.map Channel.toSafe, nodes := t.spigot.nodes } } ∧
        (∀ (k : BoomId) (i : Fin 24), ∃ d, t.spigot.nodes[k.val] = { s.spigot.nodes[k.val] with dropPend := d } ∧
          (d.getLsbD i.val = true ↔ (s.spigot.nodes[k.val]).dropPend.getLsbD i.val = true ∨
            (s.spigot.chans[(fin 256 (64 + 24 * k.val + i.val)).val]).fifo ≠ []))
      ∀ v, (bitOf v 29 = true → safe (.forceSafeWrite v) { s.spigot with ctl := v &&& 0xA0FFFF07 }) ∧
        safe .safePinFall { s.spigot with safePinLow := true }) ∧
    (∀ v, bitOf v 29 = false → exec (.forceSafeWrite v) s = .next (onSpigot s fun sp => { sp with ctl := v &&& 0xA0FFFF07 })) ∧
    exec .safePinRise s = .next (onSpigot s fun sp => { sp with safePinLow := false }) ∧
    (∀ k : BoomId, let n := s.spigot.nodes[k.val]
      let waits := ∃ (m : MacId) (tc : Fin 8) (es : List (ChanId × Fin 4 × BitVec 10 × Word64)) (h : Bool),
        TxFrame.boom k es h ∈ ((s.spigot.macs[m.val]).queues[tc.val])
      (bitOf n.cfg 31 = true → ¬ waits → n.lastSent.toNat / 1000 + bitsOf n.timing 31 16 + 1 ≤ (now s).toNat / 1000 →
        exec (.heartbeatTimer k) s = .next (onSpigot s fun sp => sp.queueBoom k [])) ∧
      (bitOf n.cfg 31 = false ∨ waits ∨ (now s).toNat / 1000 < n.lastSent.toNat / 1000 + bitsOf n.timing 31 16 + 1 →
        exec (.heartbeatTimer k) s = .next s))

/-- 10 R239, R240, R243, R244, R247, R248: the frame at the head of a class goes out, with the next SEQ and DROP_PEND, while its gate is open
long enough, else it is held and counted; CHANGE asks for the administrative list, which takes over at its base; doorbells name the frames to
send; frames are received into owned descriptors and through the first matching filter, else counted; bus-off and its recovery. -/
def Obligations.GatedFramesAndCan : Prop :=
  ∀ s : State, s.up → s.granary.errPend = false →
    (∀ mac : MacId, let x := s.spigot.macs[mac.val]
      let y := { x with entry := match x.entryAt (now s).toNat with | some (i, _) => i | none => x.entry }
      (bitOf x.ctl 31 = false → exec (.gateEntryStart mac) s = .next s ∧ ∀ f, exec (.ethRxFrame mac f) s = .next s) ∧
      (∀ (tc : Fin 8) (k : BoomId) (es : List (ChanId × Fin 4 × BitVec 10 × Word64)),
        bitOf x.ctl 31 = true → (∀ c : Fin 8, c ≠ tc → x.queues[c.val] = []) → x.queues[tc.val] = [.boom k es false] →
        let fits := x.tasEn = false ∨ x.staysOpen tc 512 (now s).toNat (x.bytesNs (max 64 (26 + 8 * es.length + 4) + 20)) = true
        (x.opens tc (now s).toNat = false → exec (.gateEntryStart mac) s = .next (onMac s mac fun _ => y)) ∧
        (x.opens tc (now s).toNat = true → fits → exec (.gateEntryStart mac) s = .next (onSpigot s fun sp =>
          let n := sp.nodes[k.val]
          { sp with
            nodes := vmod sp.nodes k fun n => { n with seq := n.seq + 1, dropPend := 0, lastSent := now s }
            macs := vmod sp.macs mac fun _ =>
              { y with
                queues := vmod y.queues tc fun _ => []
                wire := boomBytes sp k es (n.seq + 1) n.dropPend :: y.wire } })) ∧
        (x.opens tc (now s).toNat = true → ¬ fits → exec (.gateEntryStart mac) s = .next (onMac s mac fun _ =>
          { y with queues := vmod y.queues tc fun _ => [.boom k es true], tasHeld := bump x.tasHeld }))) ∧
      (∀ v, exec (.gateListChange mac v) s = .next (onMac s mac fun x => { x with changePend := x.changePend || bitOf v 0 })) ∧
      (x.changePend = true → x.adminBase ≤ now s → exec (.adminListSwitch mac) s = .next (onMac s mac fun x =>
        { x with changePend := false, operList := !x.operList, oper := x.admin, operLen := x.adminLen.toNat, operBase := x.adminBase,
                 operCycle := x.cycleNs, entry := 0 })) ∧
      (x.changePend = false ∨ now s < x.adminBase → exec (.adminListSwitch mac) s = .next s) ∧
      (∀ (r : Fin 8) (tail : Word), let q := x.rings[(fin 12 r.val).val]
        exec (.ethTxDoorbell mac r tail) s = .next (onMac s mac fun x =>
          { x with
            rings := vmod x.rings (fin 12 r.val) fun k => { k with tail := tail.toNat % k.size }
            queues := vmod x.queues r fun w => w ++ txFrames s q r ((tail.toNat + q.size - q.tail % q.size) % q.size) q.tail }) ∧
        (x.sending.find? (TxFrame.ofRing r) = none → exec (.ethTxDone mac r) s = .next s) ∧
        (∀ (i : Nat) (h : Bool), x.sending.find? (TxFrame.ofRing r) = some (.ring r i h) → rowsOk s none (q.descAt i) 32 →
          q.descAt i % 32 = 0 →
          ∃ (g : Granary) (st : Byte), exec (.ethTxDone mac r) s = .next (onMac { s with
              free := s.free + 1
              granary := g
              mem := writeBytes (writeBytes s.mem (q.descAt i + 16) (leBytes 8 (now s).toNat)) (q.descAt i + 6)
                (leBytes 2 (readLe s.mem (q.descAt i + 6) 2) ++ leBytes 2 (readLe s.mem (q.descAt i + 8) 2) ++ [0, st]) } mac fun x =>
            { x with
              sending := x.sending.erase (.ring r i h)
              rings := vmod x.rings (fin 12 r.val) fun q => { q with head := (i + 1) % q.size } }) ∧
            g = { s.granary with poison := g.poison, banks := g.banks } ∧ st = Config.fresh 8 s.free)) ∧
      (∀ f : EthFrame, bitOf x.ctl 31 = true →
        let r : Fin 12 := fin 12 (8 + (x.classOf f.pcp).val / 2)
        let q := x.rings[r.val]
        let a := q.descAt q.head
        let buf := readLe s.mem a 6
        ((readByte s.mem (a + 10)).getLsbD 0 = false ∨ ¬ rowsOk s none a 32 →
          exec (.ethRxFrame mac f) s = .next (onMac s mac fun x => { x with rxNospace := bump x.rxNospace })) ∧
        ((readByte s.mem (a + 10)).getLsbD 0 = true → a % 32 = 0 → rowsOk s none a 32 → rowsOk s none buf f.bytes.length →
          ∃ (g : Granary) (st : Byte), exec (.ethRxFrame mac f) s = .next (onMac { s with
              free := s.free + 1
              granary := g
              mem := writeBytes (writeBytes (writeBytes s.mem buf f.bytes) (a + 16) (leBytes 8 (now s).toNat)) (a + 6)
                (leBytes 2 f.bytes.length ++ leBytes 2 f.vlan.toNat ++ [0, st]) } mac fun x =>
            { x with rings := vmod x.rings r fun q => { q with head := (q.head + 1) % q.size } }) ∧
            g = { s.granary with poison := g.poison, banks := g.banks } ∧ st = Config.fresh 8 s.free))) ∧
    (∀ n : CanId, let x := s.spigot.cans[n.val]
      (∀ f : CanFrame,
        (bitOf x.ctl 31 = false → exec (.canRxFrame n f) s = .next s) ∧
        (bitOf x.ctl 31 = true → x.filters.toList.find? (fun w => filterTakes w f) = none →
          exec (.canRxFrame n f) s = .next (onCan s n fun x => { x with filtered := bump x.filtered })) ∧
        (∀ w, bitOf x.ctl 31 = true → x.filters.toList.find? (fun w => filterTakes w f) = some w →
          let r : Fin 4 := if bitOf w.1 30 then 3 else 2
          let q := x.rings[r.val]
          (q.canSize ≤ q.head - q.tail → exec (.canRxFrame n f) s = .next (onCan s n fun x => { x with rxNospace := bump x.rxNospace })) ∧
          (q.head - q.tail < q.canSize → rowsOk s none (q.entryAt q.head) 80 →
            ∃ g : Granary, exec (.canRxFrame n f) s = .next (onCan { s with
                mem := writeBytes s.mem (q.entryAt q.head) (canEntry (now s) f), granary := g } n fun x =>
              { x with rings := vmod x.rings r fun q => { q with head := q.head + 1 } }) ∧
              g = { s.granary with poison := g.poison, banks := g.banks }))) ∧
      (∀ (r : Fin 2) (tail : Word), exec (.canTxDoorbell n r tail) s = .next (onCan s n fun x =>
        { x with rings := vmod x.rings (fin 4 r.val) fun q => { q with tail := tail.toNat } })) ∧
      (let r : Fin 4 := if (x.rings[0]).head < (x.rings[0]).tail then 0 else 1
        let q := x.rings[r.val]
        let a := q.entryAt q.head
        (bitOf x.ctl 31 = false ∨ bitOf x.ctl 29 = true ∨ x.busOff = true ∨ q.tail ≤ q.head → exec (.canTxDone n) s = .next s) ∧
        (bitOf x.ctl 31 = true → bitOf x.ctl 29 = false → x.busOff = false → q.head < q.tail → rowsOk s none a 80 →
          ∃ g : Granary, exec (.canTxDone n) s = .next (onCan { s with
              mem := writeBytes s.mem a (leBytes 8 (now s).toNat), granary := g } n fun x =>
            { x with
              rings := vmod x.rings r fun q => { q with head := q.head + 1 }
              wire := readBytes (writeBytes s.mem a (leBytes 8 (now s).toNat)) a 80 :: x.wire }) ∧
            g = { s.granary with poison := g.poison, banks := g.banks })) ∧
      exec (.canBusOff n) s = .next (onCan s n fun x => { x with busOff := true, recovering := bitOf x.ctl 28 }) ∧
      (∀ v, exec (.canRecover n v) s = .next (onCan s n fun x =>
        { x with ctl := v &&& 0xF8000000, recovering := x.recovering || (bitOf v 0 && x.busOff) })) ∧
      (x.recovering = true → exec (.busOffRecoveryDone n) s = .next (onCan s n fun x =>
        { x with busOff := false, recovering := false, errPassive := false, tec := 0, rxErr := 0 })) ∧
      (x.recovering = false → exec (.busOffRecoveryDone n) s = .next s))

/-! ### Millrace and the Tally tree (11) -/

/-- 11 R256 to R259, R261, R263, R268, R270, R271: a request is sent while it holds a slot and its route entry is valid and not changing, else its
interface answers it or holds it; a router drops what it cannot forward and sends the rest one hop; a response ends at the slot its tag names,
unless its epoch or its tag is stale; a timer that expires answers TIMEOUT and frees the slot; FLUSH answers what is accepted OFFLINE; REJOIN
gives a new epoch to every view; a refused route write leaves its entry, another takes effect once nothing to its destination is outstanding. -/
def Obligations.PacketsRouteAnswerAndTimeOut : Prop :=
  ∀ s : State, s.up →
    (∀ (q : QuadId) (p : Packet) (side : Ecc),
      let ni := s.net.nis[p.src.val]
      let response := p.sub = true ∨ p.kind = 2 ∨ p.kind = 3 ∨ p.kind = 5
      let stands := ni.slotOf p.slot p.gen ≠ none ∨ ni.gens[p.slot.val] ≠ p.gen
      let row := p.kind.toNat ≤ 1 ∧ p.addr.toNat < 2 ^ 47
      let known := row → mappedRow p.addr.toNat = true
      let sends := fun (u : State) =>
        let v := takePacket u p
        let w := if side = .corrected then onRouter v q fun r => { r with ce := bump r.ce } else v
        let lost := p.rptr = p.rlen ∨ (p.rptr + 1 = p.rlen ∧ portServes q (pktNibble p) p.dst = false)
        (side = .bad → exec (.routerPacket q p side) s = .next (onRouter v q fun r => { r with ue := bump r.ue })) ∧
        (side ≠ .bad → lost → exec (.routerPacket q p side) s = .next (onRouter w q fun r => { r with misroute := bump r.misroute })) ∧
        (side ≠ .bad → ¬ lost → exec (.routerPacket q p side) s = .next (onNet w fun n =>
          { n with wires := n.wires ++ [(q, fin 16 (pktNibble p),
            { p with rptr := p.rptr + 1, lane := p.lane || (8 ≤ pktNibble p && pktNibble p ≤ 10) })] }))
      (response ∨ stands → sends s) ∧
      (¬ response → ¬ stands → row → mappedRow p.addr.toNat = false → exec (.routerPacket q p side) s = .next (selfAnswer s p .bound)) ∧
      (¬ response → ¬ stands → known → routeValid ni.routes[p.dst.val] = false →
        exec (.routerPacket q p side) s = .next (selfAnswer s p .offline)) ∧
      (¬ response → ¬ stands → known → routeValid ni.routes[p.dst.val] = true → ni.routePend[p.dst.val] ≠ none →
        exec (.routerPacket q p side) s = .next (onNi s p.src fun x => { x with waiting := x.waiting ++ [p] })) ∧
      (¬ response → ¬ stands → known → routeValid ni.routes[p.dst.val] = true → ni.routePend[p.dst.val] = none →
        sends (onNi s p.src fun x =>
          { x with out := x.out ++ [{ slot := p.slot, dst := p.dst, kind := p.kind, vn := p.vn, addr := p.addr, since := now s, origin := none }] }))) ∧
    (∀ (p : Packet) (ecc : Ecc) (c : Instr), c = .rdResp p ecc ∨ (ecc = .good ∧ (c = .wrResp p ∨ c = .msgResp p)) →
      let n := p.dst
      let u := takePacket s p
      let v := if ecc = .bad then onNi u n fun x => { x with e2eUe := bump x.e2eUe } else u
      let ni := s.net.nis[n.val]
      (ni.epv[p.src.val] ≠ p.epoch → exec c s = .next (onNi v n fun x => { x with staleEpoch := bump x.staleEpoch })) ∧
      (ni.epv[p.src.val] = p.epoch → ni.slotOf p.slot p.gen = none → exec c s = .next (onNi v n fun x => { x with lateResp := bump x.lateResp })) ∧
      (∀ o, ni.epv[p.src.val] = p.epoch → ni.slotOf p.slot p.gen = some o →
        let st := if ecc = .bad then NetStatus.uncorr else p.status
        let w := onNi v n fun x =>
          { x with out := x.out.filter (·.slot ≠ o.slot), delivered := { p with status := st } :: x.delivered }
        (o.origin = none → exec c s = .next w) ∧
        (∀ g, o.origin = some g → exec c s = .next (respondRemote w g p st)))) ∧
    (∀ n : NiId, let ni := s.net.nis[n.val]
      (∀ slot : Fin 256,
        (ni.out.find? (·.slot = slot) = none → exec (.niTimeout n slot) s = .next s) ∧
        (∀ o, ni.out.find? (·.slot = slot) = some o → o.origin = none →
          ((now s).toNat / 1000 ≤ o.since.toNat / 1000 + clampNat 1 1000000 ni.timeoutUs.toNat → exec (.niTimeout n slot) s = .next s) ∧
          (o.since.toNat / 1000 + clampNat 1 1000000 ni.timeoutUs.toNat < (now s).toNat / 1000 →
            ∃ (r : Packet) (bs : List Byte), r.status = .timeout ∧ r.dst = n ∧ r.src = o.dst ∧ r.slot = slot ∧ r.gen = ni.gens[slot.val] ∧
              r.payload = [] ∧ bs.length = 512 ∧
              let loose := { s with mem := writeBytes s.mem (o.addr.toNat / 512 * 512) bs, free := s.free + 1 }
              exec (.niTimeout n slot) s = .next (onNi (if o.kind = 1 ∧ mappedRow o.addr.toNat = true then loose else s) n fun x =>
                { x with timeouts := bump x.timeouts, gens := vmod x.gens slot fun g => g + 1, out := x.out.filter (·.slot ≠ o.slot),
                         delivered := r :: x.delivered })))) ∧
      (let reqs := ni.accepted
       (∀ r ∈ reqs, r.dst = n ∧ routeValid ni.routes[r.src.val] = true) → ni.suppressed = [] →
        exec (.flush n) s = .next (onNet s fun x =>
          { x with
            nis := vmod x.nis n fun y => { y with accepted := [], suppressed := reqs, offlineSent := bump y.offlineSent reqs.length }
            sent := x.sent ++ reqs.map fun r => responseOf ni r .offline [] })) ∧
      exec (.rejoin n) s = .next (onNet s fun x =>
        { x with nis := vmod (x.nis.map fun y => { y with epv := vmod y.epv n fun _ => ni.epoch + 1 }) n fun y =>
            { y with epoch := ni.epoch + 1, admits := true } }) ∧
      (∀ (d : NiId) (v : Word),
        let bad := 2 < (((List.range (routeLen v)).map (routeNib v)).filter fun x => decide (8 ≤ x) && decide (x ≤ 10)).length ∨
          (∃ x, ((List.range (routeLen v)).map (routeNib v)).getLast? = some x ∧ 8 ≤ x ∧ x ≤ 10)
        let take := fun (v : Word) => (ni.waiting.filter (·.dst = d)).foldl
          (fun s p => let (sent, s) := issue s p; if sent then onNet s fun x => { x with sent := x.sent ++ [p] } else s)
          (onNi s n fun x => { x with routes := vmod x.routes d fun _ => v, routePend := vmod x.routePend d fun _ => none,
                                      waiting := x.waiting.filter (·.dst ≠ d) })
        (routeValid v = true → bad → exec (.routeWrite n d v) s = .next (onNi s n fun x => { x with routeRej := true })) ∧
        (¬ (routeValid v = true ∧ bad) →
          ((∃ o ∈ ni.out, o.dst = d) → exec (.routeWrite n d v) s = .next (onNi s n fun x =>
            { x with routePend := vmod x.routePend d fun _ => some (v &&& 0xF0FFFFFF) })) ∧
          ((∀ o ∈ ni.out, o.dst ≠ d) → exec (.routeWrite n d v) s = .next (take (v &&& 0xF0FFFFFF)))) ∧
        (ni.routePend[d.val] = none → exec (.routeTakeEffect n d) s = .next s) ∧
        (∀ z, ni.routePend[d.val] = some z →
          ((∃ o ∈ ni.out, o.dst = d) → exec (.routeTakeEffect n d) s = .next s) ∧
          ((∀ o ∈ ni.out, o.dst ≠ d) → exec (.routeTakeEffect n d) s = .next (take z)))))

/-- 11 R272 to R274, 19 R441, 21 R478: on an idle tree a master's transaction to no block is answered ERR, all ones for a read, and counted;
one to a block is granted and forwarded to its leaf, whose Mill port, still owing an answer, ignores it; a master has one transaction at a time;
the answer ends it, a timeout answers all ones and is logged, and a late answer is discarded and counted. -/
def Obligations.TreeTransactionsAreGrantedAndAnswered : Prop :=
  ∀ (s : State) (master : TreeMaster), s.up → s.granary.errPend = false →
    let m := masterNo master
    let n := s.net
    let alone := (∀ k : Fin 3, k ≠ m → n.txns[k.val] = none) ∧ n.posted = []
    let ended := fun (s : State) (err : Bool) (data : Word) => onNet s fun n =>
      { n with txns := vmod n.txns m fun _ => none, answers := vmod n.answers m fun _ => { err := err, data := data } }
    (∀ (c : Instr) (addr v : Word) (write prompt : Bool),
      c = (if write then .treeWrite master addr v prompt else .treeRead master addr prompt) → (write = false → v = 0) →
      let t : TreeTxn := { addr := addr, write := write, data := v, prompt := prompt, granted := true, since := now s, acted := false,
                           dead := false, host := false }
      let u := onNet s fun n => { n with treeNext := m + 1 }
      (n.txns[m.val] ≠ none → exec c s = .next s) ∧
      (alone → n.txns[m.val] = none →
        (blockOf addr = none → exec c s = .next (ended (decodeErr u) true (if write then 0 else 0xFFFFFFFF))) ∧
        (∀ b off, blockOf addr = some (b, off) → prompt = false → (∀ k, b ≠ .mill k) →
          exec c s = .next (onNet u fun n => { n with txns := vmod n.txns m fun _ => some t })) ∧
        (∀ k off, blockOf addr = some (.mill k, off) →
          ((s.mills[k.val]).mb.tallyBusy = true → exec c s = .next (onNet (onMill u k fun x => { x with mb := { x.mb with
            protoErr := bump x.mb.protoErr } }) fun n => { n with txns := vmod n.txns m fun _ => some { t with dead := true } })) ∧
          ((s.mills[k.val]).mb.tallyBusy = false → prompt = false → exec c s = .next (onNet (onMill u k fun x => { x with mb := { x.mb with
            tallyBusy := true } }) fun n => { n with txns := vmod n.txns m fun _ => some t }))))) ∧
    (n.txns[m.val] = none → exec (.treeTimeout master) s = .next s ∧ exec (.treeAnswer master false) s = .next s) ∧
    (∀ t : TreeTxn, n.txns[m.val] = some t →
      (t.granted = false ∨ (now s).toNat / 1000 ≤ t.since.toNat / 1000 + clampNat 10 100000 n.treeTimeoutUs.toNat →
        exec (.treeTimeout master) s = .next s) ∧
      (alone → t.granted = true → t.since.toNat / 1000 + clampNat 10 100000 n.treeTimeoutUs.toNat < (now s).toNat / 1000 → t.host = false →
        exec (.treeTimeout master) s = .next (ended (onNet s fun n =>
          { n with
            treeTimeouts := bump n.treeTimeouts
            treeLog := true
            treeMaster := if n.treeLog then n.treeMaster else BitVec.ofNat 2 m.val
            treeWrite := if n.treeLog then n.treeWrite else t.write
            treeErrAddr := if n.treeLog then n.treeErrAddr else t.addr
            abandoned := if t.dead then n.abandoned else n.abandoned ++ [(m, t)] }) true 0xFFFFFFFF)) ∧
      (t.granted = false ∨ t.dead = true → exec (.treeAnswer master false) s = .next s) ∧
      (alone → t.granted = true → t.dead = false → t.acted = true → t.host = false → (∀ k off, blockOf t.addr ≠ some (.mill k, off)) →
        exec (.treeAnswer master false) s = .next (ended s false (if t.write then 0 else t.data)))) ∧
    ((∀ p ∈ n.abandoned, p.1 ≠ m) → exec (.treeAnswer master true) s = .next s) ∧
    (∀ p, n.abandoned.find? (fun p => p.1 = m) = some p → p.2.acted = true → (∀ k off, blockOf p.2.addr ≠ some (.mill k, off)) →
      exec (.treeAnswer master true) s = .next (onNet s fun n => { n with abandoned := n.abandoned.erase p, treeLate := bump n.treeLate }))

/-! ### Flume (12) -/

/-- 12 R277, R278, R285 to R287, R300, 16 R376: EN starts the training and its end takes the port down, each training state goes to the next or
fails by its bound, PARAM compares group and node, DOWN retrains after 1 ms; a port that leaves ACTIVE counts it and keeps no packet; a lane swap
is asked for, answered and switched, and a lane lost with the spare in use takes the port to RECOVER. -/
def Obligations.PortsTrainRecoverAndSwapLanes : Prop :=
  ∀ (s : State) (p : FlumeId), s.up → s.granary.errPend = false →
    let f := s.flume.ports[p.val]
    let put := fun (g : FlumePort) => onPort s p fun _ => g
    let swaps := fun (c : Instr) (g : FlumePort) (lane : Fin 16) (imm : Bool) =>
      let v := abortPrbs (put g) p
      let seq := Config.fresh 16 v.free
      exec c s = .next (settleErr (onPort { v with free := v.free + 1 } p fun x =>
        { x with swap := some { lane := lane, immediate := imm, acked := false, seq := seq, fromPeer := false } }.control 1 lane imm seq))
    let downs := fun (c : Instr) (g : FlumePort) (st : TrainState) (fail : BitVec 4) =>
      (g.state ≠ .active → g.state ≠ .recover → exec c s = .next (put { g with state := st, fail := fail, downAt := now s })) ∧
      (g.state = .active ∨ g.state = .recover → ∃ t, exec c s = .next t ∧
        t = { s with flume := { s.flume with ports := t.flume.ports }, net := { s.net with sent := t.net.sent } } ∧
        t.flume.ports[p.val] = { g.count 5 with
          state := st, fail := fail, downAt := now s, retry := [], egress := .replicate 5 [], headSent := .replicate 5 0,
          waits := .replicate 5 0, routed := [], swap := none, nakSent := false })
    (∀ (v : Word) (c : Instr), c = .flumePortEnable p v ∨ c = .flumePortDisable p v ∨ c = .swapReq p v →
      let g := { f with ctl := v &&& 0xFF1FFFFF }
      (bitOf v 31 = true → f.en = false → exec c s = .next (put
        { g with attempts112 := 0, state := .detect, fail := 0, widthNow := false, rateNow := decide (g.rate = 1) })) ∧
      (bitOf v 31 = false → f.en = true → downs c (g.control 4) .off 0) ∧
      (bitOf v 31 = f.en →
        (bitOf v 23 = true → g.canSwap = true → swaps c g (fin 16 (bitsOf v 20 16)) false) ∧
        (bitOf v 23 = false ∨ g.canSwap = false → exec c s = .next (put g)))) ∧
    ((f.state = .detect → exec (.peerDetect p) s = .next (put { f with state := .adapt })) ∧
      (f.state ≠ .detect → exec (.peerDetect p) s = .next s)) ∧
    ((f.state = .adapt → exec (.adaptDone p) s = .next (put { f with state := .align })) ∧
      (f.state ≠ .adapt → exec (.adaptDone p) s = .next s)) ∧
    (∀ map, (f.state = .align → exec (.alignDone p map) s = .next (put ({ f with state := .param, lanes := laneMap f.lanes map }.control 3 0
        false 0 false (some (s.flume.groupId, s.flume.nodeId, p))))) ∧
      (f.state ≠ .align → exec (.alignDone p map) s = .next s)) ∧
    (∀ (group : BitVec 16) (node : NodeId) (port : Fin 8),
      let g := { f with peerNode := BitVec.ofNat 5 node.val, peerPort := BitVec.ofNat 3 port.val }
      (f.state ≠ .param → exec (.param p group node port) s = .next s) ∧
      (f.state = .param → group ≠ s.flume.groupId → downs (.param p group node port) g .down failGroup) ∧
      (f.state = .param → group = s.flume.groupId → node = s.flume.nodeId → downs (.param p group node port) g .down failNode) ∧
      (f.state = .param → group = s.flume.groupId → node ≠ s.flume.nodeId → exec (.param p group node port) s = .next (put
        { g with
          state := .active, fail := 0, attempts112 := 0, credits := #v[64, 64, 32, 32, 8], crSeen := .replicate 5 0,
          freed := .replicate 5 0, txSeq := 0, rxNext := 0, retry := [], nakSent := false, spareUsed := false, spareFor := 0, arrived := [] }))) ∧
    ((f.state = .adapt ∨ f.state = .align ∨ f.state = .param →
        downs (.trainTimeout p) (if f.rateNow then f else { f with attempts112 := f.attempts112 + 1 }) .down failTrain) ∧
      (f.state = .recover → downs (.trainTimeout p) f .down failRecover) ∧
      (f.state = .off ∨ f.state = .detect ∨ f.state = .active ∨ f.state = .down → exec (.trainTimeout p) s = .next s)) ∧
    (let again := f.state = .down ∧ f.en = true ∧ f.autoRetrain = true ∧ f.fail ≠ failGroup ∧ f.fail ≠ failNode ∧
       f.downAt.toNat + 1000000 ≤ (now s).toNat
     (again → exec (.retrainTimer p) s = .next (put { f with
        state := .detect, fail := 0, widthNow := false, rateNow := f.rate = 1 || (f.rate = 2 && decide (2 ≤ f.attempts112)) })) ∧
      (¬ again → exec (.retrainTimer p) s = .next s)) ∧
    (∀ width8 ok,
      (f.state ≠ .recover → exec (.recoverDone p width8 ok) s = .next s) ∧
      (f.state = .recover → ok = true → (width8 = false ∨ f.width8En = true) → exec (.recoverDone p width8 ok) s = .next (put
        { f with
          state := .active, widthNow := width8, fail := 0, swap := none
          retry := f.retry.map fun (t : TxFlit) => { t with replays := 0 } }.pump)) ∧
      (f.state = .recover → (ok = false ∨ (width8 = true ∧ f.width8En = false)) → downs (.recoverDone p width8 ok) f .down failRecover)) ∧
    ((f.en = true → downs (.disable p) f .down failPeer) ∧ (f.en = false → exec (.disable p) s = .next s)) ∧
    (∀ (lane : Fin 16) (imm : Bool) (seq : BitVec 16),
      (f.state ≠ .active → exec (.laneSwap p lane imm seq) s = .next s) ∧
      (f.state = .active → exec (.laneSwap p lane imm seq) s = .next (settleErr (onPort (abortPrbs s p) p fun x =>
        { x with swap := some { lane := lane, immediate := imm, acked := true, seq := seq, fromPeer := true } }.control 2 lane imm seq))) ∧
      (∀ w, f.swap = some w → w.lane = lane → w.immediate = imm →
        exec (.swapAck p lane imm seq) s = .next (put { f with swap := some { w with acked := true, seq := seq } })) ∧
      ((∀ w, f.swap = some w → ¬ (w.lane = lane ∧ w.immediate = imm)) → exec (.swapAck p lane imm seq) s = .next s)) ∧
    (∀ (lane : Fin 16) (errors : Nat),
      let g := { f with lanes := f.lanes.map fun l => if l.logical.val = lane.val && !l.idle then { l with symErr := bump l.symErr errors } else l }
      (bitsOf f.ctl 15 0 < errors → f.canSwap = true → swaps (.swapThreshold p lane errors) g lane false) ∧
      (errors ≤ bitsOf f.ctl 15 0 ∨ f.canSwap = false → exec (.swapThreshold p lane errors) s = .next (put g)) ∧
      (f.state ≠ .active → exec (.immediateSwapTrigger p lane) s = .next s) ∧
      (f.state = .active → f.spareEn = true → f.spareUsed = false → swaps (.immediateSwapTrigger p lane) f lane true) ∧
      (f.state = .active → (f.spareEn = false ∨ f.spareUsed = true) →
        exec (.immediateSwapTrigger p lane) s = .next (put { f with state := .recover, swap := none }))) ∧
    (∀ w, f.swap = some w → (w.acked = true ∨ w.immediate = true) → exec (.swapSwitch p) s = .next (put
      { f.count 4 with
        swap := none, spareUsed := true, spareFor := w.lane
        lanes := if w.fromPeer then f.lanes
          else f.lanes.map fun l =>
            if l.logical.val = w.lane.val then { l with idle := true }
            else if l.logical = 16 then { l with idle := false, logical := fin 17 w.lane.val } else l })) ∧
    ((∀ w, f.swap = some w → w.acked = false ∧ w.immediate = false) → exec (.swapSwitch p) s = .next s)

/-- 12 R280, R281, R288 to R292, R296, R297, R299, R300: only a whole data flit of the next SEQ is accepted, the first discard after it answers NAK,
whole headers return credits and acknowledge; a NAK replays all flits after ACK, or ends in RECOVER; packets take the node's route, are forwarded
while HPTR is below HOPS and delivered at HOPS, rows only through an open window, doorbells only where allowed; GROUP_CFG waits for every
port's EN to be 0, refused routes change nothing, and WINDOW_OPEN opens a window or completes with its FORMAT_FAULT. -/
def Obligations.FlitsRoutesAndWindows : Prop :=
  ∀ (s : State) (p : FlumeId), s.up → s.granary.errPend = false →
    let f := s.flume.ports[p.val]
    let put := fun (g : FlumePort) => onPort s p fun _ => g
    let replay := fun (ack : BitVec 10) (g : FlumePort) =>
      let rest := ackTo ack g.retry
      if rest.any fun t => decide (8 ≤ t.replays) then { g with retry := rest, state := .recover, fail := failRetry }
      else { g.count 3 with retry := rest.map fun t => { t with replays := t.replays + 1 } }
    let refuse := fun (g : FlumePort) => if g.nakSent then g else { g with nakSent := true }.control 0 0 false 0 true
    (∀ x : Flit,
      let g := if x.fecCorr then f.count 0 else f
      let header := fun (g : FlumePort) =>
        let h := { g.credit x.crVn x.crCnt with retry := ackTo x.ack g.retry }
        if x.nak then replay x.ack h else h
      (f.state ≠ .active → exec (.flitReceive p x) s = .next s) ∧
      (f.state = .active → x.fecOk = false → exec (.flitReceive p x) s = .next (put (refuse (g.count 1)).pump)) ∧
      (f.state = .active → x.fecOk = true → x.crcOk = false → exec (.flitReceive p x) s = .next (put (refuse (g.count 2)).pump)) ∧
      (f.state = .active → x.fecOk = true → x.crcOk = true →
        let h := header g
        (x.ctrl = true → exec (.flitReceive p x) s = .next (put h.pump)) ∧
        (x.ctrl = false → x.seq ≠ f.rxNext → exec (.flitReceive p x) s = .next (put (refuse h).pump)) ∧
        (x.ctrl = false → x.seq = f.rxNext → exec (.flitReceive p x) s = .next (put
          { h with
            rxNext := f.rxNext + 1
            nakSent := false
            arrived := if x.packets.isEmpty then h.arrived else h.arrived ++ [(x.vn, x.packets)]
            freed := if x.packets.isEmpty then vmod h.freed x.vn fun n => n + 1 else h.freed }.pump)))) ∧
    (∀ ack, (f.state = .active → exec (.nak p ack) s = .next (put (replay ack f))) ∧ (f.state ≠ .active → exec (.nak p ack) s = .next s)) ∧
    ((f.state = .active → exec (.idleTimer p) s = .next (put (f.pump.control 0))) ∧ (f.state ≠ .active → exec (.idleTimer p) s = .next s)) ∧
    (∀ (k : Packet) (u : State), (k.sub = true ∧ u = s) ∨ (k.sub = false ∧ issue s k = (true, u)) →
      let w := takePacket u k
      let dst : NodeId := fin 32 (k.addr.toNat / 2 ^ 42)
      let g := w.flume.ports[p.val]
      (nodeRoute w dst = none → exec (.flumeEgressPacket p k) s = .next (respond w k .offline [])) ∧
      (∀ hops ports first, nodeRoute w dst = some (hops, ports, first) →
        let x : FlumePacket :=
          { dstNode := dst, srcNode := w.flume.nodeId, hptr := 0, hops := hops, ports := ports, kind := k.kind, sub := k.sub, vn := k.vn,
            origNi := k.src, origTag := BitVec.ofNat 12 (k.gen.toNat * 256 + k.slot.val), status := k.status,
            addr := BitVec.ofNat 48 (k.addr.toNat % 2 ^ 42), xinfo := k.xinfo, data := k.payload }
        let queued := { g with egress := vmod g.egress k.vn fun q => q ++ [x] }
        (g.state = .active → exec (.flumeEgressPacket p k) s = .next (onPort w p fun _ =>
          { queued.pump with routed := queued.pump.routed ++ [x] }.pump)) ∧
        (g.state = .recover → exec (.flumeEgressPacket p k) s = .next (onPort w p fun _ => { queued with routed := g.routed ++ [x] })) ∧
        (g.state ≠ .active → g.state ≠ .recover → exec (.flumeEgressPacket p k) s = .next (respond w k .linkDown [])))) ∧
    (∀ (k : Packet) (u : State), k.sub = false → issue s k = (false, u) → exec (.flumeEgressPacket p k) s = .next u) ∧
    (∀ y : FlumePacket,
      let x := { y with hptr := y.hptr + 1 }
      let gone := fun (s : State) => onPort s p fun f => f.leftPort y
      let n := bitsOf x.ports (3 * x.hptr + 2) (3 * x.hptr)
      let q : FlumeId := fin 6 n
      let h := s.flume.ports[q.val]
      let c := Instr.flumeIngressPacket p y
      (x.hptr < x.hops →
        (6 ≤ n → exec c s = .next (gone (put (f.count 6)))) ∧
        (n < 6 → (h.state = .active ∨ h.state = .recover) →
          exec c s = .next (gone (onPort s q fun f => { f with egress := vmod f.egress x.vn fun l => l ++ [x] }.pump))) ∧
        (n < 6 → h.state ≠ .active → h.state ≠ .recover → exec c s = .next (gone (linkDown q s x)))) ∧
      (x.hops ≤ x.hptr → x.dstNode ≠ s.flume.nodeId → exec c s = .next (gone (put (f.count 6)))) ∧
      (x.hops ≤ x.hptr → x.dstNode = s.flume.nodeId →
        let u := onPort s p fun f => { f with arrived := f.arrived.map fun a => (a.1, a.2.map fun z => if z = y then x else z) }
        let left := fun (s : State) => onPort s p fun f => f.leftPort x
        (x.sub = true → exec c s = .next (gone (handBack { s with flume := { s.flume with ports := s.flume.ports.map fun f =>
          { f with routed := f.routed.filter fun r => !(r.srcNode = s.flume.nodeId && r.origNi = x.origNi && r.origTag = x.origTag) } } }
          p x x.status))) ∧
        (x.sub = false → x.kind.toNat ≤ 1 → windowOpenAt s x.addr.toNat = true →
          exec c s = .next (onPort u p fun f => { f with ingress := f.ingress ++ [x] })) ∧
        (x.sub = false → x.kind.toNat ≤ 1 → windowOpenAt s x.addr.toNat = false →
          exec c s = .next (answerBack (left (onPort u p fun f => f.count 7)) x .bound [])) ∧
        (∀ d rcpt, x.sub = false → x.kind = 4 → remoteDoorbell x.addr.toNat = some (d, rcpt) →
          let v := BitVec.ofNat 16 (leNat (x.data.take 2))
          (s.flume.dbAllow.getLsbD d.val = true →
            exec c s = .next (settleErr (answerBack (if rcpt then dbRcptWrite (left u) d v else dbTailWrite (left u) d v) x .ok []))) ∧
          (s.flume.dbAllow.getLsbD d.val = false → exec c s = .next (answerBack (left u) x .bound [])))) ) ∧
    ((f.ingress = [] → exec (.ingressIssue p) s = .next s) ∧
      (∀ x rest, f.ingress = x :: rest →
        let dst := niOf x.addr.toNat
        let half := flumeHalf p dst
        let ni := s.net.nis[half.val]
        let u := put ({ f with ingress := rest }.leftPort x)
        (ni.freeTag = none → exec (.ingressIssue p) s = .next s) ∧
        (∀ slot, ni.freeTag = some slot → mappedRow x.addr.toNat = true →
          (routeValid ni.routes[dst.val] = false → exec (.ingressIssue p) s = .next (answerBack u x .offline [])) ∧
          (routeValid ni.routes[dst.val] = true → ∃ k : Packet,
            k.src = half ∧ k.dst = dst ∧ k.kind = x.kind ∧ k.vn = x.vn ∧ k.slot = slot ∧ k.gen = ni.gens[slot.val] ∧
            k.epoch = ni.epv[dst.val] ∧ k.addr = x.addr ∧ k.payload = x.data ∧
            exec (.ingressIssue p) s = .next (onNet (onNi u half fun n =>
              { n with out := n.out ++ [{ slot := slot, dst := dst, kind := x.kind, vn := x.vn, addr := x.addr, since := now s,
                                          origin := some (x.srcNode, x.origNi, x.origTag) }] }) fun n => { n with sent := n.sent ++ [k] }))))) ∧
    (∀ v : Word, let g := { s.flume with grpRej := s.flume.grpRej && !bitOf v 15, routeRej := s.flume.routeRej && !bitOf v 14 }
      ((∃ q : FlumeId, (s.flume.ports[q.val]).en = true) → exec (.groupCfgWrite v) s = .next (onFlume s fun _ => { g with grpRej := true })) ∧
      ((∀ q : FlumeId, (s.flume.ports[q.val]).en = false) → exec (.groupCfgWrite v) s = .next (onFlume s fun _ =>
        { g with groupId := BitVec.ofNat 16 (bitsOf v 31 16), nodeId := fin 32 (bitsOf v 4 0) }))) ∧
    (∀ (n : NodeId) (v : Word),
      let hops := bitsOf v 30 27
      let port := fun i => bitsOf v (3 * i + 2) (3 * i)
      let bad := bitOf v 31 = true ∧ (hops = 0 ∨ 8 < hops ∨ (∃ i, i < hops ∧ 6 ≤ port i) ∨ n = s.flume.nodeId)
      (bad → exec (.flumeRouteWrite n v) s = .next (onFlume s fun g => { g with routeRej := true })) ∧
      (¬ bad → exec (.flumeRouteWrite n v) s = .next (onFlume s fun g =>
        { g with routes := vmod g.routes n fun _ => v &&& 0xF8FFFFFF
                 niPort := vmod g.niPort n fun _ => if bitOf v 31 then some (fin 6 (port 0)) else none }))) ∧
    (∀ (j : Job) (rest : List Job), headJob s.control.fwQueue .windowOpen = some (j, rest) →
      let u := onControl s fun k => { k with fwQueue := rest }
      let base := j.words[5].toNat + j.words[6].toNat % 65536 * 2 ^ 32
      let size := j.words[7].toNat
      let range := base % 65536 = 0 ∧ size % 65536 = 0 ∧ inOneMemory base size = true
      let ends := fun (u v : State) => ∃ t, exec .windowOpen s = .next t ∧ Reported u t ∧ t = settleErr v
      (¬ range → ends u (fwDone u j stFormat 0x80)) ∧
      (range → 15 < j.words[4].toNat → ends u (fwDone u j stFormat 0x81)) ∧
      (range → j.words[4].toNat ≤ 15 →
        let v := onFlume u fun g => { g with windows := vmod g.windows (fin 16 j.words[4].toNat) fun _ =>
          { base := BitVec.ofNat 48 base, size := BitVec.ofNat 13 (size / 65536) } }
        ends v (fwDone v j stOk 0)))

/-! ### Ledger lines (13) -/

/-- 13 R304, R309, R310, R315 to R318, R322, Tables 13.2, 13.4 and 13.5: the home. A request for a line that is not BUSY starts its transaction and one
for a BUSY line waits; the snoops go to the nodes the table names, and the grant goes once all have answered; a response with CROSSED takes its
node from the directory, an eviction is discarded if its node was snooped, and messages of a node that has left are discarded and counted. -/
def Obligations.HomesSerialiseLinesAndGrant : Prop :=
  ∀ (s : State) (n : NodeId) (line : LineId), s.up → s.granary.errPend = false →
    let took := fun (kind lm : Nat) => onLedger s fun l => if n = s.flume.nodeId then l.take n kind lm line else l
    let left := s.ledger.nodeGone.getLsbD n.val = true
    let gone := fun (c : Instr) (kind lm : Nat) =>
      left → exec c s = .next (onLedger (took kind lm) fun l => { l with goneDiscarded := bump l.goneDiscarded })
    -- the grant of a request, from the state `u` in which every snoop has been answered
    let grants := fun (c : Instr) (u : State) (n : NodeId) (req : HomeReq) =>
      let e := u.ledger.entry line
      let done := onLedger u fun l => { l with txns := l.txns.filter (·.line ≠ line) }
      let sends := fun (d : DirState) (m : LedgerMsg) => exec c s = .next (onLedger done fun l => (l.setEntry { e with state := d }).send m)
      (req = .getS → e.lost = false →
        let v := match e.state with | .unowned => 0 | .shared v => v | .owned o => nodeBit o
        sends (.shared (v ||| nodeBit n)) { lmsg n 0xB 0 line with data := some (u.ledger.lineData line) }) ∧
      (req = .getM → e.lost = false → sends (.owned n) { lmsg n 0xB 1 line with data := some (u.ledger.lineData line) }) ∧
      (req = .getS → e.lost = true → exec c s = .next (onLedger done fun l => l.send { lmsg n 0xB 3 line with status := stUncorr })) ∧
      (req = .getM → e.lost = true → sends .unowned { lmsg n 0xB 3 line with status := stUncorr }) ∧
      (∀ op w operand compare, req = .op op w operand compare →
        (op.val < 8 ∨ 12 < op.val → sends .unowned { lmsg n 0xB 3 line with status := stFormat }) ∧
        (8 ≤ op.val → op.val ≤ 12 → op.val ≠ 9 → e.lost = true → sends .unowned { lmsg n 0xB 3 line with status := stUncorr }) ∧
        (op.val = 9 → e.lost = true → sWf u.ledger.store = true →
          (∀ i : Fin 8, bitOf (u.ledger.watches[i.val]).2 31 = false) → (∀ i : ChuteId, bitOf (u.ledger.chuteWords[i.val]).1 31 = false) →
          ∃ t, exec c s = .next t ∧ t.ledger.lineData line = vmod (.replicate 8 0) w (fun _ => operand) ∧
            (∀ k : LineId, k ≠ line → t.ledger.lineData k = u.ledger.lineData k) ∧
            t = onLedger done fun l =>
              ({ l.setEntry { line := line, state := .unowned, lost := false } with store := t.ledger.store } : Ledger).send (lmsg n 0xB 3 line)) ∧
        (8 ≤ op.val → op.val ≤ 12 → e.lost = false →
          (∀ i : Fin 8, bitOf (u.ledger.watches[i.val]).2 31 = false) → (∀ i : ChuteId, bitOf (u.ledger.chuteWords[i.val]).1 31 = false) →
          let old := u.ledger.word line w.val
          let new := if op.val = 9 then operand else if op.val = 10 then old + operand else if op.val = 11 then operand
            else if op.val = 12 ∧ old = compare then operand else old
          exec c s = .next (onLedger done fun l =>
            ({ l.setEntry { e with state := .unowned } with
               store := if old = new then l.store else sSet l.store (8 * line.val + w.val) new } : Ledger).send
              { lmsg n 0xB 3 line with value := if op.val = 9 then 0 else old })))
    -- a transaction starts on the state `u`
    let starts := fun (c : Instr) (u : State) (n : NodeId) (req : HomeReq) =>
      let e := u.ledger.entry line
      let snoops := fun (asked : List NodeId) (inv : Bool) (owner : Option NodeId) =>
        exec c s = .next (onLedger u fun l => asked.foldl (fun l o => l.send (lmsg o 0x9 (if inv then 1 else 0) line))
          ({ l with txns := l.txns ++ [({ line := line, node := n, req := req, snooped := asked, awaiting := asked, owner := owner } : Txn)] }.count 0 asked.length))
      (∀ o, e.state = .owned o → (req = .getS → snoops [o] false (some o)) ∧ (req ≠ .getS → snoops [o] true (some o))) ∧
      (∀ v, e.state = .shared v →
        let asked := if req = .getM then nodesOf (v &&& ~~~nodeBit n) else nodesOf v
        (req ≠ .getS → asked ≠ [] → snoops asked true none) ∧
        (req = .getS ∨ asked = [] → u.ledger.nodeGone.getLsbD n.val = false → grants c u n req)) ∧
      (e.state = .unowned → u.ledger.nodeGone.getLsbD n.val = false → grants c u n req)
    let busy := s.ledger.busy line = true
    let queued := s.ledger.waiting.any (·.line = line) = true
    (∀ (c : Instr) (lm : Nat) (req : HomeReq),
      ((c = .getS n line ∧ lm = 0 ∧ req = .getS) ∨ (c = .getM n line ∧ lm = 1 ∧ req = .getM) ∨
        (∃ op w x y, c = .homeOp n line op w x y ∧ lm = 4 ∧ req = .op op w x y)) →
      gone c 8 lm ∧
      (¬ left → (busy ∨ queued ∨ 64 ≤ s.ledger.txns.length) → exec c s = .next (onLedger (took 8 lm) fun l =>
        { l with waiting := l.waiting ++ [{ line := line, node := n, req := req }] })) ∧
      (¬ left → ¬ busy → ¬ queued → s.ledger.txns.length < 64 → starts c (took 8 lm) n req)) ∧
    ((busy ∨ 64 ≤ s.ledger.txns.length ∨ ¬ queued → exec (.homeTxnStart line) s = .next s) ∧
      (∀ w : Waiting, ¬ busy → s.ledger.txns.length < 64 → s.ledger.waiting.find? (·.line = line) = some w →
        starts (.homeTxnStart line) (onLedger s fun l => { l with waiting := l.waiting.erase w }) w.node w.req)) ∧
    -- snoop responses
    (∀ (c : Instr) (lm : Nat) (crossed : Bool) (data : Option (Vector Word64 8)),
      ((c = .snpAck n line crossed ∧ lm = 0 ∧ data = none) ∨ (∃ d, c = .snpData n line crossed d ∧ lm = 1 ∧ data = some d)) →
      gone c 0xA lm ∧
      (¬ left → (s.ledger.txns.find? fun t => t.line = line && t.awaiting.contains n) = none → exec c s = .next (took 0xA lm)) ∧
      (∀ t, ¬ left → (s.ledger.txns.find? fun t => t.line = line && t.awaiting.contains n) = some t →
        let t' := { t with awaiting := t.awaiting.filter (· ≠ n) }
        let w := match data with | some d => setLine (took 0xA lm) line d | none => took 0xA lm
        let u := if crossed then onLedger w fun l => (l.dropNode line n).count 1 else w
        (t'.awaiting ≠ [] → exec c s = .next (settleErr (onLedger u fun l => { l with txns := l.txns.map fun x => if x.line = line then t' else x }))) ∧
        (t'.awaiting = [] → data = none → u.ledger.nodeGone.getLsbD t.node.val = false → grants c u t.node t.req) ∧
        (t'.awaiting = [] → (data ≠ none ∨ u.ledger.nodeGone.getLsbD t.node.val = true) → exec c s = .next (settleErr (finishTxn u t'))))) ∧
    -- evictions
    (∀ (c : Instr) (lm : Nat) (data : Option (Vector Word64 8)),
      ((c = .evictClean n line ∧ lm = 2 ∧ data = none) ∨ (∃ d, c = .evictDirty n line d ∧ lm = 3 ∧ data = some d)) →
      let snooped := (s.ledger.txns.any fun t => t.line = line && t.snooped.contains n) = true
      gone c 8 lm ∧
      (¬ left → snooped → exec c s = .next (onLedger (took 8 lm) fun l => (l.count 2).send (lmsg n 0xB 2 line))) ∧
      (¬ left → ¬ snooped →
        let w := match data with | some d => setLine (took 8 lm) line d | none => took 8 lm
        exec c s = .next (settleErr (onLedger w fun l => (l.dropNode line n).send (lmsg n 0xB 2 line))))) ∧
    -- the data taken is the line's; the directory holds what was entered
    (∀ d : Vector Word64 8, sWf s.ledger.store = true → (∀ i : Fin 8, bitOf (s.ledger.watches[i.val]).2 31 = false) →
      setLine s line d = onLedger s (fun l => { l with store := (setLine s line d).ledger.store }) ∧
      (setLine s line d).ledger.lineData line = d ∧
      (∀ k : LineId, k ≠ line → (setLine s line d).ledger.lineData k = s.ledger.lineData k)) ∧
    (∀ e : DirEntry, (s.ledger.setEntry e).entry e.line = e ∧ (∀ k : LineId, k ≠ e.line → (s.ledger.setEntry e).entry k = s.ledger.entry k)) ∧
    -- a node leaves the group
    (∀ v : Word, exec (.nodeGoneSet v) s = .next (onLedger s fun l =>
      { l with nodeGone := l.nodeGone ||| v, goneBusy := l.goneBusy || decide (v ≠ 0) })) ∧
    (s.ledger.goneBusy = false → exec .goneDone s = .next s) ∧
    (s.ledger.goneBusy = true → s.ledger.nodeGone = nodeBit n → s.ledger.reqs = [] → (∀ t ∈ s.ledger.txns, n ∉ t.awaiting) →
      ∃ t, exec .goneDone s = .next t ∧
        t = onLedger s (fun l => { l with
          goneBusy := false
          dir := t.ledger.dir
          counters := t.ledger.counters
          waiting := l.waiting.filter (·.node ≠ n)
          goneDiscarded := bump l.goneDiscarded (l.waiting.filter (·.node = n)).length
          cache := l.cache.filter (·.home ≠ n)
          evicts := l.evicts.filter (·.home ≠ n) }) ∧
        (∀ i : Fin 6, i.val < 4 → t.ledger.counters[i.val] = s.ledger.counters[i.val]) ∧
        t.ledger.counters[5] = bump s.ledger.counters[5] (s.ledger.cache.filter fun c => c.home = n && c.state = .m && c.dirty).length ∧
        ∀ k : LineId, let e := s.ledger.entry k
          t.ledger.entry k = { e with state := e.state.without n, lost := e.lost || decide (e.state = .owned n) })

/-- 13 R304, R306, R311, R314, R317 to R320, R322: the cache and the operation slots. A snoop is answered from the line held, or with CROSSED from
its evict-pending entry; a grant installs its line and performs the operation that waits for it; a slot's operation completes with the status of
R318, is performed on a line held in the state it needs, and otherwise asks its home; a timeout completes it with TIMEOUT. -/
def Obligations.CachesAnswerSnoopsAndPerformOperations : Prop :=
  ∀ (s : State) (home : NodeId) (line : LineId), s.up → s.granary.errPend = false →
    let l := s.ledger
    let took := fun (kind lm : Nat) => onLedger s fun l => if home = s.flume.nodeId then l.take home kind lm line else l
    let left := l.nodeGone.getLsbD home.val = true
    let gone := fun (c : Instr) (kind lm : Nat) =>
      left → exec c s = .next (onLedger (took kind lm) fun l => { l with goneDiscarded := bump l.goneDiscarded })
    let pending := l.evicts.find? fun e => e.home = home && e.line = line
    (∀ (c : Instr) (inv : Bool), (c = .snpShare home line ∧ inv = false) ∨ (c = .snpInv home line ∧ inv = true) →
      let answers := fun (cache : List CacheLine) (crossed : Bool) (data : Option (Vector Word64 8)) =>
        exec c s = .next (onLedger (took 9 (if inv then 1 else 0)) fun l => { l with cache := cache }.send
          { lmsg home 0xA (if data.isSome then 1 else 0) line with crossed := crossed, data := data })
      gone c 9 (if inv then 1 else 0) ∧
      (∀ x, ¬ left → l.cached home line = some x →
        (inv = true → answers (l.cache.erase x) false (if x.state = .m then some x.data else none)) ∧
        (inv = false → x.state = .m → answers (l.cache.map fun y => if y = x then { x with state := .s, dirty := false } else y) false (some x.data)) ∧
        (inv = false → x.state = .s → answers l.cache false none)) ∧
      (¬ left → l.cached home line = none → pending = none → answers l.cache false none) ∧
      (∀ e, ¬ left → l.cached home line = none → pending = some e → answers l.cache true (if e.dirty then some e.data else none))) ∧
    (∀ (c : Instr) (st : CacheState) (d : Vector Word64 8),
      (c = .dataS home line d ∧ st = .s) ∨ (c = .dataM home line d ∧ st = .m) →
      let lm := if st = .s then 0 else 1
      let want : HomeReq := if st = .s then .getS else .getM
      let asked := l.reqs.find? fun r => r.home = home && r.line = line && r.req = want && !r.blocked
      gone c 0xB lm ∧
      (¬ left → asked = none → exec c s = .next (took 0xB lm)) ∧
      (∀ r, ¬ left → asked = some r →
        let x : CacheLine := { home := home, line := line, state := st, dirty := false, data := d }
        let installed := fun (l : Ledger) => { l with reqs := l.reqs.erase r, cache := x :: l.cache.filter fun y => !y.is home line }
        (r.slot = none → exec c s = .next (onLedger (took 0xB lm) fun l => (installed l).launch)) ∧
        (∀ k, r.slot = some k → exec c s = .next (onLedger (took 0xB lm) fun l => ((installed l).perform x k).launch)))) ∧
    (gone (.evictAck home line) 0xB 2 ∧
      (¬ left → exec (.evictAck home line) s = .next (onLedger (took 0xB 2) fun l =>
        { l with evicts := l.evicts.filter fun e => !(e.home = home && e.line = line) }.launch))) ∧
    (∀ (old : Word64) (st : Byte),
      let asked := l.reqs.find? fun r => r.home = home && r.line = line && !r.blocked
      gone (.homeResult home line old st) 0xB 3 ∧
      (¬ left → asked = none → exec (.homeResult home line old st) s = .next (took 0xB 3)) ∧
      (∀ r k, ¬ left → asked = some r → r.slot = some k → exec (.homeResult home line old st) s = .next (onLedger (took 0xB 3) fun l =>
        { l with
          reqs := l.reqs.erase r
          slots := vmod l.slots k fun x => { x with busy := false, status := st, result := old } }.launch)) ∧
      (∀ r, ¬ left → asked = some r → r.slot = none → exec (.homeResult home line old st) s = .next (onLedger (took 0xB 3) fun l =>
        { l with reqs := l.reqs.erase r }.launch))) ∧
    -- the slots
    (∀ (k : Fin 4) (v : Word),
      let x := l.slots[k.val]
      let op := bitsOf v 3 0
      let a := x.addr.toNat
      let homeOf : NodeId := if a < 2 ^ 47 then s.flume.nodeId else fin 32 (a / 2 ^ 42)
      let own := homeOf = s.flume.nodeId
      let opKept := { x with op := BitVec.ofNat 4 op }
      let put := fun (y : LedgerSlot) => onLedger s fun l => { l with slots := vmod l.slots k fun _ => y }
      let ends := fun (st : Byte) => exec (.ledgerOpGo k v) s = .next (put { opKept with busy := false, status := st, result := 0 })
      let listed := op ≤ 4 ∨ (8 ≤ op ∧ op ≤ 12)
      let inRegion := a % 8 = 0 ∧ 0x2000000000 ≤ a % 2 ^ 42 ∧ a % 2 ^ 42 < 0x2000100000 ∧ (2 ^ 47 ≤ a ∨ a < 2 ^ 42)
      let reached := own ∨ (bitOf s.flume.routes[homeOf.val] 31 = true ∧ l.nodeGone.getLsbD homeOf.val = false)
      let go := x.busy = false ∧ bitOf v 31 = true ∧ listed ∧ inRegion ∧ reached
      let word : Fin 8 := fin 8 (a / 8)
      let at_ : LineId := fin 16384 (a % 0x100000 / 64)
      let running := put { opKept with busy := true, since := now s }
      let asks := fun (req : HomeReq) => exec (.ledgerOpGo k v) s = .next (onLedger running fun l =>
        { l with reqs := l.reqs ++ [({ home := homeOf, line := at_, req := req, slot := some k, blocked := true } : ReqEntry)] }.launch)
      (x.busy = true → exec (.ledgerOpGo k v) s = .next s) ∧
      (x.busy = false → bitOf v 31 = false → exec (.ledgerOpGo k v) s = .next (put opKept)) ∧
      (x.busy = false → bitOf v 31 = true → ¬ listed → ends stFormat) ∧
      (x.busy = false → bitOf v 31 = true → listed → ¬ inRegion → ends stBound) ∧
      (x.busy = false → bitOf v 31 = true → listed → inRegion → ¬ reached → ends stLinkDown) ∧
      (go → 8 ≤ op → asks (.op (fin 16 op) word x.operand x.compare)) ∧
      (go → op ≤ 4 → l.cached homeOf at_ = none → asks (if op = 0 then .getS else .getM)) ∧
      (∀ c, go → op ≤ 4 → l.cached homeOf at_ = some c →
        (op ≠ 0 → c.state = .s → asks .getM) ∧
        (op = 0 ∨ c.state = .m →
          let old := c.data[word.val]
          let new := if op = 1 ∨ op = 3 then x.operand else if op = 2 then old + x.operand else if op = 4 ∧ old = x.compare then x.operand else old
          let c' := { c with data := vmod c.data word fun _ => new, dirty := c.dirty || decide (op ≠ 0) }
          exec (.ledgerOpGo k v) s = .next (onLedger s fun l =>
            { l with
              cache := c' :: l.cache.erase c
              slots := vmod l.slots k fun _ => { opKept with busy := false, since := now s, status := 0, result := if op = 1 then 0 else old } })))) ∧
    (∀ k : Fin 4,
      let x := l.slots[k.val]
      let us := if bitsOf l.cfg 15 0 = 0 then 1 else bitsOf l.cfg 15 0
      let ended := x.busy = true ∧ x.since.toNat / 1000 + us + 1 ≤ (now s).toNat / 1000
      (¬ ended → exec (.ledgerOpTimeout k) s = .next s) ∧
      (ended → exec (.ledgerOpTimeout k) s = .next (settleErr (raiseBell (onLedger s fun l =>
        { (l.count 3 : Ledger) with
          slots := vmod l.slots k fun x => { x with busy := false, status := stTimeout }
          reqs := (l.reqs.filter fun r => !(r.slot = some k && r.blocked)).map fun r => if r.slot = some k then { r with slot := none } else r })
        (fin 256 (bitsOf l.cfg 23 16))))))

/-! ### Vault (14) -/

/-- 14 R332, R333, R335, R337, R345, Table 14.5: VAULT_READ and VAULT_WRITE at the head of the firmware queue. The first condition of the table
that holds gives status and subcode; otherwise the units are copied, or made durable, and the docket completes OK with its units in TILES; an
uncorrectable first codeword stops a read there; an image for the anchors is checked and then stands in all sixteen blocks. -/
def Obligations.VaultDocketsFollowTheirOutcomes : Prop :=
  ∀ (s : State) (wr : Bool) (cws : List Codeword), s.up → s.granary.errPend = false →
    let c : Instr := if wr then .vaultWrite cws else .vaultRead cws
    let head := headJob s.control.fwQueue (if wr then .vaultWrite else .vaultRead)
    (head = none → exec c s = .next s) ∧
    ∀ (j : Job) (rest : List Job), head = some (j, rest) →
      let u := onControl s fun k => { k with fwQueue := rest }
      let v := s.vault
      let wide := fun (i : Fin 16) (k : Fin 16) => j.words[i.val].toNat + bitsOf j.words[k.val] 15 0 * 2 ^ 32
      let x := if wr then wide 6 7 else wide 4 5
      let loc := if wr then wide 4 5 else wide 6 7
      let n := j.words[8].toNat
      let part := x / 2 ^ 44
      let unit := x % 2 ^ 44 / 4096
      let slot := v.slotSize.toNat * 256
      let size := if part = 0 then 2 * slot else if part = 1 then v.dataUnits else if part = 2 then v.anchorUnits else 0
      let served := v.en = true ∧ v.mounted = true ∧ v.formatting = false ∧ unitTakes s 28 = true
      let aligned := x % 4096 = 0 ∧ loc % 512 = 0
      let inside := 1 ≤ n ∧ n ≤ 65536 ∧ part ≤ 2 ∧ unit + n ≤ size
      let lo := if v.bootedB then slot else 0
      let active := wr = true ∧ part = 0 ∧ v.booted = true ∧ unit < lo + slot ∧ lo < unit + n
      let ends := fun (st : Byte) (sub : Nat) => ∃ t, exec c s = .next t ∧ Reported u t ∧ t = settleErr (fwDone u j st sub)
      let checked := served ∧ aligned ∧ inside ∧ ¬ active ∧ ¬ (wr = true ∧ v.readOnly = true)
      let place := effRange s.granary.flat (jobMill j.words) j.win loc (4096 * n)
      (¬ served → ends stOffline 0x84) ∧
      (served → ¬ aligned → ends stFormat 0x80) ∧
      (served → aligned → ¬ inside → (if wr = true ∧ part = 2 then ends stUncorr 0x86 else ends stBound 0x81)) ∧
      (served → aligned → inside → active → ends stBound 0x82) ∧
      (served → aligned → inside → ¬ active → wr = true → v.readOnly = true → ends stOffline 0x83) ∧
      (checked → place = none → ends stBound 0x08) ∧
      -- VAULT_READ
      (∀ a, checked → wr = false → place = some a →
        let bytes := fun (i : Nat) => readByte (if part = 0 then v.boot else if part = 1 then v.dataPart else v.anchors[0]) (4096 * unit + i)
        (rowsOk s none a (4096 * n) → (∀ w ∈ cws, w ≠ .uncorr) → Memory.wf s.mem = true →
          ∃ w, exec c s = .next (settleErr (finishJob w j stOk 0 0 0 (now s) n 0)) ∧
            w = { u with mem := w.mem, granary := { u.granary with poison := w.granary.poison, banks := w.granary.banks }, vault := w.vault } ∧
            (∀ i, i < 4096 * n → readByte w.mem (a + i) = bytes i) ∧
            (∀ b, (b < a ∨ a + 4096 * n ≤ b) → readByte w.mem b = readByte s.mem b) ∧
            w.vault = { v with blocks := w.vault.blocks, counters := w.vault.counters, maxBits := w.vault.maxBits } ∧
            (∀ i : Fin 10, 3 ≤ i.val → w.vault.counters[i.val] = v.counters[i.val])) ∧
        (cws.head? = some .uncorr → (part = 2 ∨ ∃ i, v.holder (decide (part = 0)) unit = some i) →
          ∃ w, exec c s = .next (settleErr (finishJob w j stUncorr 0x85 0 0 (now s) 0 0)) ∧
            w = { u with vault := w.vault } ∧ w.vault = { v with blocks := w.vault.blocks, counters := w.vault.counters } ∧
            w.vault.counters[3] = bump v.counters[3])) ∧
      -- VAULT_WRITE of units: durable before the receipt
      (∀ a i, checked → wr = true → place = some a → part ≠ 2 → rowsOk s none a (4096 * n) → (∀ w ∈ cws, w ≠ .uncorr) →
        v.openOf (decide (part = 0)) = some i → (v.block i).bad = false → (v.block i).used + n ≤ v.unitsOf (decide (part = 0)) → i + 1 < 2 ^ 32 →
        i < v.blocks.length → Memory.wf v.boot = true → Memory.wf v.dataPart = true → sWf v.map = true →
          ∃ w, exec c s = .next (settleErr (finishJob w j stOk 0 0 0 (now s) n 0)) ∧ w = { u with vault := w.vault } ∧
            (∀ b, readByte (if part = 0 then w.vault.dataPart else w.vault.boot) b = readByte (if part = 0 then v.dataPart else v.boot) b) ∧
            (∀ k, k < 4096 * n → readByte (if part = 0 then w.vault.boot else w.vault.dataPart) (4096 * unit + k) = readByte s.mem (a + k)) ∧
            (∀ b, (b < 4096 * unit ∨ 4096 * (unit + n) ≤ b) →
              readByte (if part = 0 then w.vault.boot else w.vault.dataPart) b = readByte (if part = 0 then v.boot else v.dataPart) b) ∧
            (∀ k, k < n → w.vault.holder (decide (part = 0)) (unit + k) = some i)) ∧
      -- VAULT_WRITE of a firmware image into the anchors
      (∀ a, checked → wr = true → place = some a → part = 2 → rowsOk s none a (4096 * n) →
        let image := readBytes s.mem a (4096 * n)
        let fits := unit = 0 ∧ imageLen image ≤ v.anchorUnits * 4096 ∧ imageLen image ≤ 4096 * n ∧ (imageSlot s.assay.fuses image).isSome = true
        (¬ fits → ends stUncorr 0x86) ∧
        (fits → exec c s = .next (settleErr (finishJob
          (onVault u fun v => { v with anchors := .replicate 16 (writeBytes [] 0 (image.take (imageLen image))) }) j stOk 0 0 0 (now s) n 0))))

/-- 14 R329, R331, R333, R334, R336, R338, R341, R342, R344, Tables 14.2 and 14.6: enabling and formatting the Vault, the duties of the translation layer,
and a chunk of boot streaming: what each does, and that a write or a duty that does not apply changes nothing. -/
def Obligations.VaultMountsFormatsMovesAndStreams : Prop :=
  ∀ (s : State), s.up → s.granary.errPend = false →
    let v := s.vault
    -- VAULT_CTL
    (∀ w : Word,
      let x := { v with en := bitOf w 31, gristFail := v.gristFail && !bitOf w 26, bells := BitVec.ofNat 16 (bitsOf w 15 0) }
      (bitOf w 31 = false → exec (.vaultEnable w) s = .next (onVault s fun _ => { x with mounted := false })) ∧
      (bitOf w 31 = true → v.en = true → exec (.vaultEnable w) s = .next (onVault s fun _ => x)) ∧
      (bitOf w 31 = true → v.en = false →
        (v.nand.identical = false → exec (.vaultEnable w) s = .next (onVault s fun _ => { x with mounted := false, fail := 1 })) ∧
        (v.nand.identical = true → v.formatted = false → exec (.vaultEnable w) s = .next (onVault s fun _ => { x with mounted := false, fail := 2 })) ∧
        (v.nand.identical = true → v.formatted = true → ∃ t, exec (.vaultEnable w) s = .next (onVault s fun _ => t) ∧
          t = { x with mounted := true, fail := 0, slotSize := v.slotNv, readOnly := decide (v.spareBoot = 0 ∨ v.spareData = 0)
                       counters := t.counters, eraseMax := t.eraseMax, eraseMin := t.eraseMin } ∧
          t.counters[7] = bump v.counters[7] ∧ t.counters[8] = BitVec.ofNat 32 (v.blocks.filter (·.bad)).length ∧
          t.counters[9] = BitVec.ofNat 32 (v.spareBoot + v.spareData) ∧ (∀ i : Fin 10, i.val < 7 → t.counters[i.val] = v.counters[i.val])))) ∧
    -- VAULT_FMT
    (∀ (w : Word) (bad : List Nat),
      let mb := bitsOf w 15 0
      let x := { v with fmtRej := v.fmtRej && !bitOf w 29, fmtSlotMb := BitVec.ofNat 16 mb }
      let lc := s.assay.lcState
      let allowed := (v.fail = 2 ∧ lc ≠ 5) ∨ lc = 1 ∨ lc = 4
      let fits := mb ≠ 0 ∧ 2 * (2 * mb * 256 * 102) ≤ v.nand.rawUnits * 100
      (bitOf w 31 = false → exec (.vaultFormat w bad) s = .next (onVault s fun _ => x)) ∧
      (bitOf w 31 = true → ¬ (allowed ∧ fits) → exec (.vaultFormat w bad) s = .next (onVault s fun _ => { x with fmtRej := true })) ∧
      (bitOf w 31 = true → allowed → fits → v.nand.identical = true → ∃ t, exec (.vaultFormat w bad) s = .next t ∧ Reported (onVault s fun _ => t.vault) t ∧
        t.vault.formatted = true ∧ t.vault.mounted = true ∧ t.vault.fail = 0 ∧ t.vault.booted = false ∧
        t.vault.slotSize = BitVec.ofNat 16 mb ∧ t.vault.slotNv = BitVec.ofNat 16 mb ∧
        (∀ a, readByte t.vault.boot a = 0 ∧ readByte t.vault.dataPart a = 0) ∧ (∀ b k, t.vault.holder b k = none) ∧
        (∀ i : Fin 16, t.vault.anchors[i.val] = writeBytes [] 0 s.service.firmware ∧ (t.vault.sluRecords[i.val]).present = false) ∧
        t.vault.blocks.length = v.nand.blocks ∧ (∀ i, i < v.nand.blocks → ((t.vault.block i).bad = true ↔ i ∈ bad) ∧ (t.vault.block i).live = 0))) ∧
    -- wear levelling, read disturb, patrol
    (∀ (boot : Bool),
      let all := v.indexes.filter fun i => (v.block i).boot = boot && !(v.block i).bad
      (∀ lo hi src dst, v.leastWorn all = some lo → v.mostWorn all = some hi → v.leastWorn (v.holding boot) = some src →
        v.mostWorn (v.indexes.filter (v.free boot)) = some dst →
        let due := v.mounted = true ∧ v.wlDelta.toNat < (v.block hi).erases - (v.block lo).erases ∧
          (v.block src).erases = (v.block lo).erases ∧ v.openOf boot ≠ some src
        (due → exec (.wearLevelMove boot) s = .next (onVault s fun v => (v.moveBlock src dst).stats)) ∧
        (¬ due → exec (.wearLevelMove boot) s = .next s)) ∧
      (v.holding boot = [] ∨ v.indexes.filter (v.free boot) = [] → exec (.wearLevelMove boot) s = .next s)) ∧
    (∀ l i, v.leastWorn l = some i → i ∈ l ∧ ∀ k ∈ l, (v.block i).erases ≤ (v.block k).erases) ∧
    (∀ src dst, dst + 1 < 2 ^ 32 → src ≠ dst →
      (v.moveBlock src dst).boot = v.boot ∧ (v.moveBlock src dst).dataPart = v.dataPart ∧
      (∀ b k, (v.moveBlock src dst).holder b k = if v.holder b k = some src then some dst else v.holder b k)) ∧
    (∀ i : Nat,
      let b := v.block i
      let slc := b.boot = true ∨ v.nand.tlc = false
      let dest := v.leastWorn (v.indexes.filter (v.free b.boot))
      let ended := v.mounted = true ∧ b.bad = false ∧ 0 < b.live ∧
        1000 * (if slc then bitsOf v.rdLimit 15 0 else bitsOf v.rdLimit 31 16) ≤ b.reads
      (¬ ended ∨ dest = none → exec (.readDisturbReloc i) s = .next s) ∧
      (∀ dst, ended → dest = some dst → exec (.readDisturbReloc i) s = .next (onVault s fun v => ((v.moveBlock i dst).count 5).stats)) ∧
      (∀ c : Codeword,
        let days := bitsOf v.patrol 31 16
        let now_ := (now s).toNat / (days * 86400000000000) + 1
        let due := v.mounted = true ∧ days ≠ 0 ∧ 0 < b.live ∧ b.bad = false ∧ b.patrol ≠ now_
        let w := (v.onBlock i fun b => { b with patrol := now_, reads := b.reads + 1 }).decode c
        let weak := match c with
          | .hard n => (if slc then bitsOf v.patrol 7 0 else bitsOf v.patrol 15 8) < n
          | .retry _ | .soft _ => True
          | .uncorr => False
        (¬ due → exec (.retentionPatrol i c) s = .next s) ∧
        (due → ¬ weak → exec (.retentionPatrol i c) s = .next (onVault s fun _ => w)) ∧
        (due → weak → exec (.retentionPatrol i c) s = .next (onVault s fun _ => w.relocate i 6)))) ∧
    -- what a codeword counts
    (∀ n, (v.decode (.hard n)).counters = vmod v.counters 0 (bump ·) ∧
      (v.decode (.retry n)).counters = vmod (vmod v.counters 0 (bump ·)) 1 (bump ·) ∧
      (v.decode (.soft n)).counters = vmod (vmod v.counters 0 (bump ·)) 2 (bump ·) ∧
      (v.decode .uncorr).counters = vmod (vmod v.counters 0 (bump ·)) 3 (bump ·)) ∧
    -- CHUNK_VERIFY
    (∀ (sec : Fin 64) (chunk : Nat) (cws : List Codeword),
      let c := Instr.chunkVerify sec chunk cws
      ((s.service.bootPhase ≠ 10 ∨ v.streams.head? ≠ some { index := sec.val, chunk := chunk }) → exec c s = .next s) ∧
      (∀ (x : Section) (more : List Stream), s.service.bootPhase = 10 → v.streams = { index := sec.val, chunk := chunk } :: more →
        v.sections[sec.val]? = some x →
        let u := onVault s fun v => cws.foldl Vault.decode v
        let want := chunkDigest v v.bootedB x chunk
        let here := chunkBytes v v.bootedB x chunk
        let put := fun (s : State) (bs : List Byte) => (writeRange s none (x.dest + 4194304 * chunk) bs).2
        let matches_ := Codeword.uncorr ∉ cws ∧ Config.sha384 here = want
        let passes := fun (w : State) =>
          (chunk + 1 < x.chunks → exec c s = .next (settleErr (onVault w fun v => { v with streams := { index := sec.val, chunk := chunk + 1 } :: more }))) ∧
          (x.chunks ≤ chunk + 1 → x.type ≠ 2 → more ≠ [] → exec c s = .next (settleErr (raiseBell (onVault w fun v => { v with streams := more }) x.bell))) ∧
          (x.chunks ≤ chunk + 1 → x.type ≠ 2 → more = [] → exec c s = .next (settleErr (raiseBell (onService
            (onVault w fun v => { v with streams := [], fillTime := BitVec.ofNat 32 (min 0xFFFFFFFF (((now s).toNat - v.streamFrom.toNat) / 1000)) })
            fun k => { k with bootPhase := 0xF, bootT := vmod k.bootT 10 fun _ => BitVec.ofNat 32 (((now s).toNat - k.bootFrom.toNat) / 1000) }) x.bell))) ∧
          (x.chunks ≤ chunk + 1 → x.type = 2 → more ≠ [] →
            exec c s = .next (settleErr (raiseBell (onVault w fun v => { v with streams := more, sluReady := v.sluReady ++ [sec.val] }) x.bell)))
        (matches_ → passes (put u here)) ∧
        (∀ (gen : Word) (secs : List Section) (y : Section), ¬ matches_ → gristHeader v s.assay.fuses (!v.bootedB) = some (gen, secs) →
          secs.find? (fun y => decide (chunk < y.chunks) && chunkDigest v (!v.bootedB) y chunk = want
            && Config.sha384 (chunkBytes v (!v.bootedB) y chunk) = want) = some y →
          passes (put (put u here) (chunkBytes v (!v.bootedB) y chunk))) ∧
        (¬ matches_ → gristHeader v s.assay.fuses (!v.bootedB) = none → more ≠ [] →
          exec c s = .next (settleErr (raiseBell (onVault (put u here) fun v => { v with gristFail := true, streams := more }) v.gristBell)))))

/-! ### Clapper (15) -/

/-- 15 R352, R354, R355, R356, R358, Tables 15.2 and 15.3: an effect plays its attack once, its sustain SUS_REPEAT times, then braking; the back-EMF sets the drive
of the four periods that follow and ends braking at the second quiet sample; STOP brakes and discards the latch; a trigger starts its effect in IDLE, ATTACK and
SUSTAIN, is latched in BRAKING, and is dropped with one latched; a splice starts the latched effect at the sign change, negated where the signal fell. -/
def Obligations.ClapperPlaysBrakesAndSplices : Prop :=
  ∀ (s : State) (c : Fin 2), s.up →
    let x := s.clapper
    let ch := x.chans[c.val]
    let e := effectOf x.library ch.fx
    let put := fun (c : Fin 2) (f : ClapChannel → ClapChannel) => onClapper s fun x => { x with chans := vmod x.chans c f }
    let ends := fun (n : Nat) => BitVec.ofNat 64 (ch.since.toNat + 5000 * n)
    let k := ((now s).toNat - ch.since.toNat) / 5000
    let brakes := fun (c : Fin 2) (t : Word64) =>
      put c fun ch => { ch with state := .braking, since := t, emf := none, quiet := 0, drive := 0, endAt := none }
    let plays := fun (c : Fin 2) (fx : Fin 64) (negate : Bool) (t : Word64) => put c fun ch =>
      { ch with state := .attack, latched := none, fx := fx, negate := negate, since := t, emf := none, quiet := 0, drive := 0, endAt := none }
    let brakingOver := fun (i : Instr) (negate : Bool) (t : Word64) =>
      (ch.latched = none → exec i s = .next (put c fun ch => { ch with state := .idle, drive := 0 })) ∧
      (∀ fx z, ch.latched = some (fx, z) → exec i s = .next (plays c fx negate t))
    -- the segments
    (ch.state ≠ .attack ∨ now s < ends e.attLen → exec (.attackEnd c) s = .next s) ∧
    (ch.state = .attack → ends e.attLen ≤ now s → e.susRepeat = 0 → exec (.attackEnd c) s = .next (brakes c (ends e.attLen))) ∧
    (ch.state = .attack → ends e.attLen ≤ now s → e.susRepeat ≠ 0 →
      exec (.attackEnd c) s = .next (put c fun ch => { ch with state := .sustain, since := ends e.attLen })) ∧
    (ch.state ≠ .sustain ∨ now s < ends (e.susRepeat * e.susLen) → exec (.sustainEnd c) s = .next s) ∧
    (ch.state = .sustain → ends (e.susRepeat * e.susLen) ≤ now s → exec (.sustainEnd c) s = .next (brakes c (ends (e.susRepeat * e.susLen)))) ∧
    -- STOP
    (ch.state = .attack ∨ ch.state = .sustain → exec (.stop c) s = .next (put c fun ch =>
      { ch with latched := none, state := .braking, since := ends (k + 1), emf := none, quiet := 0, drive := 0, endAt := none })) ∧
    (ch.state = .idle ∨ ch.state = .braking → exec (.stop c) s = .next (put c fun ch => { ch with latched := none })) ∧
    -- back-EMF on the voice coil
    (∀ v : BitVec 16, c = 1 →
      let spliced := ∃ fx z, ch.latched = some (fx, z) ∧ (effectOf x.library fx).splice = true
      let rose := ∃ a, ch.emf = some a ∧ a.toInt < 0 ∧ 0 ≤ v.toInt
      let fell := ∃ a, ch.emf = some a ∧ 0 ≤ a.toInt ∧ v.toInt < 0
      let quiet := if v.toInt.natAbs < ch.brakeStop.toNat then ch.quiet + 1 else 0
      let drive := (-(bitsOf ch.brake 31 24 * v.toInt)) / 16
      let last := ends (min 1600 (bitsOf ch.brake 10 0))
      (ch.state ≠ .braking → exec (.brakeEmfSample v) s = .next s) ∧
      (ch.state = .braking → spliced → rose → brakingOver (.brakeEmfSample v) false (ends (k + 1))) ∧
      (ch.state = .braking → spliced → fell → brakingOver (.brakeEmfSample v) true (ends (k + 1))) ∧
      (ch.state = .braking → ¬ (spliced ∧ (rose ∨ fell)) → exec (.brakeEmfSample v) s = .next (put 1 fun ch =>
        { ch with emf := some v, quiet := quiet, drive := (if drive < -32767 then -32767 else if 32767 < drive then 32767 else drive)
                  endAt := if quiet = 2 then some (if ends (k + 1) < last then ends (k + 1) else last) else ch.endAt }))) ∧
    -- the end of braking
    (ch.state ≠ .braking → exec (.brakingEnd c) s = .next s) ∧
    (ch.state = .braking → c = 1 →
      let t := ch.endAt.getD (ends (min 1600 (bitsOf ch.brake 10 0)))
      (now s < t → exec (.brakingEnd c) s = .next s) ∧ (t ≤ now s → brakingOver (.brakingEnd c) false t)) ∧
    (ch.state = .braking → c = 0 →
      let v := fun (i : Nat) => (if ch.negate then -1 else 1) * libSample x.library (e.brkOff + i)
      let spliced := fun (from_ : Nat) => ∃ fx, ch.latched = some (fx, from_) ∧ (effectOf x.library fx).splice = true
      let rises := fun (i : Nat) => v (i - 1) < 0 ∧ 0 ≤ v i
      let falls := fun (i : Nat) => 0 ≤ v (i - 1) ∧ v i < 0
      let first := fun (from_ i : Nat) => 1 ≤ i ∧ from_ ≤ i ∧ i < e.brkLen ∧ ∀ j, 1 ≤ j → from_ ≤ j → j < i → ¬ rises j ∧ ¬ falls j
      let whole := (now s < ends e.brkLen → exec (.brakingEnd c) s = .next s) ∧ (ends e.brkLen ≤ now s → brakingOver (.brakingEnd c) false (ends e.brkLen))
      ((∀ z, ¬ spliced z) → whole) ∧
      (∀ z, spliced z → (∀ i, 1 ≤ i → z ≤ i → i < e.brkLen → ¬ rises i ∧ ¬ falls i) → whole) ∧
      (∀ z i, spliced z → first z i → (rises i ∨ falls i) →
        (now s < ends (i + 1) → exec (.brakingEnd c) s = .next s) ∧
        (ends (i + 1) ≤ now s → rises i → brakingOver (.brakingEnd c) false (ends (i + 1))) ∧
        (ends (i + 1) ≤ now s → falls i → brakingOver (.brakingEnd c) true (ends (i + 1))))) ∧
    -- triggers: pins 0 to 3, then the register
    (∀ (i : Instr) (fx : Fin 64) (rank delay : Nat),
      (∃ p : Fin 4, i = .clpTrigEdge p ∧ bitOf x.pins[p.val] 31 = true ∧ fx.val = bitsOf x.pins[p.val] 5 0 ∧ rank = p.val ∧ delay = 210) ∨
        (i = .trig c ∧ fx = ch.trigFx ∧ rank = 5 ∧ delay = 200) →
      let f := effectOf x.library fx
      let d := x.chans[f.chan.val]
      let counts := fun (n : Fin 3) => exec i s = .next (onClapper s fun x => { x with counters := vmod x.counters n (bump ·) })
      let fresh := ∀ u r, d.trigAt = some (u, r) → u ≠ now s
      (x.loading = true ∨ x.libValid = false ∨ f.valid = false → counts 1) ∧
      (x.loading = false → x.libValid = true → f.valid = true →
        (fresh → d.state ≠ .braking → exec i s = .next (put f.chan fun ch =>
          { ch with state := .attack, latched := none, fx := fx, negate := false, since := BitVec.ofNat 64 ((now s).toNat + delay), emf := none, quiet := 0, drive := 0
                    endAt := none, trigAt := some (now s, rank) })) ∧
        (fresh → d.state = .braking → d.latched = none → exec i s = .next (put f.chan fun ch =>
          { ch with latched := some (fx, ((now s).toNat - d.since.toNat) / 5000), trigAt := some (now s, rank) })) ∧
        (fresh → d.state = .braking → d.latched ≠ none → counts 0) ∧
        (∀ r, d.trigAt = some (now s, r) → r ≤ rank → counts 0))) ∧
    (∀ p : Fin 4, bitOf x.pins[p.val] 31 = false → exec (.clpTrigEdge p) s = .next s)

/-- 15 R353, R359, R360, R361: CLAP_LOAD stops both channels, waits until both are IDLE, and takes a library whose VALID entries pass their checks; a reading acts on the
touch state while SENSE_EN is 1 and the piezo is IDLE; PRESS after three readings, END after three, STUCK at MAX_TOUCH_S; an event goes into the FIFO with its Bell. -/
def Obligations.ClapperLoadsItsLibraryAndSensesTouch : Prop :=
  ∀ (s : State), s.up → s.granary.errPend = false →
    let x := s.clapper
    -- CLAP_LOAD
    (headJob s.control.fwQueue .clapLoad = none → exec .clapLoad s = .next s) ∧
    (∀ (j : Job) (rest : List Job) (ws : List Word), headJob s.control.fwQueue .clapLoad = some (j, rest) →
      descWords s j.win j.words[4] = some ws → rowStatus s none ((j.win.base + j.words[4].toNat * 64) / 512 * 512) = .ok →
      let u := onControl s fun k => { k with fwQueue := rest }
      let place := effRange s.granary.flat (jobMill j.words) j.win (descOf ws).base 262144
      let idle := (x.chans[0]).state = .idle ∧ (x.chans[1]).state = .idle
      (place = none → exec .clapLoad s = .next (settleErr (fwDone u j stBound 0x08))) ∧
      (place ≠ none → ¬ idle → x.loading = true → exec .clapLoad s = .next s) ∧
      (place ≠ none → ¬ idle → x.loading = false → ∃ t, exec .clapLoad s = .next (onClapper s fun _ => t) ∧ t.loading = true ∧
        (∀ c : Fin 2, (t.chans[c.val]).latched = none ∧ ((x.chans[c.val]).state = .idle → (t.chans[c.val]).state = .idle) ∧
          ((x.chans[c.val]).state ≠ .idle → (t.chans[c.val]).state = .braking))) ∧
      (∀ a, place = some a → idle → x.loading = true → rowsOk s none a 262144 →
        let lib := writeBytes [] 0 (readBytes s.mem a 262144)
        let entry := fun (e : Fin 64) => let f := effectOf lib e
          1 ≤ f.attLen ∧ f.attOff + f.attLen ≤ 130560 ∧ (f.susRepeat = 0 ∨ f.susOff + f.susLen ≤ 130560) ∧
            (f.chan = 1 ∨ (f.brkLen ≤ 1600 ∧ f.brkOff + f.brkLen ≤ 130560))
        let good := ∀ e : Fin 64, (effectOf lib e).valid = true → entry e
        (good → exec .clapLoad s = .next (settleErr (fwDone (onClapper u fun x => { x with loading := false, library := lib, libValid := true }) j stOk 0))) ∧
        (¬ good → exec .clapLoad s = .next (settleErr (fwDone (onClapper u fun x => { x with loading := false, library := lib, libValid := false }) j stFormat 0x80))))) ∧
    exec .evtPop s = .next (onClapper s fun x => { x with events := x.events.drop 1 }) ∧
    -- readings
    (∀ r : BitVec 16,
      let takes := bitOf x.ctl 30 = true ∧ (x.chans[0]).state = .idle
      let calm := bitsOf x.untouched 15 0 ≤ r.toNat ∧ r.toNat ≤ bitsOf x.untouched 31 16
      let turns := fun (f : Clapper → Clapper) => exec (.touchReading r) s = .next (onClapper s fun x => f { x with reading := r })
      let touch := bitsOf x.deltas 15 0
      let release := bitsOf x.deltas 31 16
      let d : Int := r.toNat - x.baseline.toNat
      (¬ takes → exec (.touchReading r) s = .next s) ∧
      (takes → x.tstate = .boot → calm → turns fun x => { x with baseline := r, tstate := .idle, run := 0 }) ∧
      (takes → x.tstate = .boot → ¬ calm → turns fun x => { x with panelPresent := true, peak := r, t0 := now s, tstate := .deferred }) ∧
      (takes → x.tstate = .deferred →
        let peak := if x.peak < r then r else x.peak
        (release < peak.toNat - r.toNat → turns fun x => { x with peak := peak, settle := 8, tstate := .settling }) ∧
        (peak.toNat - r.toNat ≤ release → x.t0.toNat + 30000000000 ≤ (now s).toNat →
          turns fun x => { x with peak := peak, baseline := r, relative := true, tstate := .idle, run := 0 }) ∧
        (peak.toNat - r.toNat ≤ release → (now s).toNat < x.t0.toNat + 30000000000 → turns fun x => { x with peak := peak })) ∧
      (takes → x.tstate = .settling → 1 < x.settle → turns fun x => { x with settle := x.settle - 1 }) ∧
      (takes → x.tstate = .settling → x.settle ≤ 1 → ∃ rel, (rel = true ↔ x.relative = true ∧ ¬ calm) ∧
        turns fun x => { x with settle := 0, baseline := r, tstate := .idle, run := 0, relative := rel }) ∧
      (takes → x.tstate = .idle →
        let run := if (touch : Int) ≤ d then x.run + 1 else 0
        let pressed := (touch : Int) ≤ d ∧ x.run = 2
        (¬ pressed → x.relative = true → (release : Int) < -d → turns fun x => { x with run := 0, settle := 8, tstate := .settling }) ∧
        (¬ pressed → ¬ (x.relative = true ∧ (release : Int) < -d) →
          turns fun x => { x with run := run, baseline := BitVec.ofInt 16 (x.baseline.toNat + d / (2 ^ bitsOf x.timing 3 0 : Int)) }) ∧
        (pressed → bitOf x.ctl 27 = false → 16 ≤ x.events.length → exec (.touchReading r) s = .next { s with
          clapper := { x with reading := r, counters := vmod x.counters (2 : Fin 3) (bump ·), tstate := .touched, t0 := now s, run := 0, force := BitVec.ofInt 16 d }, free := s.free + 1 }) ∧
        (pressed → bitOf x.ctl 27 = false → x.events.length < 16 → ∃ (f : BitVec 16) (t : State), exec (.touchReading r) s = .next (settleErr t) ∧
          Reported { s with clapper := t.clapper, free := s.free + 1 } t ∧
          t.clapper = { x with reading := r, events := x.events ++ [{ time := now s, force := f, rel := x.relative, type := 0 }], tstate := .touched, t0 := now s, run := 0, force := BitVec.ofInt 16 d })) ∧
      (takes → x.tstate = .touched →
        let force := if (x.force.toNat : Int) < d then BitVec.ofInt 16 d else x.force
        let low := 2 * d < touch
        let long := max 1 (bitsOf x.timing 31 24) * 1000000000
        let ended := fun (type : BitVec 2) (g : Clapper → Clapper) =>
          (16 ≤ x.events.length → exec (.touchReading r) s = .next { s with
            clapper := g { x with reading := r, force := force, counters := vmod x.counters (2 : Fin 3) (bump ·) }, free := s.free + 1 }) ∧
          (x.events.length < 16 → ∃ (rel : Bool) (t : State), exec (.touchReading r) s = .next (settleErr t) ∧ Reported { s with clapper := t.clapper, free := s.free + 1 } t ∧
            t.clapper = g { x with reading := r, force := force, events := x.events ++ [({ time := now s, force := force, rel := rel, type := type } : TouchEvent)] })
        (low → x.run = 2 → ended 1 fun x => { x with tstate := .idle, run := 0 }) ∧
        (¬ (low ∧ x.run = 2) → x.t0.toNat + long ≤ (now s).toNat →
          ended 2 fun x => { x with stuck := true, baseline := r, relative := true, tstate := .idle, run := 0 }) ∧
        (¬ (low ∧ x.run = 2) → (now s).toNat < x.t0.toNat + long → turns fun x => { x with force := force, run := if low then x.run + 1 else 0 })))

/-! ### Self-test and repair (16) -/

/-- 16 R364, R369, R370, R372, R373, R375, R377, R379, R380, R381, Tables 16.1, 16.5 and 16.6: ASSAY_RUN is refused in a fixed order, waits for a running test or a full
report ring, or puts the unit in TESTING and starts the test; a test that ends writes its report record, counts, returns the unit to ISOLATED and
completes its docket: the signature against the expected one, the repairs of a memory test and its fuse entries, the bit errors of a PRBS31 test. -/
def Obligations.TestsStartEndAndReport : Prop :=
  ∀ (s : State), s.up → s.granary.errPend = false →
    let head := headJob s.control.fwQueue .assayRun
    -- ASSAY_RUN
    (head = none → exec .assayRun s = .next s) ∧
    (∀ (j : Job) (rest : List Job), head = some (j, rest) →
      let v := onControl s fun k => { k with fwQueue := rest }
      let u := bitsOf j.words[4] 7 0
      let part := bitsOf j.words[4] 15 8
      let sel := j.words[5]
      let kind := bitsOf sel 3 0
      let refused := fun (st : Byte) (sub : Nat) => exec .assayRun s = .next (settleErr (fwDone v j st sub))
      let allowed := s.assay.lcState = 1 ∨ s.assay.lcState = 4
      let known := u < 43 ∧ kind ≤ 4 ∧ (kind = 0 → part < partitions u) ∧ (2 ≤ kind → 22 ≤ u ∧ u ≤ 27 ∧ part ≤ 16)
      let isolated := unitState s u = .isolated ∧ ∀ q ∈ s.service.sequences, q.unit.val ≠ u
      let fuses := bitOf sel 9 = true → 0 ≤ s.service.tj ∧ s.service.tj ≤ 85
      (¬ allowed → refused stBound 0x83) ∧
      (allowed → ¬ known → refused stFormat 0x87) ∧
      (allowed → known → ¬ isolated → refused stOffline 0x82) ∧
      (allowed → known → isolated → ¬ fuses → refused stBound 0x86) ∧
      (allowed → known → isolated → fuses →
        (s.assay.test ≠ none ∨ s.assay.reportDepth ≤ s.assay.reportHeld → exec .assayRun s = .next s) ∧
        (s.assay.test = none → s.assay.reportHeld < s.assay.reportDepth →
          exec .assayRun s = .next (onAssay (onUnit v u fun r => { r with state := .testing }) fun a =>
            { a with test := some { unit := fin 256 u, part := part, sel := sel, started := now s, job := some j } })))) ∧
    (∀ u : Nat, (u < 16 → partitions u = 11) ∧ (u = 20 ∨ u = 21 → partitions u = 3) ∧ (22 ≤ u → u ≤ 27 → partitions u = 2) ∧
      (u = 34 ∨ u = 35 → partitions u = 4) ∧ (u = 28 → partitions u = 2) ∧ (u = 29 → partitions u = 1) ∧ (u = 30 → partitions u = 2)) ∧
    -- how a test ends
    (∀ (w : State) (t : Test) (e : TestEnd),
      let failed := e.result = 1 ∨ e.result = 3
      let x := writeReport w t e
      let y := onUnit (onAssay x fun a => { a with test := none, slicesRun := bump a.slicesRun
                                                   slicesFailed := if failed then bump a.slicesFailed else a.slicesFailed
                                                   repairsSoft := bump a.repairsSoft e.repairs })
        t.unit.val fun r => if r.state = .testing then { r with state := .isolated } else r
      (t.job = none → endTest w t e = y) ∧ (∀ j, t.job = some j → endTest w t e = finishJob y j e.status e.sub 0 (min 65535 e.repairs) t.started 1 0) ∧
      x = onAssay (writeRange w none (w.assay.reportBase.toNat + w.assay.reportTail.toNat % w.assay.reportDepth * 64) (reportBytes w t e)).2
        (fun a => { a with reportTail := a.reportTail + 1, reportHeld := a.reportHeld + 1 })) ∧
    (∀ t, s.assay.test = some t →
      let ends := fun (c : Instr) (w : State) (e : TestEnd) (q : Option QuernId) =>
        (t.job ≠ none → exec c s = .next (settleErr (endTest w t e))) ∧
        (t.job = none → exec c s = .next (settleErr (fieldOver (endTest w t e) t (decide (e.result = 1 ∨ e.result = 3)) q)))
      -- logic BIST
      (∀ sig want : Word64,
        let k := if bitsOf t.sel 23 16 = 0 then 8 else bitsOf t.sel 23 16
        let c : Instr := .lbistComplete sig want
        let w := onAssay s fun a => { a with dirty := t.unit :: a.dirty.filter (· ≠ t.unit) }
        let quern := if t.unit.val < 16 ∧ t.part < 7 then some (fin 7 t.part) else none
        (t.kind ≠ 0 → exec c s = .next s) ∧
        (t.kind = 0 → k = 8 ∨ k = 32 → sig = want → ends c w
          { result := 0, status := stOk, sub := 0, repairs := 0, entries := 0, a := sig, b := want, firstFail := 0, firstBit := 0 } quern) ∧
        (t.kind = 0 → k = 8 ∨ k = 32 → sig ≠ want → ends c w
          { result := 1, status := stUncorr, sub := 0x80, repairs := 0, entries := 0, a := sig, b := want, firstFail := 0, firstBit := 0 } quern) ∧
        (t.kind = 0 → ¬ (k = 8 ∨ k = 32) → ∃ b, ends c { w with free := s.free + 1 }
          { result := 5, status := stOk, sub := 0, repairs := 0, entries := 0, a := sig, b := b, firstFail := 0, firstBit := 0 } none)) ∧
      -- memory BIST
      (∀ o : MbistOutcome,
        let c : Instr := .mbistComplete o
        let w := zeroUnit s t.unit.val
        let fuse := bitOf t.sel 9
        let soft := bitOf t.sel 8 || fuse
        let entries := (if soft then o.repairs.map fun r => BitVec.ofNat 26 (bitsOf r 31 6) else []) ++ (if o.unrepaired then [heldEntry t.unit.val] else [])
        let burnt := burnAll w entries
        (t.kind ≠ 1 → exec c s = .next s) ∧
        (t.kind = 1 → o.repairs = [] → o.unrepaired = false → ends c w
          { result := 0, status := stOk, sub := 0, repairs := 0, entries := 0, a := 0, b := 0, firstFail := 0, firstBit := 0 } o.quern) ∧
        (t.kind = 1 → o.repairs ≠ [] → o.unrepaired = false → soft = false → ends c w
          { result := 1, status := stUncorr, sub := 0x81, repairs := 0, entries := 0, a := 0, b := 0, firstFail := o.firstFail
            firstBit := o.firstBit.zeroExtend 32 } o.quern) ∧
        (t.kind = 1 → o.repairs ≠ [] → o.unrepaired = false → soft = true → fuse = false → ends c w
          { result := 2, status := stOk, sub := 0, repairs := o.repairs.length, entries := 0, a := 0, b := 0, firstFail := o.firstFail
            firstBit := o.firstBit.zeroExtend 32 } o.quern) ∧
        (t.kind = 1 → o.unrepaired = true → fuse = false → ends c w
          { result := 3, status := stUncorr, sub := 0x81, repairs := if soft then o.repairs.length else 0, entries := 0, a := 0, b := 0
            firstFail := o.firstFail, firstBit := o.firstBit.zeroExtend 32 } o.quern) ∧
        (t.kind = 1 → o.repairs ≠ [] → o.unrepaired = false → fuse = true → ends c burnt.2.2
          { result := 2, status := stOk, sub := if burnt.2.1 then 0x85 else 0, repairs := o.repairs.length, entries := burnt.1, a := 0, b := 0
            firstFail := o.firstFail, firstBit := o.firstBit.zeroExtend 32 } o.quern) ∧
        (t.kind = 1 → o.unrepaired = true → fuse = true → ends c burnt.2.2
          { result := 3, status := stUncorr, sub := 0x81, repairs := o.repairs.length, entries := burnt.1, a := 0, b := 0
            firstFail := o.firstFail, firstBit := o.firstBit.zeroExtend 32 } o.quern)) ∧
      -- PRBS31
      (∀ errors bits : Word64,
        let c : Instr := .prbsComplete errors bits
        (t.kind < 2 → exec c s = .next s) ∧
        (2 ≤ t.kind → errors.toNat * 100000 ≤ bits.toNat → ends c s
          { result := 0, status := stOk, sub := 0, repairs := 0, entries := 0, a := errors, b := bits, firstFail := 0, firstBit := 0 } none) ∧
        (2 ≤ t.kind → bits.toNat < errors.toNat * 100000 → ∃ st sub, ends c { s with free := s.free + 2 }
          { result := 1, status := st, sub := sub, repairs := 0, entries := 0, a := errors, b := bits, firstFail := 0, firstBit := 0 } none))) ∧
    (s.assay.test = none → ∀ (a b : Word64) (o : MbistOutcome),
      exec (.lbistComplete a b) s = .next s ∧ exec (.mbistComplete o) s = .next s ∧ exec (.prbsComplete a b) s = .next s) ∧
    -- arrays that a memory test leaves zeroed, and burning one fuse entry
    (∀ (q : QuadId) (a : Nat), q.val * 0x06000000 ≤ a → a < (q.val + 1) * 0x06000000 → readByte (zeroUnit s (16 + q.val)).mem a = 0) ∧
    (∀ (m : MillId), ((zeroUnit s m.val).mills[m.val]).purses = [] ∧ ∀ p : QuernId, ((zeroUnit s m.val).mills[m.val]).querns[p.val] = (s.mills[m.val].querns[p.val]).zeroed) ∧
    (∀ (w : State) (d : BitVec 26) (n : Nat),
      (1024 ≤ w.assay.fuses.repair.length → burnEntry w d (n + 1) = (false, w)) ∧
      (w.assay.fuses.repair.length < 1024 → ∃ well : Bool,
        let x := onAssay { w with free := w.free + 1 } fun a => { a with fuses := { a.fuses with
          repair := a.fuses.repair ++ [{ word := BitVec.ofNat 32 (d.toNat * 64 + (Config.fuseEncode d).toNat), commit := well }] } }
        burnEntry w d (n + 1) = if well then (true, x) else burnEntry x d n))

/-- 16 R381, R382, R384: the field schedule takes the next slice of the rotation each period and starts its sequence; a unit that is not free leaves its
remaining slices for the next pass; a failed slice leaves its unit ISOLATED and raises ASSAY_BELL, but that of a Quern makes the Quern the spare;
a Mill that becomes urgent has its slice aborted. -/
def Obligations.FieldSlicesRotateFailAndAbort : Prop :=
  ∀ (s : State), s.up → s.granary.errPend = false →
    let a := s.assay
    let period := if bitsOf a.sched 15 0 = 0 then 1 else bitsOf a.sched 15 0
    let due := bitOf a.sched 31 = true ∧ (a.lcState = 2 ∨ a.lcState = 3) ∧ 6 ≤ s.service.bootPhase.toNat ∧ s.service.noFirmware = false ∧
      a.sliceFrom.toNat + period * 1000000000 ≤ (now s).toNat ∧ a.test = none ∧ a.reportHeld < a.reportDepth ∧
      s.service.sequences.length < 4 ∧ ∀ q ∈ s.service.sequences, q.slice = none
    let w := onAssay s fun a => { a with sliceFrom := now s }
    (¬ due → exec .fieldSliceTimer s = .next s) ∧
    (∀ r, due → nextSlice w 60 = (none, r) → exec .fieldSliceTimer s = .next (settleErr r)) ∧
    (∀ i k r u, due → nextSlice w 60 = (some (i, k), r) → rotUnitOf r i = some u →
      let steps := if i = 27 ∨ i = 28 then [SvcStep.test] else [.drain, .isolate, .test, .reset, .reinit, .rejoin]
      exec .fieldSliceTimer s = .next (settleErr (seqStart r (fin 256 u) none steps .online none (some (sliceSel r i k))))) ∧
    (∀ m : MillId, due → a.rotUnit = m.val → a.rotSlice < 12 → a.schedMills.getLsbD m.val = true → unitState s m.val = .online →
      (∀ q ∈ s.service.sequences, q.unit.val ≠ m.val) → s.control.urgentMills.getLsbD m.val = false →
      exec .fieldSliceTimer s = .next (settleErr (seqStart (onAssay s fun a => { a with sliceFrom := now s, rotSlice := a.rotSlice + 1 })
        (fin 256 m.val) none [.drain, .isolate, .test, .reset, .reinit, .rejoin] .online none
        (some (if a.rotSlice < 11 then (a.rotSlice, 0x00080000) else (0, 0x00000101)))))) ∧
    -- the next slice of the rotation
    (∀ (x : State) (n : Nat),
      let i := x.assay.rotUnit
      let next := if 28 ≤ i then 0 else i + 1
      let on := fun (x : State) => nextSlice (onAssay x fun a => { a with rotUnit := next, rotSlice := ((a.skipped.find? fun y => y.1 = next).map (·.2)).getD 0
                                                                          skipped := a.skipped.filter fun y => y.1 ≠ next }) n
      let rotates := inRotation x i = true ∧ x.assay.rotSlice < entrySlices x i
      (¬ rotates → nextSlice x (n + 1) = on x) ∧
      (rotates → entryFree x i = false → nextSlice x (n + 1) = on (onAssay x fun a => { a with skipped := a.skipped ++ [(i, a.rotSlice)] })) ∧
      (rotates → entryFree x i = true → nextSlice x (n + 1) = (some (i, x.assay.rotSlice), onAssay x fun a => { a with rotSlice := a.rotSlice + 1 }))) ∧
    -- a slice that has ended
    (∀ (x : State) (t : Test), t.unit.val ≠ (if x.service.millerB then 34 else 35) →
      (∀ q, fieldOver x t false q = stepEnd x t.unit.val) ∧
      fieldOver x t true none = raiseBell (onUnit (onService x fun y => { y with sequences := y.sequences.filter fun q => q.unit ≠ t.unit }) t.unit.val
        fun r => { r with step := 0 }) x.assay.bell ∧
      (∀ (m : MillId) (p : QuernId), t.unit.val = m.val → fieldOver x t true (some p) =
        stepEnd (onSeq (raiseBell x x.assay.bell) m.val fun q => { q with qmap := some (spareFor (x.mills[m.val]).regs.qmap p) }) m.val)) ∧
    (∀ (q : BitVec 18) (p spare : QuernId), (∀ l, l < 6 → qmapAt q l ≠ spare.val) → (∀ x : QuernId, x < spare → ∃ l, l < 6 ∧ qmapAt q l = x.val) →
      ∀ l, l < 6 → qmapAt (spareFor q p) l = if qmapAt q l = p.val then spare.val else qmapAt q l) ∧
    -- URGENT_MILLS
    (∀ v : Word,
      let mask := BitVec.ofNat 16 v.toNat
      let gained := mask &&& ~~~s.control.urgentMills
      let x := onControl s fun k => { k with urgentMills := mask }
      (gained = 0 → exec (.urgentMillsWrite v) s = .next x) ∧
      (∀ m : MillId, gained = BitVec.twoPow 16 m.val →
        let seq := s.service.sequences.find? fun q => q.unit.val = m.val
        ((∀ q, seq = some q → q.slice = none) → exec (.urgentMillsWrite v) s = .next x) ∧
        (∀ q, seq = some q → q.slice ≠ none →
          (∀ t, s.assay.test = some t → t.unit.val = m.val → exec (.urgentMillsWrite v) s = .next (settleErr (abortTest x t))) ∧
          ((∀ t, s.assay.test = some t → t.unit.val ≠ m.val) →
            exec (.urgentMillsWrite v) s = .next (onSeq x m.val fun q => { q with todo := q.todo.filter (· ≠ .test) })))))

/-! ### The lifecycle and the test access port (16) -/

/-- 16 R374, R387, R388, R389, R390, Tables 16.4, 16.7 and 16.8: a write of LC_CTL with ADVANCE burns a transition whose condition holds, or sets LC_REJ;
NEW_NONCE fills CHALLENGE; TOKEN_GO starts a verification, and the token is accepted, burning its transition and ending its nonce, unless a check
fails; a TAP instruction that the lifecycle state does not permit acts as BYPASS. -/
def Obligations.LifecycleTokensAndTap : Prop :=
  ∀ (s : State),
    -- burning a transition
    (∀ (f : Fuses),
      f.enter 5 = { f with lc := 5, imageKey := BitVec.allOnes 768, imageKeySet := true, serviceKey := BitVec.allOnes 768, serviceKeySet := true
                           keyHash := .replicate 4 (BitVec.allOnes 384), keyValid := 0xF } ∧
      f.enter 4 = { f with lc := 3, visits := f.visits + 1 } ∧
      (∀ n, n < 4 → f.state ≠ 4 → f.enter n = { f with lc := fin 8 n }) ∧ (f.state = 4 → f.enter 3 = { f with lc := 3, visits := f.visits + 1 }) ∧
      (f.state = 4 ↔ f.lc = 4 ∨ (f.lc = 3 ∧ f.visits.toNat % 2 = 1))) ∧
    -- LC_CTL
    (s.up → ∀ (v : Word) (random : BitVec 256),
      let n := bitsOf v 2 0
      let ok := s.assay.fuses.state = s.assay.lcState ∧
        ((s.assay.lcState = 0 ∧ n = 1) ∨ (s.assay.lcState = 1 ∧ n = 2 ∧ s.assay.fuses.uid ≠ 0 ∧ s.assay.fuses.keyValid ≠ 0) ∨
         (s.assay.lcState = 2 ∧ n = 3 ∧ s.assay.fuses.imageKeySet = true ∧ s.assay.fuses.serviceKeySet = true) ∨ (s.assay.lcState = 1 ∧ n = 5))
      let advances := bitOf v 31 = true
      let writes := fun (x : State) (nonce : Option (BitVec 256)) => onAssay x fun a => { a with
        target := BitVec.ofNat 3 n
        lcRej := (a.lcRej && !bitOf v 28) || decide (advances ∧ ¬ ok)
        fuses := if advances ∧ ok then a.fuses.enter n else a.fuses
        challenge := nonce.getD a.challenge
        nonceValid := a.nonceValid || nonce.isSome
        tokenStat := if bitOf v 29 then 1 else a.tokenStat }
      exec (.newNonce v random) s = .next (writes s (if bitOf v 30 then some random else none)) ∧
      (bitOf v 30 = false → exec (.advance v) s = .next (writes s none) ∧ exec (.tokenGo v) s = .next (writes s none)) ∧
      (bitOf v 30 = true → ∃ x, exec (.advance v) s = .next (writes { s with free := s.free + 1 } (some x)) ∧
        exec (.tokenGo v) s = .next (writes { s with free := s.free + 1 } (some x)))) ∧
    -- the token
    (s.up →
      let a := s.assay
      let bytes := fun (from_ n : Nat) => ((wordBytes a.token.toList).drop from_).take n
      let n := bitsOf a.token[1] 2 0
      let failing : List (BitVec 4 × Bool) :=
        [(3, a.token[0] != 0x4E4B5453),
         (4, BitVec.ofNat 128 (leNat (bytes 0x10 16)) != a.fuses.uid),
         (5, !a.nonceValid || BitVec.ofNat 256 (leNat (bytes 0x20 32)) != a.challenge),
         (6, !decide (((a.lcState = 3 ∧ (n = 4 ∨ n = 5)) ∨ (a.lcState = 4 ∧ (n = 3 ∨ n = 5))) ∧ a.fuses.state = a.lcState)),
         (7, !(a.fuses.serviceKeySet && Config.ecdsaOk a.fuses.serviceKey (Config.sha384 (bytes 0 0x40)) (keyOf (bytes 0x40 96)))),
         (8, decide (n = 4 ∧ 256 ≤ a.fuses.visits.toNat))]
      (a.tokenStat ≠ 1 → exec .tokenVerifyDone s = .next s) ∧
      (∀ st, a.tokenStat = 1 → failing.find? (·.2) = some (st, true) → exec .tokenVerifyDone s = .next (onAssay s fun a => { a with tokenStat := st })) ∧
      (a.tokenStat = 1 → failing.find? (·.2) = none →
        exec .tokenVerifyDone s = .next (onAssay s fun a => { a with tokenStat := 2, nonceValid := false, fuses := a.fuses.enter n }))) ∧
    -- the test access port
    (let lc := s.assay.lcState
     let permitted := fun (i : TapInstr) =>
       i ∈ (match lc.val with
         | 0 | 1 => [TapInstr.idcode, .bypass, .samplePreload, .extest, .extestPulse, .extestTrain, .clamp, .highz, .assayAccess, .lcAdvance]
         | 2 => [.idcode, .bypass, .samplePreload, .extest, .extestPulse, .extestTrain, .clamp, .highz]
         | 3 => [.idcode, .bypass]
         | 4 => [.idcode, .bypass, .samplePreload, .extest, .extestPulse, .extestTrain, .clamp, .highz, .assayAccess]
         | _ => [.idcode, .bypass, .samplePreload])
     lc.val ≤ 5 → ∀ (pins load : List Bool) (next : Fin 8) (code : BitVec 8),
       let acts := fun (i : TapInstr) (c : Instr) (f : Assay → Assay) =>
         (permitted i → exec c s = .next (onAssay s fun a => f { a with tap := i, driving := false, highz := false })) ∧
         (¬ permitted i → exec c s = .next (onAssay s fun a => { a with tap := .bypass, driving := false, highz := false }))
       let scan := fun (drive : Bool) (a : Assay) => { a with captured := pins, boundary := load, driving := drive }
       acts .idcode .idcode (fun a => { a with captured := (List.range 32).map (0x11640E4D : Word).getLsbD }) ∧
       acts .samplePreload (.samplePreload pins load) (scan false) ∧ acts .extest (.extest pins load) (scan true) ∧
       acts .extestPulse (.extestPulse pins load) (scan true) ∧ acts .extestTrain (.extestTrain pins load) (scan true) ∧
       acts .clamp .clamp (fun a => { a with driving := true }) ∧ acts .highz .highz (fun a => { a with highz := true }) ∧
       acts .assayAccess .assayAccess id ∧ acts .bypass (.bypass code) id ∧
       acts .lcAdvance (.lcAdvance next) (fun a => if advanceOk a next.val then { a with fuses := a.fuses.enter next.val } else { a with lcRej := true }))

/-! ### Unit states and the service sequence (17) -/

/-- 17 R403 to R407, R409, Tables 17.4 and 17.5: the steps of a service sequence. A command that is not the unit's present step changes nothing. A step
that ends is counted, and the next begins with its management record first; after the last, STEP is 0 and the docket completes. DRAIN ends when the unit
holds no docket, or stops what it holds at the timeout; ISOLATE and REJOIN end with the FORCE write; RESET resets the unit; RE-INIT writes its
registers back and waits until it is ready; two REJOIN steps of a unit are 4 ms apart. -/
def Obligations.SequencesRunStepByStep : Prop :=
  ∀ (s : State) (u : UnitId), s.up → s.granary.errPend = false →
    let seq := s.service.sequences.find? fun q => q.unit.val = u.val
    let at_ := fun (k : SvcStep) (q : Sequence) => seq = some q ∧ q.todo.head? = some k
    let goes := fun (c : Instr) (w : State) => exec c s = .next (settleErr (stepEnd w u.val))
    (∀ (k : SvcStep) (c : Instr),
      (k, c) ∈ [(.drain, .drainComplete u), (.drain, .drainTimeout u), (.isolate, .svcIsolate u), (.reset, .svcReset u), (.reinit, .svcReinit u),
        (SvcStep.rejoin, Instr.svcRejoin u)] →
      (∀ q, ¬ at_ k q) → exec c s = .next s) ∧
    -- what follows a step that has ended
    (∀ (w : State) (q : Sequence), w.service.sequences.find? (fun q => q.unit.val = u.val) = some q →
      let v := onService w fun x => { x with sequences := x.sequences.map fun q =>
        if q.unit.val = u.val then { q with todo := q.todo.drop 1, done := q.done + 1, restored := false } else q }
      let record := fun (f : UnitRec → UnitRec) => onUnit v u.val f
      (∀ k more, q.todo = k :: .isolate :: more → stepEnd w u.val = record fun r => { r with step := 2, state := .isolated }) ∧
      (∀ k more, q.todo = k :: .reset :: more → stepEnd w u.val = record fun r => { r with step := 3 }) ∧
      (∀ k more, q.todo = k :: .reinit :: more → stepEnd w u.val = record fun r => { r with step := 4, state := .standby }) ∧
      (∀ k more, q.todo = k :: .rejoin :: more → stepEnd w u.val = record fun r => { r with step := 5 }) ∧
      (∀ k, q.todo = [k] →
        let t := onService (record fun r => { r with step := 0 }) fun x => { x with sequences := x.sequences.filter fun y => y.unit ≠ u }
        (q.job = none → stepEnd w u.val = t) ∧
        (∀ j, q.job = some j → stepEnd w u.val =
          finishJob t j (if q.expired then stTimeout else stOk) (if q.expired then 0x82 else 0) (min 255 q.stopped) (unitEpoch w u.val).toNat q.since (q.done + 1) 0))) ∧
    -- DRAIN
    (∀ q, at_ .drain q →
      (unitIdle s u.val = true → goes (.drainComplete u) s ∧ exec (.drainTimeout u) s = .next s) ∧
      (unitIdle s u.val = false →
        let limit := clampNat 10 1000000 s.service.drainTimeout.toNat
        exec (.drainComplete u) s = .next s ∧
        ((now s).toNat / 1000 ≤ q.since.toNat / 1000 + limit → exec (.drainTimeout u) s = .next s) ∧
        (q.since.toNat / 1000 + limit < (now s).toNat / 1000 → ∃ n w, goes (.drainTimeout u) (onSeq w u.val fun q => { q with stopped := n, expired := true }) ∧
          (∀ (h : u.val < 16),
            let held := (s.mills[u.val]).slots.toList.filterMap fun x => x.map (·.msg)
            n = held.length ∧ w = held.foldl (fun s x => stopHeld s ⟨u.val, h⟩ .offline x) s) ∧
          (∀ i : WeirId, u.val = 20 + i.val →
            let x := s.weirs[i.val]
            let held := (x.running.map (·.job)).toList ++ (x.binding.map (·.job)).toList ++ x.queue
            n = held.length ∧ w = held.foldl (fun s j => finishJob s j stOffline 0 0 0 (now s) 0 0)
              (onWeir s i fun x => { x with running := none, binding := none, queue := [] }))))) ∧
    -- ISOLATE
    (∀ q, at_ .isolate q →
      (unitIdle s u.val = true → goes (.svcIsolate u) (forceView s u.val)) ∧ (unitIdle s u.val = false → exec (.svcIsolate u) s = .next s)) ∧
    -- RESET
    (∀ q, at_ .reset q →
      let kept := fun (w : State) => onSeq w u.val fun q => { q with shadow := shadowOf w u.val }
      let untested := fun (w : State) => onAssay w fun a => { a with dirty := a.dirty.filter fun d => d.val ≠ u.val }
      (∀ (h : u.val < 16), goes (.svcReset u) (untested (resetMill (kept s) ⟨u.val, h⟩ (s.assay.fuses.qmap ⟨u.val, h⟩)))) ∧
      (∀ i : WeirId, u.val = 20 + i.val → goes (.svcReset u) (untested (onWeir (kept s) i fun _ => Weir.reset))) ∧
      (∀ p : FlumeId, u.val = 22 + p.val → (s.flume.ports[p.val]).state ≠ .active → (s.flume.ports[p.val]).state ≠ .recover →
        goes (.svcReset u) (untested (onPort (kept s) p fun f => { FlumePort.reset with ctrlOut := f.ctrlOut }))) ∧
      (u.val = 28 → goes (.svcReset u) (untested (onVault (kept s) fun v => { v with mounted := false }))) ∧
      (u.val = 29 →
        let w := onClapper s fun x => (x.stop 0 (now s)).stop 1 (now s)
        (w.clapper.quietBoth = true → goes (.svcReset u) (untested (kept w))) ∧ (w.clapper.quietBoth = false → exec (.svcReset u) s = .next w)) ∧
      (u.val = 30 → goes (.svcReset u) (untested (onSpigot (kept s) fun x =>
        { x with macs := x.macs.map fun m => { Mac.reset with wire := m.wire }, cans := x.cans.map fun c => { Can.reset with wire := c.wire } })))) ∧
    -- RE-INIT
    (∀ q, at_ .reinit q →
      let w := if q.restored then s else onSeq (restoreUnit s u.val q.shadow q.qmap) u.val fun q => { q with restored := true }
      let ready := (∀ (_ : u.val < 16), (w.mills[u.val]).sluice.compDone = true ∧ (w.mills[u.val]).regs.remapBusy = false) ∧
        (∀ p : FlumeId, u.val = 22 + p.val → (w.flume.ports[p.val]).en = false ∨ (w.flume.ports[p.val]).state = .active ∨ (w.flume.ports[p.val]).state = .down)
      (ready → goes (.svcReinit u) (onUnit w u.val fun r => { r with resetDone := false })) ∧ (¬ ready → exec (.svcReinit u) s = .next (settleErr w))) ∧
    -- REJOIN
    (∀ q, at_ .rejoin q →
      let since := (unitRec s u.val).bind (·.rejoined)
      (∀ t, since = some t → (now s).toNat < t.toNat + 4000000 → exec (.svcRejoin u) s = .next s) ∧
      ((∀ t, since = some t → t.toNat + 4000000 ≤ (now s).toNat) →
        goes (.svcRejoin u) (forceView (onUnit s u.val fun r =>
          { r with epoch := r.epoch + 1, state := q.target, cause := if q.target = .online then 0 else r.cause, rejoined := some (now s) }) u.val)))

/-- 17 R395, R398, R399, R401, R402, R409, R410, R412, R413, Tables 17.1 and 17.3: UNIT_STATE and RESET_UNIT at the head of the firmware queue are refused in a fixed
order, or write the record, or change power, or start a sequence; FW_STAGE; the planned and the unplanned change of Miller pair; a write of UNIT_MGMT, whose
FORCE makes the data view follow; the audit repairs what drifted. -/
def Obligations.UnitsChangeStateByDocketRecordAndAudit : Prop :=
  ∀ (s : State), s.up → s.granary.errPend = false →
    let act := if s.service.millerB then 35 else 34
    let standby := if s.service.millerB then 34 else 35
    -- UNIT_STATE and RESET_UNIT
    (∀ (reset : Bool),
      let c : Instr := if reset then .resetUnit else .unitState
      let head := headJob s.control.fwQueue (if reset then .resetUnit else .unitState)
      (head = none → exec c s = .next s) ∧
      (∀ (j : Job) (rest : List Job), head = some (j, rest) →
        let v := onControl s fun k => { k with fwQueue := rest }
        let u := bitsOf j.words[4] 7 0
        let st := unitState s u
        let want := bitsOf j.words[5] 2 0
        let epoch := fun (w : State) => (unitEpoch w u).toNat
        let refused := fun (st : Byte) (sub : Nat) => exec c s = .next (settleErr (fwDone v j st sub 0 (epoch s) 0))
        let okay := fun (w : State) (steps : Nat) => exec c s = .next (settleErr (fwDone w j stOk 0 0 (epoch w) steps))
        let partial_ := u < 16 ∨ u = 20 ∨ u = 21 ∨ (22 ≤ u ∧ u ≤ 30)
        let pair := reset = false ∧ u = standby
        let free := u < 43 ∧ ¬ pair ∧ partial_ ∧ ∀ q ∈ s.service.sequences, q.unit.val ≠ u
        let toBusy := fun (todo : List SvcStep) (target : UnitState) =>
          let leaves := todo.head? = some .drain ∧ u < 16 ∧ s.control.urgentMills.getLsbD u = true ∧ bitOf j.words[5] 8 = false
          (leaves → refused stOffline 0x84) ∧
          (¬ leaves → 4 ≤ s.service.sequences.length → exec c s = .next s) ∧
          (¬ leaves → s.service.sequences.length < 4 → exec c s = .next (settleErr (seqStart v (fin 256 u) (some j) todo target none none)))
        let tail := if bitOf j.words[5] 0 then [SvcStep.rejoin] else []
        let record := fun (t : UnitState) =>
          okay (forceView (onUnit v u fun r => { r with state := t, cause := if t = .online then 0 else r.cause }) u) 0
        let power := fun (w : State) (f : UnitRec → UnitRec) => okay (forceView (onUnit w u f) u) 1
        (43 ≤ u → exec c s = .next (settleErr (fwDone v j stFormat 0x80))) ∧
        (pair → ¬ (unitState s u = .standby ∧ want = 4 ∧ s.service.standbyReady = true) → refused stFormat 0x81) ∧
        (u < 43 → ¬ pair → ¬ partial_ → refused stFormat 0x83) ∧
        (u < 43 → ¬ pair → partial_ → (∃ q ∈ s.service.sequences, q.unit.val = u) → refused stOffline 0x85) ∧
        (free → reset = false →
          ((st = .online ∨ st = .degraded) → want = 1 → toBusy [.drain, .isolate] .isolated) ∧
          (st = .online → want = 6 → record .degraded) ∧ (st = .degraded → want = 4 → record .online) ∧ (st = .standby → want = 1 → record .isolated) ∧
          (st = .standby → want = 4 → toBusy [.rejoin] .online) ∧ (st = .standby → want = 6 → toBusy [.rejoin] .degraded) ∧
          (st = .isolated → want = 0 → u ≠ 29 → power (unitReset v u) fun r => { r with state := .offline, powered := false, resetDone := false }) ∧
          (st = .isolated → want = 0 → u = 29 → power (onClapper v fun _ => Clapper.reset) fun r => { r with state := .offline, powered := false, resetDone := false }) ∧
          (st = .offline → want = 1 → power (clearLbist (unitReset v u) u) fun r => { r with state := .isolated, powered := true, resetDone := true }) ∧
          (¬ (((st = .online ∨ st = .degraded) ∧ want = 1) ∨ (st = .online ∧ want = 6) ∨ (st = .degraded ∧ want = 4) ∨
              (st = .standby ∧ (want = 1 ∨ want = 4 ∨ want = 6)) ∨ (st = .isolated ∧ want = 0) ∨ (st = .offline ∧ want = 1)) → refused stFormat 0x81)) ∧
        (free → reset = true →
          ((st = .online ∨ st = .degraded) → toBusy ([.drain, .isolate, .reset, .reinit] ++ tail) .online) ∧
          (st = .standby → toBusy ([.reset, .reinit] ++ tail) .online) ∧
          (st = .isolated →
            let done := (∃ r, unitRec s u = some r ∧ r.resetDone = true) ∧ ∀ d ∈ s.assay.dirty, d.val ≠ u
            (done → toBusy ([.reinit] ++ tail) .online) ∧ (¬ done → toBusy ([.reset, .reinit] ++ tail) .online)) ∧
          (¬ (st = .online ∨ st = .degraded ∨ st = .standby ∨ st = .isolated) → refused stFormat 0x81)) ∧
        -- the handover
        (pair → unitState s u = .standby → want = 4 → s.service.standbyReady = true →
          ∃ p : Word, p.toNat ≤ 50000 ∧ okay (onUnit (onUnit (onService { v with free := s.free + 1 } fun x =>
            { x with millerB := !x.millerB, standbyReady := false, booting := true, handovers := bump x.handovers, lastPause := p, firmware := x.standbyFw })
            standby fun r => { r with state := .online }) act fun r => { r with state := .isolated }) 0))) ∧
    -- FW_STAGE
    ((headJob s.control.fwQueue .fwStage = none → exec .fwStage s = .next s) ∧
     (∀ (j : Job) (rest : List Job), headJob s.control.fwQueue .fwStage = some (j, rest) →
       let v := onControl s fun k => { k with fwQueue := rest }
       let n := j.words[6].toNat
       let place := effRange s.granary.flat (jobMill j.words) j.win (j.words[4].toNat + bitsOf j.words[5] 15 0 * 2 ^ 32) n
       (unitState s standby ≠ .standby → exec .fwStage s = .next (settleErr (fwDone v j stOffline 0x88))) ∧
       (unitState s standby = .standby → place = none → exec .fwStage s = .next (settleErr (fwDone v j stBound 0x08))) ∧
       (∀ a, unitState s standby = .standby → place = some a → rowsOk s none a n →
         let image := readBytes s.mem a n
         let good := imageLen image ≤ image.length ∧ (imageSlot s.assay.fuses image).isSome = true
         (¬ good → exec .fwStage s = .next (settleErr (fwDone v j stUncorr 0x87))) ∧
         (good → exec .fwStage s = .next (settleErr (fwDone (onService v fun y =>
           { y with standbyFw := image.take (imageLen image), standbyReady := true, booting := false }) j stOk 0)))))) ∧
    ((s.service.booting = false → exec .standbyReady s = .next s) ∧
     (s.service.booting = true → exec .standbyReady s = .next (onUnit (onService s fun x =>
       { x with booting := false, standbyReady := true, standbyFw := x.firmware }) standby fun r => { r with state := .standby }))) ∧
    -- the active pair fails
    ((s.service.noFirmware = true → exec .millerFailover s = .next s) ∧
     (s.service.noFirmware = false → unitState s standby = .standby → s.service.standbyReady = true →
       ∃ p : Word, p.toNat ≤ 200000 ∧
         let w := onUnit (onUnit (onService { s with free := s.free + 1 } fun x =>
           { x with millerB := !x.millerB, standbyReady := false, failover := true, lastPause := p, firmware := x.standbyFw })
           standby fun r => { r with state := .online }) act fun r => { r with state := .isolated }
         let goes := fun (w : State) => exec .millerFailover s = .next (settleErr (raiseBell w s.service.millerBell))
         (∀ j, s.control.tenantJob = some j → goes (fwDone (onControl w fun k => { k with tenantJob := none }) j stInternal 0x86)) ∧
         (s.control.tenantJob = none → s.clapper.loading = false →
           (s.assay.test = none → goes w) ∧ (∀ t, s.assay.test = some t →
             (t.job = none → goes w) ∧
             (∀ j, t.job = some j → goes (fwDone (onAssay w fun a => { a with test := some { t with job := none } }) j stInternal 0x86)))) ∧
         (∀ j rest, s.control.tenantJob = none → s.clapper.loading = true → headJob s.control.fwQueue .clapLoad = some (j, rest) →
           goes (fwDone (onClapper (onControl w fun k => { k with fwQueue := rest }) fun x => { x with loading := false }) j stInternal 0x86))) ∧
     (s.service.noFirmware = false → ¬ (unitState s standby = .standby ∧ s.service.standbyReady = true) →
       let jobs := s.control.fwQueue ++ s.control.tenantJob.toList ++ (s.assay.test.bind (·.job)).toList ++ s.service.sequences.filterMap (·.job)
       exec .millerFailover s = .next (settleErr (jobs.foldl (fun s j => fwDone s j stOffline 0)
         (onAssay (onService (onControl (onUnit (onService s fun x => { x with noFirmware := true }) act fun r => { r with state := .isolated })
           fun k => { k with fwQueue := [], tenantJob := none }) fun x => { x with sequences := [] }) fun a => { a with test := none }))))) ∧
    -- UNIT_MGMT
    (∀ (u : UnitId) (v : Word),
      let w := onUnit s u.val fun r =>
        { r with cause := BitVec.ofNat 8 (bitsOf v 23 16), epoch := BitVec.ofNat 8 (bitsOf v 15 8), step := BitVec.ofNat 3 (bitsOf v 6 4)
                 state := ((UnitState.ofCode (bitsOf v 2 0)).getD r.state) }
      exec (.unitMgmtForce .pcie u v) s = .next s ∧
      (∀ m, m ≠ .pcie → bitOf v 31 = false → exec (.unitMgmtForce m u v) s = .next w) ∧
      (∀ m, m ≠ .pcie → bitOf v 31 = true → exec (.unitMgmtForce m u v) s = .next (forceView w u.val))) ∧
    -- the FORCE write of a unit
    (∀ (w : State) (u : Nat) (n : NiId) (e : Byte), unitNis w u = [n] → e = unitEpoch w u →
      let ni := w.net.nis[n.val]
      let t := onNi (onNet w fun x => { x with nis := x.nis.map fun y => { y with epv := vmod y.epv n fun _ => e } }) n fun y =>
        { y with admits := (unitState w u).admits, epoch := e }
      (ni.admits = false ∨ (unitState w u).admits = true → forceView w u = t) ∧
      (ni.admits = true → (unitState w u).admits = false → (∀ r ∈ ni.accepted, r.dst = n ∧ routeValid ni.routes[r.src.val] = true) → ni.suppressed = [] →
        forceView w u = onNet t fun x =>
          { x with nis := vmod x.nis n fun y => { y with accepted := [], suppressed := ni.accepted, offlineSent := bump y.offlineSent ni.accepted.length }
                   sent := x.sent ++ ni.accepted.map fun r => responseOf { ni with epoch := e } r .offline [] })) ∧
    -- the audit
    (let runs := s.service.auditEn = true ∧ 7 ≤ s.service.bootPhase.toNat ∧ s.service.noFirmware = false
     (¬ runs → exec .stateAudit s = .next s) ∧
     (runs → exec .stateAudit s = .next (settleErr ((List.range 43).foldl auditUnit s))) ∧
     (∀ (w : State) (u : Nat) (r : UnitRec), unitRec w u = some r →
       let skewed := fun (n : NiId) (k : Nat) =>
         let ni := w.net.nis[n.val]
         let wrong := ni.admits ≠ r.state.admits
         (k = 1 ∧ wrong) ∨ (k = 2 ∧ ¬ wrong ∧ ni.epoch ≠ r.epoch) ∨
           (k = 3 ∧ ¬ wrong ∧ ni.epoch = r.epoch ∧ ∃ i : NiId, (w.net.nis[i.val]).epv[n.val] ≠ r.epoch)
       (r.step ≠ 0 → auditUnit w u = w) ∧
       (r.step = 0 → (∀ n ∈ unitNis w u, ∀ k, ¬ skewed n k) → auditUnit w u = w) ∧
       (∀ pre n post k, r.step = 0 → unitNis w u = pre ++ n :: post → (∀ m ∈ pre, ∀ k, ¬ skewed m k) → skewed n k → auditUnit w u =
         forceView (raiseBell (onService w fun x =>
           { x with stateSkew := bump x.stateSkew
                    skewLog := if bitOf x.skewLog 31 then x.skewLog else BitVec.ofNat 32 (2 ^ 31 + k * 2 ^ 29 + n.val * 256 + u) }) w.service.skewBell) u)))

/-! ### Resets and start-up (18) -/

/-- 18 R418, R419, R426, Table 18.4: the reset sources. A full reset puts everything at its reset value but the fuses, the Sluice arrays (a field being
programmed is INVALID), the NAND contents, the test access port and the levels of input pins, and its source names the cause; a low PORST_N, a loss of lock
and a thermal trip hold the device, until PORST_N rises, the Spindle locks, and PORST_N falls and rises; PERST_N resets the endpoint alone; a write of RST_CTL
without the key does nothing. -/
def Obligations.ResetSourcesResetAndKeep : Prop :=
  ∀ (s : State),
    let reset := fun (cause : BitVec 5) (t : State) =>
      t = { State.reset with
        pending := s.pending, free := s.free, mills := t.mills, vault := t.vault, spigot := { Spigot.reset with safePinLow := s.spigot.safePinLow }
        net := { Net.reset with perst := s.net.perst }
        assay := { Assay.reset with fuses := s.assay.fuses, lcState := s.assay.lcState, tap := s.assay.tap, boundary := s.assay.boundary
                                    captured := s.assay.captured, driving := s.assay.driving, highz := s.assay.highz }
        service := { Service.reset with rstCause := cause, porstN := t.service.porstN, thermTrip := t.service.thermTrip, inReset := t.service.inReset } } ∧
      (∀ m : MillId,
        let x := t.mills[m.val]
        let y := (s.mills[m.val]).sluice
        x = { Mill.reset m with sluice := x.sluice } ∧
        x.sluice = { Sluice.reset with weights := y.weights, fields := x.sluice.fields, gHi := y.gHi, gLo := y.gLo, defects := y.defects, worn := y.worn, vppOk := y.vppOk } ∧
        (∀ f : Fin 128, x.sluice.fields[f.val] =
          if (y.fields[f.val]).state = .programming then { y.fields[f.val] with state := .invalid } else y.fields[f.val])) ∧
      (let v := s.vault
       t.vault = { Vault.reset with
         boot := v.boot, dataPart := v.dataPart, anchors := v.anchors, formatted := v.formatted, slotNv := v.slotNv, dataUnits := v.dataUnits
         spareBoot := v.spareBoot, spareData := v.spareData, sluRecords := v.sluRecords, blocks := v.blocks, map := v.map, openBoot := v.openBoot
         openData := v.openData })
    let held := fun (cause : BitVec 5) (porstN trip : Bool) (t : State) =>
      reset cause t ∧ t.service.inReset = true ∧ t.service.porstN = porstN ∧ t.service.thermTrip = trip
    let x := s.service
    (∃ t, exec .porAssert s = .next t ∧ held 1 false x.thermTrip t) ∧
    (x.porstN = true → exec .porRelease s = .next s) ∧
    (x.porstN = false → exec .porRelease s = .next (onService s fun x => { x with porstN := true, thermTrip := false, inReset := false })) ∧
    (x.porstN = true → x.thermTrip = false → x.locked = false →
      let u := onService s fun x => { x with locked := true, inReset := false }
      (x.bootPhase ≠ 0 → exec .spindleLock s = .next u) ∧
      (x.bootPhase = 0 → exec .spindleLock s = .next (onService u fun x =>
        { x with bootT := vmod x.bootT (0 : Fin 11) fun _ => BitVec.ofNat 32 (((now s).toNat - x.bootFrom.toNat) / 1000), bootPhase := 1 }))) ∧
    (x.porstN = false ∨ x.thermTrip = true ∨ x.locked = true → exec .spindleLock s = .next s) ∧
    (∀ v : Word, s.up →
      (bitsOf v 31 16 = 0xD1E5 → bitOf v 0 = true →
        ∃ t, exec (.softReset v) s = .next t ∧ reset (x.rstCause ||| 2) t ∧ t.service.inReset = false ∧ t.service.porstN = x.porstN ∧ t.service.thermTrip = x.thermTrip) ∧
      (¬ (bitsOf v 31 16 = 0xD1E5 ∧ bitOf v 0 = true) → exec (.softReset v) s = .next s)) ∧
    (x.porstN = true → ∃ t, exec .lockLost s = .next t ∧ held (x.rstCause ||| 4) true x.thermTrip t) ∧
    (x.porstN = false → exec .lockLost s = .next s) ∧
    (∀ tj : Int,
      let limit := min 0x8C x.tripC.toNat
      let warm := fun (c : Instr) =>
        let top := if x.tempMax < tj then tj else x.tempMax
        let u := onService s fun x => { x with tj := tj, tempMax := top }
        (x.warned = true ∨ top < x.warnC.toNat → exec c s = .next u) ∧
        (x.warned = false → (x.warnC.toNat : Int) ≤ top → exec c s = .next (settleErr (raiseBell (onService u fun x => { x with warned := true }) x.thermBell)))
      ((limit : Int) < tj → x.porstN = true → ∃ t, exec (.thermalTrip tj) s = .next t ∧ held (x.rstCause ||| 8) true true t) ∧
      ((limit : Int) < tj → x.porstN = false → exec (.thermalTrip tj) s = .next s) ∧
      (tj ≤ limit → x.inReset = true → exec (.thermalTrip tj) s = .next s) ∧
      (tj ≤ limit → s.up → s.granary.errPend = false → warm (.thermalTrip tj)) ∧
      (s.up → s.granary.errPend = false → warm (.thermWarn tj))) ∧
    exec .perst s = .next { s with
      service := { x with perstCount := bump x.perstCount, rstCause := x.rstCause ||| 16 }
      net := { s.net with perst := true, posted := [], barRead := none, msixTable := [], msixPba := 0
                          txns := vmod s.net.txns (2 : Fin 3) fun t => t.map fun (x : TreeTxn) => { x with host := false } } } ∧
    exec .perstRelease s = .next { s with net := { s.net with perst := false } }

/-- 16 R371, R385, R386, R392; 18 R428 to R431, Table 18.6: the boot steps run in order, each in its own phase alone and while the device is not held; the end of
step k is recorded in BOOT_T_k. The fuses' repair record is applied; the reset test decides which units await ONLINE; the first anchor copy that verifies is
booted, or the device is held until a doorbell gives one; the booted image's sections are streamed, and a Sluice that does not match its section is programmed. -/
def Obligations.BootStepsRunInOrder : Prop :=
  ∀ (s : State), s.up →
    let ready := fun (k : Nat) => s.service.bootPhase.toNat = k ∧ s.assay.held = false
    let ends := fun (c : Instr) (k : Fin 11) (w : State) => exec c s = .next (onService w fun x =>
      { x with bootT := vmod x.bootT k fun _ => BitVec.ofNat 32 (((now w).toNat - x.bootFrom.toNat) / 1000)
               bootPhase := if k = 10 then 0xF else BitVec.ofNat 4 (k.val + 1) })
    let f := s.assay.fuses
    let fits := fun (bs : List Byte) => s.assay.lcState ≠ 0 ∧ s.assay.lcState ≠ 5 ∧ (imageSlot f bs).isSome = true
    let boots := fun (bs : List Byte) =>
      onAssay (onService s fun x => { x with firmware := bs, firmwareOk := true }) fun a => { a with held := false, bootFail := false }
    let standby := if s.service.millerB then 34 else 35
    (∀ (k : Nat) (c : Instr) (o : ResetTest) (g : NandGeom) (r : Vector Bool 16),
      (k, c) ∈ [(1, .fuseLoad), (2, .resetTest o), (3, .granaryBootClear), (4, .bootRomNandInit g), (5, .firmwareVerify r), (6, .firmwareInit), (7, .vaultMount),
        (8, .gristSelect), (9, .sluiceCheck), (10, Instr.bootStream)] → ¬ ready k → exec c s = .next s) ∧
    -- 1: fuse load
    (ready 1 → ∃ t, ends .fuseLoad 1 t ∧
      t = { s with mills := t.mills, assay := { s.assay with lcState := f.state, fuseBad := BitVec.ofNat 32 f.bad }, granary := { s.granary with spares := t.granary.spares } } ∧
      (∀ m : MillId, t.mills[m.val] = { s.mills[m.val] with regs := { (s.mills[m.val]).regs with qmap := f.qmap m } }) ∧
      (∀ q : QuadId, (f.spare q = none → t.granary.spares[q.val] = s.granary.spares[q.val]) ∧
        (∀ l, f.spare q = some l → t.granary.spares[q.val] = { s.granary.spares[q.val] with used := true, lbank := l, progress := 6144 }))) ∧
    -- 2: the reset test
    (∀ o : ResetTest, ready 2 → o.querns = [] → o.banks = [] →
      let out := fun (u : Nat) => (∃ x ∈ o.unitsOff ++ f.held, x.val = u) ∨ (u = 34 ∧ o.millerA = true) ∨ (u = 35 ∧ o.millerB = true)
      let stays := (o.millerA = true ∧ o.millerB = true) ∨ o.critical = true
      ∃ t, t = { s with service := { s.service with units := t.service.units }, assay := { s.assay with bootResult := t.assay.bootResult, bootTestUs := o.us, repairsSoft := bump s.assay.repairsSoft o.repairs, held := t.assay.held } } ∧
        (∀ u, u < 43 → (out u → unitState t u = .offline) ∧ (¬ out u → unitState t u = .standby)) ∧
        (stays → t.assay.held = true ∧ exec (.resetTest o) s = .next t) ∧ (¬ stays → t.assay.held = false ∧ ends (.resetTest o) 2 t)) ∧
    (∀ b : BankId, let q := quadOf b
      ((s.granary.spares[q.val]).used = true → bankDead s b = onGran s fun g => { g with quadDead := vmod g.quadDead q fun _ => true }) ∧
      ((s.granary.spares[q.val]).used = false → bankDead s b = onGran s fun g =>
        { g with spares := vmod g.spares q fun x => { x with used := true, lbank := inQuad b, progress := 6144 } })) ∧
    -- 3 and 4: the Granary is cleared, the parameter pages are read
    (ready 3 → ∃ t, ends .granaryBootClear 3 t ∧ t = { s with mem := t.mem, granary := { s.granary with poison := t.granary.poison } } ∧
      (∀ a, readByte t.mem a = if a < granTop then 0 else readByte s.mem a) ∧ (∀ r ∈ t.granary.poison, r ∈ s.granary.poison ∧ granTop / 512 ≤ r)) ∧
    (∀ g, ready 4 → ends (.bootRomNandInit g) 4 (onVault s fun v => { v with nand := g })) ∧
    -- 5: the firmware image
    (∀ r : Vector Bool 16, ready 5 →
      let image := fun (i : Fin 16) => let a := s.vault.anchors[i.val]; readBytes a 0 (0x1000 + min 2048 (readLe a 8 4) * 4096)
      let good := fun (i : Fin 16) => r[i.val] = true ∧ fits (image i)
      (∀ i, good i → (∀ k, k < i → ¬ good k) → ends (.firmwareVerify r) 5 (boots (image i))) ∧
      ((∀ i, ¬ good i) → exec (.firmwareVerify r) s = .next (onAssay s fun a => { a with held := true, bootFail := true }))) ∧
    (∀ v : Word, s.granary.errPend = false →
      let waits := bitOf v 0 = true ∧ s.assay.bootFail = true ∧ s.service.bootPhase = 5
      let n := 0x1000 + min 2048 (readLe s.mem 8 4) * 4096
      (¬ waits → exec (.bootDoorbell v) s = .next s) ∧
      (waits → rowsOk s none 0 n → fits (readBytes s.mem 0 n) → ends (.bootDoorbell v) 5 (boots (readBytes s.mem 0 n))) ∧
      (waits → rowsOk s none 0 n → ¬ fits (readBytes s.mem 0 n) → exec (.bootDoorbell v) s = .next s)) ∧
    -- 6: units that passed serve
    (ready 6 → ∃ t w, ends .firmwareInit 6 ((List.range 43).foldl forceView t) ∧
      t = { s with service := { s.service with units := t.service.units, millerB := w, booting := t.service.booting }, assay := { s.assay with fuses := t.assay.fuses }, free := t.free } ∧
      (w = true ↔ unitState s 34 ≠ .standby) ∧ (t.service.booting = true ↔ unitState s (if w then 34 else 35) = .standby) ∧
      (∀ u, u < 43 → (u = (if w then 34 else 35) ∨ unitState s u ≠ .standby → unitState t u = unitState s u) ∧
        (u ≠ (if w then 34 else 35) → unitState s u = .standby →
          let hurt := ∃ q : QuadId, u = 16 + q.val ∧ s.granary.quadDead[q.val] = true
          (hurt → unitState t u = .degraded) ∧ (¬ hurt → unitState t u = .online))) ∧
      (imageSlot f s.service.firmware = none → t.assay.fuses = f) ∧ (∀ i, imageSlot f s.service.firmware = some i → t.assay.fuses = f.burnSvn i s.service.firmware)) ∧
    -- 7 to 9: mount, header, Sluice check
    (ready 7 → ends .vaultMount 7 (onVault s fun v => { v with en := true }.mount)) ∧
    (ready 8 →
      (s.vault.mounted = false ∨ gristChoice s.vault f = none → ends .gristSelect 8 (onVault s fun v => { v with booted := false, noImage := true, sections := [] })) ∧
      (∀ b gen secs, s.vault.mounted = true → gristChoice s.vault f = some (b, gen, secs) →
        ends .gristSelect 8 (onVault s fun v => { v with booted := true, bootedB := b, noImage := false, generation := gen, sections := secs }))) ∧
    (ready 9 → ∃ needs : BitVec 16, ends .sluiceCheck 9 (onService s fun x => { x with sluNeeds := needs }) ∧
      (∀ m : MillId, needs.getLsbD m.val = true ↔ s.vault.booted = true ∧ ∃ x, s.vault.sections.find? (fun x => x.type = 2 && x.mills.getLsbD m.val) = some x ∧
        let r := s.vault.sluRecords[m.val]
        ((s.mills[m.val]).sluice.usable = false ∨ ¬ (r.present = true ∧ r.generation = s.vault.generation ∧ r.digests = digestList s.vault x)))) ∧
    -- 10: streaming
    (ready 10 →
      let list := streamList s.vault.sections s.service.sluNeeds
      let u := onVault s fun v => { v with streams := list, streamFrom := now s }
      (s.vault.streams ≠ [] → exec .bootStream s = .next s) ∧
      (s.vault.streams = [] → list ≠ [] → exec .bootStream s = .next u) ∧
      (s.vault.streams = [] → list = [] → ends .bootStream 10 (onVault u fun v => { v with fillTime := 0 }))) ∧
    -- Sluice dockets of firmware
    (s.granary.errPend = false → s.vault.sluReady = [] →
      let ended := fun (m : MillId) (st : Byte) => ∃ i, s.service.sluBoot[m.val] = some { id := i, refresh := false, result := some st }
      ((∀ (m : MillId) (x : FwSluice), s.service.sluBoot[m.val] = some x → x.result = none) → exec .bootSluiceProgram s = .next s) ∧
      (∀ (m : MillId) (st : Byte), ended m st → (∀ (n : MillId) (x : FwSluice), n ≠ m → s.service.sluBoot[n.val] = some x → x.result = none) →
        let u := onService s fun x => { x with sluBoot := vmod x.sluBoot m fun _ => none, sluNeeds := x.sluNeeds &&& ~~~(BitVec.twoPow 16 m.val) }
        let well := okStatus st = true ∧ ∀ f : Fin 128, ((s.mills[m.val]).sluice.fields[f.val]).state = .valid
        (¬ well → exec .bootSluiceProgram s = .next (settleErr (raiseBell (forceView (onUnit u m.val fun r => { r with state := .standby, cause := 0x01 }) m.val) s.service.bootBell))) ∧
        (∀ x, well → s.vault.sections.find? (fun x => x.type = 2 && x.mills.getLsbD m.val) = some x → exec .bootSluiceProgram s = .next (onVault u fun v =>
          { v with sluRecords := vmod v.sluRecords m fun _ => { present := true, generation := v.generation, digests := digestList v x } })))) ∧
    (∀ (i : Nat) (x : Section) (m : MillId), s.granary.errPend = false → s.vault.sluReady = [i] → s.vault.sections[i]? = some x →
      (∀ n : MillId, (x.mills.getLsbD n.val = true ∧ s.service.sluNeeds.getLsbD n.val = true) ↔ n = m) →
      (∀ (n : MillId) (x : FwSluice), s.service.sluBoot[n.val] = some x → x.result = none) →
      let k := ((maskMills x.mills).takeWhile (· ≠ m)).length
      let g := BitVec.ofNat 32 (bitsOf (readByte s.mem (x.dest + 2 * m.val)) 2 0 + bitsOf (readByte s.mem (x.dest + 2 * m.val + 1)) 2 0 * 16)
      exec .bootSluiceProgram s = .next (issueSluice s m 0x11 g [(0, sluiceDesc (x.dest + 512 + 524288 * k))])) ∧
    (∀ (m : MillId), s.granary.errPend = false →
      (s.service.bootPhase ≠ 0xF → exec (.bootSluiceRefresh m) s = .next s) ∧
      (s.service.bootPhase = 0xF → s.service.sluBoot[m.val] = none → exec (.bootSluiceRefresh m) s = .next (issueSluice s m 0x13 0 []))) ∧
    (∀ (m : MillId) (op : Nat) (g : Word) (descs : List (Nat × Desc)),
      let y := s.mills[m.val]
      (y.running ≠ none ∨ s.service.sluBoot[m.val] ≠ none ∨ slotFor s.control m 0 = none → issueSluice s m op g descs = s) ∧
      (∀ slot, slotFor s.control m 0 = some slot → y.running = none → y.mayIssue = true → s.service.sluBoot[m.val] = none →
        let t := issueSluice s m op g descs
        t = { s with mills := t.mills, control := { s.control with nextId := s.control.nextId + 1, credits := t.control.credits }, service := { s.service with sluBoot := t.service.sluBoot } } ∧
        t.service.sluBoot[m.val] = some { id := s.control.nextId, refresh := decide (op = 0x13), result := none } ∧
        ∃ r, (t.mills[m.val]).running = some r ∧ r.descs = descs ∧ r.slot = slot ∧ r.msg.docket = sluiceDocket op m g))

/-! ### The address map and register accesses (21) -/

/-- 21 R477 to R480, R483, 00 R9, 16 R378, R386, 05 R99, Tables 21.2 and 21.3: where the register blocks lie; an access to no block is answered ERR and counted, one to a
unit in TESTING reads 0 and writes nothing, any other acts at its register; a counter that a read clears keeps the increments of its cycle; BAR0 serves
one full DW, a held device only its few registers, the MSI-X table without the tree; BAR2 serves any length and alignment inside a memory, and
logs what it cannot. -/
def Obligations.RegistersAndBarsAnswer : Prop :=
  -- the blocks
  (∀ o : Nat, 4 ∣ o →
    (o < 0x10000 → blockOf (BitVec.ofNat 32 o) = some (.spindle, o) ∧ blockOf (BitVec.ofNat 32 (0x10000 + o)) = some (.control, o) ∧
      (∀ m : MillId, blockOf (BitVec.ofNat 32 (0x01000000 + m.val * 0x10000 + o)) = some (.mill m, o)) ∧
      (∀ p : FlumeId, blockOf (BitVec.ofNat 32 (0x02000000 + p.val * 0x10000 + o)) = some (.flume p, o)) ∧
      (∀ w : WeirId, blockOf (BitVec.ofNat 32 (0x03200000 + w.val * 0x10000 + o)) = some (.weir w, o)) ∧
      blockOf (BitVec.ofNat 32 (0x03000000 + o)) = some (.gauge, o) ∧ blockOf (BitVec.ofNat 32 (0x03100000 + o)) = some (.spigot, o) ∧
      blockOf (BitVec.ofNat 32 (0x03300000 + o)) = some (.vault, o) ∧ blockOf (BitVec.ofNat 32 (0x03400000 + o)) = some (.clapper, o) ∧
      blockOf (BitVec.ofNat 32 (0x03500000 + o)) = some (.assay, o) ∧ blockOf (BitVec.ofNat 32 (0x03600000 + o)) = some (.lifecycle, o)) ∧
    (o < 0x4000 → (∀ m : MacId, blockOf (BitVec.ofNat 32 (0x03700000 + m.val * 0x4000 + o)) = some (.mac m, o)) ∧
      (∀ n : CanId, blockOf (BitVec.ofNat 32 (0x03800000 + n.val * 0x4000 + o)) = some (.can n, o))) ∧
    (o < 0x2000 → blockOf (BitVec.ofNat 32 (0x03F00000 + o)) = some (.msix, o))) ∧
  (∀ x : Nat, x < 2 ^ 32 → ¬ (x < 0x20000 ∨ (0x01000000 ≤ x ∧ x < 0x01100000) ∨ (0x02000000 ≤ x ∧ x < 0x02060000) ∨ (0x03000000 ≤ x ∧ x < 0x03010000) ∨
    (0x03100000 ≤ x ∧ x < 0x03110000) ∨ (0x03200000 ≤ x ∧ x < 0x03220000) ∨ (0x03300000 ≤ x ∧ x < 0x03310000) ∨ (0x03400000 ≤ x ∧ x < 0x03410000) ∨
    (0x03500000 ≤ x ∧ x < 0x03510000) ∨ (0x03600000 ≤ x ∧ x < 0x03610000) ∨ (0x03700000 ≤ x ∧ x < 0x03708000) ∨ (0x03800000 ≤ x ∧ x < 0x03808000) ∨
    (0x03F00000 ≤ x ∧ x < 0x03F02000)) →
    blockOf (BitVec.ofNat 32 x) = none) ∧
  ∀ (s : State), s.up → s.granary.errPend = false →
    let none_ := onNet s fun n => { n with barRead := none }
    let aer := fun (w : State) => onNet w fun n => { n with aer := n.aer + 1 }
    -- accesses of the masters
    (∀ (master : TreeMaster) (addr v : Word) (incs : Nat),
      let answers := fun (err : Bool) (data : Word) (w : State) => onNet w fun n => { n with answers := vmod n.answers (masterNo master) fun _ => { err := err, data := data } }
      let counted := onNet s fun n => { n with treeDecodeErr := bump n.treeDecodeErr }
      (blockOf addr = none → exec (.csrWrite master addr v) s = .next counted ∧ exec (.rcRead master addr incs) s = .next (answers true 0xFFFFFFFF counted)) ∧
      (∀ b off, blockOf addr = some (b, off) →
        let tested := ∃ u, b.unit = some u ∧ unitState s u = .testing
        (tested → exec (.csrWrite master addr v) s = .next s ∧ exec (.rcRead master addr incs) s = .next (answers false 0 s)) ∧
        (¬ tested → exec (.csrWrite master addr v) s = .next (settleErr (blockWrite s master b off v)) ∧
          exec (.rcRead master addr incs) s = .next (settleErr (answers false (blockRead s b off incs).1 (blockRead s b off incs).2)))) ∧
      exec (.rcRead master 0x6108 incs) s = .next (answers false s.net.treeTimeouts (onNet s fun n => { n with treeTimeouts := BitVec.ofNat 32 (min 0xFFFFFFFF incs) })) ∧
      exec (.rcRead master 0 incs) s = .next (answers false 0x4D481640 s) ∧ exec (.rcRead master 0x7FFC incs) s = .next (answers false 0 s) ∧
      exec (.csrWrite master 0x6100 v) s = .next (onNet s fun n => { n with treeLog := n.treeLog && !bitOf v 31, treeTimeoutUs := BitVec.ofNat 24 v.toNat }) ∧
      exec (.csrWrite master 0 v) s = .next s) ∧
    -- BAR0
    (∀ (off v : Word) (dws : Nat) (be : BitVec 4) (prompt : Bool),
      let read := exec (.bar0Read off dws be prompt) s
      let write := exec (.bar0Write off dws be v prompt) s
      let full := dws = 1 ∧ be = 0xF ∧ off.toNat < 0x04000000
      let answered := ∃ b o, blockOf off = some (b, o) ∧ (b = .assay ∨ b = .lifecycle ∨ (b = .spindle ∧ (o = 0 ∨ o = 4)))
      let serves := fun (r : BarReq) => settleErr (serveAll (onNet s fun n => { n with posted := n.posted ++ [r] }))
      let open_ := s.net.perst = false ∧ full ∧ (s.assay.held = true → answered)
      (s.net.perst = true → read = .next s ∧ write = .next s) ∧
      (s.net.perst = false → ¬ full → read = .next none_ ∧ write = .next (aer s)) ∧
      (s.net.perst = false → full → s.assay.held = true → ¬ answered →
        read = .next (onNet s fun n => { n with barRead := some [0xFF, 0xFF, 0xFF, 0xFF] }) ∧ write = .next s) ∧
      (∀ o, open_ → blockOf off = some (.msix, o) → o < 0x1000 →
        read = .next (onNet s fun n => { n with barRead := some (readBytes n.msixTable (o / 4 * 4) 4) }) ∧
        write = .next (onNet s fun n => { n with msixTable := writeBytes n.msixTable (o / 4 * 4) (leBytes 4 v.toNat) })) ∧
      (open_ → (∀ o, blockOf off ≠ some (.msix, o)) →
        read = .next (serves { write := false, addr := off, data := 0, prompt := prompt }) ∧
        (16 ≤ (s.net.posted.filter (·.write)).length → write = .next s) ∧
        ((s.net.posted.filter (·.write)).length < 16 → write = .next (serves { write := true, addr := off, data := v, prompt := prompt })))) ∧
    -- BAR2
    (∀ (off : Word) (len : Nat) (data : List Byte), data.length = len →
      let o := off.toNat
      let read := exec (.bar2Read off len) s
      let write := exec (.bar2Write off data) s
      let hopper := (o - 0x18000000) / 0x800000
      let place := if o < 0x18000000 then o else 0x1000000000 + hopper * 0x01000000 + (o - 0x18000000) % 0x800000
      let fits := o + len ≤ 0x18000000 ∨ (0x18000000 ≤ o ∧ o + len ≤ 0x18000000 + (hopper + 1) * 0x800000 ∧ o + len ≤ 0x20000000)
      (s.net.perst = true → read = .next s ∧ write = .next s) ∧
      (s.net.perst = false → ¬ fits → read = .next (aer none_) ∧ write = .next (aer s)) ∧
      (s.net.perst = false → fits → rowsOk s none place len →
        read = .next (onNet s fun n => { n with barRead := some (readBytes s.mem place len) }) ∧
        ∃ g : Granary, g = { s.granary with poison := g.poison, banks := g.banks } ∧ write = .next { s with mem := writeBytes s.mem place data, granary := g }))

/-! ### The whole block -/

/-- Reset (00 R4, 18 R426 and the register tables): no command waits, every store is in canonical form, and the registers named here read the reset values
that their tables state. -/
def Obligations.ResetLeavesTheStatedValues : Prop :=
  State.reset.pending = [] ∧ storesOk State.reset = true ∧ State.reset.up ∧
  (∀ (b : Block) (off : Nat) (v : Word), (b, off, v) ∈
    [(Block.spindle, 0x0, (0x4D481640 : Word)), (.spindle, 0x4, 0x4101), (.spindle, 0x1008, 0x1), (.spindle, 0x1010, 0x8273), (.spindle, 0x4004, 0x800003E8),
     (.spindle, 0x5000, 0x80000000), (.spindle, 0x5004, 0x7D0), (.spindle, 0x6100, 0x3E8), (.spindle, 0x8004, 0x14),
     (.control, 0x0, 0x04300000), (.control, 0x2C, 0x10), (.control, 0xA000, 0x64), (.gauge, 0x1C, 0x000A0A02),
     (.spigot, 0x0, 0x00320007), (.spigot, 0x10, 0x00640000), (.spigot, 0x14, 0x88B5), (.mac 0, 0x10, 0xFAC688),
     (.vault, 0x8, 0x4B0), (.vault, 0xC, 0x1F4), (.vault, 0x10, 0x002800C8), (.vault, 0x14, 0x001E6010),
     (.clapper, 0x8, 0x01800200), (.clapper, 0xC, 0x7800000C), (.clapper, 0x14, 0x02000008),
     (.assay, 0xC, 0x4), (.assay, 0x10, 0x3C), (.assay, 0x14, 0xFFFF), (.assay, 0x18, 0x1FFF)] →
    (blockRead State.reset b off 0).1 = v) ∧
  (∀ (m : MillId) (off : Nat) (v : Word), (off, v) ∈
    [(0x600, (0x2C688 : Word)), (0x604, 0x401001), (0x808, 0x3E840), (0xA00, 0x1), (0xC00, 0xFA0), (0x2000, 0x4D424101), (0x2004, 0x33)] →
    (blockRead State.reset (.mill m) off 0).1 = v) ∧
  (∀ (w : WeirId), (blockRead State.reset (.weir w) 0 0).1 = 0x40000000 ∧ (blockRead State.reset (.weir w) 4 0).1 = 0x7F800000) ∧
  (∀ (p : FlumeId), (blockRead State.reset (.flume p) 0 0).1 = 0x170003E8)

/-- An invariant of the model's own form of storage: whatever command a step runs, every addressed store stays in canonical form (addresses rising, no entry
equal to what an unlisted address reads as), so that equal contents are equal data. -/
def Obligations.StorageStaysCanonical : Prop :=
  ∀ s t : State, storesOk s = true → step s = .next t → storesOk t = true

/-- Every command within the ratings goes on to a next state and leaves the waiting commands alone, so a queue of such commands runs to its end; a VPP_SLU level beyond
3,800 mV stops the run (20 R461). -/
def Obligations.RatedCommandsRunTheQueueToItsEnd : Prop :=
  (∀ (c : Instr) (s : State), withinRating c = true → ∃ t, exec c s = .next t ∧ t.pending = s.pending) ∧
  (∀ (mv : Nat) (s : State), 3800 < mv → exec (.vppSluRise mv) s = .fault .ratingExceeded ∧ exec (.vppSluFall mv) s = .fault .ratingExceeded) ∧
  (∀ s : State, ratingsHold s = true → ∃ t, runSteps s.pending.length s = .next t ∧ t.pending = [])
end

