-- ==== Sys2Proof/Laws/State.lean ====
section
/-! SUPPORT. What each update of a part of the state does to each field: one lemma per update and field, true by unfolding the
update, so that no later proof unfolds a record update. -/

namespace Sys2Proof.Laws
open Sys2Proof Sys2Proof.Machine

@[simp] theorem onControl_pending (s : State) (f : Control → Control) : (onControl s f).pending = s.pending := rfl
@[simp] theorem onControl_mem (s : State) (f : Control → Control) : (onControl s f).mem = s.mem := rfl
@[simp] theorem onControl_mills (s : State) (f : Control → Control) : (onControl s f).mills = s.mills := rfl
@[simp] theorem onControl_control (s : State) (f : Control → Control) : (onControl s f).control = f s.control := rfl
@[simp] theorem onControl_granary (s : State) (f : Control → Control) : (onControl s f).granary = s.granary := rfl
@[simp] theorem onControl_weirs (s : State) (f : Control → Control) : (onControl s f).weirs = s.weirs := rfl
@[simp] theorem onControl_gauge (s : State) (f : Control → Control) : (onControl s f).gauge = s.gauge := rfl
@[simp] theorem onControl_spigot (s : State) (f : Control → Control) : (onControl s f).spigot = s.spigot := rfl
@[simp] theorem onControl_net (s : State) (f : Control → Control) : (onControl s f).net = s.net := rfl
@[simp] theorem onControl_flume (s : State) (f : Control → Control) : (onControl s f).flume = s.flume := rfl
@[simp] theorem onControl_ledger (s : State) (f : Control → Control) : (onControl s f).ledger = s.ledger := rfl
@[simp] theorem onControl_vault (s : State) (f : Control → Control) : (onControl s f).vault = s.vault := rfl
@[simp] theorem onControl_clapper (s : State) (f : Control → Control) : (onControl s f).clapper = s.clapper := rfl
@[simp] theorem onControl_assay (s : State) (f : Control → Control) : (onControl s f).assay = s.assay := rfl
@[simp] theorem onControl_service (s : State) (f : Control → Control) : (onControl s f).service = s.service := rfl
@[simp] theorem onControl_free (s : State) (f : Control → Control) : (onControl s f).free = s.free := rfl

@[simp] theorem onGran_pending (s : State) (f : Granary → Granary) : (onGran s f).pending = s.pending := rfl
@[simp] theorem onGran_mem (s : State) (f : Granary → Granary) : (onGran s f).mem = s.mem := rfl
@[simp] theorem onGran_mills (s : State) (f : Granary → Granary) : (onGran s f).mills = s.mills := rfl
@[simp] theorem onGran_control (s : State) (f : Granary → Granary) : (onGran s f).control = s.control := rfl
@[simp] theorem onGran_granary (s : State) (f : Granary → Granary) : (onGran s f).granary = f s.granary := rfl
@[simp] theorem onGran_weirs (s : State) (f : Granary → Granary) : (onGran s f).weirs = s.weirs := rfl
@[simp] theorem onGran_gauge (s : State) (f : Granary → Granary) : (onGran s f).gauge = s.gauge := rfl
@[simp] theorem onGran_spigot (s : State) (f : Granary → Granary) : (onGran s f).spigot = s.spigot := rfl
@[simp] theorem onGran_net (s : State) (f : Granary → Granary) : (onGran s f).net = s.net := rfl
@[simp] theorem onGran_flume (s : State) (f : Granary → Granary) : (onGran s f).flume = s.flume := rfl
@[simp] theorem onGran_ledger (s : State) (f : Granary → Granary) : (onGran s f).ledger = s.ledger := rfl
@[simp] theorem onGran_vault (s : State) (f : Granary → Granary) : (onGran s f).vault = s.vault := rfl
@[simp] theorem onGran_clapper (s : State) (f : Granary → Granary) : (onGran s f).clapper = s.clapper := rfl
@[simp] theorem onGran_assay (s : State) (f : Granary → Granary) : (onGran s f).assay = s.assay := rfl
@[simp] theorem onGran_service (s : State) (f : Granary → Granary) : (onGran s f).service = s.service := rfl
@[simp] theorem onGran_free (s : State) (f : Granary → Granary) : (onGran s f).free = s.free := rfl

@[simp] theorem onNet_pending (s : State) (f : Net → Net) : (onNet s f).pending = s.pending := rfl
@[simp] theorem onNet_mem (s : State) (f : Net → Net) : (onNet s f).mem = s.mem := rfl
@[simp] theorem onNet_mills (s : State) (f : Net → Net) : (onNet s f).mills = s.mills := rfl
@[simp] theorem onNet_control (s : State) (f : Net → Net) : (onNet s f).control = s.control := rfl
@[simp] theorem onNet_granary (s : State) (f : Net → Net) : (onNet s f).granary = s.granary := rfl
@[simp] theorem onNet_weirs (s : State) (f : Net → Net) : (onNet s f).weirs = s.weirs := rfl
@[simp] theorem onNet_gauge (s : State) (f : Net → Net) : (onNet s f).gauge = s.gauge := rfl
@[simp] theorem onNet_spigot (s : State) (f : Net → Net) : (onNet s f).spigot = s.spigot := rfl
@[simp] theorem onNet_net (s : State) (f : Net → Net) : (onNet s f).net = f s.net := rfl
@[simp] theorem onNet_flume (s : State) (f : Net → Net) : (onNet s f).flume = s.flume := rfl
@[simp] theorem onNet_ledger (s : State) (f : Net → Net) : (onNet s f).ledger = s.ledger := rfl
@[simp] theorem onNet_vault (s : State) (f : Net → Net) : (onNet s f).vault = s.vault := rfl
@[simp] theorem onNet_clapper (s : State) (f : Net → Net) : (onNet s f).clapper = s.clapper := rfl
@[simp] theorem onNet_assay (s : State) (f : Net → Net) : (onNet s f).assay = s.assay := rfl
@[simp] theorem onNet_service (s : State) (f : Net → Net) : (onNet s f).service = s.service := rfl
@[simp] theorem onNet_free (s : State) (f : Net → Net) : (onNet s f).free = s.free := rfl

@[simp] theorem onSpigot_pending (s : State) (f : Spigot → Spigot) : (onSpigot s f).pending = s.pending := rfl
@[simp] theorem onSpigot_mem (s : State) (f : Spigot → Spigot) : (onSpigot s f).mem = s.mem := rfl
@[simp] theorem onSpigot_mills (s : State) (f : Spigot → Spigot) : (onSpigot s f).mills = s.mills := rfl
@[simp] theorem onSpigot_control (s : State) (f : Spigot → Spigot) : (onSpigot s f).control = s.control := rfl
@[simp] theorem onSpigot_granary (s : State) (f : Spigot → Spigot) : (onSpigot s f).granary = s.granary := rfl
@[simp] theorem onSpigot_weirs (s : State) (f : Spigot → Spigot) : (onSpigot s f).weirs = s.weirs := rfl
@[simp] theorem onSpigot_gauge (s : State) (f : Spigot → Spigot) : (onSpigot s f).gauge = s.gauge := rfl
@[simp] theorem onSpigot_spigot (s : State) (f : Spigot → Spigot) : (onSpigot s f).spigot = f s.spigot := rfl
@[simp] theorem onSpigot_net (s : State) (f : Spigot → Spigot) : (onSpigot s f).net = s.net := rfl
@[simp] theorem onSpigot_flume (s : State) (f : Spigot → Spigot) : (onSpigot s f).flume = s.flume := rfl
@[simp] theorem onSpigot_ledger (s : State) (f : Spigot → Spigot) : (onSpigot s f).ledger = s.ledger := rfl
@[simp] theorem onSpigot_vault (s : State) (f : Spigot → Spigot) : (onSpigot s f).vault = s.vault := rfl
@[simp] theorem onSpigot_clapper (s : State) (f : Spigot → Spigot) : (onSpigot s f).clapper = s.clapper := rfl
@[simp] theorem onSpigot_assay (s : State) (f : Spigot → Spigot) : (onSpigot s f).assay = s.assay := rfl
@[simp] theorem onSpigot_service (s : State) (f : Spigot → Spigot) : (onSpigot s f).service = s.service := rfl
@[simp] theorem onSpigot_free (s : State) (f : Spigot → Spigot) : (onSpigot s f).free = s.free := rfl

@[simp] theorem onGauge_pending (s : State) (f : Gauge → Gauge) : (onGauge s f).pending = s.pending := rfl
@[simp] theorem onGauge_mem (s : State) (f : Gauge → Gauge) : (onGauge s f).mem = s.mem := rfl
@[simp] theorem onGauge_mills (s : State) (f : Gauge → Gauge) : (onGauge s f).mills = s.mills := rfl
@[simp] theorem onGauge_control (s : State) (f : Gauge → Gauge) : (onGauge s f).control = s.control := rfl
@[simp] theorem onGauge_granary (s : State) (f : Gauge → Gauge) : (onGauge s f).granary = s.granary := rfl
@[simp] theorem onGauge_weirs (s : State) (f : Gauge → Gauge) : (onGauge s f).weirs = s.weirs := rfl
@[simp] theorem onGauge_gauge (s : State) (f : Gauge → Gauge) : (onGauge s f).gauge = f s.gauge := rfl
@[simp] theorem onGauge_spigot (s : State) (f : Gauge → Gauge) : (onGauge s f).spigot = s.spigot := rfl
@[simp] theorem onGauge_net (s : State) (f : Gauge → Gauge) : (onGauge s f).net = s.net := rfl
@[simp] theorem onGauge_flume (s : State) (f : Gauge → Gauge) : (onGauge s f).flume = s.flume := rfl
@[simp] theorem onGauge_ledger (s : State) (f : Gauge → Gauge) : (onGauge s f).ledger = s.ledger := rfl
@[simp] theorem onGauge_vault (s : State) (f : Gauge → Gauge) : (onGauge s f).vault = s.vault := rfl
@[simp] theorem onGauge_clapper (s : State) (f : Gauge → Gauge) : (onGauge s f).clapper = s.clapper := rfl
@[simp] theorem onGauge_assay (s : State) (f : Gauge → Gauge) : (onGauge s f).assay = s.assay := rfl
@[simp] theorem onGauge_service (s : State) (f : Gauge → Gauge) : (onGauge s f).service = s.service := rfl
@[simp] theorem onGauge_free (s : State) (f : Gauge → Gauge) : (onGauge s f).free = s.free := rfl

@[simp] theorem onService_pending (s : State) (f : Service → Service) : (onService s f).pending = s.pending := rfl
@[simp] theorem onService_mem (s : State) (f : Service → Service) : (onService s f).mem = s.mem := rfl
@[simp] theorem onService_mills (s : State) (f : Service → Service) : (onService s f).mills = s.mills := rfl
@[simp] theorem onService_control (s : State) (f : Service → Service) : (onService s f).control = s.control := rfl
@[simp] theorem onService_granary (s : State) (f : Service → Service) : (onService s f).granary = s.granary := rfl
@[simp] theorem onService_weirs (s : State) (f : Service → Service) : (onService s f).weirs = s.weirs := rfl
@[simp] theorem onService_gauge (s : State) (f : Service → Service) : (onService s f).gauge = s.gauge := rfl
@[simp] theorem onService_spigot (s : State) (f : Service → Service) : (onService s f).spigot = s.spigot := rfl
@[simp] theorem onService_net (s : State) (f : Service → Service) : (onService s f).net = s.net := rfl
@[simp] theorem onService_flume (s : State) (f : Service → Service) : (onService s f).flume = s.flume := rfl
@[simp] theorem onService_ledger (s : State) (f : Service → Service) : (onService s f).ledger = s.ledger := rfl
@[simp] theorem onService_vault (s : State) (f : Service → Service) : (onService s f).vault = s.vault := rfl
@[simp] theorem onService_clapper (s : State) (f : Service → Service) : (onService s f).clapper = s.clapper := rfl
@[simp] theorem onService_assay (s : State) (f : Service → Service) : (onService s f).assay = s.assay := rfl
@[simp] theorem onService_service (s : State) (f : Service → Service) : (onService s f).service = f s.service := rfl
@[simp] theorem onService_free (s : State) (f : Service → Service) : (onService s f).free = s.free := rfl

@[simp] theorem onAssay_pending (s : State) (f : Assay → Assay) : (onAssay s f).pending = s.pending := rfl
@[simp] theorem onAssay_mem (s : State) (f : Assay → Assay) : (onAssay s f).mem = s.mem := rfl
@[simp] theorem onAssay_mills (s : State) (f : Assay → Assay) : (onAssay s f).mills = s.mills := rfl
@[simp] theorem onAssay_control (s : State) (f : Assay → Assay) : (onAssay s f).control = s.control := rfl
@[simp] theorem onAssay_granary (s : State) (f : Assay → Assay) : (onAssay s f).granary = s.granary := rfl
@[simp] theorem onAssay_weirs (s : State) (f : Assay → Assay) : (onAssay s f).weirs = s.weirs := rfl
@[simp] theorem onAssay_gauge (s : State) (f : Assay → Assay) : (onAssay s f).gauge = s.gauge := rfl
@[simp] theorem onAssay_spigot (s : State) (f : Assay → Assay) : (onAssay s f).spigot = s.spigot := rfl
@[simp] theorem onAssay_net (s : State) (f : Assay → Assay) : (onAssay s f).net = s.net := rfl
@[simp] theorem onAssay_flume (s : State) (f : Assay → Assay) : (onAssay s f).flume = s.flume := rfl
@[simp] theorem onAssay_ledger (s : State) (f : Assay → Assay) : (onAssay s f).ledger = s.ledger := rfl
@[simp] theorem onAssay_vault (s : State) (f : Assay → Assay) : (onAssay s f).vault = s.vault := rfl
@[simp] theorem onAssay_clapper (s : State) (f : Assay → Assay) : (onAssay s f).clapper = s.clapper := rfl
@[simp] theorem onAssay_assay (s : State) (f : Assay → Assay) : (onAssay s f).assay = f s.assay := rfl
@[simp] theorem onAssay_service (s : State) (f : Assay → Assay) : (onAssay s f).service = s.service := rfl
@[simp] theorem onAssay_free (s : State) (f : Assay → Assay) : (onAssay s f).free = s.free := rfl

@[simp] theorem onVault_pending (s : State) (f : Vault → Vault) : (onVault s f).pending = s.pending := rfl
@[simp] theorem onVault_mem (s : State) (f : Vault → Vault) : (onVault s f).mem = s.mem := rfl
@[simp] theorem onVault_mills (s : State) (f : Vault → Vault) : (onVault s f).mills = s.mills := rfl
@[simp] theorem onVault_control (s : State) (f : Vault → Vault) : (onVault s f).control = s.control := rfl
@[simp] theorem onVault_granary (s : State) (f : Vault → Vault) : (onVault s f).granary = s.granary := rfl
@[simp] theorem onVault_weirs (s : State) (f : Vault → Vault) : (onVault s f).weirs = s.weirs := rfl
@[simp] theorem onVault_gauge (s : State) (f : Vault → Vault) : (onVault s f).gauge = s.gauge := rfl
@[simp] theorem onVault_spigot (s : State) (f : Vault → Vault) : (onVault s f).spigot = s.spigot := rfl
@[simp] theorem onVault_net (s : State) (f : Vault → Vault) : (onVault s f).net = s.net := rfl
@[simp] theorem onVault_flume (s : State) (f : Vault → Vault) : (onVault s f).flume = s.flume := rfl
@[simp] theorem onVault_ledger (s : State) (f : Vault → Vault) : (onVault s f).ledger = s.ledger := rfl
@[simp] theorem onVault_vault (s : State) (f : Vault → Vault) : (onVault s f).vault = f s.vault := rfl
@[simp] theorem onVault_clapper (s : State) (f : Vault → Vault) : (onVault s f).clapper = s.clapper := rfl
@[simp] theorem onVault_assay (s : State) (f : Vault → Vault) : (onVault s f).assay = s.assay := rfl
@[simp] theorem onVault_service (s : State) (f : Vault → Vault) : (onVault s f).service = s.service := rfl
@[simp] theorem onVault_free (s : State) (f : Vault → Vault) : (onVault s f).free = s.free := rfl

@[simp] theorem onFlume_pending (s : State) (f : Flume → Flume) : (onFlume s f).pending = s.pending := rfl
@[simp] theorem onFlume_mem (s : State) (f : Flume → Flume) : (onFlume s f).mem = s.mem := rfl
@[simp] theorem onFlume_mills (s : State) (f : Flume → Flume) : (onFlume s f).mills = s.mills := rfl
@[simp] theorem onFlume_control (s : State) (f : Flume → Flume) : (onFlume s f).control = s.control := rfl
@[simp] theorem onFlume_granary (s : State) (f : Flume → Flume) : (onFlume s f).granary = s.granary := rfl
@[simp] theorem onFlume_weirs (s : State) (f : Flume → Flume) : (onFlume s f).weirs = s.weirs := rfl
@[simp] theorem onFlume_gauge (s : State) (f : Flume → Flume) : (onFlume s f).gauge = s.gauge := rfl
@[simp] theorem onFlume_spigot (s : State) (f : Flume → Flume) : (onFlume s f).spigot = s.spigot := rfl
@[simp] theorem onFlume_net (s : State) (f : Flume → Flume) : (onFlume s f).net = s.net := rfl
@[simp] theorem onFlume_flume (s : State) (f : Flume → Flume) : (onFlume s f).flume = f s.flume := rfl
@[simp] theorem onFlume_ledger (s : State) (f : Flume → Flume) : (onFlume s f).ledger = s.ledger := rfl
@[simp] theorem onFlume_vault (s : State) (f : Flume → Flume) : (onFlume s f).vault = s.vault := rfl
@[simp] theorem onFlume_clapper (s : State) (f : Flume → Flume) : (onFlume s f).clapper = s.clapper := rfl
@[simp] theorem onFlume_assay (s : State) (f : Flume → Flume) : (onFlume s f).assay = s.assay := rfl
@[simp] theorem onFlume_service (s : State) (f : Flume → Flume) : (onFlume s f).service = s.service := rfl
@[simp] theorem onFlume_free (s : State) (f : Flume → Flume) : (onFlume s f).free = s.free := rfl

@[simp] theorem onLedger_pending (s : State) (f : Ledger → Ledger) : (onLedger s f).pending = s.pending := rfl
@[simp] theorem onLedger_mem (s : State) (f : Ledger → Ledger) : (onLedger s f).mem = s.mem := rfl
@[simp] theorem onLedger_mills (s : State) (f : Ledger → Ledger) : (onLedger s f).mills = s.mills := rfl
@[simp] theorem onLedger_control (s : State) (f : Ledger → Ledger) : (onLedger s f).control = s.control := rfl
@[simp] theorem onLedger_granary (s : State) (f : Ledger → Ledger) : (onLedger s f).granary = s.granary := rfl
@[simp] theorem onLedger_weirs (s : State) (f : Ledger → Ledger) : (onLedger s f).weirs = s.weirs := rfl
@[simp] theorem onLedger_gauge (s : State) (f : Ledger → Ledger) : (onLedger s f).gauge = s.gauge := rfl
@[simp] theorem onLedger_spigot (s : State) (f : Ledger → Ledger) : (onLedger s f).spigot = s.spigot := rfl
@[simp] theorem onLedger_net (s : State) (f : Ledger → Ledger) : (onLedger s f).net = s.net := rfl
@[simp] theorem onLedger_flume (s : State) (f : Ledger → Ledger) : (onLedger s f).flume = s.flume := rfl
@[simp] theorem onLedger_ledger (s : State) (f : Ledger → Ledger) : (onLedger s f).ledger = f s.ledger := rfl
@[simp] theorem onLedger_vault (s : State) (f : Ledger → Ledger) : (onLedger s f).vault = s.vault := rfl
@[simp] theorem onLedger_clapper (s : State) (f : Ledger → Ledger) : (onLedger s f).clapper = s.clapper := rfl
@[simp] theorem onLedger_assay (s : State) (f : Ledger → Ledger) : (onLedger s f).assay = s.assay := rfl
@[simp] theorem onLedger_service (s : State) (f : Ledger → Ledger) : (onLedger s f).service = s.service := rfl
@[simp] theorem onLedger_free (s : State) (f : Ledger → Ledger) : (onLedger s f).free = s.free := rfl

@[simp] theorem onClapper_pending (s : State) (f : Clapper → Clapper) : (onClapper s f).pending = s.pending := rfl
@[simp] theorem onClapper_mem (s : State) (f : Clapper → Clapper) : (onClapper s f).mem = s.mem := rfl
@[simp] theorem onClapper_mills (s : State) (f : Clapper → Clapper) : (onClapper s f).mills = s.mills := rfl
@[simp] theorem onClapper_control (s : State) (f : Clapper → Clapper) : (onClapper s f).control = s.control := rfl
@[simp] theorem onClapper_granary (s : State) (f : Clapper → Clapper) : (onClapper s f).granary = s.granary := rfl
@[simp] theorem onClapper_weirs (s : State) (f : Clapper → Clapper) : (onClapper s f).weirs = s.weirs := rfl
@[simp] theorem onClapper_gauge (s : State) (f : Clapper → Clapper) : (onClapper s f).gauge = s.gauge := rfl
@[simp] theorem onClapper_spigot (s : State) (f : Clapper → Clapper) : (onClapper s f).spigot = s.spigot := rfl
@[simp] theorem onClapper_net (s : State) (f : Clapper → Clapper) : (onClapper s f).net = s.net := rfl
@[simp] theorem onClapper_flume (s : State) (f : Clapper → Clapper) : (onClapper s f).flume = s.flume := rfl
@[simp] theorem onClapper_ledger (s : State) (f : Clapper → Clapper) : (onClapper s f).ledger = s.ledger := rfl
@[simp] theorem onClapper_vault (s : State) (f : Clapper → Clapper) : (onClapper s f).vault = s.vault := rfl
@[simp] theorem onClapper_clapper (s : State) (f : Clapper → Clapper) : (onClapper s f).clapper = f s.clapper := rfl
@[simp] theorem onClapper_assay (s : State) (f : Clapper → Clapper) : (onClapper s f).assay = s.assay := rfl
@[simp] theorem onClapper_service (s : State) (f : Clapper → Clapper) : (onClapper s f).service = s.service := rfl
@[simp] theorem onClapper_free (s : State) (f : Clapper → Clapper) : (onClapper s f).free = s.free := rfl

@[simp] theorem onChute_pending (s : State) (c : ChuteId) (f : Chute → Chute) : (onChute s c f).pending = s.pending := rfl
@[simp] theorem onChute_mem (s : State) (c : ChuteId) (f : Chute → Chute) : (onChute s c f).mem = s.mem := rfl
@[simp] theorem onChute_mills (s : State) (c : ChuteId) (f : Chute → Chute) : (onChute s c f).mills = s.mills := rfl
@[simp] theorem onChute_control (s : State) (c : ChuteId) (f : Chute → Chute) : (onChute s c f).control = { s.control with chutes := vmod s.control.chutes c f } := rfl
@[simp] theorem onChute_granary (s : State) (c : ChuteId) (f : Chute → Chute) : (onChute s c f).granary = s.granary := rfl
@[simp] theorem onChute_weirs (s : State) (c : ChuteId) (f : Chute → Chute) : (onChute s c f).weirs = s.weirs := rfl
@[simp] theorem onChute_gauge (s : State) (c : ChuteId) (f : Chute → Chute) : (onChute s c f).gauge = s.gauge := rfl
@[simp] theorem onChute_spigot (s : State) (c : ChuteId) (f : Chute → Chute) : (onChute s c f).spigot = s.spigot := rfl
@[simp] theorem onChute_net (s : State) (c : ChuteId) (f : Chute → Chute) : (onChute s c f).net = s.net := rfl
@[simp] theorem onChute_flume (s : State) (c : ChuteId) (f : Chute → Chute) : (onChute s c f).flume = s.flume := rfl
@[simp] theorem onChute_ledger (s : State) (c : ChuteId) (f : Chute → Chute) : (onChute s c f).ledger = s.ledger := rfl
@[simp] theorem onChute_vault (s : State) (c : ChuteId) (f : Chute → Chute) : (onChute s c f).vault = s.vault := rfl
@[simp] theorem onChute_clapper (s : State) (c : ChuteId) (f : Chute → Chute) : (onChute s c f).clapper = s.clapper := rfl
@[simp] theorem onChute_assay (s : State) (c : ChuteId) (f : Chute → Chute) : (onChute s c f).assay = s.assay := rfl
@[simp] theorem onChute_service (s : State) (c : ChuteId) (f : Chute → Chute) : (onChute s c f).service = s.service := rfl
@[simp] theorem onChute_free (s : State) (c : ChuteId) (f : Chute → Chute) : (onChute s c f).free = s.free := rfl

@[simp] theorem onMill_pending (s : State) (m : MillId) (f : Mill → Mill) : (onMill s m f).pending = s.pending := rfl
@[simp] theorem onMill_mem (s : State) (m : MillId) (f : Mill → Mill) : (onMill s m f).mem = s.mem := rfl
@[simp] theorem onMill_mills (s : State) (m : MillId) (f : Mill → Mill) : (onMill s m f).mills = vmod s.mills m f := rfl
@[simp] theorem onMill_control (s : State) (m : MillId) (f : Mill → Mill) : (onMill s m f).control = s.control := rfl
@[simp] theorem onMill_granary (s : State) (m : MillId) (f : Mill → Mill) : (onMill s m f).granary = s.granary := rfl
@[simp] theorem onMill_weirs (s : State) (m : MillId) (f : Mill → Mill) : (onMill s m f).weirs = s.weirs := rfl
@[simp] theorem onMill_gauge (s : State) (m : MillId) (f : Mill → Mill) : (onMill s m f).gauge = s.gauge := rfl
@[simp] theorem onMill_spigot (s : State) (m : MillId) (f : Mill → Mill) : (onMill s m f).spigot = s.spigot := rfl
@[simp] theorem onMill_net (s : State) (m : MillId) (f : Mill → Mill) : (onMill s m f).net = s.net := rfl
@[simp] theorem onMill_flume (s : State) (m : MillId) (f : Mill → Mill) : (onMill s m f).flume = s.flume := rfl
@[simp] theorem onMill_ledger (s : State) (m : MillId) (f : Mill → Mill) : (onMill s m f).ledger = s.ledger := rfl
@[simp] theorem onMill_vault (s : State) (m : MillId) (f : Mill → Mill) : (onMill s m f).vault = s.vault := rfl
@[simp] theorem onMill_clapper (s : State) (m : MillId) (f : Mill → Mill) : (onMill s m f).clapper = s.clapper := rfl
@[simp] theorem onMill_assay (s : State) (m : MillId) (f : Mill → Mill) : (onMill s m f).assay = s.assay := rfl
@[simp] theorem onMill_service (s : State) (m : MillId) (f : Mill → Mill) : (onMill s m f).service = s.service := rfl
@[simp] theorem onMill_free (s : State) (m : MillId) (f : Mill → Mill) : (onMill s m f).free = s.free := rfl

@[simp] theorem onRegs_pending (s : State) (m : MillId) (f : MillRegs → MillRegs) : (onRegs s m f).pending = s.pending := rfl
@[simp] theorem onRegs_mem (s : State) (m : MillId) (f : MillRegs → MillRegs) : (onRegs s m f).mem = s.mem := rfl
@[simp] theorem onRegs_mills (s : State) (m : MillId) (f : MillRegs → MillRegs) : (onRegs s m f).mills = vmod s.mills m fun x => { x with regs := f x.regs } := rfl
@[simp] theorem onRegs_control (s : State) (m : MillId) (f : MillRegs → MillRegs) : (onRegs s m f).control = s.control := rfl
@[simp] theorem onRegs_granary (s : State) (m : MillId) (f : MillRegs → MillRegs) : (onRegs s m f).granary = s.granary := rfl
@[simp] theorem onRegs_weirs (s : State) (m : MillId) (f : MillRegs → MillRegs) : (onRegs s m f).weirs = s.weirs := rfl
@[simp] theorem onRegs_gauge (s : State) (m : MillId) (f : MillRegs → MillRegs) : (onRegs s m f).gauge = s.gauge := rfl
@[simp] theorem onRegs_spigot (s : State) (m : MillId) (f : MillRegs → MillRegs) : (onRegs s m f).spigot = s.spigot := rfl
@[simp] theorem onRegs_net (s : State) (m : MillId) (f : MillRegs → MillRegs) : (onRegs s m f).net = s.net := rfl
@[simp] theorem onRegs_flume (s : State) (m : MillId) (f : MillRegs → MillRegs) : (onRegs s m f).flume = s.flume := rfl
@[simp] theorem onRegs_ledger (s : State) (m : MillId) (f : MillRegs → MillRegs) : (onRegs s m f).ledger = s.ledger := rfl
@[simp] theorem onRegs_vault (s : State) (m : MillId) (f : MillRegs → MillRegs) : (onRegs s m f).vault = s.vault := rfl
@[simp] theorem onRegs_clapper (s : State) (m : MillId) (f : MillRegs → MillRegs) : (onRegs s m f).clapper = s.clapper := rfl
@[simp] theorem onRegs_assay (s : State) (m : MillId) (f : MillRegs → MillRegs) : (onRegs s m f).assay = s.assay := rfl
@[simp] theorem onRegs_service (s : State) (m : MillId) (f : MillRegs → MillRegs) : (onRegs s m f).service = s.service := rfl
@[simp] theorem onRegs_free (s : State) (m : MillId) (f : MillRegs → MillRegs) : (onRegs s m f).free = s.free := rfl

@[simp] theorem onNi_pending (s : State) (n : NiId) (f : Ni → Ni) : (onNi s n f).pending = s.pending := rfl
@[simp] theorem onNi_mem (s : State) (n : NiId) (f : Ni → Ni) : (onNi s n f).mem = s.mem := rfl
@[simp] theorem onNi_mills (s : State) (n : NiId) (f : Ni → Ni) : (onNi s n f).mills = s.mills := rfl
@[simp] theorem onNi_control (s : State) (n : NiId) (f : Ni → Ni) : (onNi s n f).control = s.control := rfl
@[simp] theorem onNi_granary (s : State) (n : NiId) (f : Ni → Ni) : (onNi s n f).granary = s.granary := rfl
@[simp] theorem onNi_weirs (s : State) (n : NiId) (f : Ni → Ni) : (onNi s n f).weirs = s.weirs := rfl
@[simp] theorem onNi_gauge (s : State) (n : NiId) (f : Ni → Ni) : (onNi s n f).gauge = s.gauge := rfl
@[simp] theorem onNi_spigot (s : State) (n : NiId) (f : Ni → Ni) : (onNi s n f).spigot = s.spigot := rfl
@[simp] theorem onNi_net (s : State) (n : NiId) (f : Ni → Ni) : (onNi s n f).net = { s.net with nis := vmod s.net.nis n f } := rfl
@[simp] theorem onNi_flume (s : State) (n : NiId) (f : Ni → Ni) : (onNi s n f).flume = s.flume := rfl
@[simp] theorem onNi_ledger (s : State) (n : NiId) (f : Ni → Ni) : (onNi s n f).ledger = s.ledger := rfl
@[simp] theorem onNi_vault (s : State) (n : NiId) (f : Ni → Ni) : (onNi s n f).vault = s.vault := rfl
@[simp] theorem onNi_clapper (s : State) (n : NiId) (f : Ni → Ni) : (onNi s n f).clapper = s.clapper := rfl
@[simp] theorem onNi_assay (s : State) (n : NiId) (f : Ni → Ni) : (onNi s n f).assay = s.assay := rfl
@[simp] theorem onNi_service (s : State) (n : NiId) (f : Ni → Ni) : (onNi s n f).service = s.service := rfl
@[simp] theorem onNi_free (s : State) (n : NiId) (f : Ni → Ni) : (onNi s n f).free = s.free := rfl

@[simp] theorem onWeir_pending (s : State) (w : WeirId) (f : Weir → Weir) : (onWeir s w f).pending = s.pending := rfl
@[simp] theorem onWeir_mem (s : State) (w : WeirId) (f : Weir → Weir) : (onWeir s w f).mem = s.mem := rfl
@[simp] theorem onWeir_mills (s : State) (w : WeirId) (f : Weir → Weir) : (onWeir s w f).mills = s.mills := rfl
@[simp] theorem onWeir_control (s : State) (w : WeirId) (f : Weir → Weir) : (onWeir s w f).control = s.control := rfl
@[simp] theorem onWeir_granary (s : State) (w : WeirId) (f : Weir → Weir) : (onWeir s w f).granary = s.granary := rfl
@[simp] theorem onWeir_weirs (s : State) (w : WeirId) (f : Weir → Weir) : (onWeir s w f).weirs = vmod s.weirs w f := rfl
@[simp] theorem onWeir_gauge (s : State) (w : WeirId) (f : Weir → Weir) : (onWeir s w f).gauge = s.gauge := rfl
@[simp] theorem onWeir_spigot (s : State) (w : WeirId) (f : Weir → Weir) : (onWeir s w f).spigot = s.spigot := rfl
@[simp] theorem onWeir_net (s : State) (w : WeirId) (f : Weir → Weir) : (onWeir s w f).net = s.net := rfl
@[simp] theorem onWeir_flume (s : State) (w : WeirId) (f : Weir → Weir) : (onWeir s w f).flume = s.flume := rfl
@[simp] theorem onWeir_ledger (s : State) (w : WeirId) (f : Weir → Weir) : (onWeir s w f).ledger = s.ledger := rfl
@[simp] theorem onWeir_vault (s : State) (w : WeirId) (f : Weir → Weir) : (onWeir s w f).vault = s.vault := rfl
@[simp] theorem onWeir_clapper (s : State) (w : WeirId) (f : Weir → Weir) : (onWeir s w f).clapper = s.clapper := rfl
@[simp] theorem onWeir_assay (s : State) (w : WeirId) (f : Weir → Weir) : (onWeir s w f).assay = s.assay := rfl
@[simp] theorem onWeir_service (s : State) (w : WeirId) (f : Weir → Weir) : (onWeir s w f).service = s.service := rfl
@[simp] theorem onWeir_free (s : State) (w : WeirId) (f : Weir → Weir) : (onWeir s w f).free = s.free := rfl

@[simp] theorem onPort_pending (s : State) (p : FlumeId) (f : FlumePort → FlumePort) : (onPort s p f).pending = s.pending := rfl
@[simp] theorem onPort_mem (s : State) (p : FlumeId) (f : FlumePort → FlumePort) : (onPort s p f).mem = s.mem := rfl
@[simp] theorem onPort_mills (s : State) (p : FlumeId) (f : FlumePort → FlumePort) : (onPort s p f).mills = s.mills := rfl
@[simp] theorem onPort_control (s : State) (p : FlumeId) (f : FlumePort → FlumePort) : (onPort s p f).control = s.control := rfl
@[simp] theorem onPort_granary (s : State) (p : FlumeId) (f : FlumePort → FlumePort) : (onPort s p f).granary = s.granary := rfl
@[simp] theorem onPort_weirs (s : State) (p : FlumeId) (f : FlumePort → FlumePort) : (onPort s p f).weirs = s.weirs := rfl
@[simp] theorem onPort_gauge (s : State) (p : FlumeId) (f : FlumePort → FlumePort) : (onPort s p f).gauge = s.gauge := rfl
@[simp] theorem onPort_spigot (s : State) (p : FlumeId) (f : FlumePort → FlumePort) : (onPort s p f).spigot = s.spigot := rfl
@[simp] theorem onPort_net (s : State) (p : FlumeId) (f : FlumePort → FlumePort) : (onPort s p f).net = s.net := rfl
@[simp] theorem onPort_flume (s : State) (p : FlumeId) (f : FlumePort → FlumePort) : (onPort s p f).flume = { s.flume with ports := vmod s.flume.ports p f } := rfl
@[simp] theorem onPort_ledger (s : State) (p : FlumeId) (f : FlumePort → FlumePort) : (onPort s p f).ledger = s.ledger := rfl
@[simp] theorem onPort_vault (s : State) (p : FlumeId) (f : FlumePort → FlumePort) : (onPort s p f).vault = s.vault := rfl
@[simp] theorem onPort_clapper (s : State) (p : FlumeId) (f : FlumePort → FlumePort) : (onPort s p f).clapper = s.clapper := rfl
@[simp] theorem onPort_assay (s : State) (p : FlumeId) (f : FlumePort → FlumePort) : (onPort s p f).assay = s.assay := rfl
@[simp] theorem onPort_service (s : State) (p : FlumeId) (f : FlumePort → FlumePort) : (onPort s p f).service = s.service := rfl
@[simp] theorem onPort_free (s : State) (p : FlumeId) (f : FlumePort → FlumePort) : (onPort s p f).free = s.free := rfl

/-- The element replaced. -/
@[simp] theorem vmod_self {α : Type} {n : Nat} (v : Vector α n) (i : Fin n) (f : α → α) (h : i.val < n) :
    (vmod v i f)[i.val]'h = f v[i.val] := by simp [vmod]

/-- Any other element. -/
theorem vmod_other {α : Type} {n : Nat} (v : Vector α n) (i : Fin n) (f : α → α) (j : Nat) (hj : j < n) (h : j ≠ i.val) :
    (vmod v i f)[j]'hj = v[j] := by
  simp [vmod, Vector.getElem_set_ne, h.symm]

/-- An element after a replacement, either way. -/
theorem vmod_get {α : Type} {n : Nat} (v : Vector α n) (i : Fin n) (f : α → α) (j : Nat) (hj : j < n) :
    (vmod v i f)[j]'hj = if j = i.val then f v[j] else v[j] := by
  by_cases h : j = i.val
  · subst h; simp
  · simp [h, vmod_other v i f j hj h]

/-- An update with what it finds changes nothing. -/
@[simp] theorem vmod_id {α : Type} {n : Nat} (v : Vector α n) (i : Fin n) : (vmod v i fun x => x) = v := by
  simp [vmod]

/-- An update depends only on what it finds. -/
theorem vmod_congr {α : Type} {n : Nat} (v : Vector α n) (i : Fin n) {f g : α → α} (h : f v[i.val] = g v[i.val]) :
    vmod v i f = vmod v i g := by
  unfold vmod; rw [h]

/-- Two updates of one element. -/
theorem vmod_vmod {α : Type} {n : Nat} (v : Vector α n) (i : Fin n) (f g : α → α) :
    vmod (vmod v i f) i g = vmod v i fun x => g (f x) := by
  simp [vmod]

/-- An update with what it finds, by an equation. -/
theorem vmod_same {α : Type} {n : Nat} (v : Vector α n) (i : Fin n) {f : α → α} (h : f v[i.val] = v[i.val]) : vmod v i f = v := by
  rw [vmod_congr v i (g := fun x => x) h, vmod_id]

/-- An update of a chute depends only on what it finds. -/
theorem onChute_congr (s : State) (c : ChuteId) {f g : Chute → Chute} (h : f s.control.chutes[c.val] = g s.control.chutes[c.val]) : onChute s c f = onChute s c g := by
  unfold onChute; rw [vmod_congr s.control.chutes c h]
theorem onChute_onChute (s : State) (c : ChuteId) (f g : Chute → Chute) : onChute (onChute s c f) c g = onChute s c fun x => g (f x) := by
  unfold onChute; simp only [vmod_vmod]
theorem onChute_same (s : State) (c : ChuteId) {f : Chute → Chute} (h : f s.control.chutes[c.val] = s.control.chutes[c.val]) : onChute s c f = s := by
  rw [onChute_congr s c (g := fun x => x) h]; unfold onChute; simp only [vmod_id]

/-- An update of a Mill depends only on what it finds. -/
theorem onMill_congr (s : State) (c : MillId) {f g : Mill → Mill} (h : f s.mills[c.val] = g s.mills[c.val]) : onMill s c f = onMill s c g := by
  unfold onMill; rw [vmod_congr s.mills c h]
theorem onMill_onMill (s : State) (c : MillId) (f g : Mill → Mill) : onMill (onMill s c f) c g = onMill s c fun x => g (f x) := by
  unfold onMill; simp only [vmod_vmod]
theorem onMill_same (s : State) (c : MillId) {f : Mill → Mill} (h : f s.mills[c.val] = s.mills[c.val]) : onMill s c f = s := by
  rw [onMill_congr s c (g := fun x => x) h]; unfold onMill; simp only [vmod_id]

/-- An update of a Mill's registers depends only on what it finds. -/
theorem onRegs_congr (s : State) (c : MillId) {f g : MillRegs → MillRegs} (h : f (s.mills[c.val]).regs = g (s.mills[c.val]).regs) : onRegs s c f = onRegs s c g := by
  unfold onRegs onMill; rw [vmod_congr s.mills c (f := fun x => { x with regs := f x.regs }) (g := fun x => { x with regs := g x.regs }) (by rw [h])]
theorem onRegs_onRegs (s : State) (c : MillId) (f g : MillRegs → MillRegs) : onRegs (onRegs s c f) c g = onRegs s c fun x => g (f x) := by
  unfold onRegs onMill; simp only [vmod_vmod]
theorem onRegs_same (s : State) (c : MillId) {f : MillRegs → MillRegs} (h : f (s.mills[c.val]).regs = (s.mills[c.val]).regs) : onRegs s c f = s := by
  rw [onRegs_congr s c (g := fun x => x) h]; unfold onRegs onMill; simp only [vmod_id]

/-- An update of a network interface depends only on what it finds. -/
theorem onNi_congr (s : State) (c : NiId) {f g : Ni → Ni} (h : f s.net.nis[c.val] = g s.net.nis[c.val]) : onNi s c f = onNi s c g := by
  unfold onNi; rw [vmod_congr s.net.nis c h]
theorem onNi_onNi (s : State) (c : NiId) (f g : Ni → Ni) : onNi (onNi s c f) c g = onNi s c fun x => g (f x) := by
  unfold onNi; simp only [vmod_vmod]
theorem onNi_same (s : State) (c : NiId) {f : Ni → Ni} (h : f s.net.nis[c.val] = s.net.nis[c.val]) : onNi s c f = s := by
  rw [onNi_congr s c (g := fun x => x) h]; unfold onNi; simp only [vmod_id]

/-- An update of a Weir depends only on what it finds. -/
theorem onWeir_congr (s : State) (c : WeirId) {f g : Weir → Weir} (h : f s.weirs[c.val] = g s.weirs[c.val]) : onWeir s c f = onWeir s c g := by
  unfold onWeir; rw [vmod_congr s.weirs c h]
theorem onWeir_onWeir (s : State) (c : WeirId) (f g : Weir → Weir) : onWeir (onWeir s c f) c g = onWeir s c fun x => g (f x) := by
  unfold onWeir; simp only [vmod_vmod]
theorem onWeir_same (s : State) (c : WeirId) {f : Weir → Weir} (h : f s.weirs[c.val] = s.weirs[c.val]) : onWeir s c f = s := by
  rw [onWeir_congr s c (g := fun x => x) h]; unfold onWeir; simp only [vmod_id]

/-- An update of a Flume port depends only on what it finds. -/
theorem onPort_congr (s : State) (c : FlumeId) {f g : FlumePort → FlumePort} (h : f s.flume.ports[c.val] = g s.flume.ports[c.val]) : onPort s c f = onPort s c g := by
  unfold onPort; rw [vmod_congr s.flume.ports c h]
theorem onPort_onPort (s : State) (c : FlumeId) (f g : FlumePort → FlumePort) : onPort (onPort s c f) c g = onPort s c fun x => g (f x) := by
  unfold onPort; simp only [vmod_vmod]
theorem onPort_same (s : State) (c : FlumeId) {f : FlumePort → FlumePort} (h : f s.flume.ports[c.val] = s.flume.ports[c.val]) : onPort s c f = s := by
  rw [onPort_congr s c (g := fun x => x) h]; unfold onPort; simp only [vmod_id]

/-- A command outside reset does what its operation does. -/
theorem live_next {s : State} (h : s.service.inReset = false) (f : State → State) : live s f = .next (f s) := by
  simp [live, h]

/-- In reset a command changes nothing. -/
theorem live_reset {s : State} (h : s.service.inReset = true) (f : State → State) : live s f = .next s := by
  simp [live, h]

/-- With no error to report, settling changes nothing. -/
theorem settleErr_quiet {s : State} (h : s.granary.errPend = false) : settleErr s = s := by simp [settleErr, h]

/-- A command on rows outside reset does what its operation does, and reports the errors it has recorded. -/
theorem liveRows_next {s : State} (h : s.service.inReset = false) (f : State → State) : liveRows s f = .next (settleErr (f s)) := by
  simp [liveRows, live, h]

/-- A command on rows that records no error. -/
theorem liveRows_quiet {s : State} (h : s.service.inReset = false) (f : State → State) (q : (f s).granary.errPend = false) :
    liveRows s f = .next (f s) := by
  rw [liveRows_next h, settleErr_quiet q]

end Sys2Proof.Laws
end

