-- ==== Sys2Proof/Laws/Mills.lean ====
section
/-! SUPPORT. What the operations every docket of a Mill shares can do: its DONE message, its end, a change of the running
docket. -/

open Sys2Proof.Laws

namespace Sys2Proof.Machine

/-- A DONE message leaves a Mill whose boundary is not clamped. -/
theorem sendDone_open (s : State) (m : MillId) (h : HandoutMsg) (st : Byte) (detail : Word) (start : Word64) (tiles sat : Nat)
    (hi : (s.mills[m.val]).mb.iso = false) :
    sendDone s m h st detail start tiles sat = onControl (onMill s m fun x => { x with slots := vmod x.slots h.slot fun _ => none }) fun k =>
      { k with toControl := k.toControl ++ [(m, { chute := h.chute, status := st, tag := wTag h.docket, detail := detail, doneTime := now s, startTime := start, tiles := img (stopAt 0xFFFFFFFF tiles), sat := img (stopAt 0xFFFFFFFF sat), slot := h.slot })] } := by
  unfold sendDone
  dsimp only
  rw [if_neg]
  · rfl
  · simp only [onMill_mills, vmod_self, hi, Bool.false_eq_true, not_false_eq_true]

/-- The end of a running docket whose Mill's boundary is not clamped. -/
theorem endRun_open (s : State) (m : MillId) (r : Run) (st : Byte) (sub mid low : Nat) (hi : (s.mills[m.val]).mb.iso = false) :
    endRun s m r st sub mid low = onControl (onMill s m fun x => { x.dropFills with running := none, slots := vmod x.slots r.msg.slot fun _ => none }) fun k =>
      { k with toControl := k.toControl ++ [(m, { chute := r.msg.chute, status := if st = stOk && r.sat ≠ 0 then stSat else st, tag := wTag r.msg.docket, detail := mkDetail sub mid low, doneTime := now s, startTime := r.start.getD r.dispatched, tiles := img (stopAt 0xFFFFFFFF r.tiles), sat := img (stopAt 0xFFFFFFFF r.sat), slot := r.msg.slot })] } := by
  unfold endRun
  dsimp only
  rw [sendDone_open]
  · simp only [onMill, onControl, vmod_vmod]; rfl
  · simp only [onMill_mills, vmod_self]; exact hi

/-- Changing the docket a Mill runs. -/
theorem onRun_some {s : State} {m : MillId} {r : Run} (f : Run → Run) (h : (s.mills[m.val]).running = some r) :
    onRun s m f = onMill s m fun x => { x with running := some (f r) } := by
  unfold onRun; apply onMill_congr; rw [h]; rfl

theorem onRun_running {s : State} {m : MillId} {r : Run} (f : Run → Run) (h : (s.mills[m.val]).running = some r) :
    ((onRun s m f).mills[m.val]).running = some (f r) := by
  rw [onRun_some f h]; simp only [onMill_mills, vmod_self]

/-- Without ZERO_SKIPPED nothing is written for what a length excludes. -/
theorem zeroSkipped_off {s : State} {m : MillId} {r : Run} (h : wZeroSkipped r.msg.docket = false) : zeroSkipped s m r = s := by
  unfold zeroSkipped; simp [h]

/-- A boundary after the last tile ends the walk. -/
theorem boundary_last {s : State} {m : MillId} {r : Run} (h : (s.mills[m.val]).running = some r) (he : r.ending = none) (ha : r.abort = none)
    (hi : r.issued = []) (ht : r.todo = []) : boundary s m = finishWalk s m r := by
  unfold boundary; simp only [h, he, ha, hi, ht]

end Sys2Proof.Machine
end

