-- ==== Sys2Proof/Laws/Memory.lean ====
section
/-! SUPPORT. Laws of sparse storage: every operation keeps the canonical form; a read after a write. -/

namespace Sys2Proof.Laws
open Sys2Proof Sys2Proof.Machine

/-- A list canonical from a key on is canonical from any smaller key. -/
theorem sWfFrom_mono {w : Nat} {m : SMem w} {lo lo' : Nat} (h : sWfFrom lo m = true) (hl : lo' ≤ lo) : sWfFrom lo' m = true := by
  cases m with
  | nil => rfl
  | cons c rest =>
    obtain ⟨k, v⟩ := c
    simp only [sWfFrom, Bool.and_eq_true, decide_eq_true_eq] at h ⊢
    exact ⟨⟨by omega, h.1.2⟩, h.2⟩

/-- Below its first key a canonical list reads zero. -/
theorem sGet_below {w : Nat} {m : SMem w} {lo a : Nat} (h : sWfFrom lo m = true) (ha : a < lo) : sGet m a = 0 := by
  induction m generalizing lo with
  | nil => rfl
  | cons c rest ih =>
    obtain ⟨k, v⟩ := c
    simp only [sWfFrom, Bool.and_eq_true, decide_eq_true_eq] at h
    simp only [sGet]
    rw [if_neg (by omega)]
    exact ih h.2 (by omega)

/-- Replacing a value keeps the canonical form. -/
theorem sSet_wfFrom {w : Nat} {m : SMem w} {lo a : Nat} (x : BitVec w) (h : sWfFrom lo m = true) (ha : lo ≤ a) :
    sWfFrom lo (sSet m a x) = true := by
  induction m generalizing lo with
  | nil => simp only [sSet]; split <;> simp_all [sWfFrom]
  | cons c rest ih =>
    obtain ⟨k, v⟩ := c
    simp only [sWfFrom, Bool.and_eq_true, decide_eq_true_eq] at h
    simp only [sSet]
    split
    · split
      · simp_all [sWfFrom]
      · simp only [sWfFrom, Bool.and_eq_true, decide_eq_true_eq]
        exact ⟨⟨ha, by assumption⟩, ⟨by omega, h.1.2⟩, h.2⟩
    · split
      · subst a
        split
        · exact sWfFrom_mono h.2 (by omega)
        · simp only [sWfFrom, Bool.and_eq_true, decide_eq_true_eq]
          exact ⟨⟨h.1.1, by assumption⟩, h.2⟩
      · simp only [sWfFrom, Bool.and_eq_true, decide_eq_true_eq]
        exact ⟨h.1, ih h.2 (by omega)⟩

theorem sSet_wf {w : Nat} {m : SMem w} (a : Nat) (x : BitVec w) (h : sWf m = true) : sWf (sSet m a x) = true :=
  sSet_wfFrom x h (Nat.zero_le a)

/-- Read after write, at the key written. -/
theorem sGet_sSet_same {w : Nat} {m : SMem w} {lo a : Nat} (x : BitVec w) (h : sWfFrom lo m = true) : sGet (sSet m a x) a = x := by
  induction m generalizing lo with
  | nil => simp only [sSet]; split <;> simp_all [sGet]
  | cons c rest ih =>
    obtain ⟨k, v⟩ := c
    simp only [sWfFrom, Bool.and_eq_true, decide_eq_true_eq] at h
    simp only [sSet]
    split
    · split
      · subst x
        simp only [sGet]
        rw [if_neg (by omega)]
        exact sGet_below h.2 (by omega)
      · simp [sGet]
    · split
      · subst a
        split
        · subst x; exact sGet_below h.2 (by omega)
        · simp [sGet]
      · simp only [sGet]
        rw [if_neg (by omega)]
        exact ih h.2

/-- A write leaves every other key alone. -/
theorem sGet_sSet_other {w : Nat} {m : SMem w} {a b : Nat} (x : BitVec w) (hb : b ≠ a) : sGet (sSet m a x) b = sGet m b := by
  induction m with
  | nil => simp only [sSet]; split <;> simp [sGet, Ne.symm hb]
  | cons c rest ih =>
    obtain ⟨k, v⟩ := c
    simp only [sSet]
    split
    · split <;> simp [sGet, Ne.symm hb]
    · split
      · subst a
        split <;> simp [sGet, Ne.symm hb]
      · simp only [sGet, ih]

/-- Clearing a range keeps the canonical form. -/
theorem zeroRange_wfFrom {w : Nat} {m : SMem w} {lo : Nat} (a n : Nat) (h : sWfFrom lo m = true) : sWfFrom lo (zeroRange m a n) = true := by
  induction m generalizing lo with
  | nil => rfl
  | cons c rest ih =>
    obtain ⟨k, v⟩ := c
    simp only [sWfFrom, Bool.and_eq_true, decide_eq_true_eq] at h
    simp only [zeroRange, List.filter_cons]
    split
    · simp only [sWfFrom, Bool.and_eq_true, decide_eq_true_eq]
      exact ⟨h.1, ih h.2⟩
    · exact sWfFrom_mono (ih h.2) (by omega)

/-- Clearing a range of the memory keeps the canonical form. -/
theorem zeroRange_wf {m : Memory} (a n : Nat) (h : Memory.wf m = true) : Memory.wf (zeroRange (w := 8) m a n) = true :=
  zeroRange_wfFrom a n h

/-- Writing bytes keeps the canonical form. -/
theorem writeBytes_wf {m : Memory} (a : Nat) (bs : List Byte) (h : Memory.wf m = true) : Memory.wf (writeBytes m a bs) = true := by
  induction bs generalizing m a with
  | nil => exact h
  | cons b bs ih => exact ih (a + 1) (sSet_wf (w := 8) a b h)

/-- A write of bytes leaves every byte outside them alone. -/
theorem readByte_writeBytes_other {m : Memory} {a b : Nat} {bs : List Byte} (h : b < a ∨ a + bs.length ≤ b) :
    readByte (writeBytes m a bs) b = readByte m b := by
  induction bs generalizing m a with
  | nil => rfl
  | cons x bs ih =>
    simp only [List.length_cons] at h
    rw [writeBytes, ih (by omega)]
    exact sGet_sSet_other (w := 8) x (by omega)

/-- A byte written reads back. -/
theorem readByte_writeBytes {m : Memory} {a : Nat} {bs : List Byte} (hw : Memory.wf m = true) (i : Nat) (hi : i < bs.length) :
    readByte (writeBytes m a bs) (a + i) = bs[i] := by
  induction bs generalizing m a i with
  | nil => simp at hi
  | cons x bs ih =>
    cases i with
    | zero =>
      rw [writeBytes, Nat.add_zero, readByte_writeBytes_other (by omega)]
      exact sGet_sSet_same (w := 8) x hw
    | succ i =>
      have := ih (m := sSet m a x) (a := a + 1) (sSet_wf (w := 8) a x hw) i (by simpa using hi)
      rw [writeBytes, show a + (i + 1) = a + 1 + i by omega, this]
      rfl

/-- A cleared byte reads zero. -/
theorem readByte_zeroRange {m : Memory} {a n b : Nat} (h : a ≤ b ∧ b < a + n) : readByte (zeroRange (w := 8) m a n) b = 0 := by
  induction m with
  | nil => rfl
  | cons c rest ih =>
    obtain ⟨k, v⟩ := c
    simp only [zeroRange, List.filter_cons]
    split
    · rename_i hk
      simp only [readByte, sGet]
      rw [if_neg (by intro e; subst e; simp [h.1, h.2] at hk)]
      exact ih
    · exact ih

/-- Outside the range nothing is cleared. -/
theorem readByte_zeroRange_other {m : Memory} {a n b : Nat} (h : b < a ∨ a + n ≤ b) :
    readByte (zeroRange (w := 8) m a n) b = readByte m b := by
  induction m with
  | nil => rfl
  | cons c rest ih =>
    obtain ⟨k, v⟩ := c
    simp only [zeroRange, List.filter_cons]
    split
    · simp only [readByte, sGet]
      split
      · rfl
      · exact ih
    · rename_i hk
      simp only [readByte, sGet]
      rw [if_neg]
      · exact ih
      · intro e
        subst e
        have hk' : ¬ (a ≤ k → a + n ≤ k) := by simpa using hk
        omega

end Sys2Proof.Laws
end

