-- ==== Sys2Proof/Laws/Reported.lean ====
section
/-! SUPPORT. What completing a docket, posting a receipt and raising a Bell can do: each such operation is `Reported`, proved
once and cited from then on in place of its definition. -/

namespace Sys2Proof.Machine
open Sys2Proof Sys2Proof.Laws

/-- Element `j` after a replacement at `i`, when the replacement is related to what it replaces. -/
theorem vmod_rel {α : Type} {n : Nat} {R : α → α → Prop} (refl : ∀ a, R a a) (v : Vector α n) (i : Fin n) (f : α → α)
    (h : R v[i.val] (f v[i.val])) (j : Fin n) : R v[j.val] (vmod v i f)[j.val] := by
  rw [vmod_get]
  split
  · rename_i e
    have : j = i := Fin.ext e
    subst this; exact h
  · exact refl _

/-- A change of a chute that leaves its dockets alone. -/
theorem chuteReported_same {a b : Chute}
    (h : b = { a with rcptTail := b.rcptTail, rcptFail := b.rcptFail, rcptWait := b.rcptWait, releases := b.releases,
                      overruns := b.overruns, readAt := b.readAt, pending := b.pending, out := b.out, held := b.held, inst := b.inst,
                      pendRel := b.pendRel, ordinal := b.ordinal })
    (hp : b.pending = a.pending) (ho : b.out = a.out) : chuteReported a b where
  rest := h
  read := by rw [hp] <;> exact List.Sublist.refl _
  waiting := by rw [hp]
  out := by rw [ho] <;> exact List.Sublist.refl _

/-- A change of a chute that drops the dockets of its instance. -/
theorem chuteReported_drop {a b : Chute}
    (h : b = { a with rcptTail := b.rcptTail, rcptFail := b.rcptFail, rcptWait := b.rcptWait, releases := b.releases,
                      overruns := b.overruns, readAt := b.readAt, pending := b.pending, out := b.out, held := b.held, inst := b.inst,
                      pendRel := b.pendRel, ordinal := b.ordinal })
    (hp : b.pending = a.pending.filter (!·.inst)) (ho : b.out.map (·.id) = a.out.map (·.id)) : chuteReported a b where
  rest := h
  read := by rw [hp]; exact List.filter_sublist.map _
  waiting := by rw [hp]; simp
  out := by rw [ho] <;> exact List.Sublist.refl _

/-- A change of the marks of a chute's head docket. -/
theorem chuteReported_head {a b : Chute} {p q : Pending} {rest : List Pending}
    (h : b = { a with rcptTail := b.rcptTail, rcptFail := b.rcptFail, rcptWait := b.rcptWait, releases := b.releases,
                      overruns := b.overruns, readAt := b.readAt, pending := b.pending, out := b.out, held := b.held, inst := b.inst,
                      pendRel := b.pendRel, ordinal := b.ordinal })
    (ha : a.pending = p :: rest) (hb : b.pending = q :: rest) (hw : q.words = p.words) (hf : q.fault = p.fault) (hi : q.inst = p.inst)
    (ho : b.out = a.out) : chuteReported a b where
  rest := h
  read := by rw [ha, hb]; simp [hw, hf, hi]
  waiting := by rw [ha, hb, List.filter_cons, List.filter_cons, hi]; split <;> simp [hw, hf]
  out := by rw [ho] <;> exact List.Sublist.refl _

/-- A change of a chute's outstanding dockets that adds none. -/
theorem chuteReported_out {a b : Chute}
    (h : b = { a with rcptTail := b.rcptTail, rcptFail := b.rcptFail, rcptWait := b.rcptWait, releases := b.releases,
                      overruns := b.overruns, readAt := b.readAt, pending := b.pending, out := b.out, held := b.held, inst := b.inst,
                      pendRel := b.pendRel, ordinal := b.ordinal })
    (hp : b.pending = a.pending) (ho : (b.out.map (·.id)).Sublist (a.out.map (·.id))) : chuteReported a b where
  rest := h
  read := by rw [hp] <;> exact List.Sublist.refl _
  waiting := by rw [hp]
  out := ho

theorem chuteReported_refl (a : Chute) : chuteReported a a := chuteReported_same rfl rfl rfl
theorem bankReported_refl (a : Bank) : bankReported a a := rfl
theorem millReported_refl (a : Mill) : millReported a a := rfl
theorem portReported_refl (a : CamPort) : portReported a a := rfl

theorem chuteReported_trans {a b c : Chute} (h : chuteReported a b) (k : chuteReported b c) : chuteReported a c where
  rest := by have x := h.rest; have y := k.rest; rw [x] at y; exact y
  read := k.read.trans h.read
  waiting := k.waiting.trans h.waiting
  out := k.out.trans h.out

/-- Nothing has happened. -/
theorem Reported.refl (s : State) : Reported s s where
  rest := rfl
  mills _ := rfl
  control := rfl
  chutes _ := chuteReported_refl _
  granary := rfl
  banks _ := rfl
  gauge := rfl
  ports _ := rfl
  spigot := rfl
  mem _ _ := rfl
  canonical h := h

/-- Reporting leaves the receipt rings where they are. -/
theorem Reported.outside {s t : State} (h : Reported s t) {a : Nat} (ha : outsideReceipts s a) : outsideReceipts t a := by
  intro c
  have := ha c
  rw [(h.chutes c).rest]; exact this

/-- Reporting, and reporting after it. -/
theorem Reported.trans {s t u : State} (h : Reported s t) (k : Reported t u) : Reported s u where
  rest := by have a := h.rest; have b := k.rest; rw [a] at b; exact b
  mills m := by
    have a := h.mills m; have b := k.mills m
    unfold millReported at *; rw [a] at b; exact b
  control := by have a := h.control; have b := k.control; rw [a] at b; exact b
  chutes c := chuteReported_trans (h.chutes c) (k.chutes c)
  granary := by have a := h.granary; have b := k.granary; rw [a] at b; exact b
  banks b := by
    have x := h.banks b; have y := k.banks b
    unfold bankReported at *; rw [x] at y; exact y
  gauge := by have a := h.gauge; have b := k.gauge; rw [a] at b; exact b
  ports p := by
    have x := h.ports p; have y := k.ports p
    unfold portReported at *; rw [x] at y; exact y
  spigot := by have a := h.spigot; have b := k.spigot; rw [a] at b; exact b
  mem a ha := (k.mem a (h.outside ha)).trans (h.mem a ha)
  canonical w := k.canonical (h.canonical w)

/-- Equal states. -/
theorem Reported.of_eq {s t : State} (h : s = t) : Reported s t := h ▸ .refl s

/-- A fold of reporting steps. -/
theorem Reported.foldl {α : Type} (f : State → α → State) (h : ∀ s x, Reported s (f s x)) (l : List α) (s : State) :
    Reported s (l.foldl f s) := by
  induction l generalizing s with
  | nil => exact .refl s
  | cons x l ih => exact (h s x).trans (ih _)

/-- A change of a chute within reporting. -/
theorem Reported.chute (s : State) (c : ChuteId) (f : Chute → Chute)
    (h : chuteReported s.control.chutes[c.val] (f s.control.chutes[c.val])) : Reported s (onChute s c f) where
  rest := rfl
  mills _ := rfl
  control := rfl
  chutes d := vmod_rel chuteReported_refl _ c f h d
  granary := rfl
  banks _ := rfl
  gauge := rfl
  ports _ := rfl
  spigot := rfl
  mem _ _ := rfl
  canonical h := h

/-- A change of the Bells, the MSI-X messages, the aborts or the scoreboard. -/
theorem Reported.controls (s : State) (f : Control → Control)
    (h : f s.control = { s.control with bells := (f s.control).bells, bellLost := (f s.control).bellLost, msix := (f s.control).msix,
                                        aborts := (f s.control).aborts, scoreboard := (f s.control).scoreboard }) :
    Reported s (onControl s f) where
  rest := rfl
  mills _ := rfl
  control := by
    have hc : (f s.control).chutes = s.control.chutes := by rw [h]
    simp only [onControl_control, hc]; exact h
  chutes d := by
    show chuteReported s.control.chutes[d.val] (f s.control).chutes[d.val]
    have : (f s.control).chutes = s.control.chutes := by rw [h]
    simp only [this]; exact chuteReported_refl _
  granary := rfl
  banks _ := rfl
  gauge := rfl
  ports _ := rfl
  spigot := rfl
  mem _ _ := rfl
  canonical h := h

/-- A change of the Granary's error registers, poison marks or write-back lists. -/
theorem Reported.gran (s : State) (f : Granary → Granary)
    (h : f s.granary = { s.granary with poison := (f s.granary).poison, banks := (f s.granary).banks, ceCount := (f s.granary).ceCount,
                                        ueCount := (f s.granary).ueCount, errLog := (f s.granary).errLog,
                                        errTime := (f s.granary).errTime, errPend := (f s.granary).errPend })
    (hb : ∀ b : BankId, bankReported s.granary.banks[b.val] (f s.granary).banks[b.val]) : Reported s (onGran s f) where
  rest := rfl
  mills _ := rfl
  control := rfl
  chutes _ := chuteReported_refl _
  granary := h
  banks := hb
  gauge := rfl
  ports _ := rfl
  spigot := rfl
  mem _ _ := rfl
  canonical h := h

/-- A change of a Mill's Hopper error registers. -/
theorem Reported.regs (s : State) (m : MillId) (f : MillRegs → MillRegs)
    (h : ∀ r, f r = { r with hopCe := (f r).hopCe, hopUe := (f r).hopUe, memErrLog := (f r).memErrLog }) : Reported s (onRegs s m f) where
  rest := rfl
  mills d := vmod_rel millReported_refl _ m _ (by unfold millReported; dsimp only; congr 1; exact h _) d
  control := rfl
  chutes _ := chuteReported_refl _
  granary := rfl
  banks _ := rfl
  gauge := rfl
  ports _ := rfl
  spigot := rfl
  mem _ _ := rfl
  canonical h := h

theorem logError_reported (s : State) (a : Nat) (uncorr poison rowpar : Bool) (word : Nat) :
    Reported s (logError s a uncorr poison rowpar word) := by
  unfold logError
  split
  · exact .gran s _ rfl fun _ => rfl
  · split
    · exact .regs s _ _ fun _ => rfl
    · exact .refl s

theorem rowWritten_reported (s : State) (a : Nat) : Reported s (rowWritten s a) := by
  refine .gran s _ rfl fun b => ?_
  show bankReported s.granary.banks[b.val] (if a < granTop then _ else s.granary.banks)[b.val]
  split
  · exact vmod_rel bankReported_refl _ (granBank a) (fun b => { b with ceRows := b.ceRows.filter (· ≠ granRow a) }) rfl b
  · exact bankReported_refl _

/-- A write of bytes that lie in a receipt ring. -/
theorem Reported.receiptBytes (s : State) (a : Nat) (bs : List Byte)
    (h : ∀ x, outsideReceipts s x → x < a ∨ a + bs.length ≤ x) : Reported s { s with mem := writeBytes s.mem a bs } where
  rest := rfl
  mills _ := rfl
  control := rfl
  chutes _ := chuteReported_refl _
  granary := rfl
  banks _ := rfl
  gauge := rfl
  ports _ := rfl
  spigot := rfl
  mem x hx := readByte_writeBytes_other (h x hx)
  canonical w := writeBytes_wf a bs w

theorem writeRowPart_reported (s : State) (own : Option MillId) (a : Nat) (bs : List Byte)
    (h : ∀ x, outsideReceipts s x → x < a ∨ a + bs.length ≤ x) : Reported s (writeRowPart s own a bs).2 := by
  unfold writeRowPart
  dsimp only
  split
  · exact (Reported.receiptBytes s a bs h).trans (rowWritten_reported _ a)
  · exact logError_reported ..
  · exact .refl s

theorem writeRows_reported (own : Option MillId) (n : Nat) : ∀ (s : State) (a : Nat) (bs : List Byte),
    (∀ x, outsideReceipts s x → x < a ∨ a + bs.length ≤ x) → Reported s (writeRows s own a bs n).2 := by
  induction n with
  | zero => intro s a bs _; exact .refl s
  | succ n ih =>
    intro s a bs h
    unfold writeRows
    split
    · exact .refl s
    · rename_i b bs'
      dsimp only
      have p := writeRowPart_reported s own a ((b :: bs').take (512 - a % 512)) (by
        intro x hx
        rcases h x hx with h | h
        · exact .inl h
        · right
          rw [List.length_take]; omega)
      refine p.trans (ih _ _ _ ?_)
      intro x hx
      have hs : outsideReceipts s x := by
        intro c
        have := hx c
        rw [(p.chutes c).rest] at this; exact this
      rcases h x hs with h | h
      · left; omega
      · rw [List.length_drop]; omega

theorem length_leBytes (n x : Nat) : (leBytes n x).length = n := by
  induction n generalizing x with
  | zero => rfl
  | succ n ih => simp [leBytes, ih]

/-- A receipt has 32 bytes (06 R137). -/
theorem length_receiptBytes (phase : Bool) (r : DoneMsg) : (receiptBytes phase r).length = 32 := by
  simp [Machine.receiptBytes, words64, wordBytes, length_leBytes]

theorem depth_pos (ch : Chute) : 0 < ch.depth := Nat.two_pow_pos _

theorem writeReceipt_reported (s : State) (r : DoneMsg) : Reported s (writeReceipt s r) := by
  unfold writeReceipt
  dsimp only
  generalize hw : writeRange s none _ _ = w
  have h1 : Reported s w.2 := by
    rw [← hw]
    refine writeRows_reported _ _ _ _ _ ?_
    intro x hx
    rw [length_receiptBytes]
    have hm := Nat.mod_lt (s.control.chutes[r.chute.val]).rcptTail.toNat (depth_pos s.control.chutes[r.chute.val])
    rcases hx r.chute with h | h
    · left; omega
    · right; omega
  have h2 := h1.trans (.chute w.2 r.chute (fun ch => { ch with rcptTail := ch.rcptTail + 1, rcptFail := ch.rcptFail || w.1 ≠ .ok }) (chuteReported_same rfl rfl rfl))
  split
  · exact h2.trans (.controls _ _ rfl)
  · exact h2

theorem postReceipt_reported (s : State) (r : DoneMsg) : Reported s (postReceipt s r) := by
  unfold postReceipt
  dsimp only
  split
  · exact writeReceipt_reported s r
  · exact .chute s _ _ (chuteReported_same rfl rfl rfl)

theorem drainReceipts_reported (c : ChuteId) (n : Nat) : ∀ s : State, Reported s (drainReceipts s c n) := by
  induction n with
  | zero => intro s; exact .refl s
  | succ n ih =>
    intro s
    unfold drainReceipts
    dsimp only
    split
    · exact .refl s
    · split
      · exact (((Reported.chute s c _ (by exact chuteReported_same rfl rfl rfl)).trans (writeReceipt_reported _ _)).trans (ih _))
      · exact .refl s

theorem skipReceipt_reported (s : State) (c : ChuteId) (o : BitVec 16) : Reported s (skipReceipt s c o) := postReceipt_reported ..

theorem startInstance_reported (s : State) (c : ChuteId) : Reported s (startInstance s c) := by
  refine .chute s c _ ?_
  split
  · exact chuteReported_refl _
  · exact chuteReported_same rfl rfl rfl

/-- A change of the Spigot's channels, boom nodes or counters. -/
theorem Reported.spig (s : State) (f : Spigot → Spigot)
    (h : f s.spigot = { s.spigot with chans := (f s.spigot).chans, nodes := (f s.spigot).nodes, counters := (f s.spigot).counters }) :
    Reported s (onSpigot s f) where
  rest := rfl
  mills _ := rfl
  control := rfl
  chutes _ := chuteReported_refl _
  granary := rfl
  banks _ := rfl
  gauge := rfl
  ports _ := rfl
  spigot := h
  mem _ _ := rfl
  canonical h := h

/-- The Spigot keeps everything but channels, boom nodes and counters. -/
def spigotKept (a b : Spigot) : Prop := b = { a with chans := b.chans, nodes := b.nodes, counters := b.counters }

theorem spigotKept_trans {a b c : Spigot} (h : spigotKept a b) (k : spigotKept b c) : spigotKept a c := by
  unfold spigotKept at *; rw [h] at k; exact k

theorem safe_kept (sp : Spigot) (ch : ChanId) : spigotKept sp (sp.safe ch) := by
  unfold Spigot.safe Spigot.dropPend Spigot.onChan
  dsimp only
  split
  · split <;> rfl
  · rfl

theorem noticeChan_kept (t : Word64) (sp : Spigot) (ch : ChanId) : spigotKept sp (Spigot.noticeChan t sp ch) := by
  unfold Spigot.noticeChan
  generalize Channel.applyDue (direct ch) (t + 10) 32 sp.chans[ch.val] = x
  obtain ⟨n, c⟩ := x
  dsimp only
  have h1 : spigotKept sp ((sp.onChan ch fun _ => c).count 0 n) := rfl
  split
  · exact spigotKept_trans h1 rfl
  · exact spigotKept_trans h1 (safe_kept _ ch)

theorem notice_kept (sp : Spigot) (c : ChuteId) (t : Word64) : spigotKept sp (sp.notice c t) := by
  unfold Spigot.notice
  generalize (List.filter _ _) = l
  induction l generalizing sp with
  | nil => rfl
  | cons x l ih => exact spigotKept_trans (noticeChan_kept t sp x) (ih _)

theorem holdNotice_reported (s : State) (c : ChuteId) : Reported s (holdNotice s c) := .spig s _ (notice_kept _ _ _)

theorem abortReceipt_reported (s : State) (c : ChuteId) (tag : BitVec 16) (d : Nat) : Reported s (abortReceipt s c tag d) :=
  (postReceipt_reported ..).trans (holdNotice_reported ..)

theorem abortInstance_reported (s : State) (c : ChuteId) (i : Instance) (o : BitVec 16) : Reported s (abortInstance s c i o) := by
  unfold abortInstance
  dsimp only
  split
  · exact ((Reported.chute s c _ (by exact chuteReported_drop rfl rfl rfl)).trans (abortReceipt_reported ..)).trans (startInstance_reported ..)
  · refine (Reported.chute s c _ (by
      refine chuteReported_drop rfl rfl ?_
      simp only [List.map_map]
      congr 1
      funext x
      dsimp only [Function.comp]
      split <;> rfl)).trans (.controls _ _ (by rfl))

theorem release_reported (s : State) (c : ChuteId) : Reported s (release s c) := by
  unfold release
  dsimp only
  refine (Reported.chute s c (fun ch => { ch with releases := bump ch.releases, ordinal := ch.ordinal + 1 }) (chuteReported_same rfl rfl rfl)).trans ?_
  split
  · split
    · exact (Reported.chute _ c _ (by exact chuteReported_same rfl rfl rfl)).trans (skipReceipt_reported ..)
    · exact startInstance_reported ..
  · refine (Reported.chute _ c (fun ch => { ch with overruns := bump ch.overruns }) (chuteReported_same rfl rfl rfl)).trans ?_
    split
    · split
      · split
        · exact (skipReceipt_reported ..).trans (.chute _ c _ (by exact chuteReported_same rfl rfl rfl))
        · exact .chute _ c _ (by exact chuteReported_same rfl rfl rfl)
      · exact abortInstance_reported ..
    · split
      · exact skipReceipt_reported ..
      · exact .chute _ c _ (by exact chuteReported_same rfl rfl rfl)

theorem settleInstance_reported (s : State) (c : ChuteId) : Reported s (settleInstance s c) := by
  unfold settleInstance
  dsimp only
  split
  · exact .refl s
  · split
    · split
      · exact ((Reported.chute s c _ (by exact chuteReported_same rfl rfl rfl)).trans (.chute _ c _ (by exact chuteReported_same rfl rfl rfl))).trans (startInstance_reported ..)
      · exact .chute s c _ (by exact chuteReported_same rfl rfl rfl)
    · exact .refl s

theorem checkWait_reported (s : State) (c : ChuteId) : Reported s (checkWait s c) := by
  unfold checkWait
  dsimp only
  split
  · exact .refl s
  · rename_i p rest e
    split
    · exact .refl s
    · split
      · have h : Reported s (onChute s c fun ch => { ch with pending := { p with waitOk := true } :: rest }) :=
          .chute s c _ (chuteReported_head rfl e rfl rfl rfl rfl rfl)
        split
        · exact h.trans (.controls _ _ rfl)
        · exact h
      · split
        · exact .chute s c _ (chuteReported_head rfl e rfl rfl rfl rfl rfl)
        · exact .refl s

theorem checkWaits_reported (s : State) : Reported s (checkWaits s) := .foldl _ checkWait_reported _ _

/-- A change of camera ports within reporting. -/
theorem Reported.cams (s : State) (f : CamPort → CamPort) (h : ∀ p, portReported p (f p)) :
    Reported s (onGauge s fun g => { g with ports := g.ports.map f }) where
  rest := rfl
  mills _ := rfl
  control := rfl
  chutes _ := chuteReported_refl _
  granary := rfl
  banks _ := rfl
  gauge := rfl
  ports p := by
    show portReported _ (s.gauge.ports.map f)[p.val]
    rw [Vector.getElem_map]; exact h _
  spigot := rfl
  mem _ _ := rfl
  canonical h := h

theorem releaseSlots_port (p : CamPort) (n : Nat) : portReported p (releaseSlots p n) := by
  unfold releaseSlots
  split
  · rfl
  · split <;> rfl

theorem raiseBells_reported (s : State) (set : BitVec 256) : Reported s (raiseBells s set) := by
  unfold raiseBells
  dsimp only
  refine Reported.trans ?_ (.controls _ _ (by rfl))
  refine Reported.trans ?_ (checkWaits_reported _)
  refine Reported.trans ?_ (.cams _ _ fun p => ?_)
  · exact (Reported.controls s _ (by rfl)).trans (.foldl _ release_reported _ _)
  · split
    · exact releaseSlots_port p 1
    · rfl

theorem raiseBell_reported (s : State) (b : BellId) : Reported s (raiseBell s b) := raiseBells_reported ..
theorem clearBells_reported (s : State) (set : BitVec 256) : Reported s (clearBells s set) := .controls s _ (by rfl)

theorem settleErr_reported (s : State) : Reported s (settleErr s) := by
  unfold settleErr
  split
  · exact (Reported.gran s (fun g => { g with errPend := false }) rfl fun _ => rfl).trans (raiseBell_reported ..)
  · exact .refl s

theorem complete_reported (s : State) (c : ChuteId) (o : Outstanding) : Reported s (complete s c o) := by
  unfold complete
  dsimp only
  refine Reported.trans ?_ (checkWaits_reported _)
  have h0 : Reported s (onControl (onChute s c fun ch => { ch with out := ch.out.filter (·.id ≠ o.id) }) fun k =>
      { k with scoreboard := k.scoreboard.map fun l => l.filter (·.id ≠ o.id) }) :=
    (Reported.chute s c _ (chuteReported_out rfl rfl (List.filter_sublist.map _))).trans (.controls _ _ (by rfl))
  have ifr : ∀ (b : Bool) (u v : State), Reported s u → Reported u v → Reported s (if b then v else u) := by
    intro b u v h k
    cases b
    · exact h
    · exact h.trans k
  refine ifr _ _ _ ?_ (raiseBell_reported _ _)
  refine Reported.trans ?_ (settleInstance_reported _ _)
  refine ifr _ _ _ ?_ (holdNotice_reported _ _)
  exact ifr _ _ _ h0 (postReceipt_reported _ _)

theorem merge_id (o : Outstanding) (r : DoneMsg) : (merge o r).id = o.id := rfl

theorem unitDone_reported (s : State) (c : ChuteId) (id : Nat) (r : DoneMsg) : Reported s (unitDone s c id r) := by
  unfold unitDone
  dsimp only
  split
  · exact .refl s
  · rename_i o e
    have hid : o.id = id := by simpa using List.find?_some e
    split
    · exact complete_reported ..
    · refine .chute s c _ (chuteReported_out rfl rfl ?_)
      rw [List.map_map]
      have : (fun o => o.id) ∘ (fun x : Outstanding => if x.id = id then merge { o with others := o.others - 1 } r else x) = fun o => o.id := by
        funext x
        dsimp only [Function.comp]
        split
        · rename_i h; rw [merge_id]; exact hid.trans h.symm
        · rfl
      rw [this] <;> exact List.Sublist.refl _

theorem finishJob_reported (s : State) (j : Job) (st : Byte) (sub mid low : Nat) (start : Word64) (tiles sat : Nat) :
    Reported s (finishJob s j st sub mid low start tiles sat) := unitDone_reported ..

theorem fwDone_reported (s : State) (j : Job) (st : Byte) (sub mid low tiles : Nat) : Reported s (fwDone s j st sub mid low tiles) :=
  finishJob_reported ..

/-- Reporting adds no unreadable docket. -/
theorem Reported.faults {s t : State} (r : Reported s t) (c : ChuteId) (h : ∀ p ∈ (s.control.chutes[c.val]).pending, p.fault = .ok) :
    ∀ p ∈ (t.control.chutes[c.val]).pending, p.fault = .ok := by
  intro p hp
  obtain ⟨q, hq, e⟩ := List.mem_map.mp ((r.chutes c).read.subset (List.mem_map_of_mem hp))
  simp only [Prod.mk.injEq] at e
  rw [← e.2.1]; exact h q hq

end Sys2Proof.Machine
end

