-- ==== Sys2Proof/Laws/Rows.lean ====
section
/-! SUPPORT. What an access to rows answers and changes, proved once. -/

namespace Sys2Proof.Machine
open Sys2Proof Sys2Proof.Laws

/-- Bytes written in two pieces. -/
theorem writeBytes_append (m : Memory) (a : Nat) (xs ys : List Byte) :
    writeBytes (writeBytes m a xs) (a + xs.length) ys = writeBytes m a (xs ++ ys) := by
  induction xs generalizing m a with
  | nil => rfl
  | cons x xs ih =>
    simp only [writeBytes, List.cons_append, List.length_cons]
    rw [← ih, show a + (xs.length + 1) = a + 1 + xs.length by omega]

/-- A row starts at a multiple of 512; what an access answers is the same over the whole row. -/
theorem rowStatus_row (s : State) (own : Option MillId) (a : Nat) : rowStatus s own (a / 512 * 512) = rowStatus s own a := by
  have h1 : (a / 512 * 512 < granTop) = (a < granTop) := by unfold granTop; exact propext (by omega)
  have h2 : a / 512 * 512 / 0x400000 = a / 0x400000 := by omega
  have h3 : a / 512 * 512 / 0x06000000 = a / 0x06000000 := by omega
  have h4 : a / 512 * 512 % 0x06000000 / 512 = a % 0x06000000 / 512 := by omega
  have h5 : hopOf (a / 512 * 512) = (hopOf a).map fun x => (x.1, x.2 / 512 * 512) := by
    unfold hopOf hopTop
    by_cases h : (0x1000000000 ≤ a ∧ a < 0x1000000000 + 16 * 0x01000000 ∧ (a - 0x1000000000) % 0x01000000 < 0x00800000)
    · rw [if_pos h, if_pos (by omega)]
      simp only [Option.map_some]
      have e1 : (a / 512 * 512 - 0x1000000000) / 0x01000000 = (a - 0x1000000000) / 0x01000000 := by omega
      have e2 : (a / 512 * 512 - 0x1000000000) % 0x01000000 = (a - 0x1000000000) % 0x01000000 / 512 * 512 := by omega
      rw [e1, e2]
    · rw [if_neg h, if_neg (by omega)]; rfl
  have h6 : granBank (a / 512 * 512) = granBank a := by unfold granBank; rw [h3, h4]
  have h7 : granQuad (a / 512 * 512) = granQuad a := by unfold granQuad; rw [h3]
  have h8 : plotOf (a / 512 * 512) = plotOf a := by unfold plotOf; rw [h2]
  have h9 : niOf (a / 512 * 512) = niOf a := by
    unfold niOf
    rw [h5, h6, h3]
    cases hopOf a <;> rfl
  have hp : placeStatus s own (a / 512 * 512) = placeStatus s own a := by
    unfold placeStatus
    simp only [h7, h8, h9, h1, h5]
    split
    · rfl
    · cases hopOf a <;> rfl
  have hq : poisoned s (a / 512 * 512) = poisoned s a := by
    unfold poisoned
    rw [Nat.mul_div_cancel _ (by decide)]
  unfold rowStatus
  rw [hp, hq]

/-- A readable row's place answers. -/
theorem placeStatus_of_rowStatus {s : State} {own : Option MillId} {a : Nat} (h : rowStatus s own a = .ok) :
    placeStatus s own a = .ok := by
  unfold rowStatus at h
  split at h
  · assumption
  · rename_i hn; exact absurd h hn

/-- Every address of an accessible range answers. -/
theorem rowsOk.at_ {s : State} {own : Option MillId} {a len x : Nat} (h : rowsOk s own a len) (h1 : a ≤ x) (h2 : x < a + len) :
    rowStatus s own x = .ok := by
  rw [← rowStatus_row]
  apply h
  unfold rowsOf
  rw [List.mem_map]
  refine ⟨x / 512 - a / 512, ?_, ?_⟩
  · rw [List.mem_range]; omega
  · omega

/-- A read of rows that all answer gives their bytes and changes nothing (05 R98, R106). -/
theorem readRange_ok {s : State} {own : Option MillId} {a len : Nat} (h : rowsOk s own a len) :
    readRange s own a len = (.ok, readBytes s.mem a len, s) := by
  unfold readRange
  have : (rowsOf a len).find? (fun r => decide (rowStatus s own r ≠ .ok)) = none := by
    rw [List.find?_eq_none]
    intro r hr
    simp [h r hr]
  rw [this]

/-- A written row leaves what other accesses answer. -/
theorem rowStatus_rowWritten {s : State} {own : Option MillId} {m : Memory} {a x : Nat} (h : rowStatus s own x = .ok) :
    rowStatus (rowWritten { s with mem := m } a) own x = .ok := by
  have hp := placeStatus_of_rowStatus h
  have hq : poisoned s x = false := by
    unfold rowStatus at h
    rw [hp] at h
    simpa using h
  unfold rowStatus
  have : placeStatus (rowWritten { s with mem := m } a) own x = placeStatus s own x := rfl
  rw [this, hp]
  have : poisoned (rowWritten { s with mem := m } a) x = false := by
    unfold poisoned at *
    rw [← Bool.not_eq_true, List.contains_iff_mem] at *
    intro hm
    exact hq ((List.mem_filter.mp hm).1)
  simp [this]

/-- A bank whose write-back list has been filtered. -/
theorem vmod_rel' (v : Vector Bank 128) (i : BankId) (f : List Nat → List Nat) (j : BankId) :
    bankReported v[j.val] (vmod v i fun b => { b with ceRows := f b.ceRows })[j.val] := by
  rw [vmod_get]
  split <;> rfl

/-- Writing bytes to rows that all answer: the bytes stand there, no row of theirs is poisoned any more than before, and nothing
but memory, poison marks and write-back lists has changed (05 R98, R109, R486). -/
theorem writeRows_ok (own : Option MillId) (n : Nat) : ∀ (s : State) (a : Nat) (bs : List Byte),
    a % 512 + bs.length ≤ 512 * n → (∀ x, a ≤ x → x < a + bs.length → rowStatus s own x = .ok) →
    ∃ g : Granary, writeRows s own a bs n = (.ok, { s with mem := writeBytes s.mem a bs, granary := g }) ∧
      g = { s.granary with poison := g.poison, banks := g.banks } ∧ (∀ b : BankId, bankReported s.granary.banks[b.val] g.banks[b.val]) := by
  induction n with
  | zero =>
    intro s a bs hn _
    have : bs = [] := List.eq_nil_of_length_eq_zero (by omega)
    subst this
    exact ⟨s.granary, rfl, rfl, fun _ => rfl⟩
  | succ n ih =>
    intro s a bs hn h
    unfold writeRows
    split
    · exact ⟨s.granary, rfl, rfl, fun _ => rfl⟩
    · rename_i b bs'
      dsimp only
      have ha : rowStatus s own a = .ok := h a (by omega) (by simp)
      have hw : writeRowPart s own a ((b :: bs').take (512 - a % 512)) =
          (.ok, rowWritten { s with mem := writeBytes s.mem a ((b :: bs').take (512 - a % 512)) } a) := by
        unfold writeRowPart
        dsimp only
        split
        · rfl
        · rename_i e; split at e
          · rw [placeStatus_of_rowStatus ha] at e; cases e
          · rw [ha] at e; cases e
        · rename_i e1 e2; exfalso; apply e1; split
          · exact placeStatus_of_rowStatus ha
          · exact ha
      rw [hw]
      dsimp only
      have hl : ((b :: bs').take (512 - a % 512)).length = min (512 - a % 512) (b :: bs').length := List.length_take
      by_cases hs : (b :: bs').length ≤ 512 - a % 512
      · rw [List.take_of_length_le hs, List.drop_of_length_le hs]
        have : ∀ t : State, writeRows t own (a + (512 - a % 512)) [] n = (.ok, t) := by
          intro t; cases n <;> rfl
        rw [this]
        refine ⟨_, rfl, rfl, fun bk => ?_⟩
        show bankReported s.granary.banks[bk.val] (if a < granTop then _ else s.granary.banks)[bk.val]
        split
        · exact vmod_rel' _ (granBank a) (fun l => l.filter (· ≠ granRow a)) bk
        · rfl
      · obtain ⟨g, e, hg, hb⟩ := ih (rowWritten { s with mem := writeBytes s.mem a ((b :: bs').take (512 - a % 512)) } a)
          (a + (512 - a % 512)) ((b :: bs').drop (512 - a % 512)) (by rw [List.length_drop]; omega) (by
            intro x h1 h2
            rw [List.length_drop] at h2
            exact rowStatus_rowWritten (h x (by omega) (by omega)))
        refine ⟨g, ?_, ?_, ?_⟩
        · rw [e]
          have hm : writeBytes (writeBytes s.mem a ((b :: bs').take (512 - a % 512))) (a + (512 - a % 512)) ((b :: bs').drop (512 - a % 512)) =
              writeBytes s.mem a (b :: bs') := by
            have := writeBytes_append s.mem a ((b :: bs').take (512 - a % 512)) ((b :: bs').drop (512 - a % 512))
            rw [hl, Nat.min_eq_left (by omega), List.take_append_drop] at this
            exact this
          simp only [rowWritten, onGran, ite_true]
          rw [hm]
        · rw [hg]; rfl
        · intro bk
          have h1 := hb bk
          have h2 : bankReported s.granary.banks[bk.val]
              (rowWritten { s with mem := writeBytes s.mem a ((b :: bs').take (512 - a % 512)) } a).granary.banks[bk.val] := by
            show bankReported s.granary.banks[bk.val] (if a < granTop then _ else s.granary.banks)[bk.val]
            split
            · exact vmod_rel' _ (granBank a) (fun l => l.filter (· ≠ granRow a)) bk
            · rfl
          unfold bankReported at *
          rw [h2] at h1
          exact h1

/-- The same over a range. -/
theorem writeRange_ok {s : State} {own : Option MillId} {a : Nat} {bs : List Byte} (h : rowsOk s own a bs.length) :
    ∃ g : Granary, writeRange s own a bs = (.ok, { s with mem := writeBytes s.mem a bs, granary := g }) ∧
      g = { s.granary with poison := g.poison, banks := g.banks } ∧ (∀ b : BankId, bankReported s.granary.banks[b.val] g.banks[b.val]) :=
  writeRows_ok own _ s a bs (by omega) fun _ h1 h2 => h.at_ h1 h2

/-- Rows that could be read before a write of rows that all answer can be read after it. -/
theorem writeRows_keeps (own : Option MillId) (n : Nat) : ∀ (s : State) (a : Nat) (bs : List Byte),
    (∀ x, a ≤ x → x < a + bs.length → rowStatus s own x = .ok) → ∀ (by_ : Option MillId) (z : Nat), rowStatus s by_ z = .ok →
    rowStatus (writeRows s own a bs n).2 by_ z = .ok := by
  induction n with
  | zero => intro s a bs _ by_ z h; exact h
  | succ n ih =>
    intro s a bs h by_ z hz
    unfold writeRows
    split
    · exact hz
    · rename_i b bs'
      dsimp only
      have ha : rowStatus s own a = .ok := h a (by omega) (by simp)
      have hw : writeRowPart s own a ((b :: bs').take (512 - a % 512)) =
          (.ok, rowWritten { s with mem := writeBytes s.mem a ((b :: bs').take (512 - a % 512)) } a) := by
        unfold writeRowPart
        dsimp only
        split
        · rfl
        · rename_i e; split at e
          · rw [placeStatus_of_rowStatus ha] at e; cases e
          · rw [ha] at e; cases e
        · rename_i e1 e2; exfalso; apply e1; split
          · exact placeStatus_of_rowStatus ha
          · exact ha
      rw [hw]
      dsimp only
      refine ih _ _ _ (fun x h1 h2 => ?_) by_ z (rowStatus_rowWritten hz)
      rw [List.length_drop] at h2
      exact rowStatus_rowWritten (h x (by omega) (by omega))

/-- The same over ranges. -/
theorem writeRange_keeps {s : State} {own by_ : Option MillId} {a b len : Nat} {bs : List Byte} (h : rowsOk s own a bs.length)
    (hr : rowsOk s by_ b len) : rowsOk (writeRange s own a bs).2 by_ b len :=
  fun r hm => writeRows_keeps own _ s a bs (fun _ h1 h2 => h.at_ h1 h2) by_ r (hr r hm)

/-- A part of a range that answers. -/
theorem rowsOk.part {s : State} {own : Option MillId} {a len b n : Nat} (h : rowsOk s own a len) (h1 : a ≤ b) (h2 : b + n ≤ a + len) (hn : 0 < n) :
    rowsOk s own b n := by
  intro r hm
  unfold rowsOf at hm
  rw [List.mem_map] at hm
  obtain ⟨i, hi, rfl⟩ := hm
  rw [List.mem_range] at hi
  by_cases hb : b / 512 * 512 + 512 * i ≤ b
  · have : i = 0 := by omega
    subst this
    rw [Nat.mul_zero, Nat.add_zero, rowStatus_row]
    exact h.at_ h1 (by omega)
  · exact h.at_ (by omega) (by omega)

/-- Bytes read one by one. -/
theorem readBytes_eq (m : Memory) (a n : Nat) : readBytes m a n = (List.range n).map fun i => readByte m (a + i) := by
  induction n generalizing a with
  | zero => rfl
  | succ n ih =>
    rw [readBytes, ih, List.range_succ_eq_map, List.map_cons, List.map_map, Nat.add_zero]
    congr 1
    apply List.map_congr_left
    intro i _
    simp only [Function.comp, Nat.succ_eq_add_one]
    congr 1
    omega

/-- A part of the bytes read. -/
theorem readBytes_part (m : Memory) (a n k l : Nat) (h : k + l ≤ n) :
    ((readBytes m a n).drop k).take l = readBytes m (a + k) l := by
  rw [readBytes_eq, readBytes_eq]
  apply List.ext_getElem
  · simp; omega
  · intro i h1 h2
    simp at h1
    simp only [List.getElem_take, List.getElem_drop, List.getElem_map, List.getElem_range]
    congr 1
    omega

end Sys2Proof.Machine
end

