-- ==== Sys2Proof/Laws/Tiles.lean ====
section
/-! SUPPORT. Which docket a Mill takes, the tiles of a walk, the reads and boundaries of tiles. -/

open Sys2Proof.Laws

namespace Sys2Proof.Machine

theorem firstBy_none {α : Type} (lt : α → α → Bool) (l : List α) (h : firstBy lt l = none) : l = [] := by
  cases l with
  | nil => rfl
  | cons a l => simp only [firstBy] at h; split at h <;> first | cases h | (split at h <;> cases h)

theorem firstBy_mem {α : Type} (lt : α → α → Bool) (l : List α) (x : α) (h : firstBy lt l = some x) : x ∈ l := by
  induction l generalizing x with
  | nil => cases h
  | cons a l ih =>
    simp only [firstBy] at h
    split at h
    · cases h; simp
    · rename_i b hb
      split at h <;> cases h
      · exact List.mem_cons_of_mem _ (ih _ hb)
      · simp

theorem firstBy_least {α : Type} (lt : α → α → Bool) (irr : ∀ a, lt a a = false)
    (trans : ∀ a b c, lt a b = false → lt b c = false → lt a c = false) (asym : ∀ a b, lt a b = true → lt b a = false)
    (l : List α) (x : α) (h : firstBy lt l = some x) : ∀ g ∈ l, lt g x = false := by
  induction l generalizing x with
  | nil => cases h
  | cons a l ih =>
    simp only [firstBy] at h
    split at h
    · rename_i hn; cases h
      have := firstBy_none _ _ hn; subst this
      intro g hg; simp at hg; subst hg; exact irr g
    · rename_i b hb
      have ihb := ih b hb
      split at h <;> cases h
      · rename_i hlt
        intro g hg
        rcases List.mem_cons.1 hg with rfl | hg
        · exact asym _ _ hlt
        · exact ihb g hg
      · rename_i hlt
        have hlt : lt b a = false := by simpa using hlt
        intro g hg
        rcases List.mem_cons.1 hg with rfl | hg
        · exact irr _
        · exact trans _ _ _ (ihb g hg) hlt

theorem before_irr (a : Held) : Held.before a a = false := by simp [Held.before]
theorem before_asym (a b : Held) (h : Held.before a b = true) : Held.before b a = false := by
  unfold Held.before at *
  have : ∀ x y : Fin 4, (x ≠ y) = (x.val ≠ y.val) := fun x y => propext (by constructor <;> intro h e <;> exact h (by first | exact Fin.ext e | exact congrArg _ e))
  have : ∀ x y : ChuteId, (x ≠ y) = (x.val ≠ y.val) := fun x y => propext (by constructor <;> intro h e <;> exact h (by first | exact Fin.ext e | exact congrArg _ e))
  have e1 : ∀ x y : Fin 4, (x < y) = (x.val < y.val) := fun _ _ => rfl
  have e2 : ∀ x y : ChuteId, (x < y) = (x.val < y.val) := fun _ _ => rfl
  have e3 : ∀ x y : Fin 4, (x = y) = (x.val = y.val) := fun x y => propext ⟨fun e => congrArg _ e, Fin.ext⟩
  simp only [*] at h ⊢
  repeat' split at h
  all_goals repeat' split
  all_goals simp_all
  all_goals omega

def befN (a1 a2 a3 b1 b2 b3 : Nat) : Prop := if a1 ≠ b1 then b1 < a1 else if a1 = 3 ∧ a2 ≠ b2 then a2 < b2 else a3 < b3
theorem before_N (a b : Held) : (Held.before a b = true) ↔ befN a.msg.cls.val a.msg.chute.val a.order b.msg.cls.val b.msg.chute.val b.order := by
  unfold Held.before befN
  have e3 : ∀ x y : Fin 4, (x = y) = (x.val = y.val) := fun x y => propext ⟨fun e => congrArg _ e, Fin.ext⟩
  have e4 : ∀ x y : ChuteId, (x = y) = (x.val = y.val) := fun x y => propext ⟨fun e => congrArg _ e, Fin.ext⟩
  have e1 : ∀ x y : Fin 4, (x < y) = (x.val < y.val) := fun _ _ => rfl
  have e2 : ∀ x y : ChuteId, (x < y) = (x.val < y.val) := fun _ _ => rfl
  have e5 : (3 : Fin 4).val = 3 := rfl
  simp only [ne_eq, e3, e4, e1, e2, e5]
  split
  · simp
  · split
    · rename_i h2; simp at h2; rw [if_pos (by simpa using h2)]; simp
    · rename_i h2; rw [if_neg (by simpa using h2)]; simp
theorem before_trans (a b c : Held) (h : Held.before a b = false) (k : Held.before b c = false) : Held.before a c = false := by
  rw [← Bool.not_eq_true, before_N] at *
  revert h k
  generalize a.msg.cls.val = a1, a.msg.chute.val = a2, a.order = a3, b.msg.cls.val = b1, b.msg.chute.val = b2, b.order = b3, c.msg.cls.val = c1, c.msg.chute.val = c2, c.order = c3
  unfold befN
  intro h k
  by_cases c1 : a1 = b1
  · subst c1
    rw [if_neg (by simp)] at h
    split
    · rename_i q; rw [if_pos q] at k; exact k
    · rename_i q; rw [if_neg q] at k; split <;> split at h <;> split at k <;> omega
  · rw [if_pos c1] at h
    split at k <;> split <;> try omega

theorem nextHeld_spec (x : Mill) (h : Held) (e : x.nextHeld = some h) :
    h ∈ x.waiting ∧ (∀ g ∈ x.waiting, (∀ r ∈ x.preempted.head?, preempts g.msg.cls r.msg.cls = true) → Held.before g h = false) ∧
      (∀ r ∈ x.preempted.head?, preempts h.msg.cls r.msg.cls = true) := by
  unfold Mill.nextHeld at e
  have l := firstBy_least _ before_irr before_trans before_asym _ _ e
  have m := firstBy_mem _ _ _ e
  cases hp : x.preempted with
  | nil => rw [hp] at l m; exact ⟨m, fun g hg _ => l g hg, by simp⟩
  | cons r rest =>
    rw [hp] at l m
    simp only [List.mem_filter] at l m
    refine ⟨m.1, fun g hg k => l g ⟨hg, k r (by simp)⟩, ?_⟩
    simp only [List.head?_cons, Option.mem_some_iff]
    rintro _ rfl; exact m.2

theorem dispatch_idle (s : State) (m : MillId) (hi : (s.mills[m.val]).mayIssue = true) (hr : (s.mills[m.val]).running = none) :
    dispatch s m = match (s.mills[m.val]).nextHeld with | some h => startHeld s m h.msg | none => s := by
  have hp : (s.mills[m.val]).programming = false := by simp [Mill.programming, hr]
  unfold dispatch
  simp only [hi, hp, hr, Bool.not_true, Bool.false_eq_true, if_false, Option.isSome_none] <;> rfl

theorem planCheck_ok (r : Run) (flat : Bool) (cap : Nat) (u : Unit) (h : r.planCheck flat cap = .ok u) :
    (∀ b, r.bound flat = some b → b * 5 ≤ cap * 8) ∧
    (∀ p o, r.plan = some p → wOpcode r.msg.docket = some o → o ≠ .fuse2 → r.planLegal p = true) := by
  unfold Run.planCheck at h
  have key : ∀ ov : Except DFault Unit, (match r.plan, wOpcode r.msg.docket with
      | some p, some o =>
        if !(if o = .fuse2 then r.fuseLegal p else r.planLegal p) then .error (planFault (planIdx r.msg.docket))
        else match r.batchFault with
          | some i => .error (planFault (some i))
          | none => ov
      | _, some .winnow => if !r.winnowLegal then .error (planFault none) else ov
      | _, _ => ov) = Except.ok u → ov = .ok u ∧
      (∀ p o, r.plan = some p → wOpcode r.msg.docket = some o → o ≠ .fuse2 → r.planLegal p = true) := by
    intro ov h
    cases hp : r.plan with
    | none =>
      rw [hp] at h
      refine ⟨?_, by simp⟩
      cases ho : wOpcode r.msg.docket with
      | none => rw [ho] at h; exact h
      | some o =>
        rw [ho] at h
        cases o <;> first | exact h | (simp only at h; split at h; · cases h
                                       exact h)
    | some p =>
      rw [hp] at h
      cases ho : wOpcode r.msg.docket with
      | none => rw [ho] at h; exact ⟨h, by simp⟩
      | some o =>
        rw [ho] at h
        simp only at h
        by_cases q : (!if o = .fuse2 then r.fuseLegal p else r.planLegal p) = true
        · rw [if_pos q] at h; cases h
        · rw [if_neg q] at h
          split at h
          · cases h
          · refine ⟨h, ?_⟩
            intro p' o' e1 e2 hn
            cases e1; cases e2
            rw [if_neg hn] at q
            simpa using q
  have k := key _ h
  refine ⟨?_, k.2⟩
  intro b hb
  have k1 := k.1
  rw [hb] at k1
  simp only at k1
  split at k1
  · cases k1
  · omega

theorem prepare_ok (s : State) (m : MillId) (h : HandoutMsg) (r : Run) (e : prepare s m h = .ok r) :
    r.msg = h ∧ r.slot = h.slot ∧ r.dispatched = now s ∧ r.start = none ∧ r.walked = false ∧ r.cur = none ∧ r.tiles = 0 ∧
                (∀ b, r.bound s.granary.flat = some b → b * 5 ≤ (s.mills[m.val]).regs.capNs * 8) ∧
                (∀ o, wOpcode h.docket = some o → o.isMatmul = true → ∃ p, r.plan = some p ∧ r.planLegal p = true) := by
  unfold prepare at e
  simp only [bind, Except.bind] at e
  split at e; · cases e
  split at e; · cases e
  rename_i plan hplan
  split at e; · cases e
  split at e; · cases e
  rename_i ds hds
  split at e
  · split at e <;> cases e
  · split at e; · cases e
    rename_i u hu
    simp only [pure, Except.pure] at e
    cases e
    have pc := planCheck_ok _ _ _ _ hu
    refine ⟨rfl, rfl, rfl, rfl, rfl, rfl, rfl, pc.1, ?_⟩
    · intro o ho hm
      unfold readPlan at hplan
      have : planIdx h.docket = some 3 := by unfold planIdx; rw [ho]; simp [hm]
      rw [this] at hplan
      simp only at hplan
      split at hplan; · cases hplan
      cases hw : winRead s m (msgWin h) ((opWord h.docket 3).toNat * 64) 64 3 with
      | error f => rw [hw] at hplan; cases hplan
      | ok bs =>
        rw [hw] at hplan
        cases hplan
        refine ⟨_, rfl, ?_⟩
        exact pc.2 _ o rfl ho (by rintro rfl; cases hm)



theorem loopNest_mem (count : Nat → Nat) (codes : List Nat) (f0 f : Nat → Nat) (h : f ∈ loopNest count codes f0) :
    ∀ d, (d ∈ codes → f d < count d) ∧ (d ∉ codes → f d = f0 d) := by
  induction codes generalizing f0 with
  | nil => simp [loopNest] at h; subst h; simp
  | cons c cs ih =>
    simp only [loopNest, List.mem_flatMap, List.mem_range] at h
    obtain ⟨i, hi, hf⟩ := h
    have := ih _ hf
    intro d
    refine ⟨fun hd => ?_, fun hd => ?_⟩
    · by_cases hc : d ∈ cs
      · exact (this d).1 hc
      · rw [(this d).2 hc]
        rcases List.mem_cons.1 hd with rfl | hd
        · simpa using hi
        · exact absurd hd hc
    · simp only [List.mem_cons, not_or] at hd
      rw [(this d).2 hd.2, if_neg hd.1]

theorem isOrder_mem {o : BitVec 8} (h : isOrder o = true) : 0 ∈ loopCodes o ∧ 1 ∈ loopCodes o ∧ 2 ∈ loopCodes o ∧ 3 ∈ loopCodes o := by
  simpa [isOrder] using h

theorem ceil_lt {a b i : Nat} (hb : 1 ≤ b) (h : i < ceilDiv a b) : i * b < a := by
  unfold ceilDiv at h
  rw [Nat.lt_div_iff_mul_lt (by omega)] at h
  omega

theorem lt_ceil {a b i : Nat} (hb : 1 ≤ b) (h : i * b < a) : i < ceilDiv a b := by
  unfold ceilDiv
  rw [Nat.lt_div_iff_mul_lt (by omega)]
  omega

theorem atLeast1_pos (n : Nat) : 1 ≤ atLeast1 n := by unfold atLeast1; split <;> omega
theorem atLeast1_of {n : Nat} (h : 1 ≤ n) : atLeast1 n = n := by unfold atLeast1; rw [if_neg]; omega

theorem kRanges_mem {kb kt i k0 kn : Nat} (_hk : 1 ≤ kb) (h : (i, k0, kn) ∈ kRanges kb kt) :
    1 ≤ kn ∧ k0 + kn ≤ kb ∧ (kt ≠ 0 → kn ≤ kt ∧ k0 = i * kt) ∧ (i + 1 = (kRanges kb kt).length ↔ k0 + kn = kb) := by
  unfold kRanges at *
  dsimp only at *
  have hp : 1 ≤ (if kt = 0 then atLeast1 kb else kt) := by split; exact atLeast1_pos _; omega
  have hkt : kt ≠ 0 → (if kt = 0 then atLeast1 kb else kt) = kt := fun q => if_neg q
  generalize (if kt = 0 then atLeast1 kb else kt) = q at *
  simp only [List.mem_map, List.mem_range, Prod.mk.injEq] at h
  obtain ⟨j, hj, rfl, rfl, rfl⟩ := h
  have h1 := ceil_lt hp hj
  refine ⟨by omega, by omega, fun z => by rw [← hkt z]; omega, ?_⟩
  rw [List.length_map, List.length_range]
  constructor
  · intro e
    have : ¬ (j + 1) * q < kb := fun z => by have := lt_ceil hp z; omega
    rw [Nat.add_mul] at this
    omega
  · intro e
    have h2 : ¬ j + 1 < ceilDiv kb q := fun z => by
      have := ceil_lt hp z
      rw [Nat.add_mul] at this
      omega
    omega

theorem dealt_sub {α : Type} (l : List α) (i n : Nat) : ∀ x ∈ dealt l i n, x ∈ l := by
  intro x hx
  unfold dealt at hx
  simp only [List.mem_map, List.mem_filter] at hx
  obtain ⟨⟨y, k⟩, ⟨h1, -⟩, rfl⟩ := hx
  exact (List.mem_zipIdx h1).2.2 ▸ List.getElem_mem _

theorem outBlocks_mem {h : Shape} {p : Plan} {nT b hd mi ni : Nat} (o2 : isOrder p.orderL2 = true) (o1 : isOrder p.orderL1 = true)
    (hm : (b, hd, mi, ni) ∈ outBlocks h p nT) :
    b < h.batches ∧ hd < h.heads ∧ mi < ceilDiv h.rows (atLeast1 p.m1) ∧ ni < nT := by
  unfold outBlocks at hm
  simp only [List.mem_flatMap, List.mem_map] at hm
  obtain ⟨f, hf, g, hg, e⟩ := hm
  simp only [Prod.mk.injEq] at e
  obtain ⟨rfl, rfl, rfl, rfl⟩ := e
  have q := loopNest_mem _ _ _ _ hf
  have r := loopNest_mem _ _ _ _ hg
  obtain ⟨a0, a1, a2, a3⟩ := isOrder_mem o2
  obtain ⟨b0, b1, b2, b3⟩ := isOrder_mem o1
  have q0 := (q 0).1 a0
  have q1 := (q 1).1 a1
  have r2 := (r 2).1 b2
  have r3 := (r 3).1 b3
  simp at q0 q1 r2 r3
  refine ⟨q0, q1, by omega, by omega⟩

theorem tiles_ok (r : Run) (p : Plan) (m : MillId) (o2 : isOrder p.orderL2 = true) (o1 : isOrder p.orderL1 = true) (h1 : 1 ≤ p.m1) :
    (r.shape.rows = 0 ∨ r.shape.k = 0 ∨ r.shape.n = 0 → r.arrayTiles p m = []) ∧
    ∀ t ∈ r.arrayTiles p m,
      t.row0 = t.m * p.m1 ∧ 1 ≤ t.rows ∧ t.rows ≤ p.m1 ∧ t.row0 + t.rows ≤ r.shape.rows ∧
      1 ≤ t.ks ∧ (p.kt ≠ 0 → t.ks ≤ p.kt ∧ t.k0 = t.kr * p.kt) ∧ t.k0 + t.ks ≤ r.shape.kb ∧
      (r.isFuse = false → (t.lastK = true ↔ t.k0 + t.ks = r.shape.kb)) ∧
      (r.isFuse = false → t.n0 = t.n * p.n1 ∨ p.n1 = 0) ∧ t.n0 + t.ns ≤ r.shape.nb ∧ t.b < r.shape.batches ∧ t.h < r.shape.heads := by
  have key : ∀ t ∈ r.arrayTiles p m, ¬ (r.shape.rows = 0 ∨ r.shape.k = 0 ∨ r.shape.n = 0) ∧ (
      t.row0 = t.m * p.m1 ∧ 1 ≤ t.rows ∧ t.rows ≤ p.m1 ∧ t.row0 + t.rows ≤ r.shape.rows ∧
      1 ≤ t.ks ∧ (p.kt ≠ 0 → t.ks ≤ p.kt ∧ t.k0 = t.kr * p.kt) ∧ t.k0 + t.ks ≤ r.shape.kb ∧
      (r.isFuse = false → (t.lastK = true ↔ t.k0 + t.ks = r.shape.kb)) ∧
      (r.isFuse = false → t.n0 = t.n * p.n1 ∨ p.n1 = 0) ∧ t.n0 + t.ns ≤ r.shape.nb ∧ t.b < r.shape.batches ∧ t.h < r.shape.heads) := by
    intro t ht
    unfold Run.arrayTiles at ht
    dsimp only at ht
    simp only [List.mem_flatMap, List.mem_map] at ht
    obtain ⟨⟨b, hd, mi, ni⟩, hb, ⟨kr, k0, kn⟩, hk, rfl⟩ := ht
    have hb := dealt_sub _ _ _ _ hb
    split at hb
    · simp at hb
    · rename_i hkn
      simp only [Bool.or_eq_true, decide_eq_true_eq, not_or] at hkn
      obtain ⟨e1, e2, e3, e4⟩ := outBlocks_mem o2 o1 hb
      rw [atLeast1_of h1] at e3
      have e3' := ceil_lt h1 e3
      have hkb : 1 ≤ r.shape.kb := by
        have : 0 < ceilDiv r.shape.k r.shape.kSize := lt_ceil (by unfold Run.shape; dsimp only; split; (show 1 ≤ 256; decide); (dsimp only; split <;> decide)) (by omega)
        exact this
      have hkb2 : r.isFuse = true → 1 ≤ r.keyBlocks p (mi * p.m1 + min p.m1 (r.shape.rows - mi * p.m1) - 1) ∧
          r.keyBlocks p (mi * p.m1 + min p.m1 (r.shape.rows - mi * p.m1) - 1) ≤ r.shape.kb := by
        intro _; unfold Run.keyBlocks; split <;> omega
      dsimp only at hk ⊢
      refine ⟨by omega, ?_⟩
      cases hf : r.isFuse with
      | true =>
        rw [hf] at hk hkb2
        simp only [if_true] at hk ⊢
        have kk := kRanges_mem (hkb2 rfl).1 hk
        have := (hkb2 rfl).2
        refine ⟨trivial, by omega, by omega, by omega, by omega, kk.2.2.1, by omega, by simp, by simp, by omega, e1, e2⟩
      | false =>
        rw [hf] at hk hb e4
        simp only [Bool.false_eq_true, if_false] at hk e4 ⊢
        have kk := kRanges_mem hkb hk
        have e4' := ceil_lt (atLeast1_pos _) e4
        refine ⟨trivial, by omega, by omega, by omega, by omega, kk.2.2.1, by omega, fun _ => ?_, fun _ => ?_, by omega, e1, e2⟩
        · rw [decide_eq_true_eq]; exact kk.2.2.2
        · by_cases z : p.n1 = 0
          · exact .inr z
          · left; rw [atLeast1_of (by omega)]
  refine ⟨fun h => ?_, fun t ht => (key t ht).2⟩
  cases hl : r.arrayTiles p m with
  | nil => rfl
  | cons a l => exact absurd h (key a (by simp [hl])).1

theorem direct_ok (r : Run) (m : MillId) : ∀ t ∈ r.directTiles m,
    t.row0 = t.m * directRows (r.descD 0).padCols ∧ 1 ≤ t.rows ∧ t.rows ≤ directRows (r.descD 0).padCols ∧
    t.row0 + t.rows ≤ (r.descD 0).padRows ∧ t.lastK = true := by
  intro t ht
  unfold Run.directTiles at ht
  dsimp only at ht
  simp only [List.mem_map] at ht
  obtain ⟨⟨b, h, i⟩, hb, rfl⟩ := ht
  have hb := dealt_sub _ _ _ _ hb
  simp only [List.mem_flatMap, List.mem_map, List.mem_range, Prod.mk.injEq] at hb
  obtain ⟨b', -, h', -, i', hi, rfl, rfl, rfl⟩ := hb
  have := ceil_lt (atLeast1_pos _) hi
  generalize hz : (if (r.descD 0).padCols = 0 then 0
    else if (decide (wOpcode r.msg.docket = some .winnow) && decide (r.out.lenDim = 1)) = true then min (r.descD 0).padRows r.out.effRows
      else (r.descD 0).padRows) = z at *
  have hle : z ≤ (r.descD 0).padRows := by subst hz; split; omega; split <;> omega
  have hd : directRows (r.descD 0).padCols = atLeast1 (4096 / atLeast1 (r.descD 0).padCols) := rfl
  rw [← hd] at this
  have hd1 : 1 ≤ directRows (r.descD 0).padCols := atLeast1_pos _
  dsimp only
  refine ⟨rfl, ?_, ?_, ?_, rfl⟩ <;> omega

theorem walk_ok (s : State) (m : MillId) (r : Run) (o : Opcode) (f : Run → List Tile) (hr : (s.mills[m.val]).running = some r)
    (hw : r.walked = false) (ho : wOpcode r.msg.docket = some o) (ts : List Tile) (hts : f r = ts) :
      (ts ≠ [] → beginWalk s m o f = (onMill s m fun x => { x with running := some { r with walked := true, todo := ts } })) ∧
      (ts = [] → r.ending = none → r.abort = none → r.issued = [] → (s.mills[m.val]).mb.iso = false → wZeroSkipped r.msg.docket = false → r.sat = 0 → r.tiles = 0 →
        ∃ t d, beginWalk s m o f = t ∧ t.granary = s.granary ∧ t.control = { s.control with toControl := s.control.toControl ++ [(m, d)] } ∧ t.mem = s.mem ∧
          (t.mills[m.val]).running = none ∧ (t.mills[m.val]).slots = vmod (s.mills[m.val]).slots r.msg.slot (fun _ => none) ∧
          d.status = stOk ∧ d.tiles = 0 ∧ d.tag = wTag r.msg.docket ∧ d.chute = r.msg.chute ∧ d.slot = r.msg.slot) := by
  have hro : runOf s m o = some r := by unfold runOf; rw [hr]; simp [ho]
  have hrun : onRun s m (fun r => { r with walked := true, todo := f r }) = onMill s m fun x => { x with running := some { r with walked := true, todo := ts } } := by
    unfold onRun; apply onMill_congr; rw [hr, ← hts]; rfl
  constructor
  · intro hn
    unfold beginWalk
    rw [hro]; dsimp only
    rw [hw, hts]
    cases ts with
    | nil => exact absurd rfl hn
    | cons a l => simp only [Bool.false_eq_true, if_false, List.isEmpty_cons]; rw [hrun]
  · intro hn he ha hi hiso hz hsat ht
    subst hn
    unfold beginWalk
    rw [hro]; dsimp only
    rw [hw, hts]
    simp only [Bool.false_eq_true, if_false, List.isEmpty_nil, if_true]
    rw [hrun, boundary_last (r := { r with walked := true, todo := [] }) (by simp only [onMill_mills, vmod_self]) he ha hi rfl]
    unfold finishWalk
    rw [zeroSkipped_off (by exact hz)]
    unfold endCounted
    rw [endRun_open _ _ _ _ _ _ _ (by simp only [onMill_mills, vmod_self]; exact hiso)]
    refine ⟨_, _, rfl, rfl, rfl, rfl, ?_, ?_, ?_, ?_, rfl, rfl, rfl⟩
    · simp only [onControl_mills, onMill_mills, vmod_self]
    · simp only [onControl_mills, onMill_mills, vmod_self]
    · dsimp only; rw [hsat]; rfl
    · dsimp only; rw [ht]; rfl



theorem rangeStatus_ok {s : State} {m : MillId} {a len : Nat} (h : rowsOk s (some m) a len) : rangeStatus s m a len = (.ok, none) := by
  unfold rangeStatus
  have : (rowsOf a len).find? (fun r => decide (rowStatus s (some m) r ≠ .ok)) = none := by
    rw [List.find?_eq_none]
    intro r hr; simp [h r hr]
  rw [this]

theorem firstBad_ok {s : State} {m : MillId} {l : List (Nat × Nat)} (h : ∀ a n, (a, n) ∈ l → rowsOk s (some m) a n) :
    firstBad (l.map fun (a, n) => rangeStatus s m a n) = (.ok, none) := by
  unfold firstBad
  have : (l.map fun (a, n) => rangeStatus s m a n).find? (fun x => decide (x.1 ≠ .ok)) = none := by
    rw [List.find?_eq_none]
    intro x hx
    simp only [List.mem_map] at hx
    obtain ⟨⟨a, n⟩, h1, rfl⟩ := hx
    simp [rangeStatus_ok (h a n h1)]
  rw [this]

theorem startTile_plain {s : State} {m : MillId} {r : Run} {t : Tile} (h : t.kr = 0 ∨ r.plan = none) :
    startTile s m r t = onMill s m fun x => { x with
        regs := { x.regs with tilesIssued := bump x.regs.tilesIssued }
        running := some { r with start := some (r.start.getD (now s)), cur := some (r.tileRun t none), issued := [] } } := by
  have : (t.kr ≠ 0 && r.plan.isSome) = false := by rcases h with h | h <;> simp [h]
  unfold startTile
  simp only [this, Bool.false_eq_true, if_false, ne_eq, not_true_eq_false]

theorem startTile_spill {s : State} {m : MillId} {r : Run} {t : Tile} {p : Plan} (h : t.kr ≠ 0) (hp : r.plan = some p)
    (n : Nat) (hn : n = if r.isFuse then t.rows * (r.shape.n + 2) else r.tileEntries t)
    (hr : rowsOk s (some m) (spillAddr s.granary.flat m (msgWin r.msg) p) (8 * n)) :
    startTile s m r t = onMill s m fun x => { x with
        regs := { x.regs with tilesIssued := bump x.regs.tilesIssued }
        running := some { r with start := some (r.start.getD (now s)), cur := some (r.tileRun t (some (readSpill s.mem (spillAddr s.granary.flat m (msgWin r.msg) p) n))), issued := [] } } := by
  have h1 : (t.kr ≠ 0 && r.plan.isSome) = true := by simp [h, hp]
  have h2 : r.plan.getD (planOf []) = p := by rw [hp]; rfl
  unfold startTile
  dsimp only
  rw [h1, h2]
  simp only [if_true]
  rw [← hn, rangeStatus_ok hr, if_neg (by simp)]

theorem boundary_cases (v : State) (m : MillId) (r' : Run) (hq' : (v.mills[m.val]).running = some r') :
    (∀ e, r'.ending = some e → boundary v m = endWith v m r' e) ∧
    (∀ a, r'.ending = none → r'.abort = some a → boundary v m = endAborted v m r' a) ∧
    (r'.ending = none → r'.abort = none → r'.issued = [] → r'.todo = [] → boundary v m = finishWalk v m r') ∧
    (r'.ending = none → r'.abort = none → (r'.issued ≠ [] ∨ r'.todo ≠ []) → (v.mills[m.val]).wantsPreempt = true → boundary v m = preemptNow v m) ∧
    (∀ t rest, r'.ending = none → r'.abort = none → r'.issued = t :: rest → (v.mills[m.val]).wantsPreempt = false → boundary v m = startTile v m r' t) ∧
    (r'.ending = none → r'.abort = none → r'.issued = [] → r'.todo ≠ [] → (v.mills[m.val]).wantsPreempt = false → boundary v m = v) := by
  refine ⟨?_, ?_, ?_, ?_, ?_, ?_⟩
  · intro e he; unfold boundary; simp only [hq', he]
  · intro a he ha; unfold boundary; simp only [hq', he, ha]
  · intro he ha hi ht; exact boundary_last hq' he ha hi ht
  · intro he ha ho hwp; unfold boundary; simp only [hq', he, ha]
    cases hi : r'.issued with
    | cons a l => simp [hwp]
    | nil =>
      rcases ho with ho | ho
      · exact absurd hi ho
      · cases ht : r'.todo with
        | nil => exact absurd ht ho
        | cons a l => simp [hwp]
  · intro t rest he ha hi hwp; unfold boundary; simp [hq', he, ha, hi, hwp]
  · intro he ha hi ho hwp; unfold boundary; simp only [hq', he, ha, hi]
    cases ht : r'.todo with
    | nil => exact absurd ht ho
    | cons a l => simp [hwp]

theorem placeStatus_ne_uncorr (s : State) (own : Option MillId) (a : Nat) : placeStatus s own a ≠ .uncorr := by
  unfold placeStatus
  dsimp only
  repeat' split
  all_goals intro h; cases h

/-- Writing whole rows changes nothing but memory, poison and the rows whose CE write-back is cancelled. -/
theorem writeRows_whole (own : Option MillId) (n : Nat) : ∀ (s : State) (a : Nat) (bs : List Byte), a % 512 = 0 → bs.length % 512 = 0 →
    ∃ mem g, (writeRows s own a bs n).2 = { s with mem := mem, granary := g } ∧ g = { s.granary with poison := g.poison, banks := g.banks } := by
  induction n with
  | zero => intro s a bs _ _; exact ⟨s.mem, s.granary, rfl, rfl⟩
  | succ n ih =>
    intro s a bs ha hb
    unfold writeRows
    split
    · exact ⟨s.mem, s.granary, rfl, rfl⟩
    · rename_i b bs'
      have hl : (b :: bs').length ≥ 512 := by
        have : (b :: bs').length ≠ 0 := by simp
        omega
      dsimp only
      have key : ∃ mem g, (writeRowPart s own a ((b :: bs').take (512 - a % 512))).2 = { s with mem := mem, granary := g } ∧
          g = { s.granary with poison := g.poison, banks := g.banks } := by
        unfold writeRowPart
        have w : (decide (a % 512 = 0) && decide (((b :: bs').take (512 - a % 512)).length = 512)) = true := by
          rw [List.length_take, ha]
          generalize (b :: bs').length = z at hl
          simp only [decide_true, Bool.true_and, decide_eq_true_eq, Nat.sub_zero]
          omega
        dsimp only
        rw [w, if_pos rfl]
        split
        · exact ⟨_, _, rfl, rfl⟩
        · rename_i h; exact absurd h (placeStatus_ne_uncorr s own a)
        · exact ⟨s.mem, s.granary, rfl, rfl⟩
      obtain ⟨m1, g1, e1, f1⟩ := key
      obtain ⟨m2, g2, e2, f2⟩ := ih (writeRowPart s own a ((b :: bs').take (512 - a % 512))).2 (a + (512 - a % 512))
        ((b :: bs').drop (512 - a % 512)) (by omega) (by rw [List.length_drop]; omega)
      refine ⟨m2, g2, ?_, ?_⟩
      · rw [e2, e1]
      · rw [f2, e1]; dsimp only; rw [f1]

theorem scramble_frame (s : State) (m : MillId) (w : Win) (st n : Nat) :
    ∃ mem g, scramble s m w st n = { s with mem := mem, granary := g, free := s.free + 1 } ∧
      g = { s.granary with poison := g.poison, banks := g.banks } := by
  unfold scramble draw
  dsimp only
  unfold writeRange
  obtain ⟨mem, g, e, f⟩ := writeRows_whole (some m) ((leBytes (n * 512) (Config.fresh (8 * (n * 512)) s.free).toNat).length / 512 + 2)
    { s with free := s.free + 1 } (hopStart s.granary.flat m.val + (w.hopBase + st) * 512) (leBytes (n * 512) (Config.fresh (8 * (n * 512)) s.free).toNat)
    (by unfold hopStart hopTop; split <;> omega) (by rw [length_leBytes]; omega)
  exact ⟨mem, g, e, f⟩

theorem copyRanges_wf {mem base : Memory} {key : Nat} {l : List (Nat × Nat)} (h : Memory.wf base = true) :
    Memory.wf (copyRanges mem key base l) = true := by
  unfold copyRanges
  induction l generalizing base with
  | nil => exact h
  | cons q l ih => exact ih (writeBytes_wf _ _ h)

theorem length_readBytes (m : Memory) (a n : Nat) : (readBytes m a n).length = n := by rw [readBytes_eq]; simp

/-- The copy holds what memory held, and the rest of the store stands. -/
theorem copyRanges_read {mem : Memory} {key : Nat} {l : List (Nat × Nat)} : ∀ {base : Memory}, Memory.wf base = true →
    ∀ x, readByte (copyRanges mem key base l) (key + x) =
      if ∃ q ∈ l, q.1 ≤ x ∧ x < q.1 + q.2 then readByte mem x else readByte base (key + x) := by
  induction l with
  | nil => intro base _ x; simp [copyRanges]
  | cons q l ih =>
    intro base hw x
    have := ih (base := writeBytes base (key + q.1) (readBytes mem q.1 q.2)) (writeBytes_wf _ _ hw) x
    rw [show copyRanges mem key base (q :: l) = copyRanges mem key (writeBytes base (key + q.1) (readBytes mem q.1 q.2)) l from rfl, this]
    by_cases h1 : ∃ q ∈ l, q.1 ≤ x ∧ x < q.1 + q.2
    · rw [if_pos h1, if_pos (by obtain ⟨z, a, b⟩ := h1; exact ⟨z, List.mem_cons_of_mem _ a, b⟩)]
    · rw [if_neg h1]
      by_cases h2 : q.1 ≤ x ∧ x < q.1 + q.2
      · rw [if_pos ⟨q, List.mem_cons_self, h2⟩]
        have := readByte_writeBytes (m := base) (a := key + q.1) (bs := readBytes mem q.1 q.2) hw (x - q.1) (by rw [length_readBytes]; omega)
        rw [show key + q.1 + (x - q.1) = key + x by omega] at this
        rw [this]
        simp only [readBytes_eq, List.getElem_map, List.getElem_range]
        congr 1; omega
      · rw [if_neg (by rintro ⟨z, hz, hb⟩; rcases List.mem_cons.1 hz with rfl | hz; exact h2 hb; exact h1 ⟨z, hz, hb⟩)]
        exact readByte_writeBytes_other (by rw [length_readBytes]; omega)

end Sys2Proof.Machine
end

