-- ==== Sys2Proof/Laws/Banks.lean ====
section
/-! SUPPORT. Whole-row writes, FILL and COPY, and the order in which a bank grants its slots. -/

open Sys2Proof.Laws

namespace Sys2Proof.Machine

/-- What a row of memory writes leaves: everything but memory, poison and the rows whose CE write-back is cancelled. -/
structure RowsOnly (s u : State) : Prop where
  rest : u = { s with mem := u.mem, granary := { s.granary with poison := u.granary.poison, banks := u.granary.banks } }
  banks : ∀ b : BankId, bankReported s.granary.banks[b.val] u.granary.banks[b.val]
  canonical : Memory.wf s.mem = true → Memory.wf u.mem = true

theorem RowsOnly.refl (s : State) : RowsOnly s s := ⟨rfl, fun _ => rfl, id⟩

theorem RowsOnly.trans {s t u : State} (h : RowsOnly s t) (k : RowsOnly t u) : RowsOnly s u where
  rest := by rw [k.rest, h.rest]
  banks b := by
    have h1 := h.banks b
    have h2 := k.banks b
    unfold bankReported at *
    rw [h2, h1]
  canonical w := k.canonical (h.canonical w)

theorem RowsOnly.place {s u : State} (h : RowsOnly s u) (own : Option MillId) (a : Nat) : placeStatus u own a = placeStatus s own a := by
  rw [h.rest]; rfl

@[simp] theorem rowWritten_mem (s : State) (a : Nat) : (rowWritten s a).mem = s.mem := rfl

/-- A whole row that answers takes its bytes. -/
theorem writeRowPart_whole {s : State} {own : Option MillId} {a : Nat} {bs : List Byte} (ha : a % 512 = 0) (hl : bs.length = 512)
    (hp : placeStatus s own a = .ok) :
    writeRowPart s own a bs = (.ok, rowWritten { s with mem := writeBytes s.mem a bs } a) ∧
    RowsOnly s (rowWritten { s with mem := writeBytes s.mem a bs } a) := by
  constructor
  · unfold writeRowPart
    simp only [ha, hl, decide_true, Bool.and_self, if_true, hp]
  · refine ⟨rfl, fun b => ?_, fun w => writeBytes_wf _ _ w⟩
    simp only [rowWritten, onGran]
    split
    · exact vmod_rel' _ _ _ _
    · rfl

/-- Rows of one content written one after another. -/
theorem fillGo_ok {dst : Nat} {row : List Byte} (hd : dst % 512 = 0) (hl : row.length = 512) (n : Nat) : ∀ (k : Nat) (s : State),
    (∀ i, k ≤ i → i < k + n → placeStatus s none (dst + 512 * i) = .ok) → Memory.wf s.mem = true →
    ∃ u, fillGo dst row n k s = (.ok, k + n, u) ∧ RowsOnly s u ∧
      (∀ i, i < 512 * n → readByte u.mem (dst + 512 * k + i) = row[i % 512]'(by omega)) ∧
      (∀ a, (a < dst + 512 * k ∨ dst + 512 * k + 512 * n ≤ a) → readByte u.mem a = readByte s.mem a) := by
  induction n with
  | zero => intro k s _ _; exact ⟨s, rfl, .refl s, by intro i hi; omega, fun _ _ => rfl⟩
  | succ n ih =>
    intro k s hp hw
    obtain ⟨e, ro⟩ := writeRowPart_whole (s := s) (own := none) (a := dst + 512 * k) (bs := row) (by omega) hl (hp k (by omega) (by omega))
    obtain ⟨u, eu, ru, h1, h2⟩ := ih (k + 1) _ (fun i h1 h2 => by rw [ro.place]; exact hp i (by omega) (by omega)) (ro.canonical hw)
    refine ⟨u, ?_, ro.trans ru, ?_, ?_⟩
    · rw [fillGo, e]; dsimp only; rw [eu, show k + 1 + n = k + (n + 1) by omega]
    · intro i hi
      by_cases hlt : i < 512
      · rw [h2 _ (by omega)]
        have := readByte_writeBytes (m := s.mem) (a := dst + 512 * k) (bs := row) hw i (by omega)
        rw [rowWritten_mem, this]
        congr 1; rw [Nat.mod_eq_of_lt hlt]
      · have := h1 (i - 512) (by omega)
        rw [show dst + 512 * (k + 1) + (i - 512) = dst + 512 * k + i by omega] at this
        rw [this]
        have e : (i - 512) % 512 = i % 512 := by omega
        simp only [e]
    · intro a ha
      rw [h2 a (by omega)]
      exact readByte_writeBytes_other (by omega)

/-- The bytes of a pattern row. -/
theorem patternRow_length (v : Word) : (patternRow v).length = 512 := by
  unfold patternRow
  rw [List.length_flatten, List.map_replicate, List.sum_replicate_nat]
  rw [length_leBytes]

theorem replicate_flatten_get {α : Type} (l : List α) (n : Nat) : ∀ (i : Nat) (h : i < (List.replicate n l).flatten.length) (h2 : i % l.length < l.length),
    (List.replicate n l).flatten[i] = l[i % l.length] := by
  induction n with
  | zero => intro i h; simp at h
  | succ n ih =>
    intro i h h2
    simp only [List.replicate_succ, List.flatten_cons] at h ⊢
    rw [List.getElem_append]
    split
    · rename_i hlt; congr 1; rw [Nat.mod_eq_of_lt hlt]
    · rename_i hge
      have hm : (i - l.length) % l.length = i % l.length := by rw [← Nat.mod_eq_sub_mod (by omega)]
      rw [ih _ _ (by rw [hm]; exact h2)]
      congr 1

theorem leBytes_get (n : Nat) : ∀ (x i : Nat) (h : i < (leBytes n x).length), (leBytes n x)[i] = BitVec.ofNat 8 (x / 256 ^ i) := by
  induction n with
  | zero => intro x i h; simp [leBytes] at h
  | succ n ih =>
    intro x i h
    cases i with
    | zero => simp [leBytes]
    | succ i =>
      simp only [leBytes, List.getElem_cons_succ]
      rw [ih, Nat.div_div_eq_div_mul, Nat.pow_succ, Nat.mul_comm]

theorem patternRow_get (v : Word) (i : Nat) (h : i < (patternRow v).length) : (patternRow v)[i] = BitVec.ofNat 8 (v.toNat / 256 ^ (i % 4)) := by
  unfold patternRow at *
  rw [replicate_flatten_get _ _ _ _ (by rw [length_leBytes]; omega), leBytes_get]
  simp only [length_leBytes]

/-- Copying rows between ranges that do not meet. -/
theorem copyGo_ok {src dst : Nat} (hs : src % 512 = 0) (hd : dst % 512 = 0) (n : Nat) : ∀ (k : Nat) (s : State),
    (src + 512 * (k + n) ≤ dst + 512 * k ∨ dst + 512 * (k + n) ≤ src + 512 * k) →
    (∀ i, k ≤ i → i < k + n → rowStatus s none (src + 512 * i) = .ok) →
    (∀ i, k ≤ i → i < k + n → placeStatus s none (dst + 512 * i) = .ok) → Memory.wf s.mem = true →
    ∃ u, copyGo src dst n k s = (.ok, k + n, u) ∧ RowsOnly s u ∧
      (∀ i, i < 512 * n → readByte u.mem (dst + 512 * k + i) = readByte s.mem (src + 512 * k + i)) ∧
      (∀ a, (a < dst + 512 * k ∨ dst + 512 * k + 512 * n ≤ a) → readByte u.mem a = readByte s.mem a) := by
  induction n with
  | zero => intro k s _ _ _ _; exact ⟨s, rfl, .refl s, by intro i hi; omega, fun _ _ => rfl⟩
  | succ n ih =>
    intro k s hdis hr hp hw
    have hrow : rowsOk s none (src + 512 * k) 512 := by
      intro r hm
      unfold rowsOf at hm
      rw [List.mem_map] at hm
      obtain ⟨i, hi, rfl⟩ := hm
      rw [List.mem_range] at hi
      have := hr k (by omega) (by omega)
      have h0 : i = 0 := by omega
      subst h0
      rw [show (src + 512 * k) / 512 * 512 + 512 * 0 = src + 512 * k by omega]
      exact this
    obtain ⟨e, ro⟩ := writeRowPart_whole (s := s) (own := none) (a := dst + 512 * k) (bs := readBytes s.mem (src + 512 * k) 512) (by omega)
      (length_readBytes ..) (hp k (by omega) (by omega))
    obtain ⟨u, eu, ru, h1, h2⟩ := ih (k + 1) _ (by omega)
      (fun i h1 h2 => rowStatus_rowWritten (hr i (by omega) (by omega)))
      (fun i h1 h2 => by rw [ro.place]; exact hp i (by omega) (by omega)) (ro.canonical hw)
    have hb : ∀ a, readByte (rowWritten { s with mem := writeBytes s.mem (dst + 512 * k) (readBytes s.mem (src + 512 * k) 512) } (dst + 512 * k)).mem a =
        readByte (writeBytes s.mem (dst + 512 * k) (readBytes s.mem (src + 512 * k) 512)) a := fun _ => by rw [rowWritten_mem]
    refine ⟨u, ?_, ro.trans ru, ?_, ?_⟩
    · rw [copyGo, readRange_ok hrow]; dsimp only; rw [e]; dsimp only; rw [eu, show k + 1 + n = k + (n + 1) by omega]
    · intro i hi
      by_cases hlt : i < 512
      · rw [h2 _ (by omega), hb]
        have := readByte_writeBytes (m := s.mem) (a := dst + 512 * k) (bs := readBytes s.mem (src + 512 * k) 512) hw i (by rw [length_readBytes]; omega)
        rw [this]
        simp only [readBytes_eq, List.getElem_map, List.getElem_range]
      · have := h1 (i - 512) (by omega)
        rw [show dst + 512 * (k + 1) + (i - 512) = dst + 512 * k + i by omega, show src + 512 * (k + 1) + (i - 512) = src + 512 * k + i by omega, hb] at this
        rw [this]
        exact readByte_writeBytes_other (by rw [length_readBytes]; omega)
    · intro a ha
      rw [h2 a (by omega), hb]
      have hl := length_readBytes s.mem (src + 512 * k) 512
      exact readByte_writeBytes_other (by omega)

/-- Rows of a range that answers. -/
theorem rowsOk.row {s : State} {own : Option MillId} {a n i : Nat} (h : rowsOk s own a (512 * n)) (hi : i < n) :
    rowStatus s own (a + 512 * i) = .ok := h.at_ (by omega) (by omega)

/-- An address inside its window is the effective address. -/
theorem effAddr_of_effRange {flat : Bool} {m : Nat} {w : Win} {a len x : Nat} (h : effRange flat m w a len = some x) :
    effAddr flat m w a = some x := by
  unfold effRange at h
  unfold effAddr
  split at h
  · rename_i hg; rw [if_pos hg]
    split at h
    · exact h
    · cases h
  · rename_i hg
    rw [if_neg hg]
    split at h
    · rename_i ho
      rw [if_pos ho]
      simp only [Option.ite_none_right_eq_some, Option.some.injEq] at h
      rw [← h.2, Nat.add_assoc]
    · simp at h

/-- A request from the Millrace. -/
def isN (r : BankReq) : Bool := match r with | .narrow _ => true | _ => false
theorem isN_iff (r : BankReq) : isN r = true ↔ ∃ p, r = .narrow p := by cases r <;> simp [isN]

theorem find_split {α : Type} {l : List α} {f : α → Bool} {r : α} (h : (l.filter f).head? = some r) :
    ∃ before after, l = before ++ r :: after ∧ ∀ q ∈ before, f q = false := by
  rw [List.head?_filter] at h
  obtain ⟨_, as, bs, e, h2⟩ := List.find?_eq_some_iff_append.1 h
  exact ⟨as, bs, e, fun q hq => by simpa using h2 q hq⟩

/-- Which request a bank's slot grants (05 R103). -/
theorem nextReq_spec (x : Bank) :
    (∀ r, nextReq x = some r → r ∈ x.queue ∧
      (15 ≤ x.wideRun → (∃ q ∈ x.queue, ∃ p, q = .narrow p) → (∃ p, r = .narrow p) ∧ ∃ before after, x.queue = before ++ r :: after ∧ ∀ q ∈ before, ¬ ∃ p, q = .narrow p) ∧
      ((x.wideRun < 15 ∨ ¬ ∃ q ∈ x.queue, ∃ p, q = .narrow p) → (∃ q ∈ x.queue, ¬ ∃ p, q = .narrow p) →
        ∃ k, k < 4 ∧ (∃ m w row, r = .wide m w row ∧ m.val % 4 = (x.rr.val + k) % 4) ∧ ∀ j, j < k → ∀ q ∈ x.queue, ¬ ∃ m w row, q = .wide m w row ∧ m.val % 4 = (x.rr.val + j) % 4) ∧
      ((∀ q ∈ x.queue, ∃ p, q = .narrow p) → x.wideRun < 15 → (∃ p, .narrow p ∈ x.queue ∧ p.vn = 3) → ∃ p, r = .narrow p ∧ p.vn = 3)) ∧
    (x.queue = [] ↔ nextReq x = none) := by
  let wideF := fun (i : Nat) (r : BankReq) => match r with | .wide m _ _ => decide (m.val % 4 = (x.rr.val + i) % 4) | _ => false
  let urg := fun (r : BankReq) => match r with | .narrow p => decide (p.vn = 3) | _ => false
  let narrow := x.queue.filter isN
  let firstWide := (List.range 4).findSome? fun i => x.queue.find? (wideF i)
  have hdef : nextReq x = if 15 ≤ x.wideRun && !narrow.isEmpty then narrow.head? else firstWide.orElse fun _ => (narrow.find? urg).orElse fun _ => narrow.head? := rfl
  have hne : (!narrow.isEmpty) = true ↔ ∃ q ∈ x.queue, ∃ p, q = .narrow p := by
    constructor
    · intro h
      cases hn : narrow with
      | nil => rw [hn] at h; simp at h
      | cons a l =>
        have : a ∈ narrow := by rw [hn]; simp
        simp only [narrow, List.mem_filter] at this
        exact ⟨a, this.1, (isN_iff a).1 this.2⟩
    · rintro ⟨q, hq, hp⟩
      have : q ∈ narrow := by simp only [narrow, List.mem_filter]; exact ⟨hq, (isN_iff q).2 hp⟩
      cases hn : narrow with
      | nil => rw [hn] at this; cases this
      | cons a l => rfl
  have hfw : ∀ r, firstWide = some r → r ∈ x.queue ∧ ∃ k, k < 4 ∧ (∃ m w row, r = .wide m w row ∧ m.val % 4 = (x.rr.val + k) % 4) ∧ ∀ j, j < k → ∀ q ∈ x.queue, ¬ ∃ m w row, q = .wide m w row ∧ m.val % 4 = (x.rr.val + j) % 4 := by
    intro r hr
    simp only [firstWide, List.findSome?_eq_some_iff] at hr
    obtain ⟨l1, k, l2, e, hf, hb⟩ := hr
    have hk : k < 4 ∧ ∀ j, j < k → j ∈ l1 := by
      have hlen : l1.length = k ∧ k < 4 := by
        have h1 : (List.range 4)[l1.length]? = some k := by rw [e]; simp
        rw [List.getElem?_range] at h1
        · have hl : l1.length < 4 := by have := congrArg List.length e; simp at this; omega
          simp at h1; omega
        · have := congrArg List.length e; simp at this; omega
      refine ⟨hlen.2, fun j hj => ?_⟩
      have h1 : (List.range 4)[j]? = some j := by rw [List.getElem?_range (by omega)]
      rw [e, List.getElem?_append_left (by omega)] at h1
      exact List.mem_of_getElem? h1
    have h1 := List.find?_some hf
    refine ⟨List.mem_of_find?_eq_some hf, k, hk.1, ?_, ?_⟩
    · cases r with
      | wide m w row => exact ⟨m, w, row, rfl, by simpa [wideF] using h1⟩
      | narrow p => simp [wideF] at h1
    · intro j hj q hq ⟨m, w, row, e1, e2⟩
      have := hb j (hk.2 j hj)
      rw [List.find?_eq_none] at this
      have := this q hq
      subst e1
      simp [wideF, e2] at this
  have hfn : firstWide = none → ∀ q ∈ x.queue, ∃ p, q = .narrow p := by
    intro hn q hq
    cases q with
    | narrow p => exact ⟨p, rfl⟩
    | wide m w row =>
      exfalso
      simp only [firstWide, List.findSome?_eq_none_iff] at hn
      have : ∃ k, k < 4 ∧ m.val % 4 = (x.rr.val + k) % 4 := ⟨(m.val + 4 - x.rr.val) % 4, Nat.mod_lt _ (by decide), by omega⟩
      obtain ⟨k, hk, hk2⟩ := this
      have h1 := hn k (List.mem_range.2 hk)
      rw [List.find?_eq_none] at h1
      have := h1 _ hq
      simp [wideF, hk2] at this
  refine ⟨fun r hr => ?_, ?_⟩
  · rw [hdef] at hr
    split at hr
    · rename_i hc
      simp only [Bool.and_eq_true, decide_eq_true_eq] at hc
      have hm : r ∈ narrow := List.mem_of_head? hr
      simp only [narrow, List.mem_filter] at hm
      obtain ⟨b, a, e, hb⟩ := find_split hr
      refine ⟨hm.1, fun _ _ => ⟨(isN_iff r).1 hm.2, b, a, e, fun q hq h => ?_⟩, fun h => ?_, fun _ h => ?_⟩
      · have := hb q hq; rw [(isN_iff q).2 h] at this; cases this
      · rcases h with h | h
        · omega
        · exact absurd (hne.1 hc.2) h
      · omega
    · rename_i hc
      simp only [Bool.and_eq_true, decide_eq_true_eq, not_and] at hc
      cases hw : firstWide with
      | some r' =>
        rw [hw] at hr; simp only [Option.orElse_some, Option.some.injEq] at hr; subst hr
        obtain ⟨h1, h2⟩ := hfw r' hw
        refine ⟨h1, fun h3 h4 => absurd (hne.2 h4) (hc h3), fun _ _ => h2, fun h3 => ?_⟩
        obtain ⟨k, _, ⟨m, w, row, e, _⟩, _⟩ := h2
        obtain ⟨p, hp⟩ := h3 _ h1
        rw [e] at hp; cases hp
      | none =>
        rw [hw] at hr; simp only [Option.orElse_none] at hr
        have hall := hfn hw
        have hmem : r ∈ narrow := by
          cases hu : narrow.find? urg with
          | some y => rw [hu] at hr; simp only [Option.orElse_some, Option.some.injEq] at hr; subst hr; exact List.mem_of_find?_eq_some hu
          | none => rw [hu] at hr; simp only [Option.orElse_none] at hr; exact List.mem_of_head? hr
        simp only [narrow, List.mem_filter] at hmem
        refine ⟨hmem.1, fun h3 h4 => absurd (hne.2 h4) (hc h3), fun _ h4 => ?_, fun _ _ h5 => ?_⟩
        · obtain ⟨q, h6, h7⟩ := h4; exact absurd (hall q h6) h7
        · obtain ⟨p, hp, hv⟩ := h5
          cases hu : narrow.find? urg with
          | some y =>
            rw [hu] at hr; simp only [Option.orElse_some, Option.some.injEq] at hr; subst hr
            have := List.find?_some hu
            cases y with
            | narrow p => exact ⟨p, rfl, by simpa [urg] using this⟩
            | wide m w row => simp [urg] at this
          | none =>
            rw [List.find?_eq_none] at hu
            have := hu (.narrow p) (by simp only [narrow, List.mem_filter]; exact ⟨hp, rfl⟩)
            simp [urg, hv] at this
  · rw [hdef]
    constructor
    · intro h
      have : narrow = [] := by simp only [narrow, h]; rfl
      simp [firstWide, h, this]
    · intro h
      split at h
      · rename_i hc
        simp only [Bool.and_eq_true] at hc
        rw [List.head?_eq_none_iff] at h
        rw [h] at hc; simp at hc
      · cases hw : firstWide with
        | some r => rw [hw] at h; simp at h
        | none =>
          have hall := hfn hw
          rw [hw] at h; simp only [Option.orElse_none] at h
          have hn : narrow = [] := by
            cases hu : narrow.find? urg with
            | some y => rw [hu] at h; simp at h
            | none => rw [hu] at h; simp only [Option.orElse_none] at h; exact List.head?_eq_none_iff.1 h
          cases hq : x.queue with
          | nil => rfl
          | cons a l =>
            have : a ∈ narrow := by simp only [narrow, List.mem_filter]; exact ⟨by rw [hq]; simp, (isN_iff a).2 (hall a (by rw [hq]; simp))⟩
            rw [hn] at this; cases this

end Sys2Proof.Machine
end

