-- ==== Sys2Proof/Laws/Chutes.lean ====
section
/-! SUPPORT. What the chute controller's own operations do: the head of a chute, its waits, the dockets it completes itself. -/

namespace Sys2Proof.Machine
open Sys2Proof Sys2Proof.Laws

/-- A command whose operation answers a state with no error to report. -/
theorem quiet_next {s t : State} (h : s.up) (q : t.granary.errPend = false) (f : State → State) (e : f s = t) : liveRows s f = .next t := by
  rw [liveRows_next h, e, settleErr_quiet q]

/-- A command whose operation leaves nothing to report, from a state that has nothing to report. -/
theorem next_same {s t : State} {f : State → State} (h : s.up) (q : s.granary.errPend = false) (e : f s = t)
    (g : t.granary.errPend = s.granary.errPend) : liveRows s f = .next t := quiet_next h (g.trans q) f e

/-- With no unreadable docket at its head a chute has none to complete. -/
theorem settleFaults_ok (c : ChuteId) (n : Nat) (s : State) (h : ∀ p ∈ (s.control.chutes[c.val]).pending, p.fault = .ok) :
    settleFaults s c n = s := by
  cases n with
  | zero => rfl
  | succ n =>
    unfold settleFaults
    split
    · rfl
    · rename_i p rest e
      rw [if_pos (h p (by rw [e]; simp))]

/-- Then only the waits are checked. -/
theorem settleHead_ok (c : ChuteId) (s : State) (h : ∀ p ∈ (s.control.chutes[c.val]).pending, p.fault = .ok) :
    settleHead s c = checkWaits s := by
  unfold settleHead; rw [settleFaults_ok c _ s h]

/-- HEAD advances by one; its HEAD word is the ledger's affair. -/
theorem advanceHead_chutes (s : State) (c : ChuteId) :
    (advanceHead s c).control = (onChute s c fun ch => { ch with head := ch.head + 1 }).control := by
  unfold advanceHead; dsimp only; split <;> rfl

theorem popHead_nil {s : State} {c : ChuteId} (h : (s.control.chutes[c.val]).pending = []) : popHead s c = s := by
  unfold popHead; rw [h]

/-- The head docket leaves the list; HEAD advances past a docket of doorbell mode only (06 R140 item 3, R148). -/
theorem popHead_cons {s : State} {c : ChuteId} {p : Pending} {rest : List Pending} (h : (s.control.chutes[c.val]).pending = p :: rest) :
    (popHead s c).control = (onChute s c fun ch => { ch with pending := rest, head := if p.inst then ch.head else ch.head + 1 }).control := by
  unfold popHead; rw [h]
  dsimp only
  cases p.inst
  · simp only [Bool.false_eq_true, if_false]
    rw [advanceHead_chutes, onChute_onChute]
  · simp

/-- A docket the controller completes itself takes one number and is reported. -/
theorem controllerDone_reported (s : State) (c : ChuteId) (p : Pending) (st : Byte) (sub : Nat) :
    Reported (onControl s fun k => { k with nextId := k.nextId + 1 }) (controllerDone s c p st sub) := by
  unfold controllerDone; exact complete_reported ..

/-- Reporting, with a docket number taken on both sides. -/
theorem Reported.nextId {s t : State} (r : Reported s t) :
    Reported (onControl s fun k => { k with nextId := k.nextId + 1 }) (onControl t fun k => { k with nextId := k.nextId + 1 }) where
  rest := by have := r.rest; unfold onControl; dsimp only; rw [this]
  mills := r.mills
  control := by have := r.control; simp only [onControl_control]; rw [this]
  chutes := r.chutes
  granary := r.granary
  banks := r.banks
  gauge := r.gauge
  ports := r.ports
  spigot := r.spigot
  mem := r.mem
  canonical := r.canonical

/-- Checking waits changes only the marks of waiting dockets and the Bells. -/
def waitsOnly (s t : State) : Prop :=
  t = { s with control := { s.control with chutes := t.control.chutes, bells := t.control.bells } } ∧
  ∀ d : ChuteId, t.control.chutes[d.val] = { s.control.chutes[d.val] with pending := (t.control.chutes[d.val]).pending }

theorem waitsOnly_trans {s t u : State} (h : waitsOnly s t) (k : waitsOnly t u) : waitsOnly s u := by
  constructor
  · have a := h.1; have b := k.1; rw [a] at b; exact b
  · intro d
    have a := h.2 d; have b := k.2 d; rw [a] at b; exact b

theorem waitsOnly_chute (s : State) (c : ChuteId) (f : Chute → Chute) (h : ∀ x, f x = { x with pending := (f x).pending }) :
    waitsOnly s (onChute s c f) := by
  refine ⟨rfl, fun d => ?_⟩
  simp only [onChute_control, vmod_get]
  split
  · exact h _
  · rfl

theorem checkWait_only (s : State) (c : ChuteId) : waitsOnly s (checkWait s c) := by
  unfold checkWait
  dsimp only
  split
  · exact ⟨rfl, fun _ => rfl⟩
  · split
    · exact ⟨rfl, fun _ => rfl⟩
    · split
      · split
        · exact waitsOnly_trans (waitsOnly_chute s c _ fun _ => rfl) ⟨rfl, fun _ => rfl⟩
        · exact waitsOnly_chute s c _ fun _ => rfl
      · split
        · exact waitsOnly_chute s c _ fun _ => rfl
        · exact ⟨rfl, fun _ => rfl⟩

theorem checkWaits_only (s : State) : waitsOnly s (checkWaits s) := by
  unfold checkWaits
  generalize handOutOrder s.control = l
  induction l generalizing s with
  | nil => exact ⟨rfl, fun _ => rfl⟩
  | cons x l ih => exact waitsOnly_trans (checkWait_only s x) (ih _)

theorem checkWaits_nil (s : State) (h : ∀ c : ChuteId, (s.control.chutes[c.val]).pending = []) : checkWaits s = s := by
  unfold checkWaits
  have : ∀ l : List ChuteId, l.foldl checkWait s = s := by
    intro l
    induction l with
    | nil => rfl
    | cons x l ih =>
      rw [List.foldl_cons]
      have : checkWait s x = s := by unfold checkWait; simp only [h x]
      rw [this, ih]
  exact this _

theorem checkWaits_nil2 (s u : State) (hu : u.control.chutes = s.control.chutes) (h : ∀ c : ChuteId, (s.control.chutes[c.val]).pending = []) : checkWaits u = u :=
  checkWaits_nil u fun c => by simp only [hu]; exact h c

theorem map_same {α : Type} {n : Nat} (v : Vector α n) (f : α → α) (h : ∀ i : Fin n, f v[i.val] = v[i.val]) : v.map f = v := by
  apply Vector.ext
  intro i hi
  rw [Vector.getElem_map]
  exact h ⟨i, hi⟩

theorem raiseBells_plain (s : State) (set : BitVec 256)
    (h : ∀ c : ChuteId, (s.control.chutes[c.val]).pending = [] ∧ (s.control.chutes[c.val]).relMode ≠ 2)
    (hp : ∀ p : CamId, (s.gauge.ports[p.val]).ring = none) :
    raiseBells s set = onControl s fun k => { k with bells := k.bells ||| set, bellLost := bump k.bellLost (setBits (set &&& k.bells)).length } := by
  unfold raiseBells
  dsimp only
  generalize hl : List.filter _ (handOutOrder _) = chutes
  have hc : chutes = [] := by
    rw [← hl, List.filter_eq_nil_iff]
    intro c _
    have := (h c).2
    simp [this]
  rw [hc]
  simp only [List.foldl_nil]
  have hg : ∀ (u : State) (fresh : BitVec 256), u.gauge = s.gauge → onGauge u (fun g => { g with ports := g.ports.map fun p => if (p.ring.isSome && fresh.getLsbD p.relBell.val) = true then releaseSlots p 1 else p }) = u := by
    intro u fresh hu
    unfold onGauge
    have : (u.gauge.ports.map fun p => if (p.ring.isSome && fresh.getLsbD p.relBell.val) = true then releaseSlots p 1 else p) = u.gauge.ports := by
      apply map_same
      intro i
      rw [hu, hp i]
      simp
    dsimp only
    rw [this]
  rw [hg (onControl s _) _ rfl, checkWaits_nil2 s (onControl s _) rfl (fun c => (h c).1)]
  have hf : ∀ (l : List CamPort) (acc : BitVec 256) (fresh : BitVec 256), (∀ p ∈ l, p.ring = none) → l.foldl (fun acc p =>
      if (p.ring.isSome && fresh.getLsbD p.relBell.val) = true then acc ||| oneBell p.relBell else acc) acc = acc := by
    intro l
    induction l with
    | nil => intros; rfl
    | cons x l ih =>
      intro acc fresh hl
      rw [List.foldl_cons, hl x (by simp)]
      simp only [Option.isSome_none, Bool.false_and, Bool.false_eq_true, if_false]
      exact ih _ _ fun p hp => hl p (by simp [hp])
  rw [hf _ _ _ (by
    intro p hpm
    simp only [onControl_gauge, Vector.mem_toList_iff] at hpm
    obtain ⟨i, hi, e⟩ := Vector.getElem_of_mem hpm
    rw [← e]; exact hp ⟨i, hi⟩)]
  clear hl hg
  unfold onControl
  simp
  exact BitVec.and_allOnes

/-- What clearing one Mill does to the Mills (05 R120). -/
theorem clearMill_mills (s : State) (m : MillId) : (clearMill s m).mills = vmod s.mills m fun x =>
    { x with regs := { x.regs with hopClearing := true }, querns := x.querns.map Quern.zeroed, purses := [], purseCeWrite := [] } := by
  unfold clearMill
  dsimp only
  split <;> rfl

/-- and what it leaves. -/
theorem clearMill_rest (s : State) (m : MillId) : (clearMill s m).control = s.control ∧ (clearMill s m).granary.flat = s.granary.flat ∧
    (clearMill s m).granary.errPend = s.granary.errPend ∧ (clearMill s m).service = s.service := by
  unfold clearMill
  dsimp only
  split <;> exact ⟨rfl, rfl, rfl, rfl⟩

/-- The Hopper reads zero, in tiered mode. -/
theorem clearMill_mem (s : State) (m : MillId) (a : Nat) : readByte (clearMill s m).mem a =
    if s.granary.flat = false ∧ 0x1000000000 + m.val * 0x01000000 ≤ a ∧ a < 0x1000000000 + m.val * 0x01000000 + 0x00800000 then 0 else readByte s.mem a := by
  unfold clearMill
  dsimp only
  by_cases hf : s.granary.flat = true
  · rw [if_pos (by exact hf), if_neg (by simp [hf])]; rfl
  · rw [if_neg (by exact hf)]
    show readByte (zeroRange (w := 8) s.mem (hopTop + m.val * 0x01000000) 0x00800000) a = _
    by_cases h : 0x1000000000 + m.val * 0x01000000 ≤ a ∧ a < 0x1000000000 + m.val * 0x01000000 + 0x00800000
    · rw [if_pos ⟨by simpa using hf, h⟩]; exact readByte_zeroRange h
    · rw [if_neg (by intro e; exact h e.2)]; exact readByte_zeroRange_other (by unfold hopTop; omega)

/-- Clearing several Mills. -/
theorem clears (l : List MillId) : ∀ s : State,
    (l.foldl clearMill s).control = s.control ∧ (l.foldl clearMill s).granary.flat = s.granary.flat ∧
    (l.foldl clearMill s).granary.errPend = s.granary.errPend ∧
    (∀ m : MillId, (l.foldl clearMill s).mills[m.val] = if m ∈ l then { s.mills[m.val] with
      regs := { (s.mills[m.val]).regs with hopClearing := true }, querns := (s.mills[m.val]).querns.map Quern.zeroed, purses := [], purseCeWrite := [] } else s.mills[m.val]) ∧
    (∀ a, readByte (l.foldl clearMill s).mem a = if s.granary.flat = false ∧ ∃ m ∈ l, 0x1000000000 + m.val * 0x01000000 ≤ a ∧ a < 0x1000000000 + m.val * 0x01000000 + 0x00800000 then 0 else readByte s.mem a) := by
  induction l with
  | nil => intro s; simp
  | cons x l ih =>
    intro s
    rw [List.foldl_cons]
    obtain ⟨i1, i2, i3, i4, i5⟩ := ih (clearMill s x)
    obtain ⟨r1, r2, r3, r4⟩ := clearMill_rest s x
    refine ⟨by rw [i1, r1], by rw [i2, r2], by rw [i3, r3], ?_, ?_⟩
    · intro m
      rw [i4]
      simp only [clearMill_mills, vmod_get]
      by_cases hx : m = x
      · subst hx
        by_cases hl : m ∈ l
        · simp only [hl, if_true, List.mem_cons, or_true]
          congr 1
          rw [Vector.map_map]
          rfl
        · simp [hl]
      · have hv : ¬ m.val = x.val := fun e => hx (Fin.ext e)
        simp [hx, hv]
    · intro a
      rw [i5, r2, clearMill_mem]
      by_cases hf : s.granary.flat = false
      · simp only [hf, true_and, List.mem_cons, exists_eq_or_imp]
        by_cases h1 : ∃ m ∈ l, 0x1000000000 + m.val * 0x01000000 ≤ a ∧ a < 0x1000000000 + m.val * 0x01000000 + 0x00800000
        · rw [if_pos h1, if_pos (.inr h1)]
        · rw [if_neg h1]
          by_cases h2 : 0x1000000000 + x.val * 0x01000000 ≤ a ∧ a < 0x1000000000 + x.val * 0x01000000 + 0x00800000
          · rw [if_pos h2, if_pos (.inl h2)]
          · rw [if_neg h2, if_neg (by rintro (h | h); exact h2 h; exact h1 h)]
      · simp [hf]

end Sys2Proof.Machine
end

