-- ==== Sys2Proof/Laws/Parts.lean ====
section
/-! SUPPORT. Updates of a part of the state that agree on what they find, or leave it as it is; tests of device time; what the
status of a row depends on. -/

namespace Sys2Proof.Laws
open Sys2Proof Sys2Proof.Machine

theorem onControl_congr (s : State) {f g : Control → Control} (h : f s.control = g s.control) : onControl s f = onControl s g := by
  unfold onControl; rw [h]
theorem onGran_congr (s : State) {f g : Granary → Granary} (h : f s.granary = g s.granary) : onGran s f = onGran s g := by
  unfold onGran; rw [h]
theorem onNet_congr (s : State) {f g : Net → Net} (h : f s.net = g s.net) : onNet s f = onNet s g := by unfold onNet; rw [h]
theorem onGauge_congr (s : State) {f g : Gauge → Gauge} (h : f s.gauge = g s.gauge) : onGauge s f = onGauge s g := by
  unfold onGauge; rw [h]
theorem onSpigot_congr (s : State) {f g : Spigot → Spigot} (h : f s.spigot = g s.spigot) : onSpigot s f = onSpigot s g := by
  unfold onSpigot; rw [h]
theorem onService_congr (s : State) {f g : Service → Service} (h : f s.service = g s.service) : onService s f = onService s g := by
  unfold onService; rw [h]
theorem onAssay_congr (s : State) {f g : Assay → Assay} (h : f s.assay = g s.assay) : onAssay s f = onAssay s g := by
  unfold onAssay; rw [h]
theorem onVault_congr (s : State) {f g : Vault → Vault} (h : f s.vault = g s.vault) : onVault s f = onVault s g := by
  unfold onVault; rw [h]
theorem onFlume_congr (s : State) {f g : Flume → Flume} (h : f s.flume = g s.flume) : onFlume s f = onFlume s g := by
  unfold onFlume; rw [h]
theorem onLedger_congr (s : State) {f g : Ledger → Ledger} (h : f s.ledger = g s.ledger) : onLedger s f = onLedger s g := by
  unfold onLedger; rw [h]
theorem onClapper_congr (s : State) {f g : Clapper → Clapper} (h : f s.clapper = g s.clapper) : onClapper s f = onClapper s g := by
  unfold onClapper; rw [h]

theorem onControl_same (s : State) {f : Control → Control} (h : f s.control = s.control) : onControl s f = s := by unfold onControl; rw [h]
theorem onGran_same (s : State) {f : Granary → Granary} (h : f s.granary = s.granary) : onGran s f = s := by unfold onGran; rw [h]
theorem onNet_same (s : State) {f : Net → Net} (h : f s.net = s.net) : onNet s f = s := by unfold onNet; rw [h]
theorem onGauge_same (s : State) {f : Gauge → Gauge} (h : f s.gauge = s.gauge) : onGauge s f = s := by unfold onGauge; rw [h]
theorem onSpigot_same (s : State) {f : Spigot → Spigot} (h : f s.spigot = s.spigot) : onSpigot s f = s := by unfold onSpigot; rw [h]
theorem onService_same (s : State) {f : Service → Service} (h : f s.service = s.service) : onService s f = s := by unfold onService; rw [h]
theorem onAssay_same (s : State) {f : Assay → Assay} (h : f s.assay = s.assay) : onAssay s f = s := by unfold onAssay; rw [h]
theorem onVault_same (s : State) {f : Vault → Vault} (h : f s.vault = s.vault) : onVault s f = s := by unfold onVault; rw [h]
theorem onFlume_same (s : State) {f : Flume → Flume} (h : f s.flume = s.flume) : onFlume s f = s := by unfold onFlume; rw [h]
theorem onLedger_same (s : State) {f : Ledger → Ledger} (h : f s.ledger = s.ledger) : onLedger s f = s := by unfold onLedger; rw [h]
theorem onClapper_same (s : State) {f : Clapper → Clapper} (h : f s.clapper = s.clapper) : onClapper s f = s := by unfold onClapper; rw [h]

/-- Counting nothing changes no counter. -/
theorem bump_zero (c : Word) : bump c 0 = c := by
  unfold bump satAdd
  have := c.isLt
  rw [Nat.add_zero, if_pos this]
  exact BitVec.eq_of_toNat_eq (by simp)

theorem elapsed_iff (s : State) (t : Word64) (n : Nat) : elapsed s t n = true ↔ t.toNat + n ≤ (now s).toNat := by
  unfold elapsed; rw [decide_eq_true_eq]

theorem usElapsed_iff (s : State) (t : Word64) (n : Nat) : usElapsed s t n = true ↔ t.toNat / 1000 + n + 1 ≤ (now s).toNat / 1000 := by
  unfold usElapsed; rw [decide_eq_true_eq]

/-- What the status of a place depends on. -/
theorem placeStatus_congr {s t : State} {own : Option MillId} {a : Nat} (h1 : t.granary.plots = s.granary.plots)
    (h2 : t.granary.quadDead = s.granary.quadDead) (h3 : t.granary.flat = s.granary.flat) (h4 : t.granary.busy = s.granary.busy)
    (h5 : t.net = s.net) : placeStatus t own a = placeStatus s own a := by
  unfold placeStatus
  rw [h1, h2, h3, h4, h5]

theorem rowStatus_congr {s t : State} {own : Option MillId} {a : Nat} (h1 : t.granary = s.granary) (h2 : t.net = s.net) :
    rowStatus t own a = rowStatus s own a := by
  unfold rowStatus poisoned
  rw [placeStatus_congr (s := s) (t := t) (by rw [h1]) (by rw [h1]) (by rw [h1]) (by rw [h1]) h2, h1]

/-- Rows that answer, from a state with the same Granary and mesh. -/
theorem rowsOk_congr {s t : State} {own : Option MillId} {a n : Nat} (h1 : t.granary = s.granary) (h2 : t.net = s.net) (h : rowsOk s own a n) :
    rowsOk t own a n := by
  intro r hr
  rw [rowStatus_congr h1 h2]; exact h r hr

/-- A change of an element of a vector that every element satisfies makes it the mapped vector. -/
theorem vec_map_eq {α : Type} {n : Nat} {v w : Vector α n} {f : α → α} (h : ∀ c : Fin n, w[c.val] = f v[c.val]) : w = v.map f := by
  apply Vector.ext
  intro i hi
  rw [Vector.getElem_map]
  exact h ⟨i, hi⟩

end Sys2Proof.Laws
end

