-- ==== Sys2Proof/WellFormed.lean ====
section
/-! DEFINITION. Which commands are well formed: operands that the interface of each row can carry. Every check is named. -/

namespace Sys2Proof

/-- A register address names a whole 32-bit word (21 R482). -/
def wordAligned (a : Word) : Bool := a.toNat % 4 = 0

/-- A packet's payload has the length of its kind (11 Table 11.4): four flits carry one row. -/
def Packet.payloadOk (p : Packet) : Bool :=
  match p.kind.toNat with
  | 0 => p.payload.isEmpty && !p.sub
  | 1 => p.payload.length = 512 && !p.sub
  | 2 => p.sub && (if p.status = .ok then p.payload.length = 512 else p.payload.isEmpty)
  | 3 | 5 => p.sub && p.payload.isEmpty
  | 4 => !p.sub && decide (p.payload.length ≤ 512)
  | _ => decide (p.payload.length ≤ 512)

/-- A packet's route has 1 to 6 nibbles, its index is inside the sideband's range, and its virtual network is that of its kind
(11 Table 11.3, Table 11.5). -/
def Packet.sidebandOk (p : Packet) : Bool :=
  decide (1 ≤ p.rlen.toNat) && decide (p.rlen.toNat ≤ 6) && decide (p.rptr.toNat ≤ p.rlen.toNat)

/-- A packet of the Millrace. -/
def Packet.wf (p : Packet) : Bool := p.payloadOk && p.sidebandOk

/-- A Flume packet names 1 to 8 hops and lies on one of them (12 Table 12.6). -/
def FlumePacket.wf (p : FlumePacket) : Bool := decide (1 ≤ p.hops) && decide (p.hops ≤ 8) && decide (p.hptr ≤ p.hops) && decide (p.data.length ≤ 512)

/-- A long packet's values are pixels of at most 16 bits (09 R207). -/
def LongPacket.wf (p : LongPacket) : Bool := p.pixels.all fun x => decide (x < 65536)

/-- Bytes of a received frame on the wire: with its FCS and its tag. -/
def EthFrame.wireLen (f : EthFrame) : Nat := f.bytes.length + 4 + (if f.vlan = 0 then 0 else 4)

/-- A frame of 64 to 1,522 bytes with one tag at most (10 R242, interface table). -/
def EthFrame.wf (f : EthFrame) : Bool := decide (64 ≤ f.wireLen) && decide (f.wireLen ≤ 1522)

/-- A CAN FD frame: at most 64 bytes, and an 11-bit identifier unless it is extended (10 R246). -/
def CanFrame.wf (f : CanFrame) : Bool := decide (f.data.length ≤ 64) && (f.ext || decide (f.id.toNat < 2048))

/-- What the parameter pages can report (14 R329). -/
def NandGeom.wf (g : NandGeom) : Bool := decide (g.blocks < 2 ^ 31) && decide (g.rawUnits < 2 ^ 32)

/-- At most six edges a flit, four flits a message (19 Table 19.2). -/
def edgesOk (es : List Edge) : Bool := decide (es.length ≤ 24)

/-- Sensor readings, temperatures: what the sensors' codes can carry (04 R87, 18 Table 18.7). -/
def tempOk (t : Int) : Bool := decide (-128 ≤ t) && decide (t ≤ 255)

/-- A Flume flit carries packets that are well formed. -/
def Flit.wf (f : Flit) : Bool := f.packets.all FlumePacket.wf

/-- Well-formed commands. A row without an operand that can be out of range is always well formed. -/
def Instr.wf : Instr → Bool
  | .csrWrite _ a _ => wordAligned a
  | .rcRead _ a _ => wordAligned a
  | .treeRead _ a _ => wordAligned a
  | .treeWrite _ a _ _ => wordAligned a
  | .bar0Read o dws _ _ => wordAligned o && decide (1 ≤ dws) && decide (o.toNat < 0x04000000)
  | .bar0Write o dws _ _ _ => wordAligned o && decide (1 ≤ dws) && decide (o.toNat < 0x04000000)
  | .bar2Read o n => decide (1 ≤ n) && decide (n ≤ 4096) && decide (o.toNat % 4096 + n ≤ 4096) && decide (o.toNat < 0x20000000)
  | .bar2Write o bs =>
    decide (1 ≤ bs.length) && decide (bs.length ≤ 4096) && decide (o.toNat % 4096 + bs.length ≤ 4096) && decide (o.toNat < 0x20000000)
  | .edges _ _ _ es => edgesOk es
  | .rdRow p => p.wf && p.kind = 0
  | .wrRow p _ => p.wf && p.kind = 1
  | .rdResp p _ => p.wf && p.kind = 2
  | .wrResp p => p.wf && p.kind = 3
  | .msgResp p => p.wf && p.kind = 5
  | .routerPacket _ p _ => p.wf
  | .flumeEgressPacket _ p => p.wf
  | .flumeIngressPacket _ p => p.wf
  | .flitReceive _ f => f.wf
  | .grResponse _ _ _ row _ => row.length = 512
  | .csiLongPacket _ p => p.wf
  | .imuBurstDone _ bs => bs.all fun b => decide (b.length ≤ 32)
  | .ethRxFrame _ f => f.wf
  | .canRxFrame _ f => f.wf
  | .bootRomNandInit g => g.wf
  | .sensorPoll _ t => t.all tempOk
  | .thermalTrip t => tempOk t
  | .thermWarn t => tempOk t
  | .lcAdvance t => decide (t.val < 6)
  | .samplePreload a b => a.length = b.length
  | .extest a b => a.length = b.length
  | .extestPulse a b => a.length = b.length
  | .extestTrain a b => a.length = b.length
  | _ => true

end Sys2Proof
end

