-- ==== Sys2Proof/Tests/Slice0.lean ====
section
/-! SUPPORT. Our own tests: an ill-formed command for each check of WellFormed.lean; for every statement that has hypotheses, a state and
operands that meet them; and single values and steps whose results the spec's tables and rules give. -/

namespace Sys2Proof.Tests

open Sys2Proof Sys2Proof.Machine

set_option Elab.async false

/-! ### Well-formed commands -/

/-- A well-formed packet that the tests below spoil. -/
def packet : Packet :=
  { route := 0, rptr := 0, rlen := 1, vn := 0, sub := false, lane := false, kind := 0, src := 16, dst := 17, gen := 0, slot := 0, epoch := 0,
    status := .ok, addr := 0x200, xinfo := 0, payload := [] }

def flumePacket : FlumePacket :=
  { dstNode := 1, srcNode := 0, hptr := 0, hops := 1, ports := 0, kind := 0, sub := false, vn := 0, origNi := 0, origTag := 0, status := .ok,
    addr := 0, xinfo := 0, data := [] }

def flit : Flit :=
  { seq := 0, ack := 0, nak := false, ctrl := false, vn := 0, crVn := 0, crCnt := 0, fecOk := true, fecCorr := false, crcOk := true,
    packets := [flumePacket] }

def geom : NandGeom :=
  { ce := 1, luns := 1, planes := 1, tlc := true, page16 := true, blocks := 4, rawUnits := 1000, identical := true }

theorem test_wf_registers_are_whole_words :
    (Instr.csrWrite .pcie 0x6100 0).wf = true ∧ (Instr.csrWrite .pcie 0x6102 0).wf = false ∧ (Instr.rcRead .pcie 0x6109 0).wf = false ∧
    (Instr.treeRead .pairA 2 true).wf = false ∧ (Instr.treeWrite .pairA 1 0 true).wf = false := by decide

theorem test_wf_bar0_is_aligned_inside_and_not_empty :
    (Instr.bar0Read 0x03FFFFFC 1 0xF true).wf = true ∧ (Instr.bar0Read 2 1 0xF true).wf = false ∧ (Instr.bar0Read 0 0 0xF true).wf = false ∧
    (Instr.bar0Read 0x04000000 1 0xF true).wf = false ∧ (Instr.bar0Write 2 1 0xF 0 true).wf = false ∧
    (Instr.bar0Write 0 0 0xF 0 true).wf = false ∧ (Instr.bar0Write 0x04000000 1 0xF 0 true).wf = false := by decide

theorem test_wf_bar2_stays_in_4_kib :
    (Instr.bar2Read 0xFFF 1).wf = true ∧ (Instr.bar2Read 0 0).wf = false ∧ (Instr.bar2Read 0 4097).wf = false ∧
    (Instr.bar2Read 0xFFF 2).wf = false ∧ (Instr.bar2Read 0x20000000 1).wf = false ∧ (Instr.bar2Write 0 []).wf = false ∧
    (Instr.bar2Write 0xFFF [0, 0]).wf = false ∧ (Instr.bar2Write 0x20000000 [0]).wf = false := by decide

theorem test_wf_bar2_writes_at_most_4_kib : (Instr.bar2Write 0 (.replicate 4097 0)).wf = false := by decide +kernel

theorem test_wf_edges_fill_at_most_four_flits :
    (Instr.edges 0 0 0 (.replicate 24 { chan := 0, action := 1, duty := 0, time := 0 })).wf = true ∧
    (Instr.edges 0 0 0 (.replicate 25 { chan := 0, action := 1, duty := 0, time := 0 })).wf = false := by decide

theorem test_wf_packets_are_of_their_kind :
    (Instr.rdRow packet).wf = true ∧ (Instr.rdRow { packet with kind := 1 }).wf = false ∧ (Instr.wrRow packet .good).wf = false ∧
    (Instr.rdResp packet .good).wf = false ∧ (Instr.wrResp packet).wf = false ∧ (Instr.msgResp packet).wf = false ∧
    (Instr.wrResp { packet with kind := 3, sub := true }).wf = true ∧ (Instr.msgResp { packet with kind := 5, sub := true }).wf = true := by decide

theorem test_wf_payloads_have_their_length :
    (Instr.rdRow { packet with payload := [0] }).wf = false ∧ (Instr.wrRow { packet with kind := 1, payload := [0] } .good).wf = false ∧
    (Instr.rdResp { packet with kind := 2, sub := true } .good).wf = false ∧
    (Instr.rdResp { packet with kind := 2, sub := true, status := .uncorr } .good).wf = true := by decide

theorem test_wf_sidebands_name_1_to_6_hops :
    (Instr.routerPacket 0 { packet with rlen := 0 } .good).wf = false ∧ (Instr.routerPacket 0 { packet with rlen := 7 } .good).wf = false ∧
    (Instr.routerPacket 0 { packet with rptr := 2 } .good).wf = false ∧ (Instr.flumeEgressPacket 0 { packet with rlen := 0 }).wf = false := by decide

theorem test_wf_flume_packets_lie_on_their_route :
    (Instr.flumeIngressPacket 0 flumePacket).wf = true ∧ (Instr.flumeIngressPacket 0 { flumePacket with hops := 0 }).wf = false ∧
    (Instr.flumeIngressPacket 0 { flumePacket with hops := 9 }).wf = false ∧ (Instr.flumeIngressPacket 0 { flumePacket with hptr := 2 }).wf = false ∧
    (Instr.flitReceive 0 flit).wf = true ∧ (Instr.flitReceive 0 { flit with packets := [{ flumePacket with hops := 0 }] }).wf = false := by decide

theorem test_wf_flume_packets_carry_one_row : (Instr.flumeIngressPacket 0 { flumePacket with data := .replicate 513 0 }).wf = false := by
  decide +kernel

theorem test_wf_row_port_answers_a_row : (Instr.grResponse 0 0 0 [] true).wf = false := by decide

theorem test_wf_pixels_and_bursts :
    (Instr.csiLongPacket 0 { hdr := .good, vc := 0, dt := 0x2A, measured := 1, crcErr := false, pixels := [65536] }).wf = false ∧
    (Instr.imuBurstDone 0 #v[.replicate 33 0, []]).wf = false := by decide +kernel

theorem test_wf_frames :
    (Instr.ethRxFrame 0 { bytes := .replicate 60 0, vlan := 0, pcp := 0 }).wf = true ∧
    (Instr.ethRxFrame 0 { bytes := .replicate 59 0, vlan := 0, pcp := 0 }).wf = false ∧
    (Instr.canRxFrame 0 { ext := false, id := 2048, flags := 0, data := [] }).wf = false ∧
    (Instr.canRxFrame 0 { ext := true, id := 2048, flags := 0, data := [] }).wf = true ∧
    (Instr.canRxFrame 0 { ext := true, id := 0, flags := 0, data := .replicate 65 0 }).wf = false := by decide

theorem test_wf_frames_end_at_1522_bytes :
    (Instr.ethRxFrame 0 { bytes := .replicate 1514 0, vlan := 1, pcp := 0 }).wf = true ∧
    (Instr.ethRxFrame 0 { bytes := .replicate 1515 0, vlan := 1, pcp := 0 }).wf = false := by decide +kernel

theorem test_wf_geometry_fits_its_registers :
    (Instr.bootRomNandInit geom).wf = true ∧ (Instr.bootRomNandInit { geom with blocks := 2 ^ 31 }).wf = false ∧
    (Instr.bootRomNandInit { geom with rawUnits := 2 ^ 32 }).wf = false := by decide

theorem test_wf_temperatures :
    (Instr.sensorPoll 0 #v[25, 25, 25, 256]).wf = false ∧ (Instr.thermalTrip (-129)).wf = false ∧ (Instr.thermWarn 256).wf = false ∧
    (Instr.thermWarn 115).wf = true := by decide +kernel

theorem test_wf_lifecycle_and_boundary_scan :
    (Instr.lcAdvance 5).wf = true ∧ (Instr.lcAdvance 6).wf = false ∧ (Instr.samplePreload [true] []).wf = false ∧
    (Instr.extest [true] []).wf = false ∧ (Instr.extestPulse [] [true]).wf = false ∧ (Instr.extestTrain [] [true]).wf = false := by decide

/-! ### States and operands that meet the hypotheses of the statements -/

/-- Docket words given by index; the others are 0. -/
def docket (l : List (Fin 16 × Word)) : DocketWords := l.foldl (fun v x => vmod v x.1 fun _ => x.2) (.replicate 16 0)

/-- A docket that the controller has read, ready for hand-out. -/
def read (w : DocketWords) : Pending := { words := w, fault := .ok, waitOk := true, waitFrom := none, inst := false }

def job (w : DocketWords) : Job :=
  { id := 7, chute := 0, cls := 0, words := w, granBase := 0, granBound := 0xC0000, hop := 0x40000000, tenant := 0 }

def outstanding (w : DocketWords) (ms : List MillId) : Outstanding := outOf 7 w ms 0 false 0

def message (w : DocketWords) : HandoutMsg :=
  { docket := w, granBase := 0, granBound := 0xC0000, hop := 0x40000000, cls := 0, chute := 0, tenant := 0, slot := 0 }

/-- A DONE message of Mill docket 7 with a status. -/
def doneMsg (st : Byte) : DoneMsg :=
  { chute := 0, status := st, tag := 0, detail := 0, doneTime := 0, startTime := 0, tiles := 0, sat := 0, slot := 0 }

/-- Reset with chute 0 changed. -/
def chute0 (f : Chute → Chute) : State := onChute .reset 0 f

/-- Reset at a device time. -/
def atTime (t : Word64) : State := onGauge .reset fun g => { g with time := t }

/-- Reset with unit `u` in a state. -/
def withUnit (s : State) (u : Fin 43) (st : UnitState) : State :=
  onService s fun x => { x with units := vmod x.units u fun r => { r with state := st } }

/-- Reset with context 0 valid, unit `u` ONLINE and chute 0 enabled with one docket read. -/
def offered (u : Fin 43) (w : DocketWords) : State :=
  withUnit (onControl (chute0 fun ch => { ch with cfg := 0x84000000, tail := 1, readAt := 1, pending := [read w] }) fun k =>
    { k with ctx := vmod k.ctx (0 : Fin 64) fun x => { x with valid := true, granBound := 0xC0000 } }) u .online

/-- Reset with a docket at the head of the firmware queue. -/
def firmware (w : DocketWords) : State := onControl .reset fun k => { k with fwQueue := [job w] }

theorem test_hyps_a_command_waits : ({ State.reset with pending := [.safePinRise] } : State).pending = .safePinRise :: [] := rfl

theorem test_hyps_doorbells :
    let ch := State.reset.control.chutes[0]
    State.reset.up ∧ State.reset.granary.errPend = false ∧ (16 - ch.tail).toNat ≤ ch.depth - (ch.tail - ch.head).toNat ∧
    ¬ (17 - ch.tail).toNat ≤ ch.depth - (ch.tail - ch.head).toNat ∧ (0 - ch.rcptHead).toNat ≤ (ch.rcptTail - ch.rcptHead).toNat ∧
    ¬ (1 - ch.rcptHead).toNat ≤ (ch.rcptTail - ch.rcptHead).toNat := by decide +kernel

theorem test_hyps_docket_reads :
    (let s := chute0 fun ch => { ch with cfg := 0x84000000, tail := 1 }
     let ch := s.control.chutes[0]
     ch.en = true ∧ ch.pending = [] ∧ rowsOk s none 0 64 ∧ ch.relMode = 0 ∧ ch.inst = none ∧ ch.readAt ≠ ch.tail) ∧
    (let s := chute0 fun ch => { ch with cfg := 0x84400000, tail := 1, inst := some { next := 0, stop := 1, aborting := false } }
     (s.control.chutes[0]).en = true ∧ (s.control.chutes[0]).relMode ≠ 0 ∧ rowsOk s none 0 64) := by
  unfold rowsOk; decide +kernel

theorem test_hyps_chute_configuration :
    (let s := chute0 fun ch => ch
     let ch := s.control.chutes[0]
     let v : Word := 0x84000000
     s.up ∧ s.granary.errPend = false ∧ ch.en = false ∧ bitOf v 31 = true ∧ ch.outstanding = 0 ∧ rowsOk s none ch.rcpt.toNat 512 ∧
       Memory.wf s.mem = true) ∧
    (let ch := (chute0 fun ch => { ch with cfg := 0x84000000 }).control.chutes[0]
     ch.en = true ∧ ch.pending = [] ∧ (0x04000000 : Word) &&& 0x7FF70000 = ch.cfg &&& 0x7FF70000 ∧
       ¬ (0x85000000 : Word) &&& 0x7FF70000 = ch.cfg &&& 0x7FF70000) := by
  unfold rowsOk; decide +kernel

theorem test_hyps_timer_writes :
    let ch := (chute0 fun ch => { ch with cfg := 0x84400000, period := 1000 }).control.chutes[0]
    ch.en = true ∧ ch.relMode = 1 ∧ ch.period ≠ 0 ∧ ch.phase.toNat + (now (atTime 5)).toNat + ch.period.toNat < 2 ^ 64 := by decide +kernel

theorem test_hyps_releases :
    (let s := chute0 fun ch => { ch with cfg := 0x84400000, period := 1000, nextRel := some 0, tail := 1 }
     let ch := s.control.chutes[0]
     s.up ∧ ch.en = true ∧ ch.relMode = 1 ∧ ch.nextRel = some 0 ∧ (0 : Word64) ≤ now s ∧ ch.inst = none ∧ ch.held = false ∧ ch.head ≠ ch.tail ∧
       0 + ch.period.toNat ≥ (now s).toNat) ∧
    (let ch := (chute0 fun ch => { ch with cfg := 0x84600000, inst := some { next := 1, stop := 1, aborting := false } }).control.chutes[0]
     ch.policy = 2 ∧ ch.inst.isSome = true ∧ ch.held = false) ∧
    (let ch := (chute0 fun ch => { ch with cfg := 0x84500000, inst := some { next := 1, stop := 1, aborting := false } }).control.chutes[0]
     ch.policy = 1 ∧ ch.inst.isSome = true) ∧
    (let ch := (chute0 fun ch => { ch with
        cfg := 0x84400000, inst := some { next := 1, stop := 1, aborting := false },
        out := [{ outstanding (docket []) [0] with inst := true }] }).control.chutes[0]
     ch.policy = 0 ∧ ch.out.any (·.inst) = true) ∧
    (let ch := (chute0 fun ch => { ch with cfg := 0x84400000, held := true, tail := 1 }).control.chutes[0]
     ch.held = true ∧ ch.inst = none ∧ ch.head ≠ ch.tail ∧ ch.en = true) := by decide +kernel

theorem test_hyps_bells :
    State.reset.up ∧ (∀ c : ChuteId, (State.reset.control.chutes[c.val]).pending = [] ∧ (State.reset.control.chutes[c.val]).relMode ≠ 2) ∧
    (∀ p : CamId, (State.reset.gauge.ports[p.val]).ring = none) := by
  refine ⟨rfl, fun c => ?_, by decide +kernel⟩
  have h : State.reset.control.chutes[c.val] = Chute.reset := by simp [State.reset, Control.reset]
  rw [h]
  decide

theorem test_hyps_controller_dockets :
    (let s := offered 0 (docket [(0, 0x30)])
     let ch := s.control.chutes[0]
     ch.en = true ∧ ch.pending = [read (docket [(0, 0x30)])] ∧ headReady ch (read (docket [(0, 0x30)])) = true ∧ ch.out = [] ∧
       ch.outstanding < ch.depth ∧ wOpcode (docket [(0, 0x30)]) = some .fence) ∧
    docketCheck (offered 0 (docket [(0, 0x30)])) 0 (docket [(0, 0x30)]) = none ∧
    docketCheck (offered 0 (docket [(0, 0x31)])) 0 (docket [(0, 0x31)]) = none ∧
    docketCheck (offered 0 (docket [(0, 0x32)])) 0 (docket [(0, 0x32)]) = none := by decide +kernel

theorem test_hyps_expired_waits :
    let s := onGauge (chute0 fun ch => { ch with
        cfg := 0x84000000, waitTimeout := 1, pending := [{ read (docket [(2, 1)]) with waitOk := false, waitFrom := some 0 }] }) fun g => { g with time := 2000 }
    (s.control.chutes[0]).waitTimeout ≠ 0 ∧ 0 + (s.control.chutes[0]).waitTimeout.toNat + 1 ≤ (now s).toNat / 1000 := by decide +kernel

theorem test_hyps_controller_checks :
    let s := offered 0 (docket [])
    wOpcode (docket [(0, 0x05)]) = none ∧ wOpcode (docket [(0, 0x01)]) = some .matmul ∧
    -- one docket for each check
    docketCheck (chute0 fun ch => { ch with cfg := 0xE4000000 }) 0 (docket [(0, 0x46)]) = some (stFormat, 0x06) ∧
    docketCheck s 0 (docket [(0, 0x10), (1, 0x00030000)]) = some (stFormat, 0x15) ∧
    docketCheck (onControl s fun k => { k with urgentMills := 1 }) 0 (docket [(0, 0x01), (1, 0x00010000)]) = some (stFormat, 0x05) ∧
    docketCheck s 0 (docket [(0, 0x30), (1, 1)]) = some (stBound, 0x03) ∧
    docketCheck (onControl s fun k => { k with ctx := vmod k.ctx (0 : Fin 64) fun x => { x with tenant := 1 } }) 0 (docket [(0, 0x01), (1, 0x00010000)]) =
      some (stBound, 0x04) ∧
    docketCheck s 0 (docket [(0, 0x01), (1, 0x00020000)]) = some (stOffline, 0) := by decide +kernel

theorem test_hyps_hand_out :
    handOutOrder (offered 0 (docket [])).control = [0] ∧
    (∀ x ∈ [((0 : Fin 43), docket [(0, 0x01), (1, 0x00010000)]), (16, docket [(0, 0x20)]), (16, docket [(0, 0x21)]), (20, docket [(0, 0x18)]),
        (34, docket [(0, 0x46)]), (31, docket [(0, 0x39)])],
      let s := offered x.1 x.2
      let ch := s.control.chutes[0]
      s.up ∧ ch.pending = [read x.2] ∧ headReady ch (read x.2) = true ∧ docketCheck s 0 x.2 = none ∧
        ch.outstanding < ch.depth ∧ ch.sync = false) ∧
    (∀ m ∈ maskMills (wMask (docket [(1, 0x00010000)])), (slotFor State.reset.control m 0).isSome = true) ∧
    State.reset.control.fwQueue.length < 16 ∧ weirCredit (State.reset.weirs[0]) 0 = true ∧
    (let s := offered 0 (docket [(0, 0x01), (1, 0x00020000)])
     docketCheck s 0 (docket [(0, 0x01), (1, 0x00020000)]) = some (stOffline, 0)) := by decide +kernel

theorem test_hyps_receipts :
    (let s := State.reset
     (s.control.chutes[0]).unconsumed < (s.control.chutes[0]).depth ∧ (s.control.chutes[0]).rcptWait = [] ∧ rowsOk s none 0 32 ∧ Memory.wf s.mem = true) ∧
    (let s := onGran .reset fun g => { g with plots := vmod g.plots (0 : Fin 96) fun x => { x with clearing := true } }
     (s.control.chutes[0]).rcpt.toNat % 512 = 0 ∧ placeStatus s none 0 ≠ .ok) ∧
    (let s := chute0 fun ch => { ch with rcptTail := 16 }
     ¬ (s.control.chutes[0]).unconsumed < (s.control.chutes[0]).depth) := by
  unfold rowsOk; decide +kernel

theorem test_hyps_tenant_switch :
    (let w := docket [(0, 0x47), (1, 0x00030000), (4, 2)]
     let s := firmware w
     headJob s.control.fwQueue .tenantSwitch = some (job w, []) ∧ s.control.tenantJob = none ∧ maskMills (wMask w) = [0, 1] ∧
       (∀ m ∈ maskMills (wMask w), drained s m = true) ∧ s.granary.flat = false) ∧
    (let w := docket [(0, 0x47), (1, 0x00030000), (4, 2)]
     let s := onRegs (onControl .reset fun k => { k with tenantJob := some (job w) }) 0 fun r => { r with hopClearing := true }
     (∀ m ∈ maskMills (wMask w), m ≠ 0 → (s.mills[m.val]).regs.hopClearing = false) ∧ (s.mills[0]).regs.hopClearing = true) := by decide +kernel

theorem test_hyps_mill_messages :
    (let s := onNi .reset 0 fun x => { x with admits := true }
     s.up ∧ s.granary.errPend = false ∧ (s.net.nis[0]).admits = true ∧ (51 : Nat) = (s.mills[0]).mb.ctrlNi.toNat ∧ (s.mills[0]).slots[0] = none ∧
       slotTakes 0 3 = true ∧ slotTakes 0 0 = false ∧ ((0 : MillId), message (docket [])) ∉ s.control.toMills) ∧
    (∀ ms ∈ [[(0 : MillId)], [0, 1]],
     let s := onControl (chute0 fun ch => { ch with out := [outstanding (docket []) ms] }) fun k =>
       { k with credits := vmod k.credits (0 : MillId) fun v => vmod v (0 : Fin 8) fun _ => some 7 }
     (s.control.credits[0])[0] = some 7 ∧
       (s.control.chutes[0]).out.find? (fun o => o.id = 7 && o.mills.contains (0 : MillId)) = some (outstanding (docket []) ms)) ∧
    (let s := onMill .reset 0 fun x => { x with slots := vmod x.slots (0 : Fin 8) fun _ => some { msg := message (docket []), order := 0 } }
     (s.mills[0]).slots[0] = some { msg := message (docket []), order := 0 } ∧ wTag (message (docket [])).docket = 0 ∧
       (∀ j : Fin 8, ((s.mills[0]).slots[j.val]).isSome = true → j = 0) ∧ (s.mills[0]).running = none ∧ (s.mills[0]).preempted = [] ∧
       (s.mills[0]).mb.iso = false) := by decide +kernel

/-- Edge lists of docket 7 wait at the Spigot. -/
def scheduled (es : List Edge) (awaiting : Nat) : SchedJob :=
  { id := 7, words := docket [], start := 0, mill := 0, slot := 0, chute := 0, urgent := false, edges := es, awaiting := awaiting, taken := 0,
    refused := 0, remote := [], seqUsed := 0, noSpeed := false }

theorem test_hyps_edges_find_their_docket :
    let s := onSpigot .reset fun sp => { sp with queue := [scheduled [] 1] }
    s.spigot.queue = [] ++ scheduled [] 1 :: [] ∧ (scheduled [] 1).mill = 0 ∧ 0 < (scheduled [] 1).awaiting := by decide +kernel

/-! #### Number formats, Querns, the Sluice and the Tally (02, 03, 04) -/

/-- An INT8 operand in the Hopper of Mill 0. -/
def operand (base rows cols : Nat) : Desc :=
  { descOf [] with base := base, fmt := 1, rows := rows, cols := cols, rowStride := cols, ownHop := true }

/-- A plan of one tile row by row, whole K range, one Quern. -/
def plan : Plan :=
  { sluice := false, setN := 1, setK := 1, orderL0 := false, orderL1 := 0x1B, orderL2 := 0x1B, n2 := 1, m2 := 4, kt := 0, n1 := 1, m1 := 4,
    stgIn := 0xFFFFFFFF, stgW := 0xFFFFFFFF, spill := 0xFFFFFFFF, epi := 0, epiImm := 0, qOff := 0 }

/-- A docket that runs on Mill 0, with operands 0, 1 and 2. -/
def run (w : DocketWords) (p : Option Plan) : Run :=
  { newRun .reset (message w) with
    descs := [(0, operand 0x1000000000 8 16), (1, operand 0x1000001000 16 8), (2, operand 0x1000002000 8 8)], plan := p }

def matmulWords : DocketWords := docket [(0, 0x01), (1, 0x00010000)]

/-- The first tile of the matrix product, in its array. -/
def tile0 : Tile := { b := 0, h := 0, m := 0, n := 0, kr := 0, row0 := 0, rows := 4, k0 := 0, ks := 1, n0 := 0, ns := 1, lastK := true }
def fill0 : FillReq := { quern := 0, kblk := 0, nblk := 0, vOperand := false }
def inArray (swapped : Bool) : TileRun := { (run matmulWords (some plan)).tileRun tile0 none with swapped := swapped }

/-- A state in which Mill 0 runs a docket. -/
def running (r : Run) : State := onMill .reset 0 fun x => { x with running := some r }

/-- Mill 0 with the active bank of Quern `p` changed. -/
def withBank (s : State) (p : QuernId) (f : QBank → QBank) : State := onMill s 0 fun x => { x with querns := vmod x.querns p fun u => { u with a := f u.a } }

theorem test_hyps_output_codes :
    magLt fE4M3.maxM fE4M3.maxE (fE4M3.round false 15 5).1 (fE4M3.round false 15 5).2 = true ∧
    magLt fE4M3.maxM fE4M3.maxE (fE4M3.round false 14 5).1 (fE4M3.round false 14 5).2 = false ∧
    (127 : Int) < FVal.roundInt false false 128 0 ∧ FVal.roundInt false true 129 0 < -128 ∧ FVal.roundInt false true 128 0 = -128 := by decide +kernel

theorem test_hyps_accumulators :
    let limit : Int := 2 ^ 47 - 1
    (∀ n, n ≤ [limit, -1].length → -limit ≤ ([limit, -1].take n).sum ∧ ([limit, -1].take n).sum ≤ limit) ∧
    ¬ (-limit ≤ [limit].sum + 1 ∧ [limit].sum + 1 ≤ limit) := by decide

theorem test_hyps_fills :
    (let r := run (docket [(0, 0x10), (5, 3)]) none
     wOpcode r.msg.docket = some .loadw ∧ r.walked = false ∧
       (List.finRange 6).filter (fun q => (opWord r.msg.docket 1).getLsbD q.val) = [0, 1]) ∧
    nextFill [fill0] = some fill0 ∧
    (let r := { run matmulWords (some plan) with cur := some (inArray false) }
     let s := onMill (running r) 0 fun x => { x with filling := some fill0 }
     let d := r.descD (r.fillOperand fill0)
     let g := r.fillSrc r.fillTile fill0
     (s.mills[0]).filling = some fill0 ∧ d.ownHop = true ∧ (srcOf s r r.fillTile d).2 = 0 ∧ g.ranges.length = 16 ∧
       (∀ z ∈ g.ranges, rowsOk s (some 0) z.1 z.2) ∧ g.integer = true) ∧
    -- a refused source row: the Hopper is in flat mode
    (let r := run (docket [(0, 0x10), (5, 1)]) none
     let s := onGran (running { r with walked := true }) fun g => { g with flat := true }
     (rangeStatus s 0 0x1000001000 1).1 = .offline) := by
  unfold rowsOk; decide +kernel

theorem test_hyps_swaps_and_vectors :
    (inArray false).dueSet = some [fill0] ∧
    (let s := running { run matmulWords (some plan) with cur := some (inArray false) }
     setReady (s.mills[0]) [fill0] = false ∧
       setReady ((onMill s 0 fun x => { x with querns := vmod x.querns (0 : QuernId) fun u => { u with b := { u.b with state := .full } } }).mills[0]) [fill0] = true) ∧
    (let c := inArray true
     let s := withBank (running { run matmulWords (some plan) with cur := some c }) 0 fun b => { b with state := .full }
     let u := (s.mills[0]).querns[(physOf (s.mills[0]) 0).val]
     (c.sets.headD []).find? (fun f => f.quern = 0 && !f.vOperand) = some fill0 ∧ u.act.repairRow = none ∧ u.act.state = .full ∧
       c.vecDone[0] < c.tile.rows ∧ (run matmulWords (some plan)).shape.bx = false ∧
       (∀ z ∈ (run matmulWords (some plan)).vectorReads c.tile 0 0 256, rowsOk s (some 0) z.1 z.2)) ∧
    (let c := { inArray true with flight := [{ vec := 0, quern := 0, parts := [(0, List.replicate 64 1)] }] }
     (run matmulWords (some plan)).isFuse = false ∧ c.sets.headD [] = [fill0] ∧ c.outDone < c.tile.rows ∧
       (c.flight.any fun g => g.vec = c.outDone && g.quern = 0) = true) := by
  unfold rowsOk; decide +kernel

theorem test_hyps_scrubbing :
    (let s := withBank .reset 0 fun b => { b with state := .full }
     let b := ((s.mills[0]).querns[0]).bank false
     (s.mills[0]).regs.scrubEn = true ∧ b.state = .full ∧ b.repairRow = none ∧ goldPass (s.mills[0]).regs b = false ∧
       bitOf (s.mills[0]).regs.scrubCtl 1 = false ∧ b.gvalid = false ∧ usesActive (s.mills[0]) 0 = false ∧ pendingReq (s.mills[0]) 0 = none) ∧
    (let g : GoldSrc := { addr := 0, first := 0, rowStride := 64, chanStride := 8, rows := 256, chans := 64, fmt := 1, mintAddr := 0, mintType := 0 }
     let s := withBank .reset 0 fun b => { b with state := .repair, repairRow := some 3, src := some g, wfmt := 1 }
     (goldRow s 0 g (bankWb 1) 3).isSome = true ∧
       goldRow (onGran s fun x => { x with plots := x.plots.map fun p => { p with clearing := true } }) 0 g (bankWb 1) 3 = none) := by
  decide +kernel

theorem test_hyps_remapping :
    let x := State.reset.mills[0]
    qmapLegal 0x2C688 = true ∧ qmapLegal 0x2C68E = true ∧ qmapLegal 0 = false ∧ x.idle = true ∧ x.regs.remapBusy = false ∧
    (0x2C68E : BitVec 18) ≠ x.regs.qmap := by decide +kernel

def sluicePlan : Plan := { plan with sluice := true }

theorem test_hyps_sluice_vectors :
    let r := run matmulWords (some sluicePlan)
    let c := { r.tileRun tile0 none with flight := [{ vec := 0, quern := 0, parts := [(0, List.replicate 512 1)] }] }
    let s := running { r with cur := some c }
    r.onSluice = true ∧ r.plan.isSome = true ∧ c.vecDone[0] < c.tile.rows ∧ (∀ z ∈ r.vectorReads c.tile 0 0 1024, rowsOk s (some 0) z.1 z.2) ∧
    (c.flight.find? (fun g => g.vec = c.outDone)).isSome = true := by
  unfold rowsOk; decide +kernel

theorem test_hyps_sluice_fields :
    let s := running (run (docket [(0, 0x11), (5, 2)]) none)
    let powered := onMill s 0 fun x => { x with sluice := { x.sluice with vppOk := true } }
    let d := (run (docket []) none).descD 0
    (s.mills[0]).sluice.vppOk = false ∧ (powered.mills[0]).sluice.vppOk = true ∧ wOpcode (docket [(0, 0x11)]) = some .sluProg ∧
    maskFields (docket [(0, 0x11), (5, 2)]) = [1] ∧ (∀ k, k < min 1024 d.effRows → rowsOk powered (some 0) (d.row 0 0 k) (rowLen d.bits d.cols)) ∧
    (newJob .verify (docket [(0, 0x12), (5, 1)])).todo = [0] ∧ (newJob .refresh (docket [(0, 0x13), (5, 3)])).todo = [0, 1] := by
  unfold rowsOk; decide +kernel

theorem test_hyps_compensation_and_rail :
    compDue .reset (State.reset.mills[0]).sluice = true ∧ (State.reset.mills[0]).sluice.temp.all (· = 0xFF) = false ∧
    (32 : BitVec 16).toNat ≤ bitsOf (State.reset.mills[0]).sluice.compCtl 7 1 ∧ bitsOf (State.reset.mills[0]).sluice.compCtl 7 1 < (33 : BitVec 16).toNat ∧
    (∀ m : MillId, (State.reset.mills[m.val]).running = none) ∧
    (let s := onMill (running { run (docket [(0, 0x11)]) none with slu := some { newJob .prog (docket [(0, 0x11), (5, 2)]) with todo := [1] } }) 0 fun x =>
      { x with sluice := { x.sluice with vppOk := true } }
     (s.mills[0]).sluice.vppOk = true ∧ ∀ d : MillId, d ≠ 0 → (s.mills[d.val]).running = none) := by decide +kernel

theorem test_hyps_tally :
    bitOf (0x80000001 : Word) 31 = true ∧ bitOf (1 : Word) 0 = true ∧ (∀ b : Fin 8, ((State.reset.mills[0]).bands[b.val]).en = false) ∧
    (∀ hits ∈ [(0 : Nat), 0x4000],
      let y : SigBand := { SigBand.reset with cfg := 0x8FC00000, seen := 0x4000, hits := hits, fracMin := 0x3F800000 }
      let frac := fdiv (fofInt y.hits) (fofInt y.length)
      y.en = true ∧ y.length ≤ y.seen ∧ flt frac y.fracMin = decide (hits = 0) ∧ flt y.fracMax frac = false) := by decide +kernel

/-! #### The memory, the dispatcher and the tile sequencer (05, 06, 07) -/

/-- Interface 17 holds the tag of `packet`. -/
def asked (kind : BitVec 4) (src : NiId) : State := onNi .reset src fun x =>
  { x with out := [{ slot := 0, dst := 17, kind := kind, vn := 0, addr := 0, since := 0, origin := none }] }

theorem test_hyps_row_requests :
    (let s := asked 0 16
     let ni := s.net.nis[17]
     s.up ∧ s.granary.errPend = false ∧ ((s.net.nis[packet.src.val]).slotOf packet.slot packet.gen).isSome = true ∧ knownKind packet.kind = true ∧
       ni.admits = true ∧ packet.epoch = ni.epoch ∧ bankRefOf packet.addr.toNat = some (.gran 1) ∧ niOf packet.addr.toNat = packet.dst ∧
       targetOpen s packet.addr.toNat = true ∧ packet ∉ ni.suppressed ∧ routeValid ni.routes[packet.src.val] = true) ∧
    knownKind 0xF = false ∧ niOf 0 ≠ packet.dst ∧ (State.reset.net.nis[0]).admits = false ∧
    targetOpen (onGran .reset fun g => { g with plots := vmod g.plots (0 : Fin 96) fun x => { x with clearing := true } }) 0x200 = false := by
  decide +kernel

/-- The logical bank 0 of the Granary with a queue. -/
def queued (q : List BankReq) (slots : Nat) : State := onBank .reset (.gran 0) fun x => { x with queue := q, slots := slots }

theorem test_hyps_bank_slots :
    nextReq (bankOf (queued [.narrow { packet with addr := 0, vn := 3 }] 0) (.gran 0)) = some (.narrow { packet with addr := 0, vn := 3 }) ∧
    nextReq (bankOf (queued [.narrow packet, .wide 2 true 0] 0) (.gran 0)) = some (.wide 2 true 0) ∧
    nextReq { bankOf (queued [.wide 2 true 0, .narrow packet] 0) (.gran 0) with wideRun := 15 } = some (.narrow packet) ∧
    (State.reset.net.nis[packet.src.val]).gens[packet.slot.val] = packet.gen ∧
    (State.reset.net.nis[packet.src.val]).gens[packet.slot.val] ≠ { packet with gen := 1 }.gen ∧
    targetOpen .reset 0 = true ∧ poisoned .reset 0 = false ∧ poisoned (onGran .reset fun g => { g with poison := [0] }) 0 = true ∧
    (bankOf (queued [] 999) (.gran 0)).slots % 1000 = 999 ∧
    quadClearing (onGran .reset fun g => { g with plots := vmod g.plots (0 : Fin 96) fun x => { x with clearing := true } }) 0 = true ∧
    (bankOf (queued [] 8) (.gran 0)).slots % 16 = 8 ∧ quadClearing .reset 0 = false ∧ inQuad (0 : BankId) = 0 ∧
    bitOf State.reset.granary.scrubCfg 31 = true ∧ (now .reset).toNat < (bankOf .reset (.gran 0)).patrolFrom.toNat + 1 ∧
    0 < 0 + 1 * patrolNs State.reset.granary.scrubCfg / 6144 := by decide +kernel

/-- Bank engine 0 runs a FILL or a COPY. -/
def engine (w : DocketWords) : State := onGran .reset fun g =>
  { g with engine := vmod g.engine (0 : QuadId) fun _ => some { job := job w, src := none, dst := 0, rows := 1, doneRows := 0, started := 0 } }

theorem test_hyps_bank_engines :
    (let w := docket [(0, 0x21), (6, 0x400), (8, 2), (9, 0xAABBCCDD)]
     let s := engine w
     let e : EngineJob := { job := job w, src := none, dst := 0, rows := 1, doneRows := 0, started := 0 }
     s.granary.engine[0] = some e ∧ jobStop s e.job = none ∧ badRange w [copyDst w] = false ∧
       (localPart s.flume.nodeId (copyDst w)).bind (jobRange s e) = some 0x400 ∧ rowsOk s none 0x400 1024 ∧ Memory.wf s.mem = true) ∧
    badRange (docket [(6, 0x401), (8, 2)]) [0x401] = true ∧
    (let w := docket [(0, 0x20), (4, 0x800), (6, 0x400), (8, 2)]
     let e : EngineJob := { job := job w, src := none, dst := 0, rows := 1, doneRows := 0, started := 0 }
     badRange w [copySrc w, copyDst w] = false ∧ localPart 0 (copySrc w) = some 0x800 ∧ localPart 0 (copyDst w) = some 0x400 ∧
       jobRange .reset e 0x800 = some 0x800 ∧ jobRange .reset e 0x400 = some 0x400 ∧ jobRange .reset e 0x18000000 = none ∧
       0x400 + 512 * 2 ≤ 0x800 ∧ 0x600 < 0x400 + 512 * 2) := by
  unfold rowsOk; decide +kernel

theorem test_hyps_plots_modes_spares :
    (let x := State.reset.granary.plots[0]
     x.owner = fin 8 (bitsOf (0x100 : Word) 6 4) ∧ x.owner ≠ fin 8 (bitsOf (0x10 : Word) 6 4)) ∧
    State.reset.granary.busy = false ∧ (∀ m : MillId, (State.reset.mills[m.val]).idle = true) ∧ bitOf (1 : Word) 0 ≠ State.reset.granary.flat ∧
    (let g := { State.reset.granary with plots := vmod (vmod State.reset.granary.plots (30 : Fin 96) fun x => { x with clearing := true }) (40 : Fin 96) fun x => { x with clearing := true } }
     (g.plots[30]).clearing = true ∧ ∀ d : PlotId, d < 30 → d.val / 24 = 1 → (g.plots[d.val]).clearing = false) ∧
    (State.reset.granary.spares[0]).used = false ∧ (State.reset.granary.spares[0]).migrating = false ∧ bitOf (0x21 : Word) 5 = true ∧
    poisoned .reset (bankAddr (fin 128 33) 6143) = false := by decide +kernel

/-- Reset memory with a descriptor at byte 0: one row of 64 INT8 elements at byte 0x1000, no length word, no Mint table. -/
def describedMem : Memory :=
  writeBytes [] 0 (wordBytes [0x1000, 0x00010000, 1, 64, 64, 0, 0, 0, 0xFFFFFFFF, 0xFFFFFFFF, 0x3F800000, 0, 0, 0, 0, 0])

def histWords : DocketWords := docket [(0, 0x22), (1, 0x00010000)]

/-- Mill 0 holds a HIST docket. -/
def holding : State := onMill { State.reset with mem := describedMem } 0 fun x =>
  { x with slots := vmod x.slots (0 : Fin 8) fun _ => some { msg := message histWords, order := 0 } }

theorem test_hyps_dispatch :
    (holding.mills[0]).mayIssue = true ∧ (holding.mills[0]).running = none ∧
    (holding.mills[0]).nextHeld = some { msg := message histWords, order := 0 } ∧ (winPlots false 0 (msgWin (message histWords))).length = 96 ∧
    (∀ p ∈ winPlots false 0 (msgWin (message histWords)), (holding.granary.plots[p.val]).owner = 0 ∧ (holding.granary.plots[p.val]).clearing = false) ∧
    (prepare holding 0 (message histWords)).isOk = true ∧
    (match prepare holding 0 (message histWords) with | .ok r => !r.onSluice | .error _ => false) = true := by decide +kernel

theorem test_hyps_resume :
    let x := { State.reset.mills[0] with preempted := [run matmulWords (some plan)] }
    x.nextHeld = none ∧ x.mayIssue = true ∧ x.running = none := by decide +kernel

theorem test_hyps_walks :
    (let r := run matmulWords (some plan)
     r.walked = false ∧ wOpcode r.msg.docket = some .matmul ∧ (r.planTiles 0).length = 2 ∧ isOrder plan.orderL2 = true ∧ 1 ≤ plan.m1) ∧
    (run histWords none).directTiles 0 ≠ [] ∧
    (let r := { run matmulWords (some plan) with descs := [(0, { operand 0x1000000000 8 16 with len := some 0, lenDim := 1 })] }
     r.planTiles 0 = [] ∧ r.ending = none ∧ r.issued = [] ∧ wZeroSkipped r.msg.docket = false) := by decide +kernel

theorem test_hyps_staging :
    let p := { plan with stgIn := 0, stgW := 0x100 }
    let r := { run matmulWords (some p) with descs := [(0, { operand 0 8 16 with ownHop := false }), (1, operand 0x1000001000 16 8), (2, operand 0x1000002000 8 8)], walked := true, todo := [tile0] }
    let s := running r
    r.stagesIn = true ∧ r.nextStage p = some (0, 0, 0, 0) ∧ freeTag (s.mills[0]) = some 0 ∧ r.stageFits p false = true ∧
    (∀ q ∈ r.inRanges p 0 0 0, rowsOk s (some 0) q.1 q.2) ∧ (r.inRanges p 0 0 0).length = 4 ∧ r.stagesW = false ∧ Memory.wf r.stagedMem = true := by
  unfold rowsOk; decide +kernel

theorem test_hyps_tile_issue :
    let r := { run matmulWords (some plan) with walked := true, todo := [tile0] }
    let x := (running r).mills[0]
    (r.plan.bind fun p => r.footprint p false tile0) = none ∧ r.present x tile0 = true ∧ x.wantsPreempt = false ∧ tile0.kr = 0 ∧
    (inArray true).lastSet = true ∧
    (let q := { r with plan := some { plan with stgIn := 0 }, descs := [(0, { operand 0 8 16 with ownHop := false }), (1, operand 0x1000001000 16 8), (2, operand 0x1000002000 8 8)] }
     (q.plan.bind fun p => q.footprint p false tile0) = none ∧ q.present x tile0 = false) ∧
    (let q := { r with plan := some { plan with m1 := 4096 } }
     (q.plan.bind fun p => q.footprint p false tile0) = some (0, 2)) := by decide +kernel

theorem test_hyps_tile_completion :
    (let r := run matmulWords (some plan)
     let c := { inArray true with outDone := 4, acc := List.replicate 256 (.int 1 false) }
     let s := running { r with cur := some c }
     c.complete r = true ∧ (∀ q ∈ completionReads r c.tile, rowsOk s (some 0) q.1 q.2) ∧ (tileWrites s 0 r c).1 = .ok ∧
       (((tileWrites s 0 r c).2.mills[0]).running).isSome = true) ∧
    (let r := run histWords none
     let s := onGran (running r) fun g => { g with flat := true }
     completionReads r tile0 = (List.range 4).map (fun i => (0x1000000000 + 16 * i, 16)) ∧ (rangeStatus s 0 0x1000000000 16).1 = .offline) := by
  unfold rowsOk; decide +kernel

/-! #### Weirs and the Gauge (08, 09) -/

/-- Descriptors, a template and a matrix for a 1 x 1 Weir at the start of the Granary: descriptor 0 the template at 0x400, 1 the matrix at
0x800, 2 the solution at 0xC00. -/
def weirMem : Memory :=
  let desc := fun (base : Word) => wordBytes [base, 0x00070000, 1, 1, 4, 0, 0, 0, 0xFFFFFFFF, 0xFFFFFFFF, 0, 0, 0, 0, 0, 0]
  writeBytes (writeBytes (writeBytes [] 0 (desc 0x400 ++ desc 0x800 ++ desc 0xC00)) 0x404 [1]) 0x800 [0, 0, 0x80, 0x3F]

def bindWords : DocketWords := docket [(0, 0x1A), (5, 1), (6, 0)]
def solveWords : DocketWords := docket [(0, 0x18), (5, 0x00010000), (6, 2), (7, 0xFFFFFFFF), (9, 0xFFFFFFFF)]

def unitMatrix : Matrix := { Matrix.empty with n := 1, exps := [141], dinv := [0x3F800000] }

def weir0 (f : Weir → Weir) : State := onWeir { State.reset with mem := weirMem } 0 fun x => f { x with cfg := 0xC0000000 }

theorem test_hyps_weir_binds :
    (let s := weir0 fun x => { x with queue := [job bindWords] }
     let x := s.weirs[0]
     x.binding = none ∧ x.nextJob = some (job bindWords) ∧ wOpcode bindWords = some .weirBind ∧ (bindPlan s 0 (job bindWords)).isOk = true ∧
       jobStop s (job bindWords) = none ∧ x.running = none) ∧
    (bindPlan (onWeir .reset 0 fun x => { x with queue := [job bindWords] }) 0 (job bindWords)).isOk = false ∧
    (bindPlan (weir0 id) 0 { job bindWords with tenant := 1 }).isOk = false ∧
    bitsOf (1 : Word) 2 0 ≠ bitsOf (State.reset.weirs[0]).cfg 2 0 := by decide +kernel

def record (src : Fin 64) : Record := { src := src, mask := 1, seq := 5, time := 0, v0 := 0x3F800000, v1 := 0, v2 := 0, v3 := 0 }
def rule (op : Fin 4) : WRule := { src := 0, val := 0, op := op, row := 0, col := 0, coef := 0x3F800000 }

theorem test_hyps_weir_records :
    let s := weir0 fun x => { x with bound := true, mat := unitMatrix, x := [0], rhs := [0], rules := [rule 0] }
    let x := s.weirs[0]
    x.held = [] ∧ (s.gauge.sent.find? (fun t => t.1 = 0 && t.2.2 = record 0)) = none ∧ (rule 0).src = (record 0).src ∧
    (∀ k ∈ x.rules, k.src ≠ (record 1).src) ∧ Record.val (record 0) 0 = some 0x3F800000 ∧ (x.applyRule (rule 0) 0x3F800000).isSome = true ∧
    x.next.inside 0 0 = true ∧ x.pending.length < 512 := by decide +kernel

theorem test_hyps_full_pending_list :
    let x := { Weir.reset with mat := { unitMatrix with n := 256 }, pending := (List.range 512).map fun i => (i / 256 + 1, i % 256, (0 : Word)) }
    512 ≤ x.pending.length ∧ x.applyRule (rule 0) 0 = none := by decide +kernel

theorem test_hyps_solves :
    (let s := weir0 fun x => { x with bound := true, mat := unitMatrix, x := [0], rhs := [0], queue := [job solveWords] }
     let x := s.weirs[0]
     x.running = none ∧ x.binding = none ∧ x.nextJob = some (job solveWords) ∧ wOpcode solveWords = some .solve ∧ jobStop s (job solveWords) = none ∧
       (solvePlan (onWeir s 0 fun x => { x with queue := x.queue.erase (job solveWords) }) 0 (job solveWords) false).isOk = true ∧ x.held = []) ∧
    (solvePlan .reset 0 (job solveWords) false).isOk = false ∧
    (let r : WeirRun := { job := job solveWords, k := 1, x := [0], residual := 0, finite := true, sat := 0, seq := 0, cycles := 400, started := 0,
                          solAt := 0xC00, keep := true }
     let s := weir0 fun x => { x with running := some r }
     jobStop s r.job = none ∧ (s.weirs[0]).fixedTime = true ∧ cimElapsed s r.started r.cycles 0 = false ∧
       cimElapsed (onGauge s fun g => { g with time := 250 }) r.started r.cycles 0 = true ∧ rowsOk s none r.solAt (4 * r.x.length) ∧ r.solAt % 512 = 0 ∧
       512 ≤ r.solAt ∧ rowStatus s none (r.solAt - 512) = .ok) := by
  unfold rowsOk; decide +kernel

def longPacket (hdr : Ecc) : LongPacket := { hdr := hdr, vc := 0, dt := 0x2A, measured := 64, crcErr := false, pixels := List.replicate 64 7 }

def ring : BandRing := { base := 0x400, rowStride := 512, batches := 2, batchStride := 0x8400 }

def camera (f : CamPort → CamPort) : State := onCam .reset 0 f

theorem test_hyps_camera_lines :
    (let p := State.reset.gauge.ports[0]
     nearLen p 64 = false ∧ (longPacket .bad).vc = p.vc ∧ (longPacket .good).dt = p.dt ∧ (1 : Fin 4) ≠ p.vc ∧ p.inFrame = false ∧ p.arm = none) ∧
    (let s := camera fun p => { p with
        cfg := 0x80000A82, cropY := 0x00400000, inFrame := true, ring := some ring,
        band := some { slot := some 1, index := 0, line := 2, valid := 3, stamps := .replicate 64 0, flags := 0 } }
     let p := s.gauge.ports[0]
     let a := ring.base + 1 * ring.batchStride + 2 * ring.rowStride
     p.y0 ≤ p.lines ∧ p.lines < p.y0 + p.h ∧ a % 512 = 0 ∧ ring.rowStride % 512 = 0 ∧
       (∀ i, i < ring.rowStride → placeStatus s none (a + i) = .ok)) ∧
    ((camera fun p => { p with inFrame := true, ring := some ring, cropY := 0x00400001 }).gauge.ports[0]).lines < 1 ∧
    bitsOf (1 : Word) 8 0 ≤ ((camera fun p => { p with heldSlots := 1 }).gauge.ports[0]).heldSlots ∧
    ((camera fun p => { p with heldSlots := 1 }).gauge.ports[0]).heldSlots < bitsOf (2 : Word) 8 0 := by decide +kernel

def armWords (d : Word) : DocketWords := docket [(0, 0x39), (5, d)]

/-- Descriptor 0: a ring of two slots of 64 INT8 lines of 512 bytes at byte 0x400 of the window. -/
def ringMem : Memory :=
  writeBytes [] 0 (wordBytes [0x400, 0x00010000, 64, 512, 512, 0x8400, 0, 2, 0xFFFFFFFF, 0xFFFFFFFF, 0, 0, 0, 0, 0, 0])

theorem test_hyps_arming :
    (let s := onGauge .reset fun g => { g with queue := [job (armWords 0xFFFFFFFF)] }
     wOpcode (armWords 0xFFFFFFFF) = some .gaugeArm ∧ jobStop s (job (armWords 0xFFFFFFFF)) = none ∧
       (armPlan s (job (armWords 0xFFFFFFFF))).isOk = true) ∧
    (armPlan .reset (job (armWords 0))).isOk = false ∧
    (armPlan (onCam { State.reset with mem := ringMem } 0 fun p => { p with cropY := 0x00400000, cropX := 0x02000000 }) (job (armWords 0))).isOk = true := by
  decide +kernel

theorem test_hyps_device_time :
    (∀ p : CamId, (State.reset.gauge.ports[p.val]).ring = none) ∧ edgesScheduled .reset = false ∧
    (let g := { State.reset.gauge with ctl := 0x1, time := 1000000900 }
     let e : Int := ((g.time.toNat : Int) - sx g.ppsOffset + 500000000) % 1000000000 - 500000000
     g.time.toNat + 11 < 2 ^ 64 ∧ g.ppsInput = some 0 ∧ g.isLocked = false ∧ e = 900 ∧ { g with locked := true }.isLocked = true ∧
       bitsOf g.servoCfg 31 16 * 1000 < (20000 : Int).natAbs ∧ sx g.rate - rheDiv (4295 * e) (100 * 2 ^ bitsOf g.servoCfg 3 0) < 2 ^ 31 ∧
       g.holdover = false ∧ g.lastPps.toNat + 1500000000 ≤ 2000000000) ∧
    ((camera fun p => { p with ring := some ring }).gauge.ports[0]).ring ≠ none := by decide +kernel

theorem test_hyps_records_of_the_gauge :
    (let g := { State.reset.gauge with ctl := 0x00100000 }
     let s := onGauge .reset fun _ => { g with encs := vmod g.encs (0 : Fin 8) fun x => { x with cfg := 0x00000101 } }
     s.gauge.routeOf 0 = 1 ∧ s.gauge.routeOf 1 = 0 ∧ s.gauge.underWay 0 = none ∧ routeFree s 1 = true ∧ bitOf (s.gauge.encs[0]).cfg 0 = true ∧
       bitOf (s.gauge.encs[0]).cfg 1 = false ∧ s.gauge.routeOf 32 = 1 ∧ s.gauge.injHeld = [] ∧
       { s.gauge with pendingSrc := [(0, 4)] }.underWay 0 = some 4) ∧
    routeFree (onGauge .reset fun g => { g with sent := List.replicate 16 (0, 0, record 0) }) 1 = false ∧
    (let g := onGauge .reset fun g => { g with imus := vmod g.imus (0 : Fin 2) fun m =>
        { m with cfg := 0x80000301, trigger := vmod m.trigger (0 : Fin 2) fun _ => some (0, 3) } }
     bitOf (g.gauge.imus[0]).cfg 0 = true ∧ bitOf (g.gauge.imus[0]).cfg 2 = false ∧ ((g.gauge.imus[0]).trigger[0]) = some (0, 3) ∧
       ((g.gauge.imus[0]).trigger[1]) = none ∧ (∀ k, k < 4 → bitsOf ((g.gauge.imus[0]).slots[0]).fieldOff (8 * k + 7) (8 * k) / 128 = 0)) := by
  decide +kernel

/-! #### The Spigot and the field networks (10) -/

def edge (ch : ChanId) (action : Fin 4) (t : Word64) : Edge := { chan := ch, action := action, duty := 0, time := t }

/-- A SPIGOT_SCHEDULE docket of one edge, its descriptor at byte 0 and its list at byte 0x1000. -/
def scheduleWords : DocketWords := docket [(0, 0x38), (1, 0x00010000), (5, 1)]

def scheduling (f : Spigot → Spigot) : State :=
  onSpigot (onMill { State.reset with mem := describedMem } 0 fun x => { x with running := some (newRun .reset (message scheduleWords)) }) fun sp =>
    f { sp with ctl := 0x80320007 }

theorem test_hyps_schedules :
    (let s := scheduling id
     runOf s 0 .spigotSchedule = some (newRun .reset (message scheduleWords)) ∧ bitOf s.spigot.ctl 31 = true ∧ maskCount (wMask scheduleWords) = 1 ∧
       (edgeList s 0 (message scheduleWords)).isOk = true ∧ s.spigot.room false = true ∧
       (match edgeList s 0 (message scheduleWords) with | .ok es => es.all fun ws => !bitOf (nthW ws 0) 8 | .error _ => false) = true) ∧
    (scheduling fun sp => { sp with queue := List.replicate 48 (scheduled [] 0) }).spigot.room false = false ∧
    maskCount (wMask (docket [(1, 0x00030000)])) ≠ 1 := by decide +kernel

theorem test_hyps_edges :
    (let s := onSpigot .reset fun sp => { sp with queue := [scheduled [edge 0 1 100] 0] }
     s.spigot.queue = [scheduled [edge 0 1 100] 0] ∧ schedStop s (scheduled [edge 0 1 100] 0) = none ∧ (s.spigot.chans[0]).chute = 0 ∧
       (s.spigot.chans[0]).fifo = [] ∧ (s.spigot.chans[0]).fifo.length < 32 ∧ ¬ (100 : Word64).toNat < (now s).toNat + 40) ∧
    -- one edge for each row of Table 10.2
    (edge 0 3 0).action = 3 ∧ (State.reset.spigot.chans[0]).any = false ∧ ({ Channel.reset with cfg := 0x13E80001 } : Channel).chute ≠ 0 ∧
    ((edge 0 0 0).action = 0 ∧ (State.reset.spigot.chans[0]).safeLevel = false) ∧ (39 : Word64).toNat < (now .reset).toNat + 40 ∧
    (edge 0 1 100).time ≤ (edge 0 0 100).time ∧
    32 ≤ (List.replicate 32 (edge 0 1 100)).length ∧ (edge 0 1 100).time ≤ now (atTime 100) := by decide +kernel

theorem test_hyps_channels :
    (let c := { Channel.reset with cfg := 0x1FE80000, pwm := 0x0064000A }
     c.pwmMode = true ∧ c.hitUs = 10 ∧ { c with on := true }.on = true ∧ ({ c with hit := true }).since.toNat + 1000 * c.hitUs ≤ (now (atTime 10000)).toNat ∧
       c.since.toNat + 1000 * c.periodUs ≤ (now (atTime 100000)).toNat) ∧
    bitsOf State.reset.spigot.ctl 23 16 = 50 ∧ (0 : Word64).toNat + 1000000 * bitsOf State.reset.spigot.ctl 23 16 ≤ (now (atTime 50000000)).toNat ∧
    bitOf (0x20000000 : Word) 29 = true ∧
    (let n := { State.reset.spigot.nodes[0] with cfg := 0x80000000 }
     bitOf n.cfg 31 = true ∧ n.lastSent.toNat / 1000 + bitsOf n.timing 31 16 + 1 ≤ (now (atTime 1001000)).toNat / 1000) := by decide +kernel

theorem test_hyps_no_frame_waits (k : BoomId) :
    ¬ ∃ (m : MacId) (tc : Fin 8) (es : List (ChanId × Fin 4 × BitVec 10 × Word64)) (h : Bool),
      TxFrame.boom k es h ∈ ((State.reset.spigot.macs[m.val]).queues[tc.val]) := by
  simp [State.reset, Spigot.reset, Mac.reset]

/-- An enabled MAC under an operating list of one entry, open for class 0 for 1 ms of a 2 ms cycle. -/
def gated : Mac :=
  { Mac.reset with
    ctl := 0x80000000, tasEn := true, operLen := 2, operCycle := 2000000
    oper := vmod (vmod Mac.reset.oper (0 : Fin 256) fun _ => { gates := 1, interval := 1000000 }) (1 : Fin 256) fun _ => { gates := 0, interval := 1000000 }
    queues := vmod Mac.reset.queues (0 : Fin 8) fun _ => [.boom 0 [] false] }

theorem test_hyps_gates :
    gated.opens 0 0 = true ∧ gated.staysOpen 0 512 0 (gated.bytesNs (max 64 (26 + 8 * 0 + 4) + 20)) = true ∧ gated.opens 0 1500000 = false ∧
    gated.opens 0 999999 = true ∧ gated.staysOpen 0 512 999999 (gated.bytesNs (max 64 (26 + 8 * 0 + 4) + 20)) = false ∧
    (∀ c : Fin 8, c ≠ 0 → gated.queues[c.val] = []) ∧ gated.queues[0] = [.boom 0 [] false] ∧
    ({ gated with changePend := true } : Mac).adminBase ≤ now .reset := by decide +kernel

theorem test_hyps_rings :
    (let x := { gated with sending := [.ring 3 0 false] }
     let q := x.rings[3]
     x.sending.find? (TxFrame.ofRing 3) = some (.ring 3 0 false) ∧ rowsOk .reset none (q.descAt 0) 32 ∧ q.descAt 0 % 32 = 0) ∧
    (readByte State.reset.mem 10).getLsbD 0 = false ∧
    (let s := { State.reset with mem := writeBytes [] 10 [1] }
     (readByte s.mem (0 + 10)).getLsbD 0 = true ∧ rowsOk s none 0 32 ∧ rowsOk s none (readLe s.mem 0 6) 60) ∧
    (let f : CanFrame := { ext := false, id := 0x123, flags := 0, data := [1, 2] }
     let x := { Can.reset with ctl := 0x80000000, filters := vmod Can.reset.filters (4 : Fin 32) fun _ => (0xC0000123, 0x7FF) }
     x.filters.toList.find? (fun w => filterTakes w f) = some (0xC0000123, 0x7FF) ∧ Can.reset.filters.toList.find? (fun w => filterTakes w f) = none ∧
       bitOf x.ctl 31 = true ∧ (x.rings[3]).head - (x.rings[3]).tail < (x.rings[3]).canSize ∧ rowsOk .reset none 0 80 ∧
       (x.rings[0]).canSize ≤ ({ x.rings[0] with head := 1 }).head - (x.rings[0]).tail ∧ bitOf x.ctl 29 = false ∧ x.busOff = false) := by
  unfold rowsOk; decide +kernel

/-! #### Networks, Flume and the ledger (11, 12, 13) -/

theorem test_hyps_requests_at_a_router :
    (let ni := State.reset.net.nis[16]
     ni.slotOf 0 0 = none ∧ ni.gens[0] = packet.gen ∧ packet.kind.toNat ≤ 1 ∧ packet.addr.toNat < 2 ^ 47 ∧ mappedRow packet.addr.toNat = true ∧
       mappedRow 0x18000000 = false ∧ routeValid ni.routes[17] = true ∧ routeValid ni.routes[57] = false ∧ ni.routePend[17] = none) ∧
    ((State.reset.net.nis[16]).slotOf 0 1 = none ∧ (State.reset.net.nis[16]).gens[0] ≠ 1) ∧
    packet.rptr ≠ packet.rlen ∧ portServes 0 (pktNibble { packet with route := 5 }) 17 = true ∧ portServes 0 (pktNibble { packet with route := 4 }) 17 = false := by
  decide +kernel

theorem test_hyps_responses_and_timeouts :
    (let s := onNi .reset 17 fun x => { x with out := [{ slot := 0, dst := 16, kind := 0, vn := 0, addr := 0, since := 0, origin := none }] }
     (s.net.nis[17]).epv[16] = packet.epoch ∧ ((s.net.nis[17]).slotOf 0 0).isSome = true ∧ (s.net.nis[17]).slotOf 1 0 = none ∧
       (s.net.nis[17]).epv[16] ≠ 1 ∧ (State.reset.net.nis[17]).out = [] ∧
       0 / 1000 + clampNat 1 1000000 (s.net.nis[17]).timeoutUs.toNat < (now (atTime 21000)).toNat / 1000) ∧
    mappedRow 0 = true ∧ mappedRow 0x18000000 = false ∧
    (let s := onNi .reset 17 fun x => { x with accepted := [packet] }
     (∀ r ∈ (s.net.nis[17]).accepted, r.dst = 17 ∧ routeValid (s.net.nis[17]).routes[r.src.val] = true) ∧ (s.net.nis[17]).suppressed = []) := by
  decide +kernel

theorem test_hyps_route_writes :
    -- a route over three chords, and one that ends on a chord, are refused
    2 < (((List.range (routeLen 0xC0000888)).map (routeNib 0xC0000888)).filter fun x => decide (8 ≤ x) && decide (x ≤ 10)).length ∧
    ((List.range (routeLen 0x90000008)).map (routeNib 0x90000008)).getLast? = some 8 ∧
    ¬ 2 < (((List.range (routeLen 0x90000005)).map (routeNib 0x90000005)).filter fun x => decide (8 ≤ x) && decide (x ≤ 10)).length ∧
    (∃ o ∈ ((asked 0 16).net.nis[16]).out, o.dst = 17) ∧ (State.reset.net.nis[16]).out = [] := by decide +kernel

def txn (addr : Word) : TreeTxn :=
  { addr := addr, write := false, data := 5, prompt := false, granted := true, since := 0, acted := true, dead := false, host := false }

theorem test_hyps_tree :
    State.reset.net.txns[2] = none ∧ (∀ k : Fin 3, k ≠ 2 → State.reset.net.txns[k.val] = none) ∧ State.reset.net.posted = [] ∧
    blockOf 0x00020000 = none ∧ (blockOf 0x6100 = some (.spindle, 0x6100)) ∧ (blockOf 0x01000604 = some (.mill 0, 0x604)) ∧
    (State.reset.mills[0]).mb.tallyBusy = false ∧
    0 / 1000 + clampNat 10 100000 State.reset.net.treeTimeoutUs.toNat < (now (atTime 1001000)).toNat / 1000 ∧ (txn 0x6100).granted = true ∧
    [((2 : Fin 3), txn 0x6100)].find? (fun p => p.1 = 2) = some (2, txn 0x6100) := by decide +kernel

/-- Flume port 0 ACTIVE at node 0, with a route to node 1 over it. -/
def linked (f : FlumePort → FlumePort) : State :=
  onFlume (onPort .reset 0 fun x => f { x with ctl := 0x970003E8, state := .active, credits := #v[64, 64, 32, 32, 8] }) fun g =>
    { g with routes := vmod g.routes (1 : NodeId) fun _ => 0x88000000, groupId := 9 }

theorem test_hyps_flume_ports :
    (let f := (linked id).flume.ports[0]
     f.en = true ∧ f.canSwap = true ∧ f.state = .active ∧ f.spareEn = true ∧ f.spareUsed = false ∧ f.swap = none ∧ bitsOf f.ctl 15 0 < 1001) ∧
    (State.reset.flume.ports[0]).en = false ∧ bitOf (0x80000000 : Word) 31 = true ∧ (0 : BitVec 16) ≠ (linked id).flume.groupId ∧
    (let f := { (linked id).flume.ports[0] with state := .down }
     f.autoRetrain = true ∧ f.fail ≠ failGroup ∧ f.fail ≠ failNode ∧ f.downAt.toNat + 1000000 ≤ (now (atTime 1000000)).toNat) := by decide +kernel

theorem test_hyps_flume_packets :
    (let s := linked id
     nodeRoute s 1 = some (1, 0, 0) ∧ nodeRoute s 2 = none ∧ flit.packets.isEmpty = false ∧ flit.seq = (s.flume.ports[0]).rxNext) ∧
    (let k := { packet with addr := 0x840000000000, dst := 36 }
     k.sub = false ∧ (issue (linked id) k).1 = true ∧ fin 32 (k.addr.toNat / 2 ^ 42) = 1) ∧
    (let y := { flumePacket with hops := 2 }
     y.hptr + 1 < y.hops ∧ bitsOf (0 : BitVec 24) 5 3 = 0 ∧ ((linked id).flume.ports[0]).state = .active) ∧
    flumePacket.hops ≤ flumePacket.hptr + 1 ∧ ({ flumePacket with dstNode := 0 }).dstNode = (linked id).flume.nodeId ∧
    windowOpenAt .reset 0 = false ∧ windowOpenAt (onFlume .reset fun g => { g with windows := vmod g.windows (0 : Fin 16) fun _ => { base := 0, size := 1 } }) 0 = true ∧
    remoteDoorbell 0x3F000010038 = some (0, false) ∧ remoteDoorbell 0x3F00001003C = some (0, true) := by decide +kernel

theorem test_hyps_windows_and_ingress :
    ((State.reset.net.nis[36]).freeTag = some 0 ∧ routeValid (State.reset.net.nis[36]).routes[16] = true) ∧
    (∀ q : FlumeId, (State.reset.flume.ports[q.val]).en = false) ∧
    (let w := docket [(0, 0x46), (4, 15), (5, 0x10000), (7, 0x20000)]
     headJob (firmware w).control.fwQueue .windowOpen = some (job w, []) ∧ inOneMemory 0x10000 0x20000 = true ∧ w[4].toNat ≤ 15) ∧
    inOneMemory 0x17FF0000 0x20000 = false := by decide +kernel

/-- The home directory of this node with one entry for line 3. -/
def homed (d : DirState) (lost : Bool) : State := onLedger .reset fun l => { l with dir := [{ line := 3, state := d, lost := lost }] }

theorem test_hyps_homes :
    (let s := State.reset
     s.ledger.nodeGone.getLsbD 1 = false ∧ s.ledger.busy 3 = false ∧ s.ledger.waiting.any (·.line = 3) = false ∧ s.ledger.txns.length < 64 ∧
       (s.ledger.entry 3).state = .unowned ∧ (s.ledger.entry 3).lost = false ∧ sWf s.ledger.store = true) ∧
    ((homed (.owned 2) false).ledger.entry 3).state = .owned 2 ∧ ((homed (.shared 4) true).ledger.entry 3).lost = true ∧
    nodesOf (4 &&& ~~~nodeBit 1) = [2] ∧ nodesOf (2 &&& ~~~nodeBit 1) = [] ∧
    (∀ i : Fin 8, bitOf (State.reset.ledger.watches[i.val]).2 31 = false) ∧
    (let t : Txn := { line := 3, node := 1, req := .getM, snooped := [2], awaiting := [2], owner := none }
     [t].find? (fun t => t.line = 3 && t.awaiting.contains (2 : NodeId)) = some t ∧ t.awaiting.filter (· ≠ 2) = []) ∧
    (onLedger .reset fun l => { l with goneBusy := true, nodeGone := 2 }).ledger.nodeGone = nodeBit 1 := by decide +kernel

theorem test_hyps_no_chute_word_is_kept (i : ChuteId) : bitOf (State.reset.ledger.chuteWords[i.val]).1 31 = false := by
  have h : State.reset.ledger.chuteWords[i.val] = (0, 0) := by simp [State.reset, Ledger.reset]
  rw [h]
  decide

def cacheLine (st : CacheState) : CacheLine := { home := 1, line := 3, state := st, dirty := false, data := .replicate 8 0 }

theorem test_hyps_caches_and_slots :
    (let l := { State.reset.ledger with cache := [cacheLine .m] }
     l.cached 1 3 = some (cacheLine .m) ∧ l.cached 1 4 = none ∧ { l with cache := [cacheLine .s] }.cached 1 3 = some (cacheLine .s)) ∧
    (let r : ReqEntry := { home := 1, line := 3, req := .getS, slot := some 0, blocked := false }
     [r].find? (fun r => r.home = 1 && r.line = 3 && r.req = .getS && !r.blocked) = some r) ∧
    (let x := { State.reset.ledger.slots[0] with addr := 0x2000000008 }
     let a := x.addr.toNat
     x.busy = false ∧ bitOf (0x80000001 : Word) 31 = true ∧ bitsOf (0x80000001 : Word) 3 0 ≤ 4 ∧ a % 8 = 0 ∧ 0x2000000000 ≤ a % 2 ^ 42 ∧ a % 2 ^ 42 < 0x2000100000 ∧
       a < 2 ^ 42 ∧ fin 16384 (a % 0x100000 / 64) = 0 ∧ fin 8 (a / 8) = 1) ∧
    (let x := { State.reset.ledger.slots[0] with busy := true }
     x.since.toNat / 1000 + bitsOf State.reset.ledger.cfg 15 0 + 1 ≤ (now (atTime 101000)).toNat / 1000) := by decide +kernel

/-! #### The Vault (14) -/

/-- A geometry of 16 blocks of 100 units. -/
def geometry : NandGeom :=
  { ce := 1, luns := 1, planes := 1, tlc := false, page16 := false, blocks := 16, rawUnits := 1600, identical := true }

def block (boot : Bool) (erases live reads : Nat) : NandBlock :=
  { boot := boot, erases := erases, reads := reads, bad := false, used := live, live := live, patrol := 0 }

/-- A mounted Vault: slots of 1 MiB, 100 units of DATA; BOOT block 0 holds a unit, BOOT block 1 and DATA block 2 are being filled. -/
def nand : Vault :=
  { Vault.reset with
    en := true, mounted := true, formatted := true, slotSize := 1, slotNv := 1, dataUnits := 100, spareBoot := 1, spareData := 1
    nand := geometry, openBoot := some 1, openData := some 2, map := [(0, 1)]
    blocks := [block true 0 1 200000, block true 10 0 0, block false 0 0 0, block true 1000 0 0] }

def vaulted (w : DocketWords) (f : Vault → Vault) : State := withUnit (onVault (firmware w) fun _ => f nand) 28 .online

def readDocket (part unit n : Word) : DocketWords := docket [(0, 0x44), (4, unit * 4096), (5, part * 4096), (6, 0x1000), (8, n)]
def writeDocket (part unit n : Word) : DocketWords := docket [(0, 0x45), (4, 0x1000), (6, unit * 4096), (7, part * 4096), (8, n)]

theorem test_hyps_vault_reads :
    (let w := readDocket 0 0 1
     let s := vaulted w id
     headJob s.control.fwQueue .vaultRead = some (job w, []) ∧ s.vault.en = true ∧ s.vault.mounted = true ∧ s.vault.formatting = false ∧
       unitTakes s 28 = true ∧ effRange s.granary.flat (jobMill w) (job w).win 0x1000 4096 = some 0x1000 ∧ rowsOk s none 0x1000 4096 ∧
       s.vault.holder true 0 = some 0 ∧ Memory.wf s.mem = true ∧ 0 + 1 ≤ 2 * s.vault.slotSize.toNat * 256) ∧
    -- the other lines of the table
    unitTakes (firmware (readDocket 0 0 1)) 28 = false ∧ (readDocket 0 0 1)[4].toNat % 4096 = 0 ∧ (0x1001 : Word).toNat % 512 ≠ 0 ∧
    ¬ 0 + 513 ≤ 2 * nand.slotSize.toNat * 256 ∧
    effRange State.reset.granary.flat 0 (job (readDocket 0 0 1)).win 0x20000000 4096 = none ∧ headJob [] .vaultRead = none := by
  unfold rowsOk; decide +kernel

theorem test_hyps_vault_writes :
    (let w := writeDocket 1 0 1
     let s := vaulted w id
     let v := s.vault
     headJob s.control.fwQueue .vaultWrite = some (job w, []) ∧ v.readOnly = false ∧ v.booted = false ∧ w[8].toNat = 1 ∧
       w[6].toNat + bitsOf w[7] 15 0 * 2 ^ 32 = 2 ^ 44 ∧ v.openOf false = some 2 ∧ (v.block 2).bad = false ∧
       (v.block 2).used + 1 ≤ v.unitsOf false ∧ 2 < v.blocks.length ∧ Memory.wf v.boot = true ∧ Memory.wf v.dataPart = true ∧ sWf v.map = true ∧
       rowsOk s none 0x1000 4096) ∧
    ({ nand with booted := true }.booted = true ∧ 0 < 0 + nand.slotSize.toNat * 256 ∧ 0 < 0 + 1) ∧ { nand with readOnly := true }.readOnly = true ∧
    ¬ ((1 : Nat) = 0 ∧ imageLen [] ≤ nand.anchorUnits * 4096) ∧ (writeDocket 2 0 1)[7].toNat = 0x2000 := by
  unfold rowsOk; decide +kernel

theorem test_hyps_vault_control :
    (bitOf (0x80000000 : Word) 31 = true ∧ Vault.reset.en = false ∧ Vault.reset.nand.identical = true ∧ Vault.reset.formatted = false ∧
      nand.formatted = true ∧ nand.en = true ∧ { nand with nand := { geometry with identical := false } }.nand.identical = false) ∧
    (let v := { nand with fail := 2 }
     v.fail = 2 ∧ State.reset.assay.lcState ≠ 5 ∧ bitsOf (0x80000001 : Word) 15 0 = 1 ∧ 2 * (2 * 1 * 256 * 102) ≤ v.nand.rawUnits * 100) := by decide +kernel

theorem test_hyps_vault_duties :
    (let v := nand
     let all := v.indexes.filter fun i => (v.block i).boot = true && !(v.block i).bad
     v.leastWorn all = some 0 ∧ v.mostWorn all = some 3 ∧ v.leastWorn (v.holding true) = some 0 ∧ v.mostWorn (v.indexes.filter (v.free true)) = some 3 ∧
       v.wlDelta.toNat < (v.block 3).erases - (v.block 0).erases ∧ v.openOf true ≠ some 0 ∧ nand.holding false = []) ∧
    (let b := nand.block 0
     b.boot = true ∧ 0 < b.live ∧ 1000 * bitsOf nand.rdLimit 15 0 ≤ b.reads ∧ nand.leastWorn (nand.indexes.filter (nand.free true)) = some 3) ∧
    (bitsOf nand.patrol 31 16 ≠ 0 ∧ (nand.block 0).patrol ≠ (now .reset).toNat / (bitsOf nand.patrol 31 16 * 86400000000000) + 1 ∧
      bitsOf nand.patrol 7 0 < 17 ∧ (nand.block 2).live = 0) := by decide +kernel

def section1 : Section :=
  { type := 1, priority := 0, bootLoad := true, bell := 3, srcOff := 2, len := 1024, dest := 0, digOff := 1, mills := 0 }

theorem test_hyps_streaming :
    (let s := onVault (onService .reset fun x => { x with bootPhase := 10 }) fun _ =>
       { nand with sections := [section1], streams := [{ index := 0, chunk := 0 }, { index := 0, chunk := 1 }] }
     s.service.bootPhase = 10 ∧ s.vault.streams = { index := 0, chunk := 0 } :: [{ index := 0, chunk := 1 }] ∧ s.vault.sections[0]? = some section1 ∧
       Codeword.uncorr ∈ [Codeword.uncorr] ∧ gristHeader s.vault s.assay.fuses true = none ∧ section1.chunks ≤ 0 + 1) ∧
    State.reset.service.bootPhase ≠ 10 := by decide +kernel

/-! #### The Clapper (15) -/

/-- A library: effect 0 is valid with splicing: 5 samples of attack, 10 of sustain twice, braking of 4 samples -5, -3, 4, 2. -/
def library : Memory :=
  writeBytes (writeBytes [] 0 (wordBytes [0xA0000000, 0x02000000, 0x000A0005, 0x00080000])) 1024 (wordBytes [0xFFFDFFFB, 0x00020004])

/-- A channel in a state, playing effect 0 since device time 0. -/
def playing (st : ClapState) (latched : Option (Fin 64 × Nat)) : ClapChannel := { ClapChannel.reset with state := st, latched := latched }

def clapper (c : Fin 2) (ch : ClapChannel) : Clapper :=
  { Clapper.reset with library := library, libValid := true, chans := vmod Clapper.reset.chans c fun _ => ch }

theorem test_hyps_segments :
    (let e := effectOf library 0
     e.attLen = 5 ∧ e.susRepeat = 2 ∧ e.susLen = 10 ∧ e.brkLen = 4 ∧ e.splice = true ∧ e.valid = true ∧ e.chan = 0 ∧ (effectOf library 1).valid = false ∧
       (playing .attack none).state = .attack ∧ (25000 : Word64) ≤ now (atTime 25000) ∧ ¬ (25000 : Word64) ≤ now (atTime 24999)) ∧
    (let v := fun i => libSample library i
     v 0 < 0 ∧ v 1 < 0 ∧ 0 ≤ v 2 ∧ (clapper 0 (playing .braking (some (0, 1)))).chans[0].latched = some (0, 1) ∧
       (15000 : Word64) ≤ now (atTime 15000)) ∧
    (let v := fun i => -1 * libSample library i
     0 ≤ v 0 ∧ 0 ≤ v 1 ∧ v 2 < 0) := by decide +kernel

theorem test_hyps_braking :
    (let ch := { playing .braking (some (0, 0)) with emf := some (-3) }
     ch.state = .braking ∧ ch.emf = some (-3) ∧ ((-3 : BitVec 16)).toInt < 0 ∧ 0 ≤ (4 : BitVec 16).toInt) ∧
    (let ch := { playing .braking (some (0, 0)) with emf := some 3 }
     ch.emf = some 3 ∧ 0 ≤ (3 : BitVec 16).toInt ∧ (-4 : BitVec 16).toInt < 0) ∧
    (4 : BitVec 16).toInt.natAbs < ClapChannel.reset.brakeStop.toNat ∧
    (let ch := playing .braking none
     ch.endAt.getD (BitVec.ofNat 64 (5000 * min 1600 (bitsOf ch.brake 10 0))) ≤ now (atTime 8000000)) := by decide +kernel

theorem test_hyps_triggers :
    (let x := clapper 0 (playing .idle none)
     x.loading = false ∧ x.libValid = true ∧ (effectOf x.library 0).valid = true ∧ (x.chans[0]).trigAt = none ∧ bitOf (0x80000000 : Word) 31 = true ∧
       bitOf x.pins[0] 31 = false ∧ bitsOf (0x80000000 : Word) 5 0 = 0) ∧
    (clapper 0 (playing .braking none)).chans[0].latched = none ∧ (clapper 0 (playing .braking (some (0, 0)))).chans[0].latched ≠ none ∧
    ({ playing .idle none with trigAt := some (0, 5) } : ClapChannel).trigAt = some (now .reset, 5) := by decide +kernel

def clapWords : DocketWords := docket [(0, 0x48), (4, 0)]

/-- Reset memory with a descriptor at byte 0 whose base is `a`. -/
def loadFrom (a : Word) (f : Clapper → Clapper) : State :=
  onClapper { firmware clapWords with mem := writeBytes [] 0 (wordBytes [a]) } f

theorem test_hyps_library_docket :
    (let s := loadFrom 0x1000 fun x => { x with loading := true }
     let ws := (descWords s (job clapWords).win 0).getD []
     headJob s.control.fwQueue .clapLoad = some (job clapWords, []) ∧ descWords s (job clapWords).win 0 = some ws ∧
       rowStatus s none (((job clapWords).win.base + 0) / 512 * 512) = .ok ∧
       effRange s.granary.flat (jobMill clapWords) (job clapWords).win (descOf ws).base 262144 = some 0x1000 ∧
       (s.clapper.chans[0]).state = .idle ∧ (s.clapper.chans[1]).state = .idle) ∧
    (let s := loadFrom 0x20000000 id
     effRange s.granary.flat (jobMill clapWords) (job clapWords).win (descOf ((descWords s (job clapWords).win 0).getD [])).base 262144 = none) ∧
    (clapper 0 (playing .attack none)).chans[0].state ≠ .idle := by decide +kernel

theorem test_hyps_library_rows : rowsOk State.reset none 0x1000 262144 := by unfold rowsOk; decide +kernel

theorem test_hyps_readings :
    (let x := { Clapper.reset with ctl := 0x40000000, untouched := 0x20000000 }
     bitOf x.ctl 30 = true ∧ (x.chans[0]).state = .idle ∧ x.tstate = .boot ∧ bitsOf x.untouched 15 0 ≤ 0x1000 ∧ 0x1000 ≤ bitsOf x.untouched 31 16 ∧
       ¬ 0x3000 ≤ bitsOf x.untouched 31 16 ∧ bitOf x.ctl 27 = false) ∧
    (let x := { Clapper.reset with tstate := .deferred, peak := 0x3000 }
     x.tstate = .deferred ∧ bitsOf x.deltas 31 16 < x.peak.toNat - 0x1000 ∧ x.peak.toNat - 0x2FFF ≤ bitsOf x.deltas 31 16 ∧
       x.t0.toNat + 30000000000 ≤ (now (atTime 30000000000)).toNat) ∧
    (let x := { Clapper.reset with tstate := .settling, settle := 1, relative := true }
     x.tstate = .settling ∧ x.settle ≤ 1 ∧ x.relative = true) ∧
    (let x := { Clapper.reset with tstate := .idle, run := 2, baseline := 0x1000, relative := true }
     (bitsOf x.deltas 15 0 : Int) ≤ 0x1200 - x.baseline.toNat ∧ x.run = 2 ∧ (bitsOf x.deltas 31 16 : Int) < -(0x0E00 - (x.baseline.toNat : Int)) ∧
       x.events.length < 16) ∧
    (let x := { Clapper.reset with tstate := .touched, run := 2, baseline := 0x1000 }
     2 * ((0x1000 : Int) - x.baseline.toNat) < bitsOf x.deltas 15 0 ∧ x.run = 2 ∧
       x.t0.toNat + max 1 (bitsOf x.timing 31 24) * 1000000000 ≤ (now (atTime 120000000000)).toNat) := by decide +kernel

/-- The library that a docket loads holds the words that stand at its place. -/
theorem loaded_word (m : Memory) (a n i : Nat) (h : i + 4 ≤ n) : readW (writeBytes [] 0 (readBytes m a n)) i = readW m (a + i) := by
  have one : ∀ k, k < n → readByte (writeBytes [] 0 (readBytes m a n)) k = readByte m (a + k) := by
    intro k hk
    have hl : k < (readBytes m a n).length := by rw [length_readBytes]; exact hk
    have hr := Laws.readByte_writeBytes (m := []) (a := 0) (by decide) k hl
    simp only [Nat.zero_add] at hr
    rw [hr]
    simp [readBytes_eq]
  simp only [readW, readLe, readBytes, one i (by omega), one (i + 1) (by omega), one (i + 1 + 1) (by omega), one (i + 1 + 1 + 1) (by omega)]
  rfl

/-- A library of zeros passes, since no entry is VALID; one whose entry 0 is VALID with no attack does not. -/
theorem test_hyps_library_checks (n : Nat) (hn : n = 262144) :
    (∀ e : Fin 64, (effectOf (writeBytes [] 0 (readBytes [] 0x1000 n)) e).valid = false) ∧
    (let lib := writeBytes [] 0 (readBytes (writeBytes [] 0x1000 [0, 0, 0, 0x80]) 0x1000 n)
     (effectOf lib 0).valid = true ∧ ¬ 1 ≤ (effectOf lib 0).attLen) := by
  refine ⟨fun e => ?_, ?_, ?_⟩
  · simp only [effectOf]
    rw [loaded_word _ _ _ _ (by omega)]
    simp only [readW, readLe, readBytes, readByte, sGet]
    decide
  · simp only [effectOf]
    rw [loaded_word _ _ _ _ (by show 16 * 0 + 4 * 0 + 4 ≤ n; omega)]
    decide
  · simp only [effectOf]
    rw [loaded_word _ _ _ _ (by show 16 * 0 + 4 * 2 + 4 ≤ n; omega)]
    decide

/-! #### Tests, the lifecycle and the tap (16) -/

def testWords (u sel : Word) : DocketWords := docket [(0, 0x42), (4, u), (5, sel)]

/-- A docket at the head of the firmware queue, in TEST lifecycle state, unit `u` in a state. -/
def testing (w : DocketWords) (u : Fin 43) (st : UnitState) : State :=
  withUnit (onAssay (firmware w) fun a => { a with lcState := 1 }) u st

theorem test_hyps_test_start :
    (let s := testing (testWords 3 0x00080000) 3 .isolated
     headJob s.control.fwQueue .assayRun = some (job (testWords 3 0x00080000), []) ∧ s.assay.lcState = 1 ∧ 0 < partitions 3 ∧
       unitState s 3 = .isolated ∧ s.service.sequences = [] ∧ bitOf (0x00080000 : Word) 9 = false ∧ s.assay.test = none ∧
       s.assay.reportHeld < s.assay.reportDepth) ∧
    State.reset.assay.lcState ≠ 1 ∧ bitsOf (5 : Word) 3 0 = 5 ∧ unitState .reset 3 ≠ .isolated ∧
    (bitOf (0x00000201 : Word) 9 = true ∧ ¬ (onService .reset fun x => { x with tj := 86 }).service.tj ≤ 85) ∧
    (onAssay .reset fun a => { a with reportHeld := 16 }).assay.reportDepth ≤ 16 := by decide +kernel

def tested (sel : Word) (j : Option Job) : Test := { unit := 3, part := 0, sel := sel, started := 0, job := j }

theorem test_hyps_test_ends :
    ((tested 0x00080000 none).kind = 0 ∧ bitsOf (0x00080000 : Word) 23 16 = 8 ∧ ¬ (bitsOf (0x00090000 : Word) 23 16 = 8 ∨ bitsOf (0x00090000 : Word) 23 16 = 32)) ∧
    ((tested 0x00000001 none).kind = 1 ∧ bitOf (0x00000101 : Word) 8 = true ∧ bitOf (0x00000201 : Word) 9 = true ∧ bitOf (0x00000001 : Word) 8 = false) ∧
    ((tested 0x00000002 none).kind = 2 ∧ (3 : Word64).toNat * 100000 ≤ (300000 : Word64).toNat ∧ (299999 : Word64).toNat < (3 : Word64).toNat * 100000) ∧
    (onAssay .reset fun a => { a with test := some (tested 1 none) }).assay.test = some (tested 1 none) ∧
    State.reset.assay.fuses.repair.length < 1024 ∧ 1024 ≤ (List.replicate 1024 ({ word := 0, commit := true } : FuseEntry)).length ∧
    1 * 0x06000000 ≤ 0x07000000 ∧ 0x07000000 < (1 + 1) * 0x06000000 := by decide +kernel

/-- A field part with the schedule on, one period after the last slice. -/
def inField (u : Fin 43) (st : UnitState) : State :=
  withUnit (onService (onAssay (atTime 60000000000) fun a => { a with sched := 0x8000003C, lcState := 3 }) fun x => { x with bootPhase := 0xF }) u st

theorem test_hyps_slices_due :
    let s := inField 0 .online
    let a := s.assay
    bitOf a.sched 31 = true ∧ 6 ≤ s.service.bootPhase.toNat ∧ s.service.noFirmware = false ∧
      a.sliceFrom.toNat + bitsOf a.sched 15 0 * 1000000000 ≤ (now s).toNat ∧ a.test = none ∧ a.reportHeld < a.reportDepth ∧
      s.service.sequences = [] ∧ a.rotUnit = 0 ∧ a.rotSlice < 12 ∧ a.schedMills.getLsbD 0 = true ∧ unitState s 0 = .online ∧
      s.control.urgentMills.getLsbD 0 = false := by decide +kernel

theorem test_hyps_next_slices :
    (let s := inField 4 .online
     let r := nextSlice s 60
     r.1 = some (4, 0) ∧ rotUnitOf r.2 4 = some 4 ∧ inRotation s 0 = true ∧ s.assay.rotSlice < entrySlices s 0 ∧ entryFree s 0 = false) ∧
    (nextSlice (inField 19 .online) 60).1 = none ∧ inRotation (inField 0 .online) 29 = false ∧ entryFree (inField 0 .online) 0 = true := by decide +kernel

theorem test_hyps_slices_end :
    ((3 : Nat) ≠ (if State.reset.service.millerB then 34 else 35)) ∧
    ((∀ l, l < 6 → qmapAt (0x2C688 : BitVec 18) l ≠ (6 : QuernId).val) ∧ ∀ x : QuernId, x < 6 → ∃ l, l < 6 ∧ qmapAt (0x2C688 : BitVec 18) l = x.val) ∧
    (let s := onService .reset fun x => { x with sequences := [{ unit := 3, job := none, todo := [.drain], done := 0, target := .online, since := 0, stopped := 0
                                                                 expired := false, restored := false, shadow := .none, qmap := none, slice := some (0, 0x00080000) }] }
     BitVec.ofNat 16 (8 : Word).toNat &&& ~~~s.control.urgentMills = BitVec.twoPow 16 3 ∧
       (s.service.sequences.find? fun q => q.unit.val = 3).isSome = true ∧ s.assay.test = none) := by decide +kernel

theorem test_hyps_lifecycle :
    (let s := onAssay .reset fun a => { a with lcState := 1, fuses := { a.fuses with lc := 1, uid := 5, keyValid := 1 } }
     s.up ∧ s.assay.fuses.state = s.assay.lcState ∧ s.assay.fuses.uid ≠ 0 ∧ s.assay.fuses.keyValid ≠ 0 ∧ bitsOf (0xA0000002 : Word) 2 0 = 2 ∧
       bitOf (0xA0000002 : Word) 31 = true ∧ bitOf (0xA0000002 : Word) 30 = false ∧ bitOf (0x40000000 : Word) 30 = true) ∧
    ({ Fuses.blank with lc := 3, visits := 1 } : Fuses).state = 4 ∧ Fuses.blank.state ≠ 4 ∧ State.reset.assay.lcState.val ≤ 5 := by decide +kernel

/-- A token for this part, made in FIELD, that asks for SERVICE. -/
def token : Vector Word 40 := vmod (vmod (Vector.replicate 40 0) (0 : Fin 40) fun _ => 0x4E4B5453) (1 : Fin 40) fun _ => 4

theorem test_hyps_token :
    (token[0] != 0x4E4B5453) = false ∧ (State.reset.assay.token[0] != 0x4E4B5453) = true ∧
    (let bytes := fun (from_ n : Nat) => ((wordBytes token.toList).drop from_).take n
     BitVec.ofNat 128 (leNat (bytes 0x10 16)) = State.reset.assay.fuses.uid ∧ BitVec.ofNat 256 (leNat (bytes 0x20 32)) = State.reset.assay.challenge ∧
       bitsOf token[1] 2 0 = 4 ∧ ({ Fuses.blank with lc := 3 } : Fuses).state = 3 ∧ ¬ 256 ≤ Fuses.blank.visits.toNat) ∧
    (onAssay .reset fun a => { a with tokenStat := 1 }).assay.tokenStat = 1 := by decide +kernel

/-! #### Unit states and the service sequence (17) -/

/-- A sequence of unit `u` at a step. -/
def atStep (u : UnitId) (k : SvcStep) : Sequence :=
  { unit := u, job := none, todo := [k], done := 0, target := .online, since := 0, stopped := 0, expired := false, restored := false, shadow := .none
    qmap := none, slice := none }

def served (s : State) (u : UnitId) (k : SvcStep) : State := onService s fun x => { x with sequences := [atStep u k] }

theorem test_hyps_sequences :
    (let s := served .reset 3 .drain
     (s.service.sequences.find? fun q => q.unit.val = (3 : UnitId).val) = some (atStep 3 .drain) ∧ (atStep 3 .drain).todo.head? = some .drain ∧ unitIdle s 3 = true) ∧
    (let s := served (atTime 3000000) 0 .drain
     let t := onMill s 0 fun x => { x with slots := vmod x.slots (0 : Fin 8) fun _ => some { msg := message histWords, order := 0 } }
     unitIdle t 0 = false ∧ (atStep 0 .drain).since.toNat / 1000 + clampNat 10 1000000 t.service.drainTimeout.toNat < (now t).toNat / 1000) ∧
    unitIdle (onWeir .reset 0 fun x => { x with queue := [job histWords] }) 20 = false := by decide +kernel

theorem test_hyps_unit_resets :
    ((State.reset.flume.ports[0]).state ≠ .active ∧ (State.reset.flume.ports[0]).state ≠ .recover) ∧
    ((State.reset.clapper.stop 0 0).stop 1 0).quietBoth = true ∧
    (((clapper 0 (playing .attack none)).stop 0 0).stop 1 0).quietBoth = false ∧
    ((onMill .reset 3 fun x => { x with sluice := { x.sluice with compDone := true } }).mills[3]).sluice.compDone = true ∧ (State.reset.mills[3]).sluice.compDone = false ∧ (State.reset.mills[3]).regs.remapBusy = false ∧ (State.reset.flume.ports[0]).en = false ∧
    (onMill .reset 3 fun x => { x with regs := { x.regs with remapBusy := true } }).mills[3].regs.remapBusy = true := by decide +kernel

theorem test_hyps_rejoin :
    (unitRec .reset 3).bind (·.rejoined) = none ∧
    (let s := onUnit .reset 3 fun r => { r with rejoined := some 0 }
     (unitRec s 3).bind (·.rejoined) = some 0 ∧ (0 : Word64).toNat + 4000000 ≤ (now (atTime 4000000)).toNat ∧ (now s).toNat < (0 : Word64).toNat + 4000000) := by
  decide +kernel

def unitWords (op u want : Word) : DocketWords := docket [(0, op), (4, u), (5, want)]

/-- UNIT_STATE for Mill 3 in a state. -/
def asking (want : Word) (st : UnitState) : State := withUnit (firmware (unitWords 0x40 3 want)) 3 st

theorem test_hyps_unit_state :
    (headJob (asking 1 .online).control.fwQueue .unitState = some (job (unitWords 0x40 3 1), []) ∧
      headJob (firmware (unitWords 0x41 3 1)).control.fwQueue .resetUnit = some (job (unitWords 0x41 3 1), [])) ∧
    (∀ x ∈ [((1 : Word), UnitState.online), (6, .online), (4, .degraded), (1, .standby), (4, .standby), (6, .standby), (0, .isolated), (1, .offline)],
      unitState (asking x.1 x.2) 3 = x.2 ∧ bitsOf x.1 2 0 = x.1.toNat) ∧
    (onControl .reset fun k => { k with urgentMills := 8 }).control.urgentMills.getLsbD 3 = true ∧ State.reset.service.sequences.length < 4 ∧
    ((∃ r, unitRec (onUnit .reset 3 fun r => { r with resetDone := true }) 3 = some r ∧ r.resetDone = true) ∧ State.reset.assay.dirty = []) := by
  refine ⟨by decide +kernel, by decide +kernel, by decide +kernel, by decide +kernel, ⟨_, rfl, rfl⟩, by decide +kernel⟩

theorem test_hyps_handover :
    (let s := onService (withUnit .reset 35 .standby) fun x => { x with standbyReady := true }
     unitState s 35 = .standby ∧ s.service.standbyReady = true ∧ s.service.noFirmware = false ∧ s.service.millerB = false ∧ s.control.tenantJob = none ∧
       s.clapper.loading = false ∧ s.assay.test = none) ∧
    (let s := onClapper (firmware clapWords) fun x => { x with loading := true }
     headJob s.control.fwQueue .clapLoad = some (job clapWords, []) ∧ s.control.tenantJob = none ∧ s.clapper.loading = true) ∧
    unitState .reset 35 ≠ .standby ∧
    (onControl .reset fun k => { k with tenantJob := some (job histWords) }).control.tenantJob = some (job histWords) := by decide +kernel

theorem test_hyps_firmware_staging :
    let w := docket [(0, 0x43), (4, 0x1000), (6, 0x2000)]
    headJob (firmware w).control.fwQueue .fwStage = some (job w, []) ∧
      effRange State.reset.granary.flat (jobMill w) (job w).win (w[4].toNat + bitsOf w[5] 15 0 * 2 ^ 32) w[6].toNat = some 0x1000 ∧
      effRange State.reset.granary.flat (jobMill w) (job w).win 0x20000000 0x2000 = none ∧ rowsOk State.reset none 0x1000 0x2000 ∧
      imageSlot State.reset.assay.fuses [] = none := by
  unfold rowsOk; decide +kernel

theorem test_hyps_views :
    unitNis .reset 3 = [3] ∧ (State.reset.net.nis[3]).admits = false ∧ UnitState.online.admits = true ∧
    (let s := onNi (onUnit .reset 3 fun r => { r with state := .isolated }) 3 fun y => { y with admits := true, accepted := [{ packet with src := 0, dst := 3 }] }
     (s.net.nis[3]).admits = true ∧ (unitState s 3).admits = false ∧ routeValid (s.net.nis[3]).routes[0] = true ∧ (s.net.nis[3]).suppressed = []) ∧
    (let s := onService (onUnit .reset 3 fun r => { r with state := .online }) fun x => { x with bootPhase := 7 }
     s.service.auditEn = true ∧ 7 ≤ s.service.bootPhase.toNat ∧ (s.net.nis[3]).admits ≠ UnitState.online.admits) ∧
    (∀ i : NiId, ((State.reset.net.nis[i.val]).epv[3]) = 0) := by decide +kernel

/-! #### Resets and start-up (18) -/

theorem test_hyps_resets :
    (let s := onService .reset fun x => { x with porstN := false, inReset := true }
     s.service.porstN = false ∧ State.reset.service.porstN = true ∧ State.reset.service.thermTrip = false ∧ State.reset.service.locked = false ∧
       State.reset.service.bootPhase = 0) ∧
    (bitsOf (0xD1E50001 : Word) 31 16 = 0xD1E5 ∧ bitOf (0xD1E50001 : Word) 0 = true) ∧
    ((min 0x8C State.reset.service.tripC.toNat : Nat) : Int) < 131 ∧ State.reset.service.warned = false ∧ (State.reset.service.warnC.toNat : Int) ≤ 115 := by
  decide +kernel

/-- Reset in a boot phase. -/
def booting (k : BitVec 4) : State := onService .reset fun x => { x with bootPhase := k }

theorem test_hyps_boot_steps :
    (∀ k : Fin 11, (booting (BitVec.ofNat 4 k.val)).service.bootPhase.toNat = k.val ∧ (booting (BitVec.ofNat 4 k.val)).assay.held = false) ∧
    State.reset.assay.fuses.spare 0 = none ∧ (State.reset.granary.spares[0]).used = false ∧
    (onGran .reset fun g => { g with spares := vmod g.spares 0 fun x => { x with used := true } }).granary.spares[0].used = true ∧
    (bitOf (1 : Word) 0 = true ∧ (onAssay (booting 5) fun a => { a with bootFail := true }).assay.bootFail = true) ∧
    (∀ i : Fin 16, (Vector.replicate 16 false)[i.val] ≠ true) ∧ State.reset.vault.mounted = false ∧
    gristChoice State.reset.vault State.reset.assay.fuses = none ∧ State.reset.vault.streams = [] := by decide +kernel

def sluiceSection : Section := { section1 with type := 2, mills := 8 }

theorem test_hyps_boot_streams :
    streamList [section1] 0 = [{ index := 0, chunk := 0 }] ∧ streamList [] 0 = [] ∧
    (let s := onService .reset fun x => { x with bootPhase := 0xF, sluBoot := vmod x.sluBoot (3 : MillId) fun _ => some { id := 1, refresh := false, result := some 0 } }
     s.service.sluBoot[3] = some { id := 1, refresh := false, result := some 0 } ∧ okStatus 0 = true ∧ okStatus stOffline = false ∧
       (∀ f : Fin 128, (((onMill s 3 fun x => { x with sluice := { x.sluice with fields := .replicate 128 { (x.sluice.fields[0]) with state := .valid } } }).mills[3]).sluice.fields[f.val]).state = .valid)) ∧
    ([sluiceSection].find? (fun x => x.type = 2 && x.mills.getLsbD 3) = some sluiceSection) ∧
    (∀ n : MillId, (sluiceSection.mills.getLsbD n.val = true ∧ (8 : BitVec 16).getLsbD n.val = true) ↔ n = 3) ∧
    (let s := booting 0xF
     slotFor s.control 3 0 = some 3 ∧ (s.mills[3]).running = none ∧ (s.mills[3]).mayIssue = true ∧ s.service.sluBoot[3] = none) := by decide +kernel

/-! #### The address map and the register accesses (21) -/

theorem test_hyps_registers_and_bars :
    State.reset.up ∧ State.reset.granary.errPend = false ∧ State.reset.net.perst = false ∧ blockOf 0x00020000 = none ∧
    (blockOf 0x01030604 = some (.mill 3, 0x604) ∧ Block.unit (.mill 3) = some 3 ∧ unitState (withUnit .reset 3 .testing) 3 = .testing) ∧
    (blockOf 0x03F00004 = some (.msix, 4) ∧ (4 : Nat) < 0x1000) ∧ (State.reset.net.posted.filter (·.write)).length < 16 ∧
    rowsOk (onNi .reset 1 fun y => { y with admits := true }) none 0x1001400000 4 ∧ (0x18000000 ≤ 0x18C00000 ∧ 0x18C00000 + 4 ≤ 0x18000000 + ((0x18C00000 - 0x18000000) / 0x800000 + 1) * 0x800000) := by
  unfold rowsOk; decide +kernel

/-! #### The whole block -/

theorem test_hyps_storage : storesOk State.reset = true := by decide +kernel

theorem test_hyps_ratings : ratingsHold { State.reset with pending := [.vppSluRise 3800] } = true ∧ withinRating (.vppSluRise 3801) = false := by decide +kernel

/-- A good firmware image cannot be written down: what a signature verifies to is an opaque value (log entry 7). With its key's hash in a valid slot and its signature accepted, an image of one block is taken. -/
theorem test_hyps_image (image : List Byte) (h : imgWord image 0 = 0x46524C4D ∧ imgWord image 4 = 0 ∧ imgWord image 8 = 1)
    (sig : Config.ecdsaOk (keyOf ((image.drop 0x10).take 96)) (Config.sha384 (image.take 0x70 ++ (image.drop 0x1000).take (1 * 4096)))
      (keyOf ((image.drop 0x70).take 96)) = true) :
    imageSlot { Fuses.blank with lc := 3, keyValid := 1, keyHash := .replicate 4 (Config.sha384 ((image.drop 0x10).take 96)) } image = some 0 := by
  simp [imageSlot, Fuses.slotOf, h, sig, List.finRange_succ, Fuses.blank]

/-! ### Single values and steps that the spec's tables and worked cases give -/

/-- A requantised accumulator in halves (02 Table 2.6): code and whether it counts as saturated. -/
def requantised (f : Fmt) (away toInf : Bool) (acc : Int) : Nat × Bool := let r := f.quantise away toInf (.ofInt acc (-1)); (r.1, r.2.1)

/-- 02 Table 2.6, the column RND_AWAY = 0. -/
theorem test_requantise_half_even :
    requantised .int8 false false 253 = (126, false) ∧ requantised .int8 false false 255 = (127, true) ∧
    requantised .int8 false false (-257) = (0x80, false) ∧ requantised .e4m3 false false 928 = (0x7E, false) ∧
    requantised .e5m2 false false 117000 = (0x7B, false) ∧ requantised .e5m2 false false 122880 = (0x7B, true) ∧
    requantised .e5m2 false true 122880 = (0x7C, true) := by decide +kernel

/-- 02 Table 2.6, the column RND_AWAY = 1. -/
theorem test_requantise_half_away :
    requantised .int8 true false 253 = (127, false) ∧ requantised .int8 true false 255 = (127, true) ∧
    requantised .int8 true false (-257) = (0x80, true) ∧ requantised .e4m3 true false 928 = (0x7E, true) ∧
    requantised .e5m2 true false 117000 = (0x7B, false) ∧ requantised .e5m2 true false 122880 = (0x7B, true) := by decide +kernel

/-- 09, the worked case: thirty edges of 30 us, read 900 ns after the last; VAL2 is 33,333.3. -/
theorem test_encoder_record :
    let s := onGauge (atTime 1888900) fun g => { g with encs := vmod g.encs (0 : Fin 8) fun x =>
      { x with count := 30, recCount := 0, recEdge := some 988000, lastEdge := some 1888000 } }
    let v := (encoderVals s 0).1
    nthW v 0 = fofInt 30 ∧ nthW v 1 = fofInt 900000 ∧ nthW v 3 = fofInt 900 ∧ flt (fdiv (fofInt 333333) (fofInt 10)) (nthW v 2) = true ∧
      flt (nthW v 2) (fdiv (fofInt 333334) (fofInt 10)) = true := by decide +kernel

/-- 10, the worked case: v = 8.333333 m/s, 600 mm and 650 mm ahead, leads of 4 and 2 ms. -/
theorem test_distance_edges :
    let s := onSpigot .reset fun sp => { sp with speedCfg := 0, chans := vmod sp.chans (0 : ChanId) fun c => { c with leads := 0x0FA007D0 } }
    let t := fun (e0 um : Word) => (edgeOf s (some (0, 0x41055555)) 0 [e0, um, 0, 0]).map (·.time)
    t 0x1100 600000 = some 68000000 ∧ t 0x0100 650000 = some 76000000 := by decide +kernel

/-- 16, the worked case: the rotation has 232 slices. -/
theorem test_rotation_length : (List.range 29).foldl (fun n i => n + entrySlices .reset i) 0 = 232 ∧ entrySlices .reset 0 = 12 := by decide +kernel

/-- 21, the worked case: QMAP of Mill 7 and row 0 of Hopper 3. -/
theorem test_addresses : blockOf 0x01070600 = some (.mill 7, 0x600) ∧ bar2Addr 0x19800000 = 0x1003000000 ∧
    localPart 5 0x941003000000 = some 0x1003000000 := by decide +kernel

/-- 03 QMAP's reset value maps each logical Quern to itself. -/
theorem test_quern_map : ∀ l : Fin 6, qmapAt 0x2C688 l.val = l.val := by decide +kernel

/-- 13, the worked case: GET_M of a line owned by node 5 snoops node 5. -/
theorem test_get_m_snoops_the_owner :
    nodesOf (nodeBit 5 &&& ~~~nodeBit 9) = [5] := by decide +kernel

/-- 16 Table 16.4: IDCODE captures 0x1_1640_E4D, bit 0 first. -/
theorem test_idcode : (match exec .idcode .reset with | .next t => t.assay.captured.take 12 | _ => []) =
    [true, false, true, true, false, false, true, false, false, true, true, true] := by decide +kernel

/-- 15, the worked case: the second trigger of a braking channel is latched, the third dropped. -/
theorem test_second_trigger_latched_third_dropped :
    (let s := onClapper .reset fun _ => { clapper 0 (playing .braking none) with library := library }
     match exec (.trig 0) s with | .next t => (t.clapper.chans[0]).latched.isSome && decide (t.clapper.counters[0] = 0) | _ => false) = true ∧
    (let s := onClapper .reset fun _ => clapper 0 (playing .braking (some (0, 0)))
     match exec (.trig 0) s with | .next t => decide (t.clapper.counters[0] = 1) | _ => false) = true := by decide +kernel

/-- 10 R231: the SAFE pin holds the channels safe while it is low. -/
theorem test_safe_pin : (match exec .safePinFall .reset with | .next t => t.spigot.safePinLow | _ => false) = true := by decide +kernel

/-- A step takes the first waiting command, and an empty queue idles. -/
theorem test_step_takes_the_front :
    (match step { State.reset with pending := [.safePinFall, .safePinRise] } with
     | .next t => t.spigot.safePinLow && decide (t.pending = [.safePinRise]) | _ => false) = true ∧ step .reset = .next .reset := by
  refine ⟨by decide +kernel, rfl⟩

/-- 20 R461: a level beyond 3,800 mV stops the run. -/
theorem test_rating : (match exec (.vppSluRise 3801) .reset with | .fault .ratingExceeded => true | _ => false) = true ∧
    (match exec (.vppSluRise 3800) .reset with | .next _ => true | _ => false) = true := by decide +kernel

/-- 02, the worked case of BX10: E4M3 inputs 448, 14, 3.25 and 0.8125 give E = 135 and mantissas 448, 14, 3 and 1. -/
theorem test_bx10_block :
    bxExpand (Fmt.largest .e4m3) ([0x7E, 0x56, 0x45, 0x35].map fE4M3.decode) = { e := 135, ms := [448, 14, 3, 1], nans := 0, infs := 0 } := by decide +kernel

end Sys2Proof.Tests
end

section
/-! SUPPORT. The Winnow's conversion to an output format (02 R26, R36 to R39): what the conversion to a floating-point layout and
to a signed integer gives in each case, the output formats of Table 2.1 that each conversion serves, and the statement about them. -/

namespace Sys2Proof.Machine

/-! ### Conversion to a floating-point layout -/

/-- What stands for a value out of range (02 R37, R38): infinity, or the largest finite code, of its sign. -/
def FFmt.limitCode (ff : FFmt) (toInf neg : Bool) : Nat := if toInf then ff.infCode neg else ff.maxCode neg

section
variable {ff : FFmt} {away toInf neg : Bool} {m : Nat} {e : Int}

theorem FFmt.quantise_nan : ff.quantise away toInf .nan = (ff.nanCode, false) := rfl

theorem FFmt.quantise_inf : ff.quantise away toInf (.inf neg) = (ff.limitCode toInf neg, true) := rfl

theorem FFmt.quantise_fin_of_beyond (h : magLt ff.maxM ff.maxE (ff.round away m e).1 (ff.round away m e).2 = true) :
    ff.quantise away toInf (.fin neg m e) = (ff.limitCode toInf neg, true) := if_pos h

theorem FFmt.quantise_fin_of_within (h : magLt ff.maxM ff.maxE (ff.round away m e).1 (ff.round away m e).2 = false) :
    ff.quantise away toInf (.fin neg m e) = (ff.sign neg + ff.encodeMag (ff.round away m e).1 (ff.round away m e).2, false) :=
  if_neg (Bool.eq_false_iff.mp h)

end

/-- Only E5M2 takes E5M2_INF (02 R38). -/
theorem Fmt.quantise_of_float {f : Fmt} {ff : FFmt} (hf : f.float = some ff) (away toInf : Bool) (v : FVal) :
    f.quantise away toInf v =
      ((ff.quantise away (toInf && f = .e5m2) v).1, (ff.quantise away (toInf && f = .e5m2) v).2, false) := by
  rw [Fmt.quantise, hf]

/-! ### Conversion to a signed integer -/

section
variable {w : Nat} {away neg : Bool} {m : Nat} {e : Int}

theorem natCast_two_pow (n : Nat) : ((2 ^ n : Nat) : Int) = 2 ^ n := Int.natCast_pow 2 n

/-- The lowest code of an integer format, by its highest. -/
theorem neg_two_pow (n : Nat) : (-2 ^ n : Int) = -(2 ^ n - 1) - 1 := by omega

theorem quantiseInt_nan : quantiseInt w away .nan = (0, false, true) := rfl

theorem quantiseInt_inf :
    quantiseInt w away (.inf neg) = (if neg then -(2 ^ (w - 1) - 1) - 1 else 2 ^ (w - 1) - 1, true, false) := by
  simp only [quantiseInt, natCast_two_pow, neg_two_pow]

theorem quantiseInt_fin_of_above (h : 2 ^ (w - 1) - 1 < FVal.roundInt away neg m e) :
    quantiseInt w away (.fin neg m e) = (2 ^ (w - 1) - 1, true, false) := by
  simp only [quantiseInt, natCast_two_pow, if_pos h]

theorem quantiseInt_fin_of_below (h : FVal.roundInt away neg m e < -(2 ^ (w - 1) - 1) - 1) :
    quantiseInt w away (.fin neg m e) = (-(2 ^ (w - 1) - 1) - 1, true, false) := by
  have hpow : (0 : Int) < 2 ^ (w - 1) := Int.pow_pos (by decide)
  have habove : ¬ 2 ^ (w - 1) - 1 < FVal.roundInt away neg m e := by omega
  simp only [quantiseInt, natCast_two_pow, neg_two_pow, if_neg habove, if_pos h]

theorem quantiseInt_fin_of_within (hhi : FVal.roundInt away neg m e ≤ 2 ^ (w - 1) - 1)
    (hlo : -(2 ^ (w - 1) - 1) - 1 ≤ FVal.roundInt away neg m e) :
    quantiseInt w away (.fin neg m e) = (FVal.roundInt away neg m e, false, false) := by
  simp only [quantiseInt, natCast_two_pow, neg_two_pow, if_neg (Int.not_lt.mpr hhi), if_neg (Int.not_lt.mpr hlo)]

end

theorem Fmt.quantise_of_int {f : Fmt} (hf : f.float = none) (away toInf : Bool) (v : FVal) :
    f.quantise away toInf v = ((BitVec.ofInt f.bits (quantiseInt f.bits away v).1).toNat, (quantiseInt f.bits away v).2) := by
  rw [Fmt.quantise, hf]

/-! ### The floating-point output formats -/

/-- A magnitude's code with a sign in the top bit of the format. -/
def Fmt.signed (f : Fmt) (neg : Bool) (code : Nat) : Nat := if neg then 2 ^ (f.bits - 1) + code else code

/-- The magnitude's code written out of range, the largest finite one being `max`: E5M2 under E5M2_INF has infinity (02 R37, R38). -/
def Fmt.outOfRange (f : Fmt) (toInf : Bool) (max : Nat) : Nat := if f = .e5m2 ∧ toInf = true then 0x7C else max

/-- What the tables of 02 say of a floating-point output format: its layout, with the sign in the top bit, its canonical NaN
(R26), the code of its largest finite value (R37), and the infinity of E5M2 (R38). -/
structure FloatOutput (f : Fmt) (ff : FFmt) (nan max : Nat) : Prop where
  float : f.float = some ff
  signBit : ff.eb + ff.mb = f.bits - 1
  nanCode : ff.nanCode = nan
  encodeMax : ff.encodeMag ff.maxM ff.maxE = max
  decodeMax : ff.decode max = .fin false ff.maxM ff.maxE
  infinity : f = .e5m2 → (2 ^ ff.eb - 1) <<< ff.mb = 0x7C

theorem floatOutput_of_mem (f : Fmt) (ff : FFmt) (nan max : Nat)
    (h : (f, ff, nan, max) ∈ [(Fmt.e4m3, fE4M3, 0x7F, 0x7E), (.e5m2, fE5M2, 0x7E, 0x7B), (.fp16, fFP16, 0x7E00, 0x7BFF),
      (.bf16, fBF16, 0x7FC0, 0x7F7F), (.fp32, fFP32, 0x7FC00000, 0x7F7FFFFF)]) : FloatOutput f ff nan max := by
  simp only [List.mem_cons, Prod.mk.injEq, List.not_mem_nil, or_false] at h
  obtain ⟨rfl, rfl, rfl, rfl⟩ | ⟨rfl, rfl, rfl, rfl⟩ | ⟨rfl, rfl, rfl, rfl⟩ | ⟨rfl, rfl, rfl, rfl⟩ | ⟨rfl, rfl, rfl, rfl⟩ := h <;>
    constructor <;> decide

section
variable {f : Fmt} {ff : FFmt} {nan max : Nat} (h : FloatOutput f ff nan max) {away toInf neg : Bool} {m : Nat} {e : Int}
include h

theorem FloatOutput.sign_add (neg : Bool) (code : Nat) : ff.sign neg + code = f.signed neg code := by
  cases neg
  · exact Nat.zero_add code
  · simp only [FFmt.sign, Fmt.signed, flag, h.signBit, if_true]

theorem FloatOutput.limitCode_eq (toInf neg : Bool) :
    ff.limitCode (toInf && f = .e5m2) neg = f.signed neg (f.outOfRange toInf max) := by
  rw [← h.sign_add, FFmt.limitCode, Fmt.outOfRange]
  by_cases hinf : f = .e5m2 ∧ toInf = true
  · obtain ⟨hf, ht⟩ := hinf
    have htake : (toInf && decide (f = .e5m2)) = true := by rw [ht, Bool.true_and, decide_eq_true hf]
    rw [htake, if_pos rfl, if_pos ⟨hf, ht⟩, FFmt.infCode, h.infinity hf]
  · have hkeep : (toInf && decide (f = .e5m2)) = false := by
      rw [Bool.eq_false_iff, ne_eq, Bool.and_eq_true, decide_eq_true_eq, And.comm]
      exact hinf
    rw [hkeep, if_neg hinf, if_neg Bool.false_ne_true, FFmt.maxCode, h.encodeMax]

theorem FloatOutput.quantise_nan : f.quantise away toInf .nan = (nan, false, false) := by
  rw [Fmt.quantise_of_float h.float, FFmt.quantise_nan, h.nanCode]

theorem FloatOutput.quantise_inf :
    f.quantise away toInf (.inf neg) = (f.signed neg (f.outOfRange toInf max), true, false) := by
  rw [Fmt.quantise_of_float h.float, FFmt.quantise_inf, h.limitCode_eq]

/-- A value that rounds beyond the largest finite code is treated as an infinity of its sign (02 R37 to R39). -/
theorem FloatOutput.quantise_fin_of_beyond
    (hr : magLt ff.maxM ff.maxE (ff.round away m e).1 (ff.round away m e).2 = true) :
    f.quantise away toInf (.fin neg m e) = f.quantise away toInf (.inf neg) := by
  rw [Fmt.quantise_of_float h.float, Fmt.quantise_of_float h.float, FFmt.quantise_fin_of_beyond hr, FFmt.quantise_inf]

theorem FloatOutput.quantise_fin_of_within
    (hr : magLt ff.maxM ff.maxE (ff.round away m e).1 (ff.round away m e).2 = false) :
    f.quantise away toInf (.fin neg m e) =
      (f.signed neg (ff.encodeMag (ff.round away m e).1 (ff.round away m e).2), false, false) := by
  rw [Fmt.quantise_of_float h.float, FFmt.quantise_fin_of_within hr, h.sign_add]

end

/-! ### The integer output formats -/

theorem intOutput_of_mem (f : Fmt) (w : Nat) (h : (f, w) ∈ [(Fmt.int4, 4), (.int8, 8), (.int16, 16), (.int32, 32)]) :
    f.float = none ∧ f.bits = w := by
  simp only [List.mem_cons, Prod.mk.injEq, List.not_mem_nil, or_false] at h
  obtain ⟨rfl, rfl⟩ | ⟨rfl, rfl⟩ | ⟨rfl, rfl⟩ | ⟨rfl, rfl⟩ := h <;> exact ⟨rfl, rfl⟩

/-- Settles O14: the list of output formats is read row by row from the tables, and each case of the conversion has its lemma above. -/
theorem outputsConvertAndSaturate : Obligations.OutputsConvertAndSaturate := by
  unfold Obligations.OutputsConvertAndSaturate
  refine ⟨fun _ _ => rfl, fun away toInf => ⟨?floats, ?ints⟩, by decide, by decide, by decide⟩
  case floats =>
    intro f ff nan max hrow
    have h := floatOutput_of_mem f ff nan max hrow
    exact ⟨h.quantise_nan, fun _ => h.quantise_inf,
      fun _ _ _ => ⟨fun hr => (h.quantise_fin_of_beyond hr).trans h.quantise_inf, h.quantise_fin_of_within⟩, h.decodeMax⟩
  case ints =>
    intro f w hrow
    obtain ⟨hfloat, rfl⟩ := intOutput_of_mem f w hrow
    intro hi code
    simp only [Fmt.quantise_of_int hfloat]
    refine ⟨?nan, ?inf, fun neg m e => ⟨?above, ?below, ?within⟩⟩
    case nan => rw [quantiseInt_nan, BitVec.toNat_ofInt, Int.zero_emod, Int.toNat_zero]
    case inf => intro neg; rw [quantiseInt_inf]
    case above => intro h; rw [quantiseInt_fin_of_above h]
    case below => intro h; rw [quantiseInt_fin_of_below h]
    case within => intro hhi hlo; rw [quantiseInt_fin_of_within hhi hlo]

end Sys2Proof.Machine
end

section
/-! SUPPORT. Self-test and repair (16 R364 to R381): the checks of ASSAY_RUN in their order, what the end of a test does, how each kind
of test ends, the arrays a memory test leaves zeroed, the burning of fuse entries, and the statement about them. -/

open Sys2Proof.Laws

namespace Sys2Proof.Machine

/-! ### The checks of ASSAY_RUN (16 Tables 16.1, 16.5, 16.7) -/

theorem assayAllowed_iff {lc : Fin 8} : assayAllowed lc = true ↔ lc = 1 ∨ lc = 4 := by
  simp only [assayAllowed, Bool.or_eq_true, decide_eq_true_eq]

/-- Logic BIST names a partition of the unit, memory BIST the unit alone, PRBS31 a lane of a Flume port. -/
theorem testKnown_iff {u part : Nat} {sel : Word} :
    testKnown u part sel = true ↔ u < 43 ∧ bitsOf sel 3 0 ≤ 4 ∧ (bitsOf sel 3 0 = 0 → part < partitions u) ∧
      (2 ≤ bitsOf sel 3 0 → 22 ≤ u ∧ u ≤ 27 ∧ part ≤ 16) := by
  simp only [testKnown, Bool.and_eq_true, decide_eq_true_eq]
  obtain h0 | h1 | h2 : bitsOf sel 3 0 = 0 ∨ bitsOf sel 3 0 = 1 ∨ 2 ≤ bitsOf sel 3 0 := by omega
  · simp [h0]
  · simp [h1]
  · rw [if_neg (by omega), if_neg (by omega)]
    simp only [Bool.and_eq_true, decide_eq_true_eq]
    omega

/-- The unit of a test is ISOLATED, and no service sequence runs on it. -/
def AtRest (s : State) (u : Nat) : Prop := unitState s u = .isolated ∧ ∀ q ∈ s.service.sequences, q.unit.val ≠ u

theorem atRest_iff {s : State} {u : Nat} : (unitState s u ≠ .isolated || (seqOf s u).isSome) = false ↔ AtRest s u := by
  simp [AtRest, seqOf]

/-- Where Tj allows the fuse repair that the selection asks for, if it asks for one (R373). -/
def FuseTempOk (s : State) (sel : Word) : Prop := bitOf sel 9 = true → 0 ≤ s.service.tj ∧ s.service.tj ≤ 85

theorem fuseTempOk_iff {s : State} {sel : Word} : (bitOf sel 9 && !fuseTemp s) = false ↔ FuseTempOk s sel := by
  cases h : bitOf sel 9 <;> simp [FuseTempOk, fuseTemp, h]

theorem startWaits_iff {a : Assay} : (a.test.isSome || a.reportFull) = true ↔ a.test ≠ none ∨ a.reportDepth ≤ a.reportHeld := by
  simp only [Assay.reportFull, Bool.or_eq_true, decide_eq_true_eq, Option.isSome_iff_ne_none]

/-! ### ASSAY_RUN -/

/-- The unit that an ASSAY_RUN docket names. -/
abbrev Job.testUnit (j : Job) : Nat := bitsOf j.words[4] 7 0
/-- Its partition, or the lane of a Flume port. -/
abbrev Job.testPart (j : Job) : Nat := bitsOf j.words[4] 15 8
/-- Its selection, w5. -/
abbrev Job.testSel (j : Job) : Word := j.words[5]

theorem exec_assayRun {s : State} (hup : s.up) : exec .assayRun s = .next (settleErr (assayRun s)) := liveRows_next hup assayRun

theorem assayRun_of_no_head {s : State} (hhead : headJob s.control.fwQueue .assayRun = none) : assayRun s = s := by
  rw [assayRun, hhead]

section
variable {s : State} {j : Job} {rest : List Job} (hhead : headJob s.control.fwQueue .assayRun = some (j, rest))
include hhead

theorem assayRun_of_lifecycle (ha : ¬ assayAllowed s.assay.lcState = true) :
    assayRun s = fwDone (onControl s fun k => { k with fwQueue := rest }) j stBound 0x83 := by
  simp [assayRun, hhead, ha]

variable (ha : assayAllowed s.assay.lcState = true)
include ha

theorem assayRun_of_unknown (hk : ¬ testKnown j.testUnit j.testPart j.testSel = true) :
    assayRun s = fwDone (onControl s fun k => { k with fwQueue := rest }) j stFormat 0x87 := by
  simp [assayRun, hhead, ha, hk]

variable (hk : testKnown j.testUnit j.testPart j.testSel = true)
include hk

theorem assayRun_of_not_atRest (hr : ¬ AtRest s j.testUnit) :
    assayRun s = fwDone (onControl s fun k => { k with fwQueue := rest }) j stOffline 0x82 := by
  simp only [assayRun, hhead, ha, hk, eq_true_of_ne_false (mt atRest_iff.mp hr), Bool.not_true, Bool.false_eq_true, if_false, if_true]

variable (hr : AtRest s j.testUnit)
include hr

theorem assayRun_of_fuseTemp (hf : ¬ FuseTempOk s j.testSel) :
    assayRun s = fwDone (onControl s fun k => { k with fwQueue := rest }) j stBound 0x86 := by
  simp only [assayRun, hhead, ha, hk, atRest_iff.mpr hr, eq_true_of_ne_false (mt fuseTempOk_iff.mp hf), Bool.not_true,
    Bool.false_eq_true, if_false, if_true]

variable (hf : FuseTempOk s j.testSel)
include hf

theorem assayRun_waits (hw : s.assay.test ≠ none ∨ s.assay.reportDepth ≤ s.assay.reportHeld) : assayRun s = s := by
  simp only [assayRun, hhead, ha, hk, atRest_iff.mpr hr, fuseTempOk_iff.mpr hf,
    startWaits_iff.mpr hw, Bool.not_true, Bool.false_eq_true, if_false, if_true]

theorem assayRun_starts (hnone : s.assay.test = none) (hroom : s.assay.reportHeld < s.assay.reportDepth) :
    assayRun s = onAssay (onUnit (onControl s fun k => { k with fwQueue := rest }) j.testUnit fun r => { r with state := .testing })
      fun a => { a with test := some { unit := fin 256 j.testUnit, part := j.testPart, sel := j.testSel, started := now s, job := some j } } := by
  have hw : ¬ (s.assay.test ≠ none ∨ s.assay.reportDepth ≤ s.assay.reportHeld) :=
    not_or.mpr ⟨not_not_intro hnone, Nat.not_le.mpr hroom⟩
  simp only [assayRun, hhead, ha, hk, atRest_iff.mpr hr, fuseTempOk_iff.mpr hf,
    mt startWaits_iff.mp hw, Bool.not_true, Bool.false_eq_true, if_false]
  rfl

end

/-! ### Partitions (16 Table 16.1) -/

theorem partitions_mill {u : Nat} (h : u < 16) : partitions u = 11 := if_pos h

theorem partitions_flume {u : Nat} (h : 22 ≤ u) (h' : u ≤ 27) : partitions u = 2 := by
  rw [partitions, if_neg (by omega), if_neg (by omega), if_neg (by omega), if_pos (by omega)]

/-! ### The end of a test (16 R377, R379, R380) -/

theorem stopAt_eq_min (hi n : Nat) : stopAt hi n = min hi n := by
  unfold stopAt; split <;> omega

theorem decide_failed (e : TestEnd) : (e.result = 1 || e.result = 3) = decide (e.result = 1 ∨ e.result = 3) :=
  (Bool.decide_or _ _).symm

/-- A test that has ended is counted, leaves Assay free, and its unit goes from TESTING back to ISOLATED. -/
def testCounted (x : State) (t : Test) (e : TestEnd) : State :=
  onUnit (onAssay x fun a => { a with test := none, slicesRun := bump a.slicesRun
                                      slicesFailed := if e.result = 1 ∨ e.result = 3 then bump a.slicesFailed else a.slicesFailed
                                      repairsSoft := bump a.repairsSoft e.repairs })
    t.unit.val fun r => if r.state = .testing then { r with state := .isolated } else r

theorem endTest_of_field {w : State} {t : Test} (e : TestEnd) (hj : t.job = none) :
    endTest w t e = testCounted (writeReport w t e) t e := by
  simp only [endTest, testCounted, hj, Bool.or_eq_true, decide_eq_true_eq]

theorem endTest_of_job {w : State} {t : Test} {j : Job} (e : TestEnd) (hj : t.job = some j) :
    endTest w t e = finishJob (testCounted (writeReport w t e) t e) j e.status e.sub 0 (min 65535 e.repairs) t.started 1 0 := by
  simp only [endTest, testCounted, hj, stopAt_eq_min, Bool.or_eq_true, decide_eq_true_eq]

/-- A command that finishes a test ends it; a field slice then goes on as its outcome says. -/
theorem exec_of_finishTest {c : Instr} {s w : State} {t : Test} {e : TestEnd} {q : Option QuernId}
    (h : exec c s = .next (settleErr (finishTest w t e q))) :
    (t.job ≠ none → exec c s = .next (settleErr (endTest w t e))) ∧
      (t.job = none → exec c s = .next (settleErr (fieldOver (endTest w t e) t (decide (e.result = 1 ∨ e.result = 3)) q))) := by
  rw [h, ← decide_failed]
  constructor
  · intro hj
    rw [finishTest, if_pos (Option.isSome_iff_ne_none.mpr hj)]
  · intro hj
    simp only [finishTest, hj, Option.isSome_none, Bool.false_eq_true, if_false]

/-! ### The running test -/

theorem testOf_of_none {s : State} {p : Nat → Bool} (ht : s.assay.test = none) : testOf s p = none := by
  rw [testOf, ht]

theorem testOf_of_kind {s : State} {t : Test} {p : Nat → Bool} (ht : s.assay.test = some t) (hp : p t.kind = true) :
    testOf s p = some t := by
  simp only [testOf, ht, hp, if_true]

theorem testOf_of_other {s : State} {t : Test} {p : Nat → Bool} (ht : s.assay.test = some t) (hp : p t.kind = false) :
    testOf s p = none := by
  simp only [testOf, ht, hp, Bool.false_eq_true, if_false]

/-! ### Logic BIST (16 R364, R379) -/

/-- The logic of the unit of a test has been shifted through. -/
def markDirty (s : State) (t : Test) : State := onAssay s fun a => { a with dirty := t.unit :: a.dirty.filter (· ≠ t.unit) }

theorem exec_lbistComplete {s : State} (hup : s.up) (sig want : Word64) :
    exec (.lbistComplete sig want) s = .next (settleErr (lbistDone s sig want)) := liveRows_next hup fun s => lbistDone s sig want

theorem lbistDone_of_no_test {s : State} (sig want : Word64) (ht : testOf s (· = 0) = none) : lbistDone s sig want = s := by
  rw [lbistDone, ht]

section
variable {s : State} {t : Test} (ht : testOf s (· = 0) = some t) (sig want : Word64)
include ht

theorem lbistDone_of_match (hk : patternsK t.sel = 8 ∨ patternsK t.sel = 32) (heq : sig = want) :
    lbistDone s sig want = finishTest (markDirty s t) t
      { result := 0, status := stOk, sub := 0, repairs := 0, entries := 0, a := sig, b := want, firstFail := 0, firstBit := 0 }
      (peripheryQuern t.unit.val t.part) := by
  simp only [lbistDone, ht, markDirty, heq, Bool.or_eq_true, decide_eq_true_eq, if_pos hk, decide_true, if_true]

theorem lbistDone_of_mismatch (hk : patternsK t.sel = 8 ∨ patternsK t.sel = 32) (hne : sig ≠ want) :
    lbistDone s sig want = finishTest (markDirty s t) t
      { result := 1, status := stUncorr, sub := 0x80, repairs := 0, entries := 0, a := sig, b := want, firstFail := 0, firstBit := 0 }
      (peripheryQuern t.unit.val t.part) := by
  simp only [lbistDone, ht, markDirty, Bool.or_eq_true, decide_eq_true_eq, if_pos hk, if_neg hne]

/-- No reference signature exists for another number of patterns. -/
theorem lbistDone_of_unreferenced (hk : ¬ (patternsK t.sel = 8 ∨ patternsK t.sel = 32)) :
    lbistDone s sig want = finishTest { markDirty s t with free := s.free + 1 } t
      { result := 5, status := stOk, sub := 0, repairs := 0, entries := 0, a := sig, b := Config.fresh 64 s.free, firstFail := 0,
        firstBit := 0 } none := by
  simp only [lbistDone, ht, Bool.or_eq_true, decide_eq_true_eq, if_neg hk]
  rfl

end

theorem peripheryQuern_eq (u part : Nat) : peripheryQuern u part = if u < 16 ∧ part < 7 then some (fin 7 part) else none := by
  simp only [peripheryQuern, Bool.and_eq_true, decide_eq_true_eq]

/-! ### Memory BIST (16 R369, R370, R372, R375) -/

/-- FUSE_REPAIR of a test. -/
abbrev Test.fuse (t : Test) : Bool := bitOf t.sel 9
/-- Repairs are made: SOFT_REPAIR, or FUSE_REPAIR, which includes it. -/
abbrev Test.soft (t : Test) : Bool := bitOf t.sel 8 || t.fuse

/-- The fuse entries of a memory test: its repairs, and the entry that holds the unit when a fault is left. -/
def mbistEntries (t : Test) (o : MbistOutcome) : List (BitVec 26) :=
  (if t.soft then o.repairs.map fun r => BitVec.ofNat 26 (bitsOf r 31 6) else []) ++ (if o.unrepaired then [heldEntry t.unit.val] else [])

/-- What a memory test that found no fault reports. -/
def mbistClean : TestEnd :=
  { result := 0, status := stOk, sub := 0, repairs := 0, entries := 0, a := 0, b := 0, firstFail := 0, firstBit := 0 }

/-- What a memory test that found a fault reports. -/
def mbistFaulty (o : MbistOutcome) (result : Nat) (status : Byte) (sub repairs entries : Nat) : TestEnd :=
  { result := result, status := status, sub := sub, repairs := repairs, entries := entries, a := 0, b := 0
    firstFail := o.firstFail, firstBit := o.firstBit.zeroExtend 32 }

theorem exec_mbistComplete {s : State} (hup : s.up) (o : MbistOutcome) :
    exec (.mbistComplete o) s = .next (settleErr (mbistDone s o)) := liveRows_next hup fun s => mbistDone s o

theorem mbistDone_of_no_test {s : State} (o : MbistOutcome) (ht : testOf s (· = 1) = none) : mbistDone s o = s := by
  rw [mbistDone, ht]

section
variable {s : State} {t : Test} (ht : testOf s (· = 1) = some t) {o : MbistOutcome}
include ht

theorem mbistDone_of_clean (hr : o.repairs = []) (hu : o.unrepaired = false) :
    mbistDone s o = finishTest (zeroUnit s t.unit.val) t mbistClean o.quern := by
  simp [mbistDone, ht, hr, hu, burnAll, mbistClean]

/-- Faults that repairs would mend, and no repair asked for. -/
theorem mbistDone_of_unasked (hr : o.repairs ≠ []) (hu : o.unrepaired = false) (hs : t.soft = false) :
    mbistDone s o = finishTest (zeroUnit s t.unit.val) t (mbistFaulty o 1 stUncorr 0x81 0 0) o.quern := by
  obtain ⟨h8, h9⟩ := Bool.or_eq_false_iff.mp hs
  simp [mbistDone, ht, hr, hu, h8, h9, mbistFaulty]

theorem mbistDone_of_soft (hr : o.repairs ≠ []) (hu : o.unrepaired = false) (hs : t.soft = true) (hf : t.fuse = false) :
    mbistDone s o = finishTest (zeroUnit s t.unit.val) t (mbistFaulty o 2 stOk 0 o.repairs.length 0) o.quern := by
  have h8 : bitOf t.sel 8 = true := by simpa [hf] using hs
  simp [mbistDone, ht, hr, hu, h8, hf, mbistFaulty]

theorem mbistDone_of_unrepaired (hu : o.unrepaired = true) (hf : t.fuse = false) :
    mbistDone s o = finishTest (zeroUnit s t.unit.val) t
      (mbistFaulty o 3 stUncorr 0x81 (if t.soft then o.repairs.length else 0) 0) o.quern := by
  simp [mbistDone, ht, hu, hf, mbistFaulty]

theorem mbistDone_of_fused (hr : o.repairs ≠ []) (hu : o.unrepaired = false) (hf : t.fuse = true) :
    let burnt := burnAll (zeroUnit s t.unit.val) (mbistEntries t o)
    mbistDone s o = finishTest burnt.2.2 t (mbistFaulty o 2 stOk (if burnt.2.1 then 0x85 else 0) o.repairs.length burnt.1) o.quern := by
  simp [mbistDone, ht, hr, hu, hf, mbistEntries, mbistFaulty]

theorem mbistDone_of_fused_unrepaired (hu : o.unrepaired = true) (hf : t.fuse = true) :
    let burnt := burnAll (zeroUnit s t.unit.val) (mbistEntries t o)
    mbistDone s o = finishTest burnt.2.2 t (mbistFaulty o 3 stUncorr 0x81 o.repairs.length burnt.1) o.quern := by
  simp [mbistDone, ht, hu, hf, mbistEntries, mbistFaulty]

end

/-! ### PRBS31 (16 R375) -/

theorem exec_prbsComplete {s : State} (hup : s.up) (errors bits : Word64) :
    exec (.prbsComplete errors bits) s = .next (settleErr (prbsDone s errors bits)) := liveRows_next hup fun s => prbsDone s errors bits

theorem prbsDone_of_no_test {s : State} (errors bits : Word64) (ht : testOf s (2 ≤ ·) = none) : prbsDone s errors bits = s := by
  rw [prbsDone, ht]

section
variable {s : State} {t : Test} (ht : testOf s (2 ≤ ·) = some t) {errors bits : Word64}
include ht

theorem prbsDone_of_pass (h : errors.toNat * 100000 ≤ bits.toNat) :
    prbsDone s errors bits = finishTest s t
      { result := 0, status := stOk, sub := 0, repairs := 0, entries := 0, a := errors, b := bits, firstFail := 0, firstBit := 0 } none := by
  simp only [prbsDone, ht, if_pos h]

theorem prbsDone_of_fail (h : bits.toNat < errors.toNat * 100000) :
    prbsDone s errors bits = finishTest { s with free := s.free + 2 } t
      { result := 1, status := Config.fresh 8 s.free, sub := (Config.fresh 8 (s.free + 1)).toNat, repairs := 0, entries := 0, a := errors
        b := bits, firstFail := 0, firstBit := 0 } none := by
  simp only [prbsDone, ht, if_neg (Nat.not_le.mpr h)]
  rfl

end

/-! ### Arrays that a memory test leaves zeroed (16 R369) -/

theorem zeroUnit_mill (s : State) (m : MillId) :
    zeroUnit s m.val = onRegs (clearMill s m) m fun r => { r with hopClearing := false } := by
  rw [zeroUnit, dif_pos m.isLt]

theorem zeroUnit_quad (s : State) (q : QuadId) : zeroUnit s (16 + q.val) = zeroQuad s q := by
  have hfin : fin 4 (16 + q.val - 16) = q := by
    rw [Nat.add_sub_cancel_left]; exact Fin.ofNat_val_eq_self q
  rw [zeroUnit, dif_neg (by omega), if_pos (by omega), hfin]

theorem zeroQuad_mem (s : State) (q : QuadId) : (zeroQuad s q).mem = zeroRange s.mem (q.val * 0x06000000) 0x06000000 := rfl

theorem readByte_zeroUnit_quad (s : State) (q : QuadId) {a : Nat} (h : q.val * 0x06000000 ≤ a) (h' : a < (q.val + 1) * 0x06000000) :
    readByte (zeroUnit s (16 + q.val)).mem a = 0 := by
  rw [zeroUnit_quad, zeroQuad_mem]
  exact readByte_zeroRange ⟨h, by omega⟩

theorem zeroUnit_mill_arrays (s : State) (m : MillId) :
    ((zeroUnit s m.val).mills[m.val]).purses = [] ∧
      ((zeroUnit s m.val).mills[m.val]).querns = (s.mills[m.val]).querns.map Quern.zeroed := by
  rw [zeroUnit_mill, onRegs, onMill_mills, clearMill_mills, vmod_vmod, vmod_self]
  exact ⟨rfl, rfl⟩

/-! ### Burning one fuse entry (16 R370, R372) -/

theorem burnEntry_of_full {w : State} (d : BitVec 26) (n : Nat) (h : 1024 ≤ w.assay.fuses.repair.length) :
    burnEntry w d (n + 1) = (false, w) := by
  rw [burnEntry, if_pos h]

/-- The fuse record with one entry more, and the value drawn for its reading back. -/
def withEntry (w : State) (d : BitVec 26) (well : Bool) : State :=
  onAssay { w with free := w.free + 1 } fun a => { a with fuses := { a.fuses with
    repair := a.fuses.repair ++ [{ word := BitVec.ofNat 32 (d.toNat * 64 + (Config.fuseEncode d).toNat), commit := well }] } }

theorem burnEntry_of_free {w : State} (d : BitVec 26) (n : Nat) (h : w.assay.fuses.repair.length < 1024) :
    ∃ well : Bool, burnEntry w d (n + 1) = if well then (true, withEntry w d well) else burnEntry (withEntry w d well) d n := by
  refine ⟨decide (Config.fresh 1 w.free = 0), ?_⟩
  simp only [burnEntry, if_neg (Nat.not_le.mpr h), decide_eq_true_eq]
  rfl

/-! ### The statement -/

/-- Settles O50: each refusal, start and end of a test is one of the rules above. -/
theorem testsStartEndAndReport : Obligations.TestsStartEndAndReport := by
  unfold Obligations.TestsStartEndAndReport
  intro s hup hquiet head
  have hstays {c : Instr} {t : State} (h : exec c s = .next (settleErr t)) (ht : t = s) : exec c s = .next s := by
    rw [h, ht, settleErr_quiet hquiet]
  refine ⟨fun hhead => hstays (exec_assayRun hup) (assayRun_of_no_head hhead), ?starts, ?partitions, ?ending, ?running, ?idle,
    readByte_zeroUnit_quad s, ?arrays, ?burning⟩
  case starts =>
    intro j rest hhead v u part sel kind refused allowed known isolated fuses
    have hrun {t : State} (h : assayRun s = t) : exec .assayRun s = .next (settleErr t) := by rw [exec_assayRun hup, h]
    refine ⟨fun ha => ?lifecycle, fun ha hk => ?unknown, fun ha hk hr => ?offline, fun ha hk hr hf => ?temperature, fun ha hk hr hf => ?goes⟩
    case lifecycle => exact hrun (assayRun_of_lifecycle hhead (mt assayAllowed_iff.mp ha))
    case unknown => exact hrun (assayRun_of_unknown hhead (assayAllowed_iff.mpr ha) (mt testKnown_iff.mp hk))
    case offline => exact hrun (assayRun_of_not_atRest hhead (assayAllowed_iff.mpr ha) (testKnown_iff.mpr hk) hr)
    case temperature => exact hrun (assayRun_of_fuseTemp hhead (assayAllowed_iff.mpr ha) (testKnown_iff.mpr hk) hr hf)
    case goes =>
      refine ⟨fun hw => ?waits, fun hnone hroom => ?begins⟩
      case waits =>
        exact hstays (exec_assayRun hup) (assayRun_waits hhead (assayAllowed_iff.mpr ha) (testKnown_iff.mpr hk) hr hf hw)
      case begins =>
        rw [hrun (assayRun_starts hhead (assayAllowed_iff.mpr ha) (testKnown_iff.mpr hk) hr hf hnone hroom)]
        exact congrArg _ (settleErr_quiet hquiet)
  case partitions =>
    intro u
    exact ⟨partitions_mill, by rintro (rfl | rfl) <;> rfl, partitions_flume, by rintro (rfl | rfl) <;> rfl,
      by rintro rfl; rfl, by rintro rfl; rfl, by rintro rfl; rfl⟩
  case ending =>
    intro w t e failed x y
    exact ⟨endTest_of_field e, fun j => endTest_of_job e, rfl⟩
  case running =>
    intro t ht ends
    refine ⟨?logic, ?memory, ?prbs⟩
    case logic =>
      intro sig want k c w quern
      have hquern : quern = peripheryQuern t.unit.val t.part := (peripheryQuern_eq _ _).symm
      have hrun {x : State} (h : lbistDone s sig want = x) : exec c s = .next (settleErr x) := by rw [exec_lbistComplete hup, h]
      have hof (h : t.kind = 0) := testOf_of_kind (p := (· = 0)) ht (decide_eq_true h)
      rw [hquern]
      exact ⟨fun hkind => hstays (hrun rfl) (lbistDone_of_no_test sig want (testOf_of_other ht (decide_eq_false hkind))),
        fun hkind hk heq => exec_of_finishTest (hrun (lbistDone_of_match (hof hkind) sig want hk heq)),
        fun hkind hk hne => exec_of_finishTest (hrun (lbistDone_of_mismatch (hof hkind) sig want hk hne)),
        fun hkind hk => ⟨_, exec_of_finishTest (hrun (lbistDone_of_unreferenced (hof hkind) sig want hk))⟩⟩
    case memory =>
      intro o c w fuse soft entries burnt
      have hrun {x : State} (h : mbistDone s o = x) : exec c s = .next (settleErr x) := by rw [exec_mbistComplete hup, h]
      have hof (h : t.kind = 1) := testOf_of_kind (p := (· = 1)) ht (decide_eq_true h)
      exact ⟨fun hkind => hstays (hrun rfl) (mbistDone_of_no_test o (testOf_of_other ht (decide_eq_false hkind))),
        fun hkind hr hu => exec_of_finishTest (hrun (mbistDone_of_clean (hof hkind) hr hu)),
        fun hkind hr hu hs => exec_of_finishTest (hrun (mbistDone_of_unasked (hof hkind) hr hu hs)),
        fun hkind hr hu hs hf => exec_of_finishTest (hrun (mbistDone_of_soft (hof hkind) hr hu hs hf)),
        fun hkind hu hf => exec_of_finishTest (hrun (mbistDone_of_unrepaired (hof hkind) hu hf)),
        fun hkind hr hu hf => exec_of_finishTest (hrun (mbistDone_of_fused (hof hkind) hr hu hf)),
        fun hkind hu hf => exec_of_finishTest (hrun (mbistDone_of_fused_unrepaired (hof hkind) hu hf))⟩
    case prbs =>
      intro errors bits c
      have hrun {x : State} (h : prbsDone s errors bits = x) : exec c s = .next (settleErr x) := by rw [exec_prbsComplete hup, h]
      have hof (h : 2 ≤ t.kind) := testOf_of_kind (p := (2 ≤ ·)) ht (decide_eq_true h)
      exact ⟨fun hkind => hstays (hrun rfl) (prbsDone_of_no_test errors bits (testOf_of_other ht (decide_eq_false (Nat.not_le.mpr hkind)))),
        fun hkind h => exec_of_finishTest (hrun (prbsDone_of_pass (hof hkind) h)),
        fun hkind h => ⟨_, _, exec_of_finishTest (hrun (prbsDone_of_fail (hof hkind) h))⟩⟩
  case idle =>
    intro ht a b o
    exact ⟨hstays (exec_lbistComplete hup a b) (lbistDone_of_no_test a b (testOf_of_none ht)),
      hstays (exec_mbistComplete hup o) (mbistDone_of_no_test o (testOf_of_none ht)),
      hstays (exec_prbsComplete hup a b) (prbsDone_of_no_test a b (testOf_of_none ht))⟩
  case arrays =>
    intro m
    obtain ⟨hpurses, hquerns⟩ := zeroUnit_mill_arrays s m
    refine ⟨hpurses, fun p => ?_⟩
    simp only [hquerns, Vector.getElem_map]
  case burning =>
    intro w d n
    exact ⟨burnEntry_of_full d n, burnEntry_of_free d n⟩

end Sys2Proof.Machine
end

section
/-! SUPPORT. Unit states (17 R395 to R413): what the FORCE write of a unit's record does to its data view, what the audit finds, the checks of
UNIT_STATE and RESET_UNIT in their order and what their plans do, the Miller pairs, and the statement about them. -/

open Sys2Proof.Laws

namespace Sys2Proof.Machine

/-! ### The record of a unit -/

section
variable (s : State) (u : Nat) (f : UnitRec → UnitRec)

/-- A change of a record changes nothing else of the service registers. -/
theorem onUnit_service : (onUnit s u f).service = { s.service with units := (onUnit s u f).service.units } := by
  simp only [onUnit, onService_service]
  split <;> rfl

@[simp] theorem onUnit_sequences : (onUnit s u f).service.sequences = s.service.sequences := by rw [onUnit_service]
@[simp] theorem onUnit_millerBell : (onUnit s u f).service.millerBell = s.service.millerBell := by rw [onUnit_service]
@[simp] theorem onUnit_control : (onUnit s u f).control = s.control := rfl
@[simp] theorem onUnit_assay : (onUnit s u f).assay = s.assay := rfl

variable (g : Control → Control)

@[simp] theorem unitState_onControl : unitState (onControl s g) u = unitState s u := rfl
@[simp] theorem otherPair_onControl : otherPair (onControl s g) = otherPair s := rfl

end

/-! ### The data view of a unit (17 R401, R402) -/

/-- ADMIT, EPOCH and every EPV of one interface, written with no flush. -/
def viewNi (admits : Bool) (epoch : Byte) (s : State) (n : NiId) : State :=
  onNi (onNet s fun x => { x with nis := x.nis.map fun y => { y with epv := vmod y.epv n fun _ => epoch } }) n fun y =>
    { y with admits := admits, epoch := epoch }

theorem map_vmod_comm {α : Type} {k : Nat} (v : Vector α k) (i : Fin k) {f g : α → α} (h : ∀ x, g (f x) = f (g x)) :
    (vmod v i f).map g = vmod (v.map g) i f := by
  ext j hj
  simp only [Vector.getElem_map, vmod_get]
  split <;> simp only [h]

theorem forceNi_eq (admits : Bool) (epoch : Byte) (s : State) (n : NiId) :
    forceNi admits epoch s n =
      if ((s.net.nis[n.val]).admits && !admits) = true then flushNi (viewNi admits epoch s n) n else viewNi admits epoch s n := by
  have hview : onNet (onNi s n fun x => { x with admits := admits, epoch := epoch })
      (fun x => { x with nis := x.nis.map fun y => { y with epv := vmod y.epv n fun _ => epoch } }) = viewNi admits epoch s n :=
    congrArg (fun nis => onNet s fun x => { x with nis := nis }) (map_vmod_comm s.net.nis n fun _ => rfl)
  rw [forceNi, hview]

theorem viewNi_target (admits : Bool) (epoch : Byte) (s : State) (n : NiId) :
    (viewNi admits epoch s n).net.nis[n.val] =
      { s.net.nis[n.val] with admits := admits, epoch := epoch, epv := vmod (s.net.nis[n.val]).epv n fun _ => epoch } := by
  simp only [viewNi, onNi_net, onNet_net, vmod_self, Vector.getElem_map]

/-! #### The flush: every accepted request is answered OFFLINE (11 R270) -/

theorem bump_toNat (c : Word) (n : Nat) : (bump c n).toNat = min (c.toNat + n) 0xFFFFFFFF := by
  rw [bump, satAdd]
  split
  · rw [BitVec.toNat_ofNat]; omega
  · rw [BitVec.toNat_allOnes]; omega

theorem bump_bump (c : Word) (m n : Nat) : bump (bump c m) n = bump c (m + n) := by
  apply BitVec.eq_of_toNat_eq
  simp only [bump_toNat]
  omega

/-- The requests `reqs` at interface `n` have been answered OFFLINE, and `rest` stand accepted. -/
def answerOffline (s : State) (n : NiId) (reqs rest : List Packet) : State :=
  onNet s fun x =>
    { x with nis := vmod x.nis n fun y => { y with accepted := rest, offlineSent := bump y.offlineSent reqs.length }
             sent := x.sent ++ reqs.map fun r => responseOf s.net.nis[n.val] r .offline [] }

theorem answerOffline_target (s : State) (n : NiId) (reqs rest : List Packet) :
    (answerOffline s n reqs rest).net.nis[n.val] =
      { s.net.nis[n.val] with accepted := rest, offlineSent := bump (s.net.nis[n.val]).offlineSent reqs.length } := by
  simp only [answerOffline, onNet_net, vmod_self]

theorem answerOffline_nil {s : State} {n : NiId} (h : (s.net.nis[n.val]).accepted = []) : answerOffline s n [] [] = s := by
  have hni : vmod s.net.nis n (fun y => { y with accepted := [], offlineSent := bump y.offlineSent 0 }) = s.net.nis :=
    vmod_same _ _ (by rw [bump_zero, ← h])
  simp only [answerOffline, onNet, List.length_nil, List.map_nil, List.append_nil, hni]

theorem answerOffline_answerOffline (s : State) (n : NiId) (r : Packet) (reqs rest rest' : List Packet) :
    answerOffline (answerOffline s n [r] rest') n reqs rest = answerOffline s n (r :: reqs) rest := by
  rw [answerOffline, answerOffline_target]
  simp only [answerOffline, onNet, vmod_vmod, bump_bump, List.length_cons, List.length_nil, List.append_assoc, Nat.add_comm]
  rfl

/-- The requests are for interface `n`, which has a route back to each initiator. -/
def Answerable (s : State) (n : NiId) (reqs : List Packet) : Prop :=
  ∀ r ∈ reqs, r.dst = n ∧ routeValid (s.net.nis[n.val]).routes[r.src.val] = true

theorem refuse_eq {s : State} {n : NiId} {r : Packet} {rest : List Packet} (hacc : (s.net.nis[n.val]).accepted = r :: rest)
    (hsup : (s.net.nis[n.val]).suppressed = []) (hans : Answerable s n (r :: rest)) : refuse s r = answerOffline s n [r] rest := by
  obtain ⟨rfl, hroute⟩ := hans r List.mem_cons_self
  simp only [refuse, respond, onNi_net, vmod_self, hsup, hroute, List.contains_nil, Bool.false_eq_true, if_false, if_true]
  simp only [answerOffline, onNi, onNet, vmod_vmod]
  rw [vmod_congr _ _ (g := fun y => { y with accepted := rest, offlineSent := bump y.offlineSent 1 }) (by rw [hacc, List.erase_cons_head])]
  rfl

theorem foldl_refuse {n : NiId} (reqs : List Packet) : ∀ {s : State}, (s.net.nis[n.val]).accepted = reqs →
    (s.net.nis[n.val]).suppressed = [] → Answerable s n reqs → reqs.foldl refuse s = answerOffline s n reqs [] := by
  induction reqs with
  | nil => intro s hacc _ _; exact (answerOffline_nil hacc).symm
  | cons r rest ih =>
    intro s hacc hsup hans
    rw [List.foldl_cons, refuse_eq hacc hsup hans, ih, answerOffline_answerOffline]
    · rw [answerOffline_target]
    · rw [answerOffline_target]; exact hsup
    · intro x hx
      rw [answerOffline_target]; exact hans x (List.mem_cons_of_mem r hx)

theorem flushNi_eq {s : State} {n : NiId} (hsup : (s.net.nis[n.val]).suppressed = [])
    (hans : Answerable s n (s.net.nis[n.val]).accepted) :
    flushNi s n = onNet s fun x =>
      { x with nis := vmod x.nis n fun y =>
                { y with accepted := [], suppressed := (s.net.nis[n.val]).accepted
                         offlineSent := bump y.offlineSent (s.net.nis[n.val]).accepted.length }
               sent := x.sent ++ (s.net.nis[n.val]).accepted.map fun r => responseOf s.net.nis[n.val] r .offline [] } := by
  rw [flushNi, foldl_refuse _ rfl hsup hans, onNi_congr _ _ (g := fun x => { x with suppressed := (s.net.nis[n.val]).accepted })]
  · simp only [answerOffline, onNi, onNet, vmod_vmod]
  · rw [answerOffline_target, hsup, List.nil_append]

section
variable {s : State} {u : Nat} {n : NiId} (hnis : unitNis s u = [n])
include hnis

/-- Unless ADMIT falls, the FORCE write only writes the view. -/
theorem forceView_of_no_fall (h : (s.net.nis[n.val]).admits = false ∨ (unitState s u).admits = true) :
    forceView s u = viewNi (unitState s u).admits (unitEpoch s u) s n := by
  have hstays : ¬ ((s.net.nis[n.val]).admits && !(unitState s u).admits) = true := by
    rcases h with h | h <;> simp [h]
  rw [forceView, hnis, List.foldl_cons, List.foldl_nil, forceNi_eq, if_neg hstays]

theorem forceView_of_fall (hwas : (s.net.nis[n.val]).admits = true) (hnow : (unitState s u).admits = false) :
    forceView s u = flushNi (viewNi (unitState s u).admits (unitEpoch s u) s n) n := by
  rw [forceView, hnis, List.foldl_cons, List.foldl_nil, forceNi_eq, if_pos (by rw [hwas, hnow]; rfl)]

end

/-! ### The audit of one unit (17 R402) -/

/-- What the audit finds at an interface of a unit of record `r`: 1 ADMIT, 2 EPOCH, 3 an EPV of it. -/
def Skewed (s : State) (r : UnitRec) (n : NiId) (k : Nat) : Prop :=
  let ni := s.net.nis[n.val]
  let wrong := ni.admits ≠ r.state.admits
  (k = 1 ∧ wrong) ∨ (k = 2 ∧ ¬ wrong ∧ ni.epoch ≠ r.epoch) ∨
    (k = 3 ∧ ¬ wrong ∧ ni.epoch = r.epoch ∧ ∃ i : NiId, (s.net.nis[i.val]).epv[n.val] ≠ r.epoch)

theorem firstFailing_eq_some_iff (p q t : Prop) [Decidable p] [Decidable q] [Decidable t] (k : Nat) :
    (if p then some 1 else if q then some 2 else if t then some 3 else none) = some k ↔
      (k = 1 ∧ p) ∨ (k = 2 ∧ ¬ p ∧ q) ∨ (k = 3 ∧ ¬ p ∧ ¬ q ∧ t) := by
  by_cases hp : p
  · simp [hp, eq_comm]
  · by_cases hq : q
    · simp [hp, hq, eq_comm]
    · by_cases ht : t <;> simp [hp, hq, ht, eq_comm]

section
variable {s : State} {u : Nat} {r : UnitRec} (hr : unitRec s u = some r)
include hr

theorem unitState_of_rec : unitState s u = r.state := by rw [unitState, hr]; rfl
theorem unitEpoch_of_rec : unitEpoch s u = r.epoch := by rw [unitEpoch, hr]; rfl

theorem niSkew_iff {n : NiId} {k : Nat} : niSkew s u n = some k ↔ Skewed s r n k := by
  have hany : (s.net.nis.any fun x => decide (x.epv[n.val] ≠ r.epoch)) = true ↔ ∃ i : NiId, (s.net.nis[i.val]).epv[n.val] ≠ r.epoch := by
    simp [Vector.any_eq_true, Fin.exists_iff]
  rw [niSkew, unitState_of_rec hr, unitEpoch_of_rec hr]
  exact (firstFailing_eq_some_iff _ _ _ k).trans (by rw [Skewed, hany, ne_eq, ne_eq, Decidable.not_not (p := _ = r.epoch)])

theorem niSkew_eq_none {n : NiId} (h : ∀ k, ¬ Skewed s r n k) : niSkew s u n = none :=
  Option.eq_none_iff_forall_ne_some.mpr fun k hk => h k ((niSkew_iff hr).mp hk)

theorem auditUnit_of_step (h : r.step ≠ 0) : auditUnit s u = s := by simp only [auditUnit, hr, if_pos h]

variable (hstep : r.step = 0)
include hstep

theorem auditUnit_of_agreeing (h : ∀ n ∈ unitNis s u, ∀ k, ¬ Skewed s r n k) : auditUnit s u = s := by
  have hnone : ((unitNis s u).findSome? fun n => (niSkew s u n).map fun k => (n, k)) = none :=
    List.findSome?_eq_none_iff.mpr fun n hn => by rw [niSkew_eq_none hr (h n hn), Option.map_none]
  simp only [auditUnit, hr, hstep, hnone, ne_eq, not_true_eq_false, if_false]

/-- The first interface that disagrees is the one logged, and the view of the whole unit is written again. -/
theorem auditUnit_of_skewed {pre post : List NiId} {n : NiId} {k : Nat} (hnis : unitNis s u = pre ++ n :: post)
    (hpre : ∀ m ∈ pre, ∀ k, ¬ Skewed s r m k) (hk : Skewed s r n k) :
    auditUnit s u = forceView (raiseBell (onService s fun x =>
      { x with stateSkew := bump x.stateSkew
               skewLog := if bitOf x.skewLog 31 then x.skewLog else img (2 ^ 31 + k * 2 ^ 29 + n.val * 256 + u) }) s.service.skewBell) u := by
  have hskip : (pre.findSome? fun n => (niSkew s u n).map fun k => (n, k)) = none :=
    List.findSome?_eq_none_iff.mpr fun m hm => by rw [niSkew_eq_none hr (hpre m hm), Option.map_none]
  have hfound : ((unitNis s u).findSome? fun n => (niSkew s u n).map fun k => (n, k)) = some (n, k) := by
    rw [hnis, List.findSome?_append, hskip, Option.none_or, List.findSome?_cons, (niSkew_iff hr).mpr hk, Option.map_some]
  simp only [auditUnit, hr, hstep, hfound, ne_eq, not_true_eq_false, if_false]
  rfl

end

/-! ### The checks of UNIT_STATE and RESET_UNIT (17 Table 17.3, R409) -/

/-- The unit that a service docket names. -/
abbrev Job.svcUnit (j : Job) : Nat := bitsOf j.words[4] 7 0

theorem resettable_iff {u : Nat} : resettable u = true ↔ u < 16 ∨ u = 20 ∨ u = 21 ∨ (22 ≤ u ∧ u ≤ 30) := by
  simp [resettable, or_assoc]

theorem seqOf_isSome_iff {s : State} {u : Nat} : (seqOf s u).isSome = true ↔ ∃ q ∈ s.service.sequences, q.unit.val = u := by
  simp [seqOf]

theorem otherPair_lt (s : State) : otherPair s < 43 := by rw [otherPair]; split <;> decide

/-- The docket is UNIT_STATE on the pair that is not active. -/
def NamesOtherPair (s : State) (j : Job) (reset : Bool) : Prop := reset = false ∧ j.svcUnit = otherPair s

/-- The standby pair may take over from the active one (R413). -/
def HandoverReady (s : State) (j : Job) : Prop :=
  unitState s j.svcUnit = .standby ∧ bitsOf j.words[5] 2 0 = 4 ∧ s.service.standbyReady = true

/-- No check before the transition itself refuses the docket. -/
def ReachesPlan (s : State) (j : Job) (reset : Bool) : Prop :=
  j.svcUnit < 43 ∧ ¬ NamesOtherPair s j reset ∧ resettable j.svcUnit = true ∧ ∀ q ∈ s.service.sequences, q.unit.val ≠ j.svcUnit

/-- What the docket asks of its unit, in the state it is in. -/
def svcPlan (s : State) (j : Job) (reset : Bool) : Option SvcPlan :=
  if reset then
    resetPlan (unitState s j.svcUnit) (((unitRec s j.svcUnit).map (·.resetDone)).getD false && !lbistRan s j.svcUnit) (bitOf j.words[5] 0)
  else statePlan (unitState s j.svcUnit) (UnitState.ofCode (bitsOf j.words[5] 2 0))

/-- What becomes of a docket by its plan. -/
def planOutcome (s : State) (j : Job) : Option SvcPlan → Option State
  | none => some (svcDone s j stFormat 0x81 0)
  | some p =>
    if p.drains && j.svcUnit < 16 && s.control.urgentMills.getLsbD j.svcUnit && !bitOf j.words[5] 8 then some (svcDone s j stOffline 0x84 0)
    else match p with
      | .record t =>
        some (svcDone (forceView (onUnit s j.svcUnit fun r => { r with state := t, cause := if t = .online then 0 else r.cause }) j.svcUnit) j stOk 0 0)
      | .powerDown => some (svcDone (powerDown s j.svcUnit) j stOk 0 1)
      | .powerUp => some (svcDone (powerUp s j.svcUnit) j stOk 0 1)
      | .steps todo target =>
        if 4 ≤ s.service.sequences.length then none else some (seqStart s (fin 256 j.svcUnit) (some j) todo target none none)

section
variable {s : State} {j : Job} {reset : Bool}

theorem pairCheck_iff : (!reset && j.svcUnit = otherPair s) = true ↔ NamesOtherPair s j reset := by
  simp [NamesOtherPair]

theorem svcDocket_of_unknown (h : 43 ≤ j.svcUnit) : svcDocket s j reset = some (fwDone s j stFormat 0x80) := if_pos h

theorem svcDocket_of_handover (hp : NamesOtherPair s j reset) (hr : HandoverReady s j) :
    svcDocket s j reset = some (svcDone (handover s) j stOk 0 0) := by
  obtain ⟨hst, hwant, hready⟩ := hr
  have hlt : ¬ 43 ≤ j.svcUnit := by rw [hp.2]; exact Nat.not_le.mpr (otherPair_lt s)
  rw [svcDocket, if_neg hlt, if_pos (pairCheck_iff.mpr hp), if_pos (by simp [hst, hwant, hready])]

theorem svcDocket_of_no_handover (hp : NamesOtherPair s j reset) (hr : ¬ HandoverReady s j) :
    svcDocket s j reset = some (svcDone s j stFormat 0x81 0) := by
  have hlt : ¬ 43 ≤ j.svcUnit := by rw [hp.2]; exact Nat.not_le.mpr (otherPair_lt s)
  rw [svcDocket, if_neg hlt, if_pos (pairCheck_iff.mpr hp), if_neg]
  simpa [HandoverReady, and_assoc] using hr

section
variable (hu : j.svcUnit < 43) (hp : ¬ NamesOtherPair s j reset)
include hu hp

theorem svcDocket_of_not_resettable (hr : ¬ resettable j.svcUnit = true) : svcDocket s j reset = some (svcDone s j stFormat 0x83 0) := by
  rw [svcDocket, if_neg (Nat.not_le.mpr hu), if_neg (mt pairCheck_iff.mp hp), if_pos (by simp [hr])]

theorem svcDocket_of_busy (hr : resettable j.svcUnit = true) (hq : ∃ q ∈ s.service.sequences, q.unit.val = j.svcUnit) :
    svcDocket s j reset = some (svcDone s j stOffline 0x85 0) := by
  rw [svcDocket, if_neg (Nat.not_le.mpr hu), if_neg (mt pairCheck_iff.mp hp), if_neg (by simp [hr]), if_pos (seqOf_isSome_iff.mpr hq)]

end

theorem svcDocket_of_reachesPlan (h : ReachesPlan s j reset) : svcDocket s j reset = planOutcome s j (svcPlan s j reset) := by
  obtain ⟨hu, hp, hr, hq⟩ := h
  have hfree : ¬ (seqOf s j.svcUnit).isSome = true := fun hsome =>
    let ⟨q, hmem, hq'⟩ := seqOf_isSome_iff.mp hsome
    hq q hmem hq'
  rw [svcDocket, if_neg (Nat.not_le.mpr hu), if_neg (mt pairCheck_iff.mp hp), if_neg (by simp [hr]), if_neg hfree, svcPlan]
  rfl

/-! #### What a plan does -/

/-- The docket would drain a Mill that serves an urgent chute, without FORCE (R398). -/
def LeavesUrgent (s : State) (j : Job) (todo : List SvcStep) : Prop :=
  todo.head? = some .drain ∧ j.svcUnit < 16 ∧ s.control.urgentMills.getLsbD j.svcUnit = true ∧ bitOf j.words[5] 8 = false

theorem drains_steps (todo : List SvcStep) (target : UnitState) : (SvcPlan.steps todo target).drains = decide (todo.head? = some .drain) := by
  cases todo with
  | nil => rfl
  | cons k more => cases k <;> rfl

theorem leavesUrgent_iff {todo : List SvcStep} {target : UnitState} :
    ((SvcPlan.steps todo target).drains && j.svcUnit < 16 && s.control.urgentMills.getLsbD j.svcUnit && !bitOf j.words[5] 8) = true ↔
      LeavesUrgent s j todo := by
  simp [drains_steps, LeavesUrgent, and_assoc]

theorem planOutcome_of_urgent {todo : List SvcStep} {target : UnitState} (h : LeavesUrgent s j todo) :
    planOutcome s j (some (.steps todo target)) = some (svcDone s j stOffline 0x84 0) := if_pos (leavesUrgent_iff.mpr h)

theorem planOutcome_of_full {todo : List SvcStep} {target : UnitState} (h : ¬ LeavesUrgent s j todo) (hfull : 4 ≤ s.service.sequences.length) :
    planOutcome s j (some (.steps todo target)) = none :=
  (if_neg (mt leavesUrgent_iff.mp h)).trans (if_pos hfull)

theorem planOutcome_of_room {todo : List SvcStep} {target : UnitState} (h : ¬ LeavesUrgent s j todo) (hroom : s.service.sequences.length < 4) :
    planOutcome s j (some (.steps todo target)) = some (seqStart s (fin 256 j.svcUnit) (some j) todo target none none) :=
  (if_neg (mt leavesUrgent_iff.mp h)).trans (if_neg (Nat.not_le.mpr hroom))

theorem planOutcome_record (t : UnitState) :
    planOutcome s j (some (.record t)) =
      some (svcDone (forceView (onUnit s j.svcUnit fun r => { r with state := t, cause := if t = .online then 0 else r.cause }) j.svcUnit) j stOk 0 0) := rfl

theorem planOutcome_powerDown : planOutcome s j (some .powerDown) = some (svcDone (powerDown s j.svcUnit) j stOk 0 1) := rfl

theorem planOutcome_powerUp : planOutcome s j (some .powerUp) = some (svcDone (powerUp s j.svcUnit) j stOk 0 1) := rfl

/-! #### Which plan a docket has -/

theorem UnitState.ofCode_eq_some {n : Nat} {st : UnitState} (h : UnitState.ofCode n = some st) : n = st.code := by
  obtain ⟨hn, hst⟩ := List.getElem?_eq_some_iff.mp h
  match n, hn with
  | 0, _ | 1, _ | 2, _ | 3, _ | 4, _ | 5, _ | 6, _ => subst hst; rfl

/-- The transitions of Table 17.3, by the state the unit is in and the code asked for. -/
def Transition (st : UnitState) (want : Nat) : Prop :=
  ((st = .online ∨ st = .degraded) ∧ want = 1) ∨ (st = .online ∧ want = 6) ∨ (st = .degraded ∧ want = 4) ∨
    (st = .standby ∧ (want = 1 ∨ want = 4 ∨ want = 6)) ∨ (st = .isolated ∧ want = 0) ∨ (st = .offline ∧ want = 1)

theorem transition_of_statePlan {st : UnitState} {want : Nat} {p : SvcPlan} (h : statePlan st (UnitState.ofCode want) = some p) :
    Transition st want := by
  unfold statePlan at h
  split at h
  case h_10 => cases h
  all_goals
    rename_i hcode
    simp [Transition, UnitState.ofCode_eq_some hcode, UnitState.code]

theorem statePlan_of_no_transition {st : UnitState} {want : Nat} (h : ¬ Transition st want) : statePlan st (UnitState.ofCode want) = none :=
  Option.eq_none_iff_forall_ne_some.mpr fun _ hp => h (transition_of_statePlan hp)

theorem svcPlan_unitState {st : UnitState} {want : Nat} {plan : Option SvcPlan} (hst : unitState s j.svcUnit = st)
    (hwant : bitsOf j.words[5] 2 0 = want) (hplan : statePlan st (UnitState.ofCode want) = plan) : svcPlan s j false = plan := by
  subst hst hwant; exact hplan

/-- The RESET step is done: the unit has been reset, and no logic BIST has run on it since (R410, 16 R377). -/
def ResetStands (s : State) (u : Nat) : Prop := (∃ r, unitRec s u = some r ∧ r.resetDone = true) ∧ ∀ d ∈ s.assay.dirty, d.val ≠ u

theorem resetStands_iff {u : Nat} : (((unitRec s u).map (·.resetDone)).getD false && !lbistRan s u) = true ↔ ResetStands s u := by
  cases h : unitRec s u <;> simp [ResetStands, lbistRan, h]

theorem svcPlan_resetUnit {st : UnitState} {stands rejoin : Bool} {plan : Option SvcPlan} (hst : unitState s j.svcUnit = st)
    (hstands : (((unitRec s j.svcUnit).map (·.resetDone)).getD false && !lbistRan s j.svcUnit) = stands)
    (hrejoin : bitOf j.words[5] 0 = rejoin) (hplan : resetPlan st stands rejoin = plan) : svcPlan s j true = plan := by
  subst hst hstands hrejoin; exact hplan

/-- The states from which RESET_UNIT runs (R409). -/
def Resets (st : UnitState) : Prop := st = .online ∨ st = .degraded ∨ st = .standby ∨ st = .isolated

theorem resetPlan_of_not_resets {st : UnitState} (stands rejoin : Bool) (h : ¬ Resets st) : resetPlan st stands rejoin = none := by
  cases st with
  | online | degraded | standby | isolated => simp [Resets] at h
  | offline | testing | draining => rfl

end

/-! #### Power (17 R410) and the handover (17 R413) -/

theorem powerDown_of_not_clapper {s : State} {u : Nat} (h : u ≠ 29) :
    powerDown s u = forceView (onUnit (unitReset s u) u fun r => { r with state := .offline, powered := false, resetDone := false }) u := by
  rw [powerDown, if_neg h]

theorem powerDown_clapper {s : State} {u : Nat} (h : u = 29) :
    powerDown s u = forceView (onUnit (onClapper s fun _ => Clapper.reset) u fun r =>
      { r with state := .offline, powered := false, resetDone := false }) u := by
  subst h; rfl

/-- The active pair and the other have changed places, after a pause of `p`; `note` is what the change leaves in the service registers. -/
def changePair (s : State) (note : Service → Service) : State :=
  onUnit (onUnit (onService { s with free := s.free + 1 } note) (otherPair s) fun r => { r with state := .online }) (activePair s)
    fun r => { r with state := .isolated }

theorem handover_eq (s : State) : ∃ p : Word, p.toNat ≤ 50000 ∧ handover s = changePair s fun x =>
    { x with millerB := !x.millerB, standbyReady := false, booting := true, handovers := bump x.handovers, lastPause := p, firmware := x.standbyFw } :=
  ⟨img ((Config.fresh 32 s.free).toNat % 50001), by rw [img, BitVec.toNat_ofNat]; omega, rfl⟩

/-! #### The commands -/

section
variable {s : State} (hup : s.up)
include hup

theorem exec_service (reset : Bool) : exec (if reset then .resetUnit else .unitState) s =
    .next (settleErr (svcRun s (if reset then .resetUnit else .unitState) reset)) := by
  cases reset with
  | false => exact liveRows_next hup fun s => svcRun s .unitState false
  | true => exact liveRows_next hup fun s => svcRun s .resetUnit true

variable (hquiet : s.granary.errPend = false) {reset : Bool}
include hquiet

theorem exec_service_of_no_head (hhead : headJob s.control.fwQueue (if reset then .resetUnit else .unitState) = none) :
    exec (if reset then .resetUnit else .unitState) s = .next s := by
  rw [exec_service hup, svcRun, hhead]; exact congrArg _ (settleErr_quiet hquiet)

omit hquiet in
theorem exec_service_of_done {j : Job} {rest : List Job} {t : State}
    (hhead : headJob s.control.fwQueue (if reset then .resetUnit else .unitState) = some (j, rest))
    (h : svcDocket (onControl s fun k => { k with fwQueue := rest }) j reset = some t) :
    exec (if reset then .resetUnit else .unitState) s = .next (settleErr t) := by
  rw [exec_service hup, svcRun, hhead]; simp only [h, Option.getD_some]

theorem exec_service_of_waiting {j : Job} {rest : List Job}
    (hhead : headJob s.control.fwQueue (if reset then .resetUnit else .unitState) = some (j, rest))
    (h : svcDocket (onControl s fun k => { k with fwQueue := rest }) j reset = none) :
    exec (if reset then .resetUnit else .unitState) s = .next s := by
  rw [exec_service hup, svcRun, hhead]; simp only [h, Option.getD_none, settleErr_quiet hquiet]

end

/-! ### FW_STAGE and STANDBY_READY (17 R412) -/

section
variable {s : State} {o : Opcode} (f : State → Job → State)

theorem fwJob_of_no_head (hhead : headJob s.control.fwQueue o = none) : fwJob s o f = s := by rw [fwJob, hhead]

theorem fwJob_of_head {j : Job} {rest : List Job} (hhead : headJob s.control.fwQueue o = some (j, rest)) :
    fwJob s o f = f (onControl s fun k => { k with fwQueue := rest }) j := by rw [fwJob, hhead]

end

/-- The image carries its whole length, and a key of the part verifies it. -/
def GoodImage (s : State) (image : List Byte) : Prop :=
  imageLen image ≤ image.length ∧ (imageSlot s.assay.fuses image).isSome = true

theorem stageImage_of_bad {s : State} {j : Job} {image : List Byte} (h : ¬ GoodImage s image) :
    stageImage j (.ok, image, s) = fwDone s j stUncorr 0x87 := by
  have hbad : (image.length < imageLen image || (imageSlot s.assay.fuses image).isNone) = true := by
    simpa [GoodImage, Decidable.imp_iff_not_or] using h
  rw [stageImage, if_neg (by decide), if_pos hbad]

theorem stageImage_of_good {s : State} {j : Job} {image : List Byte} (h : GoodImage s image) :
    stageImage j (.ok, image, s) = fwDone (onService s fun y =>
      { y with standbyFw := image.take (imageLen image), standbyReady := true, booting := false }) j stOk 0 := by
  obtain ⟨hlen, hkey⟩ := h
  have hgood : ¬ (image.length < imageLen image || (imageSlot s.assay.fuses image).isNone) = true := by
    simp [Nat.not_lt.mpr hlen, Option.isSome_iff_ne_none.mp hkey]
  rw [stageImage, if_neg (by decide), if_neg hgood]

/-- Where the staged image of a docket lies, if inside its window. -/
def stagedAt (s : State) (j : Job) : Option Nat :=
  effRange s.granary.flat (jobMill j.words) j.win (j.words[4].toNat + bitsOf j.words[5] 15 0 * 2 ^ 32) j.words[6].toNat

/-- The image is read from its place, and staged. -/
def stageFrom (s : State) (j : Job) : Option Nat → State
  | none => fwDone s j stBound 0x08
  | some a => stageImage j (readRange s none a j.words[6].toNat)

section
variable {s : State} {j : Job} {rest : List Job} (hhead : headJob s.control.fwQueue .fwStage = some (j, rest))
include hhead

theorem fwStage_of_no_standby (h : unitState s (otherPair s) ≠ .standby) :
    fwStage s = fwDone (onControl s fun k => { k with fwQueue := rest }) j stOffline 0x88 := by
  simp only [fwStage, fwJob_of_head _ hhead, unitState_onControl, otherPair_onControl, ne_eq, h, not_false_eq_true, if_true]

variable (hst : unitState s (otherPair s) = .standby)
include hst

theorem fwStage_of_standby : fwStage s = stageFrom (onControl s fun k => { k with fwQueue := rest }) j (stagedAt s j) := by
  rw [fwStage, fwJob_of_head _ hhead]
  dsimp only
  rw [if_neg (by exact not_not_intro hst)]
  split
  case h_1 hplace =>
    have : stagedAt s j = none := hplace
    rw [this, stageFrom]
  case h_2 a hplace =>
    have : stagedAt s j = some a := hplace
    rw [this, stageFrom]

theorem fwStage_of_outside (h : stagedAt s j = none) :
    fwStage s = fwDone (onControl s fun k => { k with fwQueue := rest }) j stBound 0x08 := by
  rw [fwStage_of_standby hhead hst, h, stageFrom]

theorem fwStage_of_read {a : Nat} (h : stagedAt s j = some a) (hrows : rowsOk s none a j.words[6].toNat) :
    fwStage s = stageImage j (.ok, readBytes s.mem a j.words[6].toNat, onControl s fun k => { k with fwQueue := rest }) := by
  have hrows' : rowsOk (onControl s fun k => { k with fwQueue := rest }) none a j.words[6].toNat := rowsOk_congr rfl rfl hrows
  rw [fwStage_of_standby hhead hst, h, stageFrom, readRange_ok hrows', onControl_mem]

end

theorem standbyIsReady_of_not_booting {s : State} (h : s.service.booting = false) : standbyIsReady s = s := by
  rw [standbyIsReady, h]; rfl

theorem standbyIsReady_of_booting {s : State} (h : s.service.booting = true) :
    standbyIsReady s = onUnit (onService s fun x => { x with booting := false, standbyReady := true, standbyFw := x.firmware }) (otherPair s)
      fun r => { r with state := .standby } := by
  rw [standbyIsReady, if_pos h]

/-! ### The active pair fails (17 R412) -/

section
variable {s : State}

theorem failRunning_of_tenant {j : Job} (h : s.control.tenantJob = some j) :
    failRunning s = fwDone (onControl s fun k => { k with tenantJob := none }) j stInternal 0x86 := by
  rw [failRunning, h]

theorem failRunning_of_load {j : Job} {rest : List Job} (ht : s.control.tenantJob = none) (hload : s.clapper.loading = true)
    (hhead : headJob s.control.fwQueue .clapLoad = some (j, rest)) :
    failRunning s =
      fwDone (onClapper (onControl s fun k => { k with fwQueue := rest }) fun x => { x with loading := false }) j stInternal 0x86 := by
  simp only [failRunning, ht, hload, hhead]

/-- The docket of a running test ends, and the test goes on without one. -/
def failTest (s : State) : State :=
  match s.assay.test with
  | some t =>
    match t.job with
    | some j => fwDone (onAssay s fun a => { a with test := some { t with job := none } }) j stInternal 0x86
    | none => s
  | none => s

theorem failRunning_of_no_load (ht : s.control.tenantJob = none) (hload : s.clapper.loading = false) : failRunning s = failTest s := by
  simp only [failRunning, ht, hload]
  cases headJob s.control.fwQueue .clapLoad <;> rfl

theorem failTest_of_none (h : s.assay.test = none) : failTest s = s := by rw [failTest, h]

theorem failTest_of_own {t : Test} (h : s.assay.test = some t) (hjob : t.job = none) : failTest s = s := by
  simp only [failTest, h, hjob]

theorem failTest_of_docket {t : Test} {j : Job} (h : s.assay.test = some t) (hjob : t.job = some j) :
    failTest s = fwDone (onAssay s fun a => { a with test := some { t with job := none } }) j stInternal 0x86 := by
  simp only [failTest, h, hjob]

theorem millerFail_of_no_firmware (h : s.service.noFirmware = true) : millerFail s = s := by rw [millerFail, h]; rfl

variable (hfw : s.service.noFirmware = false)
include hfw

theorem millerFail_of_standby (hst : unitState s (otherPair s) = .standby) (hready : s.service.standbyReady = true) :
    ∃ p : Word, p.toNat ≤ 200000 ∧ millerFail s = raiseBell (failRunning (changePair s fun x =>
      { x with millerB := !x.millerB, standbyReady := false, failover := true, lastPause := p, firmware := x.standbyFw })) s.service.millerBell := by
  refine ⟨img ((Config.fresh 32 s.free).toNat % 200001), by rw [img, BitVec.toNat_ofNat]; omega, ?_⟩
  rw [millerFail, if_neg (by rw [hfw]; decide), if_pos (by rw [hst, hready]; decide)]
  simp only [draw, onUnit_millerBell, onService_service]
  rfl

/-- With no pair to take over, every docket on the firmware path ends TARGET_OFFLINE. -/
theorem millerFail_of_no_standby (h : ¬ (unitState s (otherPair s) = .standby ∧ s.service.standbyReady = true)) :
    millerFail s =
      (s.control.fwQueue ++ s.control.tenantJob.toList ++ (s.assay.test.bind (·.job)).toList ++ s.service.sequences.filterMap (·.job)).foldl
        (fun s j => fwDone s j stOffline 0)
        (onAssay (onService (onControl (onUnit (onService s fun x => { x with noFirmware := true }) (activePair s) fun r => { r with state := .isolated })
          fun k => { k with fwQueue := [], tenantJob := none }) fun x => { x with sequences := [] }) fun a => { a with test := none }) := by
  have hno : ¬ (unitState s (otherPair s) = .standby && s.service.standbyReady) = true := by simpa using h
  rw [millerFail, if_neg (by rw [hfw]; decide), if_neg hno]
  simp only [onUnit_sequences, onUnit_control, onUnit_assay, onService_control, onService_assay, onService_service]

end

/-! ### UNIT_MGMT (17 R401) -/

theorem mgmtWrite_of_other {m : TreeMaster} (hm : m ≠ .pcie) (s : State) (u : Nat) (v : Word) :
    mgmtWrite s m u v =
      let w := onUnit s u fun r =>
        { r with cause := BitVec.ofNat 8 (bitsOf v 23 16), epoch := BitVec.ofNat 8 (bitsOf v 15 8), step := BitVec.ofNat 3 (bitsOf v 6 4)
                 state := (UnitState.ofCode (bitsOf v 2 0)).getD r.state }
      if bitOf v 31 then forceView w u else w := if_neg hm

/-! ### STATE_AUDIT (17 R402) -/

theorem stateAudit_of_runs {s : State} (h : s.service.auditEn = true ∧ 7 ≤ s.service.bootPhase.toNat ∧ s.service.noFirmware = false) :
    stateAudit s = (List.range 43).foldl auditUnit s := by
  obtain ⟨hen, hphase, hfw⟩ := h
  exact if_pos (by simp [firmwareRuns, hen, hphase, hfw, Nat.le_trans (by decide : 6 ≤ 7) hphase])

theorem stateAudit_of_not_runs {s : State} (h : ¬ (s.service.auditEn = true ∧ 7 ≤ s.service.bootPhase.toNat ∧ s.service.noFirmware = false)) :
    stateAudit s = s := by
  refine if_neg fun hruns => h ?_
  simp only [firmwareRuns, Bool.and_eq_true, decide_eq_true_eq, Bool.not_eq_true'] at hruns
  obtain ⟨⟨hen, _, hfw⟩, hphase⟩ := hruns
  exact ⟨hen, hphase, hfw⟩

/-! ### The other commands -/

section
variable {s : State} (hup : s.up)
include hup

theorem exec_fwStage : exec .fwStage s = .next (settleErr (fwStage s)) := liveRows_next hup fwStage
theorem exec_millerFailover : exec .millerFailover s = .next (settleErr (millerFail s)) := liveRows_next hup millerFail
theorem exec_unitMgmtForce (m : TreeMaster) (u : UnitId) (v : Word) : exec (.unitMgmtForce m u v) s = .next (mgmtWrite s m u.val v) :=
  live_next hup fun s => mgmtWrite s m u.val v
theorem exec_stateAudit : exec .stateAudit s = .next (settleErr (stateAudit s)) := liveRows_next hup stateAudit

end

/-! ### The statement -/

/-- Settles O54: each refusal, start and write is one of the rules above. -/
theorem unitsChangeStateByDocketRecordAndAudit : Obligations.UnitsChangeStateByDocketRecordAndAudit := by
  unfold Obligations.UnitsChangeStateByDocketRecordAndAudit
  intro s hup hquiet act standby
  have hstays {c : Instr} {t : State} (h : exec c s = .next (settleErr t)) (ht : t = s) : exec c s = .next s := by
    rw [h, ht, settleErr_quiet hquiet]
  refine ⟨fun reset => ⟨exec_service_of_no_head hup hquiet, ?docket⟩, ⟨?nothingStaged, ?staging⟩, ⟨?standing, ?booted⟩, ⟨?failed, ?takeover, ?alone⟩,
    ?record, ?view, ?audit⟩
  case docket =>
    intro j rest hhead v u st want epoch refused okay partial_ pair free toBusy tail record power
    have hdone {t : State} (h : svcDocket v j reset = some t) : exec (if reset then .resetUnit else .unitState) s = .next (settleErr t) :=
      exec_service_of_done hup hhead h
    have hplan (hfree : free) {p : Option SvcPlan} (h : svcPlan v j reset = p) : svcDocket v j reset = planOutcome v j p := by
      obtain ⟨hu, hp, hr, hq⟩ := hfree
      have hreach : ReachesPlan v j reset := ⟨hu, hp, resettable_iff.mpr hr, hq⟩
      exact (svcDocket_of_reachesPlan hreach).trans (congrArg (planOutcome v j) h)
    have hbusy (hfree : free) {todo : List SvcStep} {target : UnitState} (h : svcPlan v j reset = some (.steps todo target)) :
        toBusy todo target :=
      ⟨fun hl => hdone ((hplan hfree h).trans (planOutcome_of_urgent hl)),
        fun hl hfull => exec_service_of_waiting hup hquiet hhead ((hplan hfree h).trans (planOutcome_of_full hl hfull)),
        fun hl hroom => hdone ((hplan hfree h).trans (planOutcome_of_room hl hroom))⟩
    have hrecord (hfree : free) {t : UnitState} (h : svcPlan v j reset = some (.record t)) : record t :=
      hdone ((hplan hfree h).trans (planOutcome_record t))
    refine ⟨fun hu => hdone (svcDocket_of_unknown hu), fun hp hno => hdone (svcDocket_of_no_handover hp hno),
      fun hu hp hr => hdone (svcDocket_of_not_resettable hu hp (mt resettable_iff.mp hr)),
      fun hu hp hr hq => hdone (svcDocket_of_busy hu hp (resettable_iff.mpr hr) hq), ?unitState, ?resetUnit, ?handover⟩
    case unitState =>
      rintro hfree rfl
      refine ⟨?isolates, fun hst hw => hrecord hfree (svcPlan_unitState hst hw rfl), fun hst hw => hrecord hfree (svcPlan_unitState hst hw rfl),
        fun hst hw => hrecord hfree (svcPlan_unitState hst hw rfl), fun hst hw => hbusy hfree (svcPlan_unitState hst hw rfl),
        fun hst hw => hbusy hfree (svcPlan_unitState hst hw rfl), ?off, ?offClapper, ?on,
        fun hno => hdone (hplan hfree (svcPlan_unitState rfl rfl (statePlan_of_no_transition hno)))⟩
      case isolates =>
        rintro (hst | hst) hw
        · exact hbusy hfree (svcPlan_unitState hst hw rfl)
        · exact hbusy hfree (svcPlan_unitState hst hw rfl)
      case off =>
        intro hst hw hu
        have h := hdone ((hplan hfree (svcPlan_unitState hst hw rfl)).trans planOutcome_powerDown)
        rwa [powerDown_of_not_clapper hu] at h
      case offClapper =>
        intro hst hw hu
        have h := hdone ((hplan hfree (svcPlan_unitState hst hw rfl)).trans planOutcome_powerDown)
        rwa [powerDown_clapper hu] at h
      case on => exact fun hst hw => hdone ((hplan hfree (svcPlan_unitState hst hw rfl)).trans planOutcome_powerUp)
    case resetUnit =>
      rintro hfree rfl
      refine ⟨?fromService, fun hst => hbusy hfree (svcPlan_resetUnit hst rfl rfl rfl), ?fromIsolated, ?never⟩
      case fromService =>
        rintro (hst | hst)
        · exact hbusy hfree (svcPlan_resetUnit hst rfl rfl rfl)
        · exact hbusy hfree (svcPlan_resetUnit hst rfl rfl rfl)
      case fromIsolated =>
        intro hst done
        exact ⟨fun h => hbusy hfree (svcPlan_resetUnit hst (resetStands_iff.mpr h) rfl rfl),
          fun h => hbusy hfree (svcPlan_resetUnit hst (Bool.eq_false_iff.mpr (mt resetStands_iff.mp h)) rfl rfl)⟩
      case never => exact fun hno => hdone (hplan hfree (svcPlan_resetUnit rfl rfl rfl (resetPlan_of_not_resets _ _ hno)))
    case handover =>
      intro hp hst hw hready
      obtain ⟨p, hle, hover⟩ := handover_eq v
      have h := hdone (svcDocket_of_handover hp ⟨hst, hw, hready⟩)
      rw [hover] at h
      exact ⟨p, hle, h⟩
  case nothingStaged => exact fun hhead => hstays (exec_fwStage hup) (fwJob_of_no_head _ hhead)
  case staging =>
    intro j rest hhead v n place
    have hrun {t : State} (h : fwStage s = t) : exec .fwStage s = .next (settleErr t) := by rw [exec_fwStage hup, h]
    refine ⟨fun hst => hrun (fwStage_of_no_standby hhead hst), fun hst hplace => hrun (fwStage_of_outside hhead hst hplace),
      fun a hst hplace hrows => ?_⟩
    have hread := fwStage_of_read hhead hst hplace hrows
    exact ⟨fun hbad => hrun (hread.trans (stageImage_of_bad hbad)), fun hgood => hrun (hread.trans (stageImage_of_good hgood))⟩
  case standing => exact fun h => (live_next hup _).trans (congrArg _ (standbyIsReady_of_not_booting h))
  case booted => exact fun h => (live_next hup _).trans (congrArg _ (standbyIsReady_of_booting h))
  case failed => exact fun h => hstays (exec_millerFailover hup) (millerFail_of_no_firmware h)
  case takeover =>
    intro hfw hst hready
    obtain ⟨p, hle, hover⟩ := millerFail_of_standby hfw hst hready
    refine ⟨p, hle, ?_⟩
    intro w goes
    have hgoes {t : State} (h : failRunning w = t) : goes t := by
      rw [← h]; exact (exec_millerFailover hup).trans (congrArg (fun t => Host.Outcome.next (settleErr t)) hover)
    refine ⟨fun j hj => hgoes (failRunning_of_tenant (s := w) hj), fun ht hload => ?testing,
      fun j rest ht hload hhead => hgoes (failRunning_of_load (s := w) ht hload hhead)⟩
    case testing =>
      have htest : failRunning w = failTest w := failRunning_of_no_load (s := w) ht hload
      exact ⟨fun h => hgoes (htest.trans (failTest_of_none (s := w) h)), fun t h =>
        ⟨fun hjob => hgoes (htest.trans (failTest_of_own (s := w) h hjob)),
          fun j hjob => hgoes (htest.trans (failTest_of_docket (s := w) h hjob))⟩⟩
  case alone =>
    intro hfw hno jobs
    rw [exec_millerFailover hup, millerFail_of_no_standby hfw hno]
    rfl
  case record =>
    intro u r w
    refine ⟨exec_unitMgmtForce hup .pcie u r, fun m hm hforce => ?_, fun m hm hforce => ?_⟩
    · rw [exec_unitMgmtForce hup, mgmtWrite_of_other hm, hforce]; rfl
    · rw [exec_unitMgmtForce hup, mgmtWrite_of_other hm, hforce]; rfl
  case view =>
    rintro w u n e hnis rfl ni t
    refine ⟨forceView_of_no_fall hnis, fun hwas hnow hans hsup => ?_⟩
    rw [forceView_of_fall hnis hwas hnow, flushNi_eq]
    · simp only [viewNi_target]; rfl
    · rw [viewNi_target]; exact hsup
    · rw [Answerable, viewNi_target]; exact hans
  case audit =>
    intro runs
    refine ⟨fun hno => hstays (exec_stateAudit hup) (stateAudit_of_not_runs hno), fun hruns => ?_, fun w u r hr => ?_⟩
    · rw [exec_stateAudit hup, stateAudit_of_runs hruns]
    · exact ⟨auditUnit_of_step hr, auditUnit_of_agreeing hr,
        fun pre n post k hstep hnis hpre hk => auditUnit_of_skewed hr hstep hnis hpre hk⟩

end Sys2Proof.Machine
end

section
/-! SUPPORT. The address map and the register accesses (21 R477 to R480, R483, 16 R378, R386): where each block lies, what an access of a
master does at its register, what the endpoint does with an access to BAR0 or BAR2, and the statement about them. -/

open Sys2Proof.Laws

namespace Sys2Proof.Machine

/-! ### Register arrays -/

section
variable {base step n : Nat}

theorem slotAt_inside (i : Fin n) {o : Nat} (ho : o < step) : slotAt base step n (base + i.val * step + o) = some (i, o) := by
  have hsub : base + i.val * step + o - base = step * i.val + o := by rw [Nat.mul_comm]; omega
  have hdiv : (step * i.val + o) / step = i.val := by
    rw [Nat.mul_add_div (by omega), Nat.div_eq_of_lt ho, Nat.add_zero]
  have hmod : (step * i.val + o) % step = o := by rw [Nat.mul_add_mod, Nat.mod_eq_of_lt ho]
  simp only [slotAt, hsub, hdiv, hmod]
  exact dif_pos ⟨by omega, i.isLt⟩

theorem slotAt_outside {a : Nat} (hs : 0 < step) (h : a < base ∨ base + n * step ≤ a) : slotAt base step n a = none := by
  refine dif_neg fun ⟨hlo, hlt⟩ => ?_
  have := (Nat.div_lt_iff_lt_mul hs).mp hlt
  omega

end

/-! ### Where the blocks lie (21 R477, Table 21.2) -/

/-- The word that an aligned address names is its own. -/
theorem aligned_ofNat {x : Nat} (hx : x < 2 ^ 32) (h4 : 4 ∣ x) : (BitVec.ofNat 32 x).toNat / 4 * 4 = x := by
  rw [BitVec.toNat_ofNat]; omega

section
variable {o : Nat} (h4 : 4 ∣ o)
include h4

theorem blockOf_mill (m : MillId) (ho : o < 0x10000) :
    blockOf (BitVec.ofNat 32 (0x01000000 + m.val * 0x10000 + o)) = some (.mill m, o) := by
  have hx := aligned_ofNat (x := 0x01000000 + m.val * 0x10000 + o) (by omega) (by omega)
  simp only [blockOf, hx, slotAt_inside m ho]

theorem blockOf_flume (p : FlumeId) (ho : o < 0x10000) :
    blockOf (BitVec.ofNat 32 (0x02000000 + p.val * 0x10000 + o)) = some (.flume p, o) := by
  have hx := aligned_ofNat (x := 0x02000000 + p.val * 0x10000 + o) (by omega) (by omega)
  simp (disch := omega) only [blockOf, hx, slotAt_inside p ho, slotAt_outside]

theorem blockOf_weir (w : WeirId) (ho : o < 0x10000) :
    blockOf (BitVec.ofNat 32 (0x03200000 + w.val * 0x10000 + o)) = some (.weir w, o) := by
  have hx := aligned_ofNat (x := 0x03200000 + w.val * 0x10000 + o) (by omega) (by omega)
  simp (disch := omega) only [blockOf, hx, slotAt_inside w ho, slotAt_outside]

theorem blockOf_mac (m : MacId) (ho : o < 0x4000) :
    blockOf (BitVec.ofNat 32 (0x03700000 + m.val * 0x4000 + o)) = some (.mac m, o) := by
  have hx := aligned_ofNat (x := 0x03700000 + m.val * 0x4000 + o) (by omega) (by omega)
  simp (disch := omega) only [blockOf, hx, slotAt_inside m ho, slotAt_outside]

theorem blockOf_can (n : CanId) (ho : o < 0x4000) :
    blockOf (BitVec.ofNat 32 (0x03800000 + n.val * 0x4000 + o)) = some (.can n, o) := by
  have hx := aligned_ofNat (x := 0x03800000 + n.val * 0x4000 + o) (by omega) (by omega)
  simp (disch := omega) only [blockOf, hx, slotAt_inside n ho, slotAt_outside]

/-- The blocks of which there is one, each in the 64 KiB step of its number. -/
theorem blockOf_single {k : Nat} {b : Block}
    (hk : (k, b) ∈ [(0, .spindle), (1, .control), (0x300, .gauge), (0x310, .spigot), (0x330, .vault), (0x340, .clapper), (0x350, .assay),
      (0x360, Block.lifecycle)]) (ho : o < 0x10000) : blockOf (BitVec.ofNat 32 (k * 0x10000 + o)) = some (b, o) := by
  have hdiv : (k * 0x10000 + o) / 0x10000 = k := by omega
  have hmod : (k * 0x10000 + o) % 0x10000 = o := by omega
  simp only [List.mem_cons, Prod.mk.injEq, List.not_mem_nil, or_false] at hk
  have hx : (BitVec.ofNat 32 (k * 0x10000 + o)).toNat / 4 * 4 = k * 0x10000 + o := aligned_ofNat (by omega) (by omega)
  simp (disch := omega) only [blockOf, hx, slotAt_outside, hdiv, hmod]
  rcases hk with ⟨rfl, rfl⟩ | ⟨rfl, rfl⟩ | ⟨rfl, rfl⟩ | ⟨rfl, rfl⟩ | ⟨rfl, rfl⟩ | ⟨rfl, rfl⟩ | ⟨rfl, rfl⟩ | ⟨rfl, rfl⟩ <;> rfl

theorem blockOf_msix (ho : o < 0x2000) : blockOf (BitVec.ofNat 32 (0x03F00000 + o)) = some (.msix, o) := by
  have hx := aligned_ofNat (x := 0x03F00000 + o) (by omega) (by omega)
  have hdiv : (0x03F00000 + o) / 0x10000 = 0x3F0 := by omega
  have hmod : (0x03F00000 + o) % 0x10000 = o := by omega
  simp (disch := omega) only [blockOf, hx, slotAt_outside, hdiv, hmod]
  exact if_pos (Bool.and_eq_true_iff.mpr ⟨rfl, decide_eq_true ho⟩)

end

/-- Outside the ranges of Table 21.2 lies no block. -/
theorem blockOf_unmapped {x : Nat} (hx : x < 2 ^ 32)
    (h : ¬ (x < 0x20000 ∨ (0x01000000 ≤ x ∧ x < 0x01100000) ∨ (0x02000000 ≤ x ∧ x < 0x02060000) ∨ (0x03000000 ≤ x ∧ x < 0x03010000) ∨
      (0x03100000 ≤ x ∧ x < 0x03110000) ∨ (0x03200000 ≤ x ∧ x < 0x03220000) ∨ (0x03300000 ≤ x ∧ x < 0x03310000) ∨
      (0x03400000 ≤ x ∧ x < 0x03410000) ∨ (0x03500000 ≤ x ∧ x < 0x03510000) ∨ (0x03600000 ≤ x ∧ x < 0x03610000) ∨
      (0x03700000 ≤ x ∧ x < 0x03708000) ∨ (0x03800000 ≤ x ∧ x < 0x03808000) ∨ (0x03F00000 ≤ x ∧ x < 0x03F02000))) :
    blockOf (BitVec.ofNat 32 x) = none := by
  have hnat : (BitVec.ofNat 32 x).toNat = x := by rw [BitVec.toNat_ofNat]; omega
  have hmsix : ¬ (x / 4 * 4 / 0x10000 = 0x3F0 ∧ x / 4 * 4 % 0x10000 < 0x2000) := by omega
  simp (disch := omega) only [blockOf, hnat, slotAt_outside, if_neg, Bool.and_eq_true, decide_eq_true_eq]

/-! ### Accesses of the masters (21 R478, R483; 16 R378) -/

section
variable {s : State} {b : Block}

theorem blockTested_iff : blockTested s b = true ↔ ∃ u, b.unit = some u ∧ unitState s u = .testing := by
  rw [blockTested]
  cases b.unit with
  | none => simp only [Bool.false_eq_true, reduceCtorEq, false_and, exists_false]
  | some u => simp only [decide_eq_true_eq, Option.some.injEq, exists_eq_left']

theorem blockRead_of_tested (h : blockTested s b = true) (off incs : Nat) : blockRead s b off incs = (0, s) :=
  (if_pos h).trans rfl

theorem blockWrite_of_tested (h : blockTested s b = true) (master : TreeMaster) (off : Nat) (v : Word) : blockWrite s master b off v = s :=
  if_pos h

end

section
variable {s : State} {master : TreeMaster} {addr : Word}

theorem csrWrite_of_none (h : blockOf addr = none) (v : Word) : csrWrite s master addr v = decodeErr s := by rw [csrWrite, h]

theorem csrRead_of_none (h : blockOf addr = none) (incs : Nat) :
    csrRead s master addr incs = answer (decodeErr s) (masterNo master) true 0xFFFFFFFF := by rw [csrRead, h]

variable {b : Block} {off : Nat} (h : blockOf addr = some (b, off))
include h

theorem csrWrite_of_block (v : Word) : csrWrite s master addr v = blockWrite s master b off v := by rw [csrWrite, h]

theorem csrRead_of_block (incs : Nat) :
    csrRead s master addr incs = answer (blockRead s b off incs).2 (masterNo master) false (blockRead s b off incs).1 := by
  rw [csrRead, h]

/-- A read whose value and effect at its register are known. -/
theorem csrRead_of_value {incs : Nat} {v : Word} {t : State} (hread : blockRead s b off incs = (v, t)) :
    csrRead s master addr incs = answer t (masterNo master) false v := by
  rw [csrRead_of_block h, hread]

end

/-! #### Registers of the Spindle -/

/-- What a read leaves in a counter: the increments of its cycle, up to the counter's maximum (21 R483, 00 R9). -/
theorem satAdd_zero (incs : Nat) : satAdd 32 0 incs = BitVec.ofNat 32 (min 0xFFFFFFFF incs) := by
  have hzero : (0 : Word).toNat + incs = incs := Nat.zero_add incs
  rw [satAdd, hzero]
  split
  case isTrue h => rw [Nat.min_eq_right (by omega)]
  case isFalse h => rw [Nat.min_eq_left (by omega)]; rfl

section
variable (s : State) (incs : Nat)

theorem blockRead_identification : blockRead s .spindle 0 incs = (0x4D481640, s) := rfl
theorem blockRead_undefined : blockRead s .spindle 0x7FFC incs = (0, s) := rfl
theorem blockRead_treeTimeouts : blockRead s .spindle 0x6108 incs =
    (s.net.treeTimeouts, onNet s fun n => { n with treeTimeouts := BitVec.ofNat 32 (min 0xFFFFFFFF incs) }) := by
  rw [← satAdd_zero]; rfl

variable (master : TreeMaster) (v : Word)

theorem blockWrite_identification : blockWrite s master .spindle 0 v = s := rfl
theorem blockWrite_treeCtl : blockWrite s master .spindle 0x6100 v =
    onNet s fun n => { n with treeLog := n.treeLog && !bitOf v 31, treeTimeoutUs := BitVec.ofNat 24 v.toNat } := rfl

end

/-! ### BAR0 (21 R480, 16 R386) -/

theorem bar0Full_iff {off : Word} {dws : Nat} {be : BitVec 4} :
    bar0Full off dws be = true ↔ dws = 1 ∧ be = 0xF ∧ off.toNat < 0x04000000 := by
  simp only [bar0Full, Bool.and_eq_true, decide_eq_true_eq, and_assoc]

/-- Of a held device the identification registers, the Assay and the Lifecycle block answer. -/
theorem heldAnswers_of_block {off : Word} {b : Block} {o : Nat} (h : blockOf off = some (b, o)) :
    heldAnswers off = true ↔ b = .assay ∨ b = .lifecycle ∨ (b = .spindle ∧ (o = 0 ∨ o = 4)) := by
  rw [heldAnswers, h]
  cases b <;> simp only [Bool.or_eq_true, decide_eq_true_eq, Bool.false_eq_true, reduceCtorEq, true_and, false_and, or_false, false_or,
    or_true]

theorem heldAnswers_iff {off : Word} : heldAnswers off = true ↔
    ∃ b o, blockOf off = some (b, o) ∧ (b = .assay ∨ b = .lifecycle ∨ (b = .spindle ∧ (o = 0 ∨ o = 4))) := by
  refine ⟨fun h => ?answers, fun ⟨b, o, hb, h⟩ => (heldAnswers_of_block hb).mpr h⟩
  cases hb : blockOf off with
  | none => rw [heldAnswers, hb] at h; cases h
  | some p => exact ⟨p.1, p.2, rfl, (heldAnswers_of_block hb).mp h⟩

/-- An access that the endpoint takes: PERST_N is high, the request is one full DW, and a held device answers it. -/
structure Bar0Takes (s : State) (off : Word) (dws : Nat) (be : BitVec 4) : Prop where
  perst : s.net.perst = false
  full : bar0Full off dws be = true
  held : (s.assay.held && !heldAnswers off) = false

/-- An access joins the endpoint's queue, and the tree is served. -/
def bar0Posts (s : State) (r : BarReq) : State := serveAll (onNet s fun n => { n with posted := n.posted ++ [r] })

section
variable {s : State} {off : Word} {dws : Nat} {be : BitVec 4}

section
variable (hp : s.net.perst = true) (v : Word) (prompt : Bool)
include hp

theorem bar0Read_of_perst : bar0Read s off dws be prompt = s := if_pos hp
theorem bar0Write_of_perst : bar0Write s off dws be v prompt = s := if_pos hp

end

section
variable (hp : s.net.perst = false) (hf : bar0Full off dws be = false) (v : Word) (prompt : Bool)
include hp hf

theorem bar0Read_of_not_full : bar0Read s off dws be prompt = onNet s fun n => { n with barRead := none } := by
  rw [bar0Read, hp, hf]; rfl

theorem bar0Write_of_not_full : bar0Write s off dws be v prompt = logAer s := by rw [bar0Write, hp, hf]; rfl

end

section
variable (hp : s.net.perst = false) (hf : bar0Full off dws be = true) (hh : s.assay.held = true) (ha : heldAnswers off = false)
  (v : Word) (prompt : Bool)
include hp hf hh ha

theorem bar0Read_of_held : bar0Read s off dws be prompt = onNet s fun n => { n with barRead := some [0xFF, 0xFF, 0xFF, 0xFF] } := by
  rw [bar0Read, hp, hf, hh, ha]; rfl

theorem bar0Write_of_held : bar0Write s off dws be v prompt = s := by rw [bar0Write, hp, hf, hh, ha]; rfl

end

section
variable (ht : Bar0Takes s off dws be) (v : Word) (prompt : Bool)
include ht

theorem bar0Read_of_msix {o : Nat} (hb : blockOf off = some (.msix, o)) (ho : o < 0x1000) :
    bar0Read s off dws be prompt = onNet s fun n => { n with barRead := some (readBytes n.msixTable (o / 4 * 4) 4) } := by
  simp only [bar0Read, ht.perst, ht.full, ht.held, Bool.not_true, Bool.false_eq_true, if_false, hb, msixRead, if_pos ho]

theorem bar0Write_of_msix {o : Nat} (hb : blockOf off = some (.msix, o)) (ho : o < 0x1000) :
    bar0Write s off dws be v prompt = onNet s fun n => { n with msixTable := writeBytes n.msixTable (o / 4 * 4) (leBytes 4 v.toNat) } := by
  simp only [bar0Write, ht.perst, ht.full, ht.held, Bool.not_true, Bool.false_eq_true, if_false, hb, if_pos ho]

/-! Outside the MSI-X block only the last arm of the access's match is left: `hb` is the side condition that `simp` meets there. -/

variable (hb : ∀ o, blockOf off ≠ some (.msix, o))
include hb

theorem bar0Read_of_tree :
    bar0Read s off dws be prompt = bar0Posts s { write := false, addr := off, data := 0, prompt := prompt } := by
  simp only [bar0Read, ht.perst, ht.full, ht.held, Bool.not_true, Bool.false_eq_true, if_false, bar0Posts]

theorem bar0Write_of_tree_full (hn : 16 ≤ (s.net.posted.filter (·.write)).length) : bar0Write s off dws be v prompt = s := by
  simp only [bar0Write, ht.perst, ht.full, ht.held, Bool.not_true, Bool.false_eq_true, if_false, if_pos hn]

theorem bar0Write_of_tree (hn : (s.net.posted.filter (·.write)).length < 16) :
    bar0Write s off dws be v prompt = bar0Posts s { write := true, addr := off, data := v, prompt := prompt } := by
  simp only [bar0Write, ht.perst, ht.full, ht.held, Bool.not_true, Bool.false_eq_true, if_false, if_neg (Nat.not_le.mpr hn), bar0Posts]

end

end

/-! ### BAR2 (21 Table 21.3, R480; 05 R99) -/

/-- A range inside the Granary, or inside one Hopper. -/
theorem bar2Fits_iff {off len : Nat} : bar2Fits off len = true ↔ off + len ≤ 0x18000000 ∨
    (0x18000000 ≤ off ∧ off + len ≤ 0x18000000 + ((off - 0x18000000) / 0x800000 + 1) * 0x800000 ∧ off + len ≤ 0x20000000) := by
  simp only [bar2Fits, Bool.and_eq_true, Bool.or_eq_true, decide_eq_true_eq]
  omega

section
variable {s : State} {off : Nat} {len : Nat} {bs : List Byte}

theorem bar2Read_of_perst (hp : s.net.perst = true) : bar2Read s off len = s := if_pos hp
theorem bar2Write_of_perst (hp : s.net.perst = true) : bar2Write s off bs = s := if_pos hp

variable (hp : s.net.perst = false)
include hp

theorem bar2Read_of_outside (hf : bar2Fits off len = false) : bar2Read s off len = logAer (onNet s fun n => { n with barRead := none }) := by
  rw [bar2Read, hp, hf]; rfl

theorem bar2Write_of_outside (hf : bar2Fits off bs.length = false) : bar2Write s off bs = logAer s := by
  rw [bar2Write, hp, hf]; rfl

theorem bar2Read_of_rows (hf : bar2Fits off len = true) (hr : rowsOk s none (bar2Addr off) len) :
    bar2Read s off len = onNet s fun n => { n with barRead := some (readBytes s.mem (bar2Addr off) len) } := by
  rw [bar2Read, hp, hf, readRange_ok hr]; rfl

theorem bar2Write_of_rows (hf : bar2Fits off bs.length = true) (hr : rowsOk s none (bar2Addr off) bs.length) :
    ∃ g : Granary, g = { s.granary with poison := g.poison, banks := g.banks } ∧
      bar2Write s off bs = { s with mem := writeBytes s.mem (bar2Addr off) bs, granary := g } := by
  obtain ⟨g, hwrite, hg, -⟩ := writeRange_ok hr
  refine ⟨g, hg, ?_⟩
  rw [bar2Write, hp, hf, hwrite]; rfl

end

/-! ### The commands -/

/-- A command that ends with no error to report. -/
theorem next_of_quiet {u t : State} (h : u = t) (hq : t.granary.errPend = false) : (.next (settleErr u) : Result) = .next t := by
  rw [h, settleErr_quiet hq]

section
variable {s : State} (hup : s.up) (master : TreeMaster) (addr v : Word) (incs : Nat) (off : Word) (dws : Nat) (be : BitVec 4) (prompt : Bool)
  (len : Nat) (bs : List Byte)
include hup

theorem exec_csrWrite : exec (.csrWrite master addr v) s = .next (settleErr (csrWrite s master addr v)) :=
  liveRows_next hup fun s => csrWrite s master addr v
theorem exec_rcRead : exec (.rcRead master addr incs) s = .next (settleErr (csrRead s master addr incs)) :=
  liveRows_next hup fun s => csrRead s master addr incs
theorem exec_bar0Read : exec (.bar0Read off dws be prompt) s = .next (settleErr (bar0Read s off dws be prompt)) :=
  liveRows_next hup fun s => bar0Read s off dws be prompt
theorem exec_bar0Write : exec (.bar0Write off dws be v prompt) s = .next (settleErr (bar0Write s off dws be v prompt)) :=
  liveRows_next hup fun s => bar0Write s off dws be v prompt
theorem exec_bar2Read : exec (.bar2Read off len) s = .next (settleErr (bar2Read s off.toNat len)) :=
  liveRows_next hup fun s => bar2Read s off.toNat len
theorem exec_bar2Write : exec (.bar2Write off bs) s = .next (settleErr (bar2Write s off.toNat bs)) :=
  liveRows_next hup fun s => bar2Write s off.toNat bs

end

/-! ### The statement -/

/-- Settles O57: the blocks lie where Table 21.2 puts them, and each access of a master, to BAR0 or to BAR2 is one of the rules above. -/
theorem registersAndBarsAnswer : Obligations.RegistersAndBarsAnswer := by
  unfold Obligations.RegistersAndBarsAnswer
  refine ⟨fun o h4 => ⟨fun ho => ?blocks, fun ho => ⟨fun m => blockOf_mac h4 m ho, fun n => blockOf_can h4 n ho⟩, blockOf_msix h4⟩,
    fun _ => blockOf_unmapped, fun s hup hquiet => ⟨fun master addr v incs => ?masters, fun off v dws be prompt => ?bar0,
      fun off len data hlen => ?bar2⟩⟩
  case blocks =>
    have single (k : Nat) (b : Block) hk := blockOf_single (k := k) (b := b) h4 hk ho
    have hspindle := single 0 .spindle (by decide)
    rw [Nat.zero_mul, Nat.zero_add] at hspindle
    exact ⟨hspindle, single 1 .control (by decide), fun m => blockOf_mill h4 m ho, fun p => blockOf_flume h4 p ho,
      fun w => blockOf_weir h4 w ho, single 0x300 .gauge (by decide), single 0x310 .spigot (by decide), single 0x330 .vault (by decide),
      single 0x340 .clapper (by decide), single 0x350 .assay (by decide), single 0x360 .lifecycle (by decide)⟩
  case masters =>
    have hwrite (addr : Word) {t : State} (h : csrWrite s master addr v = t) (hq : t.granary.errPend = false) :
        exec (.csrWrite master addr v) s = .next t := (exec_csrWrite hup master addr v).trans (next_of_quiet h hq)
    have hread (addr : Word) {t : State} (h : csrRead s master addr incs = t) (hq : t.granary.errPend = false) :
        exec (.rcRead master addr incs) s = .next t := (exec_rcRead hup master addr incs).trans (next_of_quiet h hq)
    have spindle (o : Nat) (h4 : 4 ∣ o) (ho : o < 0x10000) : blockOf (BitVec.ofNat 32 (0 * 0x10000 + o)) = some (.spindle, o) :=
      blockOf_single h4 (by decide) ho
    refine ⟨fun hnone => ⟨hwrite addr (csrWrite_of_none hnone v) hquiet, hread addr (csrRead_of_none hnone incs) hquiet⟩,
      fun b off hb => ⟨fun ht => ?testing, fun ht => ?acting⟩,
      hread _ (csrRead_of_value (spindle 0x6108 (by decide) (by decide)) (blockRead_treeTimeouts s incs)) hquiet,
      hread _ (csrRead_of_value (spindle 0 (by decide) (by decide)) (blockRead_identification s incs)) hquiet,
      hread _ (csrRead_of_value (spindle 0x7FFC (by decide) (by decide)) (blockRead_undefined s incs)) hquiet,
      hwrite _ ((csrWrite_of_block (spindle 0x6100 (by decide) (by decide)) v).trans (blockWrite_treeCtl s master v)) hquiet,
      hwrite _ ((csrWrite_of_block (spindle 0 (by decide) (by decide)) v).trans (blockWrite_identification s master v)) hquiet⟩
    case testing =>
      have ht := blockTested_iff.mpr ht
      exact ⟨hwrite addr ((csrWrite_of_block hb v).trans (blockWrite_of_tested ht master off v)) hquiet,
        hread addr (csrRead_of_value hb (blockRead_of_tested ht off incs)) hquiet⟩
    case acting =>
      rw [exec_csrWrite hup, csrWrite_of_block hb, exec_rcRead hup, csrRead_of_block hb]
      exact ⟨rfl, rfl⟩
  case bar0 =>
    intro read write full answered serves open_
    have hread {t : State} (h : bar0Read s off dws be prompt = t) (hq : t.granary.errPend = false) : read = .next t :=
      (exec_bar0Read hup off dws be prompt).trans (next_of_quiet h hq)
    have hwrite {t : State} (h : bar0Write s off dws be v prompt = t) (hq : t.granary.errPend = false) : write = .next t :=
      (exec_bar0Write hup v off dws be prompt).trans (next_of_quiet h hq)
    have takes : open_ → Bar0Takes s off dws be := by
      rintro ⟨hp, hf, ha⟩
      refine ⟨hp, bar0Full_iff.mpr hf, ?_⟩
      cases hheld : s.assay.held with
      | false => rfl
      | true => rw [heldAnswers_iff.mpr (ha hheld)]; rfl
    refine ⟨fun hp => ⟨hread (bar0Read_of_perst hp prompt) hquiet, hwrite (bar0Write_of_perst hp v prompt) hquiet⟩,
      fun hp hf => ?notFull, fun hp hf hh ha => ?held, fun o ho hb hlt => ?msix, fun ho hb => ?tree⟩
    case notFull =>
      have hf := Bool.eq_false_iff.mpr (mt bar0Full_iff.mp hf)
      exact ⟨hread (bar0Read_of_not_full hp hf prompt) hquiet, hwrite (bar0Write_of_not_full hp hf v prompt) hquiet⟩
    case held =>
      have hf := bar0Full_iff.mpr hf
      have ha := Bool.eq_false_iff.mpr (mt heldAnswers_iff.mp ha)
      exact ⟨hread (bar0Read_of_held hp hf hh ha prompt) hquiet, hwrite (bar0Write_of_held hp hf hh ha v prompt) hquiet⟩
    case msix =>
      exact ⟨hread (bar0Read_of_msix (takes ho) prompt hb hlt) hquiet, hwrite (bar0Write_of_msix (takes ho) v prompt hb hlt) hquiet⟩
    case tree =>
      have ht := takes ho
      refine ⟨?_, fun hn => hwrite (bar0Write_of_tree_full ht v prompt hb hn) hquiet, fun hn => ?_⟩
      · exact (exec_bar0Read hup off dws be prompt).trans (by rw [bar0Read_of_tree ht prompt hb]; rfl)
      · exact (exec_bar0Write hup v off dws be prompt).trans (by rw [bar0Write_of_tree ht v prompt hb hn]; rfl)
  case bar2 =>
    subst hlen
    intro o read write hopper place fits
    have hread {t : State} (h : bar2Read s o data.length = t) (hq : t.granary.errPend = false) : read = .next t :=
      (exec_bar2Read hup off data.length).trans (next_of_quiet h hq)
    have hwrite {t : State} (h : bar2Write s o data = t) (hq : t.granary.errPend = false) : write = .next t :=
      (exec_bar2Write hup off data).trans (next_of_quiet h hq)
    refine ⟨fun hp => ⟨hread (bar2Read_of_perst hp) hquiet, hwrite (bar2Write_of_perst hp) hquiet⟩, fun hp hf => ?outside,
      fun hp hf hrows => ?inside⟩
    case outside =>
      have hf := Bool.eq_false_iff.mpr (mt bar2Fits_iff.mp hf)
      exact ⟨hread (bar2Read_of_outside hp hf) hquiet, hwrite (bar2Write_of_outside hp hf) hquiet⟩
    case inside =>
      have hf := bar2Fits_iff.mpr hf
      obtain ⟨g, hg, h⟩ := bar2Write_of_rows hp hf hrows
      exact ⟨hread (bar2Read_of_rows hp hf hrows) hquiet, g, hg, hwrite h (by rw [hg]; exact hquiet)⟩

end Sys2Proof.Machine
end

section
/-! What one command of a chute, a docket of the controller or a Mill's message does (06, 19). -/
open Sys2Proof.Laws
namespace Sys2Proof.Machine

/-- Settles O1: the queue's two shapes are the two equations of `step`. -/
theorem stepRunsTheFrontCommand : Obligations.StepRunsTheFrontCommand := by
  unfold Obligations.StepRunsTheFrontCommand
  refine ⟨fun c rest s hfront => ?_, fun s hidle => ?_⟩
  · simp only [step, hfront]
  · simp only [step, hidle]

theorem dbTailWrite_of_room {s : State} {c : ChuteId} {v : BitVec 16}
    (h : (v - (s.control.chutes[c.val]).tail).toNat ≤
      (s.control.chutes[c.val]).depth - ((s.control.chutes[c.val]).tail - (s.control.chutes[c.val]).head).toNat) :
    dbTailWrite s c v = onChute s c fun ch => { ch with tail := v } :=
  onChute_congr s c (if_pos h)

theorem dbTailWrite_of_no_room {s : State} {c : ChuteId} {v : BitVec 16}
    (h : ¬ (v - (s.control.chutes[c.val]).tail).toNat ≤
      (s.control.chutes[c.val]).depth - ((s.control.chutes[c.val]).tail - (s.control.chutes[c.val]).head).toNat) :
    dbTailWrite s c v = onChute s c fun ch => { ch with dbRej := true } :=
  onChute_congr s c (if_neg h)

/-- Settles O2: either doorbell takes its value by the bound it tests. -/
theorem doorbellsStayWithinTheRing : Obligations.DoorbellsStayWithinTheRing := by
  unfold Obligations.DoorbellsStayWithinTheRing
  intro s c v hup ch
  have htail : exec (.dbTail c v) s = .next (dbTailWrite s c v) := live_next hup fun s => dbTailWrite s c v
  have hrcpt : exec (.dbRcpt c v) s = .next (settleErr (dbRcptWrite s c v)) := liveRows_next hup fun s => dbRcptWrite s c v
  refine ⟨fun h => ?_, fun h => ?_, fun h => ?_, fun h hquiet => ?_⟩
  · exact htail.trans (congrArg _ (dbTailWrite_of_room h))
  · exact htail.trans (congrArg _ (dbTailWrite_of_no_room h))
  · have hw : dbRcptWrite s c v = drainReceipts (onChute s c fun ch => { ch with rcptHead := v }) c ch.rcptWait.length := if_pos h
    refine ⟨_, hrcpt, hw ▸ (drainReceipts_reported ..).trans (settleErr_reported _), fun hnone hquiet => ?_⟩
    rw [hw, hnone]
    exact settleErr_quiet hquiet
  · have hw : dbRcptWrite s c v = onChute s c fun ch => { ch with dbRej := true } := if_neg h
    exact hrcpt.trans (next_of_quiet hw hquiet)

/-- The words a docket's ring slot holds. -/
theorem readWords_of_row {s : State} {a : Nat} (i : Fin 16) :
    BitVec.ofNat 32 (leNat (((readBytes s.mem a 64).drop (4 * i.val)).take 4)) = readW s.mem (a + 4 * i.val) := by
  rw [readBytes_part _ _ _ _ _ (by omega)]
  rfl

/-- The docket that a read of `slot` answers, when the row answers. -/
def readAs (s : State) (ch : Chute) (slot : BitVec 16) (net : NetStatus) : Pending :=
  { words := if net = .ok then .ofFn fun i : Fin 16 => readW s.mem (ch.ring.toNat + slot.toNat % ch.depth * 64 + 4 * i.val)
             else .replicate 16 0
    fault := net, waitOk := false, waitFrom := none, inst := ch.relMode ≠ 0 }

theorem readDocket_of_row {s : State} {c : ChuteId} {slot : BitVec 16} (net : NetStatus)
    (hslot : nextSlot s.control.chutes[c.val] = some slot)
    (hrow : rowsOk s none ((s.control.chutes[c.val]).ring.toNat + slot.toNat % (s.control.chutes[c.val]).depth * 64) 64) :
    readDocket s c net = settleHead (onChute s c fun ch =>
      { ch with pending := ch.pending ++ [readAs s s.control.chutes[c.val] slot net]
                readAt := if ch.relMode = 0 then ch.readAt + 1 else ch.readAt
                inst := ch.inst.map fun i => { i with next := i.next + 1 } }) c := by
  unfold readDocket
  simp only [hslot, readRange_ok hrow, if_true, readWords_of_row]
  rfl

theorem mem_append_singleton_faults {l : List Pending} {q : Pending} (hl : ∀ p ∈ l, p.fault = .ok) (hq : q.fault = .ok) :
    ∀ p ∈ l ++ [q], p.fault = .ok := by
  intro p hp
  rcases List.mem_append.mp hp with hp | hp
  · exact hl p hp
  · rw [List.mem_singleton.mp hp]; exact hq

/-- A lone docket that could not be read leaves the chute with its receipt. -/
theorem settleHead_of_unreadable {s : State} {c : ChuteId} {p : Pending} (h : (s.control.chutes[c.val]).pending = [p]) (hf : p.fault ≠ .ok) :
    settleHead s c = checkWaits (controllerDone (popHead s c) c p (netReceipt p.fault).1 0x17) := by
  unfold settleHead
  simp only [h, List.length_singleton, settleFaults, hf, if_false]

theorem popHead_of_doorbell {s : State} {c : ChuteId} {p : Pending} {rest : List Pending}
    (h : (s.control.chutes[c.val]).pending = p :: rest) (hi : p.inst = false) :
    popHead s c = advanceHead (onChute s c fun ch => { ch with pending := rest }) c := by
  simp only [popHead, h, hi, Bool.false_eq_true, if_false]

/-- Settles O3: the slot is the one that a doorbell or a release covers, and its docket joins those read. -/
theorem docketReadTakesTheRingSlot : Obligations.DocketReadTakesTheRingSlot := by
  unfold Obligations.DocketReadTakesTheRingSlot
  intro s c slot hup ch a words hen hok hrow
  have hexec (net : NetStatus) : exec (.docketRead c net) s = .next (settleErr (readDocket s c net)) :=
    liveRows_next hup fun s => readDocket s c net
  refine ⟨fun hmode hinst hne hslot => ⟨?read, fun net hnet hnone => ?fail⟩, fun i hmode hinst hne hslot => ?release⟩
  case read =>
    have hnext : nextSlot ch = some slot := by simp [nextSlot, hen, hmode, hne, hslot]
    refine ⟨_, hexec .ok, ?_⟩
    rw [readDocket_of_row .ok hnext hrow, settleHead_ok]
    · refine (Reported.of_eq (onChute_congr s c ?_)).trans ((checkWaits_reported _).trans (settleErr_reported _))
      simp [readAs, hmode, hinst, ch, words, a]
    · simp only [onChute_control, vmod_self]
      exact mem_append_singleton_faults hok rfl
  case release =>
    have hnext : nextSlot ch = some slot := by simp [nextSlot, hen, hmode, hinst, hne, hslot]
    refine ⟨_, hexec .ok, ?_⟩
    rw [readDocket_of_row .ok hnext hrow, settleHead_ok]
    · refine (Reported.of_eq (onChute_congr s c ?_)).trans ((checkWaits_reported _).trans (settleErr_reported _))
      simp [readAs, hmode, hinst, ch, words, a]
    · simp only [onChute_control, vmod_self]
      exact mem_append_singleton_faults hok rfl
  case fail =>
    have hnext : nextSlot ch = some slot := by simp [nextSlot, hen, hmode, hne, hslot]
    let q := readAs s ch slot net
    have hread : (onChute s c fun ch => { ch with
          pending := ch.pending ++ [q], readAt := if ch.relMode = 0 then ch.readAt + 1 else ch.readAt
          inst := ch.inst.map fun i => { i with next := i.next + 1 } }) =
        onChute s c fun ch => { ch with pending := [q], readAt := ch.readAt + 1 } :=
      onChute_congr s c (by simp [hmode, hinst, hnone, ch])
    have hq : ((onChute s c fun ch => { ch with pending := [q], readAt := ch.readAt + 1 }).control.chutes[c.val]).pending = [q] := by
      simp only [onChute_control, vmod_self]
    rw [hexec, readDocket_of_row net hnext hrow, hread, settleHead_of_unreadable hq hnet,
      popHead_of_doorbell hq (by simp [q, readAs, hmode]), onChute_onChute]
    have hpop : (onChute s c fun ch => { ch with pending := [], readAt := ch.readAt + 1 }) =
        onChute s c fun ch => { ch with readAt := ch.readAt + 1 } := onChute_congr s c (by rw [← hnone])
    have hq' : q = { words := .replicate 16 0, fault := net, waitOk := false, waitFrom := none, inst := false } := by
      simp [q, readAs, hnet, hmode]
    rw [hpop, hq']
end Sys2Proof.Machine
end

section
open Sys2Proof.Laws
namespace Sys2Proof.Machine

/-! ### Configuration (06 R141) -/

/-- What reporting keeps of a chute that a write of CH_CFG may change. -/
theorem chuteReported.kept {a b : Chute} (h : chuteReported a b) :
    b.cfg = a.cfg ∧ b.head = a.head ∧ b.tail = a.tail ∧ b.rcpt = a.rcpt ∧ b.nextRel = a.nextRel := by
  rw [h.rest]; exact ⟨rfl, rfl, rfl, rfl, rfl⟩

theorem depth_of_cfg {a b : Chute} (h : b.cfg = a.cfg) : b.depth = a.depth := by unfold Chute.depth; rw [h]

/-- HEAD once every docket in `ch.pending` has left the chute (06 R148: HEAD counts those of doorbell mode). -/
def Chute.headAfter (ch : Chute) : BitVec 16 := ch.head + BitVec.ofNat 16 (ch.pending.filter (!·.inst)).length

theorem chuteReported.headAfter {a b : Chute} (h : chuteReported a b) : b.headAfter = a.headAfter := by
  have hlen := congrArg List.length h.waiting
  simp only [List.length_map] at hlen
  unfold Chute.headAfter
  rw [h.kept.2.1, hlen]

theorem chuteReported.pending_length {a b : Chute} (h : chuteReported a b) : b.pending.length ≤ a.pending.length := by
  simpa using h.read.length_le

/-- Taking the head docket off: the configuration and `headAfter` stand, and one docket less waits. -/
theorem popHead_chute (s : State) (c : ChuteId) :
    ((popHead s c).control.chutes[c.val]).cfg = (s.control.chutes[c.val]).cfg ∧
    ((popHead s c).control.chutes[c.val]).headAfter = (s.control.chutes[c.val]).headAfter ∧
    ((popHead s c).control.chutes[c.val]).pending.length = (s.control.chutes[c.val]).pending.length - 1 := by
  cases h : (s.control.chutes[c.val]).pending with
  | nil => rw [popHead_nil h, h]; exact ⟨rfl, rfl, rfl⟩
  | cons p rest =>
    rw [popHead_cons h]
    simp only [onChute_control, vmod_self]
    refine ⟨trivial, ?_, rfl⟩
    unfold Chute.headAfter
    rw [h]
    cases hp : p.inst
    · simp only [List.filter_cons, hp, Bool.not_false, if_true, Bool.false_eq_true, if_false, List.length_cons, BitVec.ofNat_add]
      rw [BitVec.add_assoc, BitVec.add_comm 1]; rfl
    · simp [hp]

/-- One docket of a disabled chute completes. -/
theorem controllerDone_chute (s : State) (c : ChuteId) (p : Pending) (st : Byte) (sub : Nat) :
    chuteReported s.control.chutes[c.val] (controllerDone s c p st sub).control.chutes[c.val] :=
  (controllerDone_reported s c p st sub).chutes c

/-- All dockets that a chute has read complete one by one. -/
theorem completeAll_chute (c : ChuteId) (st : Pending → Byte) (sub : Pending → Nat) (ps : List Pending) : ∀ s : State,
    (s.control.chutes[c.val]).pending.length ≤ ps.length →
    let t := ps.foldl (fun s p => controllerDone (popHead s c) c p (st p) (sub p)) s
    (t.control.chutes[c.val]).cfg = (s.control.chutes[c.val]).cfg ∧ (t.control.chutes[c.val]).pending = [] ∧
      (t.control.chutes[c.val]).headAfter = (s.control.chutes[c.val]).headAfter := by
  induction ps with
  | nil => intro s h; exact ⟨rfl, List.length_eq_zero_iff.mp (Nat.le_zero.mp h), rfl⟩
  | cons p ps ih =>
    intro s h
    obtain ⟨hcfg, hhead, hlen⟩ := popHead_chute s c
    have hr := controllerDone_chute (popHead s c) c p (st p) (sub p)
    have hle := hr.pending_length
    rw [List.length_cons] at h
    obtain ⟨icfg, ipend, ihead⟩ := ih (controllerDone (popHead s c) c p (st p) (sub p)) (by omega)
    exact ⟨icfg.trans (hr.kept.1.trans hcfg), ipend, ihead.trans (hr.headAfter.trans hhead)⟩

section
variable {s : State} {c : ChuteId} {v : Word}

theorem chCfgWrite_enables (hen : (s.control.chutes[c.val]).en = false) (hv : bitOf v 31 = true)
    (hout : (s.control.chutes[c.val]).outstanding = 0) : chCfgWrite s c v = enableChute s c v := by
  simp [chCfgWrite, hen, hv, hout]

theorem chCfgWrite_disables (hen : (s.control.chutes[c.val]).en = true) (hv : bitOf v 31 = false)
    (hsix : v &&& cfgFields = (s.control.chutes[c.val]).cfg &&& cfgFields) : chCfgWrite s c v = disableChute s c v := by
  simp [chCfgWrite, hen, hv, hsix]

theorem chCfgWrite_keeps (hen : (s.control.chutes[c.val]).en = bitOf v 31)
    (hsix : v &&& cfgFields = (s.control.chutes[c.val]).cfg &&& cfgFields) :
    chCfgWrite s c v = onChute s c fun ch => { ch with cfg := v } := by
  cases hb : bitOf v 31 <;> simp [chCfgWrite, hen, hb, hsix]

theorem chCfgWrite_rejected (hbusy : (s.control.chutes[c.val]).en = true ∨ (s.control.chutes[c.val]).outstanding ≠ 0)
    (hchange : ((s.control.chutes[c.val]).en = false ∧ bitOf v 31 = true) ∨
      ¬ v &&& cfgFields = (s.control.chutes[c.val]).cfg &&& cfgFields) :
    chCfgWrite s c v = onChute s c fun ch => { ch with cfgRej := true } := by
  have h1 : ((!(s.control.chutes[c.val]).en && bitOf v 31) ||
      decide (v &&& cfgFields ≠ (s.control.chutes[c.val]).cfg &&& cfgFields)) = true := by simpa using hchange
  have h2 : ((s.control.chutes[c.val]).en || decide ((s.control.chutes[c.val]).outstanding ≠ 0)) = true := by simpa using hbusy
  simp only [chCfgWrite, h1, h2, Bool.and_self, if_true]

/-- The chute as an enable leaves it, before its receipt ring is zeroed. -/
def enabled (s : State) (c : ChuteId) (v : Word) : State := onChute s c fun ch =>
  setNextRel s { ch with cfg := v, head := 0, tail := 0, rcptHead := 0, rcptTail := 0, readAt := 0, pending := [], rcptWait := [],
                         inst := none, pendRel := none, held := false, ordinal := 0 }

theorem enableChute_reported (s : State) (c : ChuteId) (v : Word) : Reported (enabled s c v) (enableChute s c v) := by
  refine writeRows_reported none _ _ _ _ fun x hx => ?_
  rw [List.length_replicate]
  exact hx c

/-- The ring's rows answer: it reads zero, and nothing else but its rows' marks changes. -/
theorem enableChute_of_rows (hmem : Memory.wf s.mem = true)
    (hrows : rowsOk s none (s.control.chutes[c.val]).rcpt.toNat (32 * ((enabled s c v).control.chutes[c.val]).depth)) :
    ∃ (m : Memory) (g : Granary), enableChute s c v = { enabled s c v with mem := m, granary := g } ∧ g.errPend = s.granary.errPend ∧
      (∀ i, i < 32 * ((enabled s c v).control.chutes[c.val]).depth → readByte m ((s.control.chutes[c.val]).rcpt.toNat + i) = 0) ∧
      (∀ a, (a < (s.control.chutes[c.val]).rcpt.toNat ∨
        (s.control.chutes[c.val]).rcpt.toNat + 32 * ((enabled s c v).control.chutes[c.val]).depth ≤ a) → readByte m a = readByte s.mem a) := by
  have hrcpt : ((enabled s c v).control.chutes[c.val]).rcpt = (s.control.chutes[c.val]).rcpt := by
    simp only [enabled, onChute_control, vmod_self, setNextRel]
  generalize hn : 32 * ((enabled s c v).control.chutes[c.val]).depth = n at *
  obtain ⟨g, he, hg, -⟩ := writeRange_ok (s := enabled s c v) (own := none) (a := (s.control.chutes[c.val]).rcpt.toNat)
    (bs := List.replicate n 0) (by rw [List.length_replicate]; exact rowsOk_congr rfl rfl hrows)
  refine ⟨writeBytes s.mem (s.control.chutes[c.val]).rcpt.toNat (List.replicate n 0), g, ?_, by rw [hg]; rfl, fun i hi => ?_, fun a ha => ?_⟩
  · have : enableChute s c v = (writeRange (enabled s c v) none (s.control.chutes[c.val]).rcpt.toNat (List.replicate n 0)).2 := by
      rw [← hn, ← hrcpt]; rfl
    rw [this, he]; rfl
  · rw [readByte_writeBytes hmem i (by rwa [List.length_replicate]), List.getElem_replicate]
  · exact readByte_writeBytes_other (by rwa [List.length_replicate])
end

/-- Settles O4: each row's write is one of the four cases of `chCfgWrite`. -/
theorem chuteConfigurationFollowsItsRules : Obligations.ChuteConfigurationFollowsItsRules := by
  unfold Obligations.ChuteConfigurationFollowsItsRules
  intro s c v hup hquiet ch six
  have henable : exec (.chuteEnable c v) s = .next (settleErr (chCfgWrite s c v)) := liveRows_next hup fun s => chCfgWrite s c v
  have hdisable : exec (.chuteDisable c v) s = .next (settleErr (chCfgWrite s c v)) := liveRows_next hup fun s => chCfgWrite s c v
  have hreconf : exec (.chuteReconfigure c v) s = .next (settleErr (chCfgWrite s c v)) := liveRows_next hup fun s => chCfgWrite s c v
  refine ⟨fun hen hv hout => ?enable, fun hen hv hsix => ⟨fun hnone => ?disableNone, ?disable⟩, fun hen hsix => ?keep,
    fun hbusy hchange => ?reject⟩
  case enable =>
    rw [henable, chCfgWrite_enables hen hv hout]
    have hr := (enableChute_reported s c v).trans (settleErr_reported _)
    have hch := (hr.chutes c).kept
    refine ⟨_, rfl, (Reported.of_eq (onChute_congr s c ?_)).trans hr, fun hrows hmem => ?_⟩
    · rw [hch.2.2.2.2]
      simp only [enabled, onChute_control, vmod_self, setNextRel]
    · rw [depth_of_cfg hch.1] at hrows
      obtain ⟨m, g, he, hg, hzero, hother⟩ := enableChute_of_rows hmem hrows
      rw [settleErr_quiet (by rw [he]; exact hg.trans hquiet), he]
      refine ⟨?_, ?_, ?_, fun d hd => ?_, hzero, hother⟩
      · simp only [enabled, onChute_control, vmod_self, setNextRel]
      · simp only [enabled, onChute_control, vmod_self, setNextRel]
      · simp only [enabled, onChute_control, vmod_self, setNextRel]
      · exact vmod_other _ _ _ _ _ fun e => hd (Fin.ext e)
  case disableNone =>
    refine hdisable.trans (next_of_quiet ?_ hquiet)
    rw [chCfgWrite_disables hen hv hsix, disableChute, show (s.control.chutes[c.val]).pending = [] from hnone]
    rfl
  case disable =>
    rw [hdisable, chCfgWrite_disables hen hv hsix]
    refine ⟨_, rfl, ?_⟩
    have hs := (settleErr_reported (disableChute s c v)).chutes c
    obtain ⟨hcfg, hpend, hhead⟩ := completeAll_chute c (fun p => if p.fault = .ok then stOffline else (netReceipt p.fault).1)
      (fun p => if p.fault = .ok then 0x16 else 0x17) ch.pending
      (onChute s c fun ch => { ch with cfg := v, inst := none, held := false, pendRel := none, nextRel := none })
      (by simp only [onChute_control, vmod_self]; exact Nat.le_refl _)
    have hnil : ((settleErr (disableChute s c v)).control.chutes[c.val]).pending = [] := by
      have h0 : ((disableChute s c v).control.chutes[c.val]).pending = [] := hpend
      have h1 := hs.pending_length
      rw [h0] at h1
      exact List.length_eq_zero_iff.mp (Nat.le_zero.mp h1)
    refine ⟨?_, hnil, ?_⟩
    · rw [hs.kept.1]
      refine hcfg.trans ?_
      simp only [onChute_control, vmod_self]
    · have h2 := hs.headAfter.trans hhead
      simp only [Chute.headAfter, hnil, List.filter_nil, List.length_nil, onChute_control, vmod_self] at h2
      simpa using h2
  case keep => exact hreconf.trans (next_of_quiet (chCfgWrite_keeps hen hsix) hquiet)
  case reject =>
    have h := chCfgWrite_rejected hbusy hchange
    exact ⟨henable.trans (next_of_quiet h hquiet), hdisable.trans (next_of_quiet h hquiet), hreconf.trans (next_of_quiet h hquiet)⟩
end Sys2Proof.Machine
end

section
open Sys2Proof.Laws
namespace Sys2Proof.Machine

/-! ### Release times (06 R149) -/

/-- PHASE takes its low word as it was last written together with its high word. -/
theorem withHi_withLo (x : Word64) (lo hi : Word) : withHi (withLo x lo) hi = hi ++ lo := by
  apply BitVec.eq_of_toNat_eq
  have h1 := lo.isLt
  have h2 := hi.isLt
  have h3 := x.isLt
  rw [BitVec.toNat_append, ← Nat.shiftLeft_add_eq_or_of_lt h1, Nat.shiftLeft_eq]
  simp only [withHi, withLo, BitVec.toNat_ofNat]
  omega

/-- The smallest PHASE + n * PERIOD_NS at or after `t`. -/
theorem relTime_least {ch : Chute} {t : Nat} (hp : ch.period ≠ 0) (hb : ch.phase.toNat + t + ch.period.toNat < 2 ^ 64) :
    ∃ r : Word64, relTime ch t false = some r ∧ (∃ n, r.toNat = ch.phase.toNat + n * ch.period.toNat) ∧ t ≤ r.toNat ∧
      ∀ n, t ≤ ch.phase.toNat + n * ch.period.toNat → r.toNat ≤ ch.phase.toNat + n * ch.period.toNat := by
  have hpos : 0 < ch.period.toNat := Nat.pos_of_ne_zero fun e => hp (BitVec.eq_of_toNat_eq e)
  unfold relTime
  simp only [Nat.ne_of_gt hpos, if_false, Bool.false_eq_true]
  refine ⟨_, rfl, ?_⟩
  by_cases ht : t ≤ ch.phase.toNat
  · simp only [ht, if_true, BitVec.toNat_ofNat]
    rw [Nat.mod_eq_of_lt (by omega)]
    exact ⟨⟨0, by omega⟩, ht, fun n _ => by omega⟩
  · have hlt : ¬ ch.phase.toNat + ceilDiv (t - ch.phase.toNat) ch.period.toNat * ch.period.toNat < t := by
      have := Nat.div_add_mod (t - ch.phase.toNat + ch.period.toNat - 1) ch.period.toNat
      have := Nat.mod_lt (t - ch.phase.toNat + ch.period.toNat - 1) hpos
      rw [ceilDiv, Nat.mul_comm]; omega
    have hle : ceilDiv (t - ch.phase.toNat) ch.period.toNat * ch.period.toNat ≤ t - ch.phase.toNat + ch.period.toNat - 1 :=
      Nat.div_mul_le_self _ _
    simp only [ht, if_false, BitVec.toNat_ofNat]
    rw [Nat.mod_eq_of_lt (by omega)]
    refine ⟨⟨_, rfl⟩, by omega, fun n hn => ?_⟩
    have : ceilDiv (t - ch.phase.toNat) ch.period.toNat ≤ n := by
      rw [ceilDiv, Nat.le_iff_lt_add_one, Nat.div_lt_iff_lt_mul hpos, Nat.add_mul, Nat.one_mul]; omega
    exact Nat.add_le_add_left (Nat.mul_le_mul_right _ this) _

/-- A chute in timer mode takes the first release time not yet past. -/
theorem setNextRel_timer {s : State} {ch : Chute} (hen : ch.en = true) (hm : ch.relMode = 1) (hp : ch.period ≠ 0)
    (hb : ch.phase.toNat + (now s).toNat + ch.period.toNat < 2 ^ 64) :
    ∃ r : Word64, (setNextRel s ch).nextRel = some r ∧ (∃ n, r.toNat = ch.phase.toNat + n * ch.period.toNat) ∧
      (now s).toNat ≤ r.toNat ∧ ∀ n, (now s).toNat ≤ ch.phase.toNat + n * ch.period.toNat → r.toNat ≤ ch.phase.toNat + n * ch.period.toNat := by
  have he : (setNextRel s ch).nextRel = relTime ch (now s).toNat false := by simp [setNextRel, hen, hm]
  rw [he]; exact relTime_least hp hb

theorem setNextRel_none {s : State} {ch : Chute} (h : ch.en = false ∨ ch.relMode ≠ 1 ∨ ch.period = 0) :
    (setNextRel s ch).nextRel = none := by
  rcases h with h | h | h <;> simp [setNextRel, relTime, h]

/-- Settles O5: both writes end in `setNextRel` of the chute they have changed. -/
theorem timerWritesSetTheNextReleaseTime : Obligations.TimerWritesSetTheNextReleaseTime := by
  unfold Obligations.TimerWritesSetTheNextReleaseTime
  intro s c v hup ch first
  have hsel (f : Chute → Chute) : (onChute s c f).control.chutes[c.val] = f ch := by simp only [onChute_control, vmod_self, ch]
  have hfirst (phase : Word64) (period : Word) (f : Chute → Chute)
      (hf : f ch = setNextRel s { ch with phase := phase, period := period }) : first phase period (onChute s c f) := by
    refine ⟨fun hen hm hp hb => ?_, fun h => ?_⟩
    · rw [hsel, hf]; exact setNextRel_timer (ch := { ch with phase := phase, period := period }) hen hm hp hb
    · rw [hsel, hf]; exact setNextRel_none (ch := { ch with phase := phase, period := period }) h
  refine ⟨⟨_, live_next hup fun s => phaseHi s c v, ?_, ?_⟩, ⟨_, live_next hup fun s => periodWrite s c v, ?_, ?_⟩⟩
  · refine onChute_congr s c ?_
    rw [phaseHi, hsel]
    simp only [setNextRel, withHi_withLo, ch]
  · exact hfirst _ _ _ (by simp only [withHi_withLo])
  · refine onChute_congr s c ?_
    rw [periodWrite, hsel]
    simp only [setNextRel, ch]
  · exact hfirst _ _ _ rfl

end Sys2Proof.Machine
end

section
open Sys2Proof.Laws
namespace Sys2Proof.Machine

/-! ### Releases (06 R148 to R150) -/

/-- A release counts itself before it does anything else. -/
def counted (s : State) (c : ChuteId) : State := onChute s c fun ch => { ch with releases := bump ch.releases, ordinal := ch.ordinal + 1 }

/-- An overrun is counted beside it. -/
def overrun (s : State) (c : ChuteId) : State := onChute s c fun ch =>
  { ch with releases := bump ch.releases, ordinal := ch.ordinal + 1, overruns := bump ch.overruns }

section
variable {s : State} {c : ChuteId} {i : Instance}

theorem counted_chute : (counted s c).control.chutes[c.val] = { s.control.chutes[c.val] with
    releases := bump (s.control.chutes[c.val]).releases, ordinal := (s.control.chutes[c.val]).ordinal + 1 } := by
  simp only [counted, onChute_control, vmod_self]

theorem overrun_eq : (onChute (counted s c) c fun ch => { ch with overruns := bump ch.overruns }) = overrun s c := by
  rw [counted, onChute_onChute]; rfl

theorem release_starts (hinst : (s.control.chutes[c.val]).inst = none) (hheld : (s.control.chutes[c.val]).held = false) :
    release s c = startInstance (counted s c) c := by
  have h1 : ((counted s c).control.chutes[c.val]).inst = none := by rw [counted_chute]; exact hinst
  have h2 : ((counted s c).control.chutes[c.val]).held = false := by rw [counted_chute]; exact hheld
  unfold release
  rw [← counted]
  simp only [h1, h2, Bool.false_eq_true, if_false]

/-- A release while the program runs is an overrun, handled by OVR_POLICY (06 Table 6.7). -/
theorem release_overrun (hinst : (s.control.chutes[c.val]).inst = some i) :
    release s c =
      let ch := s.control.chutes[c.val]
      let o := ch.ordinal + 1
      if ch.policy = 0 then
        if i.aborting then
          onChute (match ch.pendRel with | some old => skipReceipt (overrun s c) c old | none => overrun s c) c fun ch =>
            { ch with pendRel := some ch.ordinal }
        else abortInstance (overrun s c) c i o
      else if ch.policy = 1 || ch.held then skipReceipt (overrun s c) c o
      else onChute (overrun s c) c fun ch => { ch with held := true, pendRel := some ch.ordinal } := by
  have h1 : ((counted s c).control.chutes[c.val]).inst = some i := by rw [counted_chute]; exact hinst
  unfold release
  rw [← counted]
  simp only [h1, overrun_eq]
  rw [counted_chute]
  rfl

theorem release_held (hinst : (s.control.chutes[c.val]).inst = some i) (hp : (s.control.chutes[c.val]).policy = 2)
    (hheld : (s.control.chutes[c.val]).held = false) :
    release s c = onChute (overrun s c) c fun ch => { ch with held := true, pendRel := some ch.ordinal } := by
  rw [release_overrun hinst]; simp [hp, hheld]

theorem release_skips (hinst : (s.control.chutes[c.val]).inst = some i) (hp : (s.control.chutes[c.val]).policy = 1) :
    release s c = skipReceipt (overrun s c) c ((s.control.chutes[c.val]).ordinal + 1) := by
  rw [release_overrun hinst]; simp [hp]

theorem release_aborts (hinst : (s.control.chutes[c.val]).inst = some i) (hp : (s.control.chutes[c.val]).policy = 0) (ha : i.aborting = false) :
    release s c = abortInstance (overrun s c) c i ((s.control.chutes[c.val]).ordinal + 1) := by
  rw [release_overrun hinst]; simp [hp, ha]

/-- A run of the program starts at HEAD and ends before TAIL. -/
theorem startInstance_of_dockets (hen : (s.control.chutes[c.val]).en = true) (hne : (s.control.chutes[c.val]).head ≠ (s.control.chutes[c.val]).tail) :
    startInstance s c = onChute s c fun ch =>
      { ch with inst := some { next := ch.head, stop := ch.tail, aborting := false }, readAt := ch.head } :=
  onChute_congr s c (if_neg (by simp [hen, hne]))

/-- What ABORT_OLD leaves of a chute that has a docket running. -/
theorem abortInstance_of_running (o : BitVec 16) (hrun : (s.control.chutes[c.val]).out.any (·.inst) = true) :
    (abortInstance s c i o).control.chutes[c.val] =
      let ch := s.control.chutes[c.val]
      { ch with pending := ch.pending.filter (!·.inst), inst := some { i with next := i.stop, aborting := true }, pendRel := some o
                out := ch.out.map fun x => if x.inst then
                  { x with stop := some .overrun, dropped := (ch.pending.filter (·.inst)).length + (i.stop - i.next).toNat } else x } := by
  have hne : ((s.control.chutes[c.val]).out.filter (·.inst)).isEmpty = false := by
    simpa [List.isEmpty_eq_false_iff, List.filter_eq_nil_iff] using hrun
  unfold abortInstance
  simp only [hne, Bool.false_eq_true, if_false, onControl_control, onChute_control, vmod_self]
end

/-- The next release time once a release at `r` has been made. -/
def nextAfter (ch : Chute) (r : Word64) (t : Nat) : Option Word64 :=
  if r.toNat + ch.period.toNat < t then relTime ch t true
  else if ch.period = 0 then none else some (r + ch.period.zeroExtend 64)

theorem timerFire_due {s : State} {c : ChuteId} {r : Word64} (hen : (s.control.chutes[c.val]).en = true)
    (hm : (s.control.chutes[c.val]).relMode = 1) (hr : (s.control.chutes[c.val]).nextRel = some r) (hdue : r ≤ now s) :
    timerFire s c = checkWaits (release (onChute s c fun ch => { ch with nextRel := nextAfter ch r (now s).toNat }) c) := by
  unfold timerFire
  simp only [hr, hen, hm, hdue, decide_true, Bool.and_self, if_true]
  rfl

/-- Waits change nothing of a chute but its dockets' marks, and record no error. -/
theorem settled_checkWaits {s : State} (hquiet : s.granary.errPend = false) (c : ChuteId) :
    (settleErr (checkWaits s)).control.chutes[c.val] =
      { s.control.chutes[c.val] with pending := ((settleErr (checkWaits s)).control.chutes[c.val]).pending } := by
  obtain ⟨hrest, hch⟩ := checkWaits_only s
  have hq : (checkWaits s).granary.errPend = false := by rw [hrest]; exact hquiet
  rw [settleErr_quiet hq]; exact hch c

/-- Settles O6: a release that is due is counted, and the lemmas above say what follows it. -/
theorem releasesAndOverruns : Obligations.ReleasesAndOverruns := by
  unfold Obligations.ReleasesAndOverruns
  intro s c hup hquiet ch
  refine ⟨fun r hen hm hr hdue => ?timer, fun i hinst hp => ⟨_, release_skips hinst hp, rfl⟩, fun i hinst hp ha hrun => ?abort,
    fun hheld hinst hne hen => ?heldStart⟩
  case timer =>
    let u := onChute s c fun ch => { ch with nextRel := nextAfter ch r (now s).toNat }
    have hu : u.control.chutes[c.val] = { ch with nextRel := nextAfter ch r (now s).toNat } := by
      simp only [u, onChute_control, vmod_self, ch]
    have hexec : exec (.timerRelease c) s = .next (settleErr (checkWaits (release u c))) := by
      rw [← timerFire_due hen hm hr hdue]; exact liveRows_next hup fun s => timerFire s c
    have hrep : Reported u (settleErr (checkWaits (release u c))) :=
      (release_reported u c).trans ((checkWaits_reported _).trans (settleErr_reported _))
    have hnext := (hrep.chutes c).kept.2.2.2.2
    rw [hu] at hnext
    refine ⟨_, hexec, fun hge hp => ?_, (Reported.of_eq (onChute_congr s c ?_)).trans hrep, fun hinst hheld hne => ?_,
      fun i hinst hp hheld => ?_⟩
    · rw [hnext]; simp only [nextAfter]; rw [if_neg (Nat.not_lt.mpr hge), if_neg hp]
    · rw [hnext]
    · have hrel : release u c = startInstance (counted u c) c := release_starts (by rw [hu]; exact hinst) (by rw [hu]; exact hheld)
      rw [startInstance_of_dockets (by rw [counted_chute, hu]; exact hen) (by rw [counted_chute, hu]; exact hne)] at hrel
      rw [hrel, settled_checkWaits (by exact hquiet)]
      simp only [onChute_control, vmod_self, counted_chute, hu]
      exact ⟨trivial, trivial, trivial, trivial⟩
    · have hrel := release_held (s := u) (c := c) (i := i) (by rw [hu]; exact hinst) (by rw [hu]; exact hp) (by rw [hu]; exact hheld)
      rw [hrel, settled_checkWaits (by exact hquiet)]
      simp only [onChute_control, vmod_self, overrun, hu, hinst]
      exact ⟨trivial, trivial, trivial, trivial⟩
  case abort =>
    have hover : (overrun s c).control.chutes[c.val] = { ch with
        releases := bump ch.releases, ordinal := ch.ordinal + 1, overruns := bump ch.overruns } := by
      simp only [overrun, onChute_control, vmod_self, ch]
    have habort := abortInstance_of_running (s := overrun s c) (c := c) (i := i) (ch.ordinal + 1) (by rw [hover]; exact hrun)
    rw [hover] at habort
    rw [release_aborts hinst hp ha]
    intro u ch'
    have hch : ch' = _ := habort
    rw [hch]
    refine ⟨rfl, rfl, rfl, rfl, fun o ho hoi => ?_⟩
    obtain ⟨x, hx, rfl⟩ := List.mem_map.mp ho
    cases hxi : x.inst
    · rw [hxi] at hoi; exact absurd (hxi.symm.trans hoi) Bool.false_ne_true
    · simp
  case heldStart =>
    refine (live_next hup fun s => heldStart s c).trans (congrArg _ ?_)
    have h : (ch.held && ch.inst.isNone) = true := by rw [hheld, hinst]; rfl
    rw [heldStart, if_pos h, startInstance_of_dockets, onChute_onChute]
    · simp only [onChute_control, vmod_self]; exact hen
    · simp only [onChute_control, vmod_self]; exact hne

end Sys2Proof.Machine
end

section
open Sys2Proof.Laws
namespace Sys2Proof.Machine

/-! ### Bells and the controller's own dockets (06 R146, R155) -/

/-- The dockets that stay behind a chute's head are those behind it. -/
theorem popHead_pending {s : State} {c : ChuteId} {p : Pending} {rest : List Pending} (h : (s.control.chutes[c.val]).pending = p :: rest) :
    ((popHead s c).control.chutes[c.val]).pending = rest := by
  rw [popHead_cons h]; simp only [onChute_control, vmod_self]

/-- Once its head docket has completed, reporting alone follows at a chute whose other dockets could be read. -/
theorem settleHead_controllerDone_reported {s u : State} {c : ChuteId} {p : Pending} (st : Byte) (sub : Nat) (hact : Reported s u)
    (hok : ∀ q ∈ (s.control.chutes[c.val]).pending, q.fault = .ok) :
    Reported (onControl s fun k => { k with nextId := k.nextId + 1 }) (settleHead (controllerDone u c p st sub) c) := by
  have hdone := hact.nextId.trans (controllerDone_reported u c p st sub)
  rw [settleHead_ok _ _ (hdone.faults c hok)]
  exact hdone.trans (checkWaits_reported _)

theorem controllerOp_acts {s : State} {c : ChuteId} {o : Opcode} {ready : Chute → Bool} {act : State → DocketWords → State} {p : Pending}
    {rest : List Pending} (hen : (s.control.chutes[c.val]).en = true) (hp : (s.control.chutes[c.val]).pending = p :: rest)
    (ho : wOpcode p.words = some o) (hready : headReady s.control.chutes[c.val] p = true) (hcheck : docketCheck s c p.words = none)
    (hr : ready s.control.chutes[c.val] = true) (hroom : (s.control.chutes[c.val]).outstanding < (s.control.chutes[c.val]).depth) :
    controllerOp s c o ready act = settleHead (controllerDone (act (popHead s c) p.words) c p stOk 0) c := by
  simp [controllerOp, hen, hp, ho, hready, hcheck, hr, hroom]

theorem expireWait_expired {s : State} {c : ChuteId} {p : Pending} {rest : List Pending} {t0 : Word64}
    (hp : (s.control.chutes[c.val]).pending = p :: rest) (hok : p.waitOk = false) (hfrom : p.waitFrom = some t0)
    (hto : (s.control.chutes[c.val]).waitTimeout ≠ 0) (hover : usElapsed s t0 (s.control.chutes[c.val]).waitTimeout.toNat = true) :
    expireWait s c = settleHead (controllerDone (popHead s c) c p stTimeout 0x07) c := by
  have hto : (decide ((s.control.chutes[c.val]).waitTimeout ≠ 0)) = true := decide_eq_true hto
  simp only [expireWait, hp, hok, hfrom, hto, hover, Bool.not_false, Bool.and_self, if_true]

/-- Settles O7: a Bell is raised or cleared by its own operation, and a docket at the head completes where it stands. -/
theorem bellsAndControllerDockets : Obligations.BellsAndControllerDockets := by
  unfold Obligations.BellsAndControllerDockets
  intro s hup
  refine ⟨fun g v => ?set, fun g v => live_next hup fun s => clearBells s (groupBells g.val v),
    ?own, ?expired⟩
  case set =>
    refine ⟨_, liveRows_next hup fun s => raiseBells s (groupBells g.val v), (raiseBells_reported ..).trans (settleErr_reported _),
      fun hchutes hports hquiet => ?_⟩
    rw [raiseBells_plain s _ hchutes hports]
    exact settleErr_quiet hquiet
  case own =>
    intro c p rest ch after hen hp hok hready hcheck hroom
    have hrest : ∀ q ∈ ((popHead s c).control.chutes[c.val]).pending, q.fault = .ok := by
      rw [popHead_pending hp]
      exact fun q hq => hok q (by rw [hp]; exact List.mem_cons_of_mem _ hq)
    refine ⟨fun ho hout => ⟨_, liveRows_next hup fun s => controllerOp s c .fence (fun ch => ch.out.isEmpty) fun s _ => s, ?_⟩,
      fun ho => ⟨_, liveRows_next hup fun s => controllerOp s c .waitEvent (fun _ => true) fun s _ => s, ?_⟩,
      fun ho => ⟨_, liveRows_next hup fun s => controllerOp s c .signal (fun _ => true) fun s w =>
        let b := groupBells (bitsOf w[4] 2 0) w[5]
        if bitOf w[4] 31 then clearBells s b else raiseBells s b, ?_, ?_⟩⟩
    · rw [controllerOp_acts hen hp ho hready hcheck (List.isEmpty_iff.mpr hout) hroom]
      exact (settleHead_controllerDone_reported _ _ (.refl _) hrest).trans (settleErr_reported _)
    · rw [controllerOp_acts hen hp ho hready hcheck rfl hroom]
      exact (settleHead_controllerDone_reported _ _ (.refl _) hrest).trans (settleErr_reported _)
    · rw [controllerOp_acts hen hp ho hready hcheck rfl hroom]
      refine (settleHead_controllerDone_reported _ _ ?_ hrest).trans (settleErr_reported _)
      dsimp only
      split
      · exact clearBells_reported ..
      · exact raiseBells_reported ..
    · rw [controllerOp_acts hen hp ho hready hcheck rfl hroom]
  case expired =>
    intro c p rest t0 ch hp hok hfrom hto hover
    refine (liveRows_next hup fun s => expireWait s c).trans ?_
    rw [expireWait_expired hp hok hfrom hto ((usElapsed_iff ..).mpr hover)]

/-! ### The checks of a docket (06 R485) -/

/-- Settles O8: `docketCheck` asks its questions in this order. -/
theorem controllerChecksKeepTheirOrder : Obligations.ControllerChecksKeepTheirOrder := by
  unfold Obligations.ControllerChecksKeepTheirOrder
  intro s c w ch
  refine ⟨fun h => by simp only [docketCheck, h], ?_⟩
  intro o ho urgentFw mask np ctx tenant offline
  have hfw : (o.isFirmware && decide (ch.cls = 3)) = true ↔ urgentFw := by simp [urgentFw]
  have hnp : (!wPreemptible w && decide (ch.cls ≠ 3) && decide (wMask w &&& s.control.urgentMills ≠ 0)) = true ↔ np := by
    simp [np, and_assoc]
  have hctx : (!(s.control.ctx[(wContext w).val]).valid) = true ↔ ctx := by simp [ctx]
  have hoff : (!(targetUnits o w).all fun u => unitTakes s u) = true ↔ offline := by simp [offline]
  simp only [docketCheck, ho]
  refine ⟨fun h => if_pos (hfw.mpr h), fun h1 h => ?_, fun h1 h2 h => ?_, fun h1 h2 h3 h => ?_, fun h1 h2 h3 h4 h => ?_,
    fun h1 h2 h3 h4 h5 h => ?_⟩
  · rw [if_neg (mt hfw.mp h1)]; exact if_pos h
  · rw [if_neg (mt hfw.mp h1), if_neg h2]; exact if_pos (hnp.mpr h)
  · rw [if_neg (mt hfw.mp h1), if_neg h2, if_neg (mt hnp.mp h3)]; exact if_pos (hctx.mpr h)
  · rw [if_neg (mt hfw.mp h1), if_neg h2, if_neg (mt hnp.mp h3), if_neg (mt hctx.mp h4)]; exact if_pos h
  · rw [if_neg (mt hfw.mp h1), if_neg h2, if_neg (mt hnp.mp h3), if_neg (mt hctx.mp h4), if_neg h5]; exact if_pos (hoff.mpr h)

end Sys2Proof.Machine
end

section
open Sys2Proof.Laws
namespace Sys2Proof.Machine

/-! ### Hand-out (06 R140, R143, R485) -/

/-- Reporting beside a step of the round robin. -/
theorem Reported.rotate {s t : State} (r : Reported s t) (c : ChuteId) : Reported (rotate s c) (rotate t c) := by
  have hcls : (t.control.chutes[c.val]).cls = (s.control.chutes[c.val]).cls := by unfold Chute.cls; rw [(r.chutes c).kept.1]
  have hrr : t.control.rrNext = s.control.rrNext := by rw [r.control]
  unfold Machine.rotate
  rw [hcls]
  exact {
    rest := by have := r.rest; unfold onControl; dsimp only; rw [this]
    mills := r.mills
    control := by have := r.control; simp only [onControl_control]; rw [this]
    chutes := r.chutes
    granary := r.granary
    banks := r.banks
    gauge := r.gauge
    ports := r.ports
    spigot := r.spigot
    mem := r.mem
    canonical := r.canonical }

theorem handOutAt_nil {s : State} {c : ChuteId} (h : (s.control.chutes[c.val]).pending = []) : handOutAt s c = none := by
  simp only [handOutAt, h]

/-- The first chute in hand-out order that has a docket is the one that is served. -/
theorem handOut_of_first {s t : State} {c : ChuteId} {before after : List ChuteId} (horder : handOutOrder s.control = before ++ c :: after)
    (hbefore : ∀ d ∈ before, (s.control.chutes[d.val]).pending = []) (h : handOutAt s c = some t) : handOut s = rotate t c := by
  have hnone : before.findSome? (fun c => (handOutAt s c).map fun t => rotate t c) = none :=
    List.findSome?_eq_none_iff.mpr fun d hd => by rw [handOutAt_nil (hbefore d hd)]; rfl
  simp only [handOut, horder, List.findSome?_append, hnone, List.findSome?_cons, h, Option.map_some, Option.none_or]

/-- The Mills a docket of opcode `o` is handed to. -/
def handMills (o : Opcode) (w : DocketWords) : List MillId := if o.onMills then maskMills (wMask w) else []

/-- In scoreboard mode the rows a docket writes are recorded for each of its Mills (06 R153). -/
def recordRanges (s : State) (c : ChuteId) (w : DocketWords) (mills : List MillId) (u : State) : State :=
  if (s.control.chutes[c.val]).sync then
    onControl u fun k =>
      { k with scoreboard := .ofFn fun m =>
          if mills.contains m then
            k.scoreboard[m.val] ++ (docketRanges s w (jobOf s c w).win m.val).2.map fun r => { id := (jobOf s c w).id, lo := r.1, hi := r.2 }
          else k.scoreboard[m.val] }
  else u

theorem recordRanges_reported (s : State) (c : ChuteId) (w : DocketWords) (mills : List MillId) (u : State) :
    Reported u (recordRanges s c w mills u) := by
  unfold recordRanges
  split
  · exact .controls _ _ rfl
  · exact .refl _

section
variable {s : State} {c : ChuteId} {p : Pending} {rest : List Pending} {o : Opcode}

/-- A docket may be handed out: its waits are over, no check fails, its receipt has room, and no pending write overlaps it. -/
structure MayHandOut (s : State) (c : ChuteId) (p : Pending) (rest : List Pending) (o : Opcode) : Prop where
  head : (s.control.chutes[c.val]).pending = p :: rest
  ready : headReady s.control.chutes[c.val] p = true
  check : docketCheck s c p.words = none
  room : ¬ (s.control.chutes[c.val]).depth ≤ (s.control.chutes[c.val]).outstanding
  opcode : wOpcode p.words = some o
  free : ((s.control.chutes[c.val]).sync && scoreboardHolds s p.words (handMills o p.words)) = false

theorem handOutAt_fails {st : Byte} {sub : Nat} (hp : (s.control.chutes[c.val]).pending = p :: rest)
    (hready : headReady s.control.chutes[c.val] p = true) (h : docketCheck s c p.words = some (st, sub)) :
    handOutAt s c = some (settleHead (controllerDone (popHead s c) c p st sub) c) := by
  simp only [handOutAt, hp, hready, h, Bool.not_true, Bool.false_eq_true, if_false]

theorem handOutAt_mills (h : MayHandOut s c p rest o) (hm : o.onMills = true)
    (hslots : ∀ m ∈ maskMills (wMask p.words), (slotFor s.control m (s.control.chutes[c.val]).cls).isSome = true) :
    handOutAt s c = some (settleHead (recordRanges s c p.words (maskMills (wMask p.words))
      ((maskMills (wMask p.words)).foldl (sendHandout c (jobOf s c p.words).id (jobOf s c p.words))
        (recordOut s c p (maskMills (wMask p.words)) 0))) c) := by
  obtain ⟨hp, hready, hcheck, hroom, ho, hfree⟩ := h
  have hown : ownCommand o = false := by cases o <;> cases hm <;> rfl
  have hall : ((maskMills (wMask p.words)).all fun m => (slotFor s.control m (s.control.chutes[c.val]).cls).isSome) = true :=
    List.all_eq_true.mpr hslots
  rw [handMills, if_pos hm] at hfree
  simp only [handOutAt, hp, hready, hcheck, hroom, ho, hm, hfree, hown, hall, Bool.not_true, Bool.false_eq_true, if_false, if_true]
  rfl

/-- A docket for a unit that is no Mill goes to the firmware, a bank engine, the Gauge or a Weir. -/
theorem handOutAt_unit (h : MayHandOut s c p rest o) (hm : o.onMills = false) (hown : ownCommand o = false) :
    handOutAt s c =
      let j := jobOf s c p.words
      let u := recordOut s c p [] 1
      let w : WeirId := fin 2 p.words[4].toNat
      if o.isFirmware then
        if s.control.fwQueue.length < 16 then some (settleHead (onControl u fun k => { k with fwQueue := k.fwQueue ++ [j] }) c) else none
      else if o = .copy || o = .fill then
        some (settleHead (onGran u fun g => { g with engineQ := vmod g.engineQ (engineQuad s j) fun q => q ++ [j] }) c)
      else if o = .gaugeArm then some (settleHead (onGauge u fun g => { g with queue := g.queue ++ [j] }) c)
      else if weirCredit s.weirs[w.val] (s.control.chutes[c.val]).cls then
        some (settleHead (onWeir u w fun x => { x with queue := x.queue ++ [j] }) c)
      else none := by
  obtain ⟨hp, hready, hcheck, hroom, ho, hfree⟩ := h
  rw [handMills, hm, if_neg Bool.false_ne_true] at hfree
  simp only [handOutAt, hp, hready, hcheck, hroom, ho, hm, hfree, hown, Bool.not_true, Bool.false_eq_true, if_false]
end

/-- The chute whose docket is handed out, as it is recorded. -/
theorem recordOut_pending {s : State} {c : ChuteId} {p : Pending} {rest : List Pending} (mills : List MillId) (others : Nat)
    (h : (s.control.chutes[c.val]).pending = p :: rest) : ((recordOut s c p mills others).control.chutes[c.val]).pending = rest := by
  simp only [recordOut, onChute_control, vmod_self]
  exact popHead_pending h

theorem sendHandout_control (c : ChuteId) (id : Nat) (j : Job) (s : State) (m : MillId) :
    ∃ k, sendHandout c id j s m = onControl s (fun _ => k) ∧ k.chutes = s.control.chutes ∧ k.scoreboard = s.control.scoreboard := by
  unfold sendHandout
  split
  · exact ⟨s.control, rfl, rfl, rfl⟩
  · exact ⟨_, rfl, rfl, rfl⟩

/-- HANDOUT messages leave the chutes, the scoreboard and every other unit alone. -/
theorem foldl_sendHandout (c : ChuteId) (id : Nat) (j : Job) (l : List MillId) : ∀ s : State,
    ∃ k, l.foldl (sendHandout c id j) s = onControl s (fun _ => k) ∧ k.chutes = s.control.chutes ∧ k.scoreboard = s.control.scoreboard := by
  induction l with
  | nil => exact fun s => ⟨s.control, rfl, rfl, rfl⟩
  | cons m l ih =>
    intro s
    obtain ⟨k, he, hc, hs⟩ := sendHandout_control c id j s m
    obtain ⟨k', he', hc', hs'⟩ := ih (onControl s fun _ => k)
    exact ⟨k', by rw [List.foldl_cons, he, he']; rfl, hc'.trans hc, hs'.trans hs⟩

/-- The docket that leaves a chute leaves every other part of the block but the ledger's messages alone. -/
theorem popHead_granary (s : State) (c : ChuteId) : (popHead s c).granary = s.granary := by
  unfold popHead advanceHead
  split
  · rfl
  · dsimp only
    split
    · rfl
    · split <;> rfl

theorem popHead_scoreboard (s : State) (c : ChuteId) : (popHead s c).control.scoreboard = s.control.scoreboard := by
  cases h : (s.control.chutes[c.val]).pending with
  | nil => rw [popHead_nil h]
  | cons p rest => rw [popHead_cons h]; rfl

/-- Settles O9: the first chute with a docket is served, and its docket goes where `handOutAt` sends it. -/
theorem handOutReachesTheTargets : Obligations.HandOutReachesTheTargets := by
  unfold Obligations.HandOutReachesTheTargets
  intro s c p rest before after hup ch j out ends horder hbefore hp hok hready
  have hexec {t : State} (h : handOutAt s c = some t) : exec .handOut s = .next (settleErr (rotate t c)) := by
    rw [← handOut_of_first horder hbefore h]; exact liveRows_next hup handOut
  -- a docket handed out with no unreadable docket behind it
  have hends (f : State → State) (mills : List MillId) (others : Nat) {u : State}
      (hf : ((f (recordOut s c p mills others)).control.chutes[c.val]).pending = rest) (hg : Reported (f (recordOut s c p mills others)) u)
      (h : handOutAt s c = some (settleHead u c)) : ends f mills others := by
    refine ⟨_, hexec h, ?_⟩
    have hfaults := hg.faults c (by rw [hf]; exact fun q hq => hok q (by rw [hp]; exact List.mem_cons_of_mem _ hq))
    rw [settleHead_ok c _ hfaults]
    exact ((hg.trans (checkWaits_reported _)).rotate c).trans (settleErr_reported _)
  refine ⟨fun st sub h => hexec (handOutAt_fails hp hready h), fun hcheck hroom hsync => ?_⟩
  have hmay {o : Opcode} (ho : wOpcode p.words = some o) : MayHandOut s c p rest o := by
    refine ⟨hp, hready, hcheck, Nat.not_le.mpr hroom, ho, ?_⟩
    cases hs : (s.control.chutes[c.val]).sync
    · rfl
    · simpa [handMills, ho] using hsync hs
  refine ⟨fun o ho hm hslots => ⟨?_, fun hs hquiet => ?_⟩, fun o ho hfw hlen => ?_, fun ho => ?_, fun ho => ?_, fun ho hcredit => ?_⟩
  · refine hends (fun u => (maskMills (wMask p.words)).foldl (sendHandout c j.id j) u) (maskMills (wMask p.words)) 0
      ?_ (recordRanges_reported ..) (handOutAt_mills (hmay ho) hm hslots)
    obtain ⟨k, he, hc, -⟩ := foldl_sendHandout c j.id j (maskMills (wMask p.words)) (recordOut s c p (maskMills (wMask p.words)) 0)
    rw [he, onControl_control, hc]
    exact recordOut_pending _ _ hp
  · refine ⟨_, hexec (handOutAt_mills (hmay ho) hm hslots), fun m hmem => ?_⟩
    obtain ⟨k, he, hc, hb⟩ := foldl_sendHandout c j.id j (maskMills (wMask p.words)) (recordOut s c p (maskMills (wMask p.words)) 0)
    generalize hu : recordRanges s c p.words (maskMills (wMask p.words)) _ = u
    have hu' : u = onControl (recordOut s c p (maskMills (wMask p.words)) 0) fun _ =>
        { k with scoreboard := .ofFn fun m =>
            if (maskMills (wMask p.words)).contains m then
              k.scoreboard[m.val] ++ (docketRanges s p.words j.win m.val).2.map fun r => { id := j.id, lo := r.1, hi := r.2 }
            else k.scoreboard[m.val] } := by
      rw [← hu, recordRanges, if_pos hs, he]; rfl
    have hpend : (u.control.chutes[c.val]).pending = rest := by
      rw [hu', onControl_control, hc]; exact recordOut_pending _ _ hp
    have hgran : u.granary = s.granary := by rw [hu']; exact popHead_granary _ _
    obtain ⟨hrest, -⟩ := checkWaits_only u
    rw [settleHead_ok c u (by rw [hpend]; exact fun q hq => hok q (by rw [hp]; exact List.mem_cons_of_mem _ hq)),
      settleErr_quiet (by show (checkWaits u).granary.errPend = false; rw [hrest]; exact (congrArg _ hgran).trans hquiet)]
    show (checkWaits u).control.scoreboard[m.val] = _
    rw [hrest]
    have hsame : k.scoreboard = s.control.scoreboard := hb.trans (popHead_scoreboard _ _)
    simp only [hu', onControl_control, Vector.getElem_ofFn, hsame, List.contains_iff_mem.mpr hmem, if_true]
  · have hm : o.onMills = false := by cases o <;> cases hfw <;> rfl
    have hown : ownCommand o = false := by cases o <;> cases hfw <;> rfl
    refine hends (fun u => onControl u fun k => { k with fwQueue := k.fwQueue ++ [j] }) [] 1 (recordOut_pending _ _ hp) (.refl _) ?_
    rw [handOutAt_unit (hmay ho) hm hown]
    simp only [hfw, hlen, if_true]
    rfl
  · have hat {o : Opcode} (ho' : wOpcode p.words = some o) (hcf : o = .copy ∨ o = .fill) : handOutAt s c =
        some (settleHead (onGran (recordOut s c p [] 1) fun g => { g with engineQ := vmod g.engineQ (engineQuad s j) fun q => q ++ [j] }) c) := by
      rw [handOutAt_unit (hmay ho') (by rcases hcf with rfl | rfl <;> rfl) (by rcases hcf with rfl | rfl <;> rfl)]
      rcases hcf with rfl | rfl <;> rfl
    refine hends (fun u => onGran u fun g => { g with engineQ := vmod g.engineQ (engineQuad s j) fun q => q ++ [j] }) [] 1
      (recordOut_pending _ _ hp) (.refl _) ?_
    rcases ho with ho | ho
    · exact hat ho (.inl rfl)
    · exact hat ho (.inr rfl)
  · refine hends (fun u => onGauge u fun g => { g with queue := g.queue ++ [j] }) [] 1 (recordOut_pending _ _ hp) (.refl _) ?_
    rw [handOutAt_unit (hmay ho) rfl rfl]; rfl
  · have hat {o : Opcode} (ho' : wOpcode p.words = some o) (hw : o = .solve ∨ o = .solveDelta ∨ o = .weirBind) : handOutAt s c =
        some (settleHead (onWeir (recordOut s c p [] 1) (fin 2 p.words[4].toNat) fun x => { x with queue := x.queue ++ [j] }) c) := by
      rw [handOutAt_unit (hmay ho') (by rcases hw with rfl | rfl | rfl <;> rfl) (by rcases hw with rfl | rfl | rfl <;> rfl)]
      rcases hw with rfl | rfl | rfl <;> exact if_pos hcredit
    refine hends (fun u => onWeir u (fin 2 p.words[4].toNat) fun x => { x with queue := x.queue ++ [j] }) [] 1
      (recordOut_pending _ _ hp) (.refl _) ?_
    rcases ho with ho | ho | ho
    · exact hat ho (.inl rfl)
    · exact hat ho (.inr (.inl rfl))
    · exact hat ho (.inr (.inr rfl))

end Sys2Proof.Machine
end

section
open Sys2Proof.Laws
namespace Sys2Proof.Machine

/-! ### Receipts (06 R137, R140, R142) -/

/-- Where the next receipt of a chute goes. -/
def Chute.rcptAt (ch : Chute) : Nat := ch.rcpt.toNat + ch.rcptTail.toNat % ch.depth * 32

/-- The PHASE bit of the next receipt of a chute. -/
def Chute.rcptPhase (ch : Chute) : Bool := ch.rcptTail.toNat / ch.depth % 2 = 0

/-- What follows the write of a receipt's row: RCPT_TAIL advances, and a row that was written sends MSI-X. -/
theorem writeReceipt_of_write {s u : State} {r : DoneMsg} {st : NetStatus}
    (hw : writeRange s none (s.control.chutes[r.chute.val]).rcptAt (receiptBytes (s.control.chutes[r.chute.val]).rcptPhase r) = (st, u)) :
    let ch := s.control.chutes[r.chute.val]
    let v := u.control.chutes[r.chute.val]
    (writeReceipt s r).mem = u.mem ∧
    (writeReceipt s r).control.chutes[r.chute.val] = { v with rcptTail := v.rcptTail + 1, rcptFail := v.rcptFail || st ≠ .ok } ∧
    (writeReceipt s r).control.msix = (if st = .ok && ch.irqEn && !u.net.perst then [ch.vec] else []) ++ u.control.msix := by
  have hw' : writeRange s none ((s.control.chutes[r.chute.val]).rcpt.toNat +
      (s.control.chutes[r.chute.val]).rcptTail.toNat % (s.control.chutes[r.chute.val]).depth * 32)
      (receiptBytes (decide ((s.control.chutes[r.chute.val]).rcptTail.toNat / (s.control.chutes[r.chute.val]).depth % 2 = 0)) r) = (st, u) := hw
  intro ch v
  unfold writeReceipt
  simp only [hw', ch]
  split
  · rename_i h
    rw [show (decide (st = .ok) && (s.control.chutes[r.chute.val]).irqEn && !u.net.perst) = true from h]
    exact ⟨rfl, vmod_self .., rfl⟩
  · rename_i h
    rw [show (decide (st = .ok) && (s.control.chutes[r.chute.val]).irqEn && !u.net.perst) = false from Bool.eq_false_iff.mpr h]
    exact ⟨rfl, vmod_self .., rfl⟩

/-- Bytes that lie in one row which does not answer: nothing is written. -/
theorem writeRange_refused {s : State} {own : Option MillId} {a : Nat} {bs : List Byte} (hne : bs ≠ []) (hrow : a % 512 + bs.length ≤ 512) (hpart : bs.length < 512)
    (hp : placeStatus s own a ≠ .ok) : writeRange s own a bs = (placeStatus s own a, s) := by
  have hone : writeRowPart s own a bs = (placeStatus s own a, s) := by
    have hlen : (decide (a % 512 = 0) && decide (bs.length = 512)) = false := by
      rw [decide_eq_false (p := bs.length = 512) (by omega), Bool.and_false]
    have hst : rowStatus s own a = placeStatus s own a := by
      unfold rowStatus
      split
      · rename_i h; exact absurd h hp
      · rfl
    have hu := placeStatus_ne_uncorr s own a
    unfold writeRowPart
    simp only [hlen, Bool.false_eq_true, if_false, hst]
  obtain ⟨b, bs', rfl⟩ := List.exists_cons_of_ne_nil hne
  have hnil (t : State) (x : Nat) (n : Nat) : writeRows t own x [] n = (.ok, t) := by cases n <;> rfl
  unfold writeRange writeRows
  dsimp only
  rw [List.take_of_length_le (by omega), List.drop_of_length_le (by omega), hone, hnil]
  simp only [hp, if_false]

/-- Settles O10: a receipt goes to the ring's tail while there is room, and what its row answers says what follows. -/
theorem receiptsAreWrittenAtTheTail : Obligations.ReceiptsAreWrittenAtTheTail := by
  unfold Obligations.ReceiptsAreWrittenAtTheTail
  intro s r ch a phase
  have hpost (hroom : ch.unconsumed < ch.depth) (hwait : ch.rcptWait = []) : postReceipt s r = writeReceipt s r := by
    have h : (decide (ch.unconsumed < ch.depth) && ch.rcptWait.isEmpty) = true := by rw [hwait, decide_eq_true hroom]; rfl
    exact if_pos h
  refine ⟨postReceipt_reported s r, fun hroom hwait hrows hmem => ?_, fun hroom hwait halign hp => ?_, fun hfull => ?_⟩
  · have hlen := length_receiptBytes phase r
    obtain ⟨g, hw, -, -⟩ := writeRange_ok (s := s) (own := none) (a := a) (bs := receiptBytes phase r) (by rw [hlen]; exact hrows)
    obtain ⟨hm, hc, hx⟩ := writeReceipt_of_write hw
    dsimp only at hm hc hx
    have hread : readBytes (writeBytes s.mem a (receiptBytes phase r)) a 32 = receiptBytes phase r := by
      rw [readBytes_eq]
      refine List.ext_getElem (by simp [hlen]) fun i h1 h2 => ?_
      rw [List.getElem_map, List.getElem_range, readByte_writeBytes hmem i h2]
    rw [← hm] at hread
    rw [hpost hroom hwait]
    intro t ch'
    have hch : ch' = _ := hc
    refine ⟨hread, ?_, ?_, ?_⟩
    · rw [hch]
    · rw [hch]; simp [ch]
    · exact hx.trans (by simp [ch])
  · have hlen := length_receiptBytes phase r
    have hrow : a % 512 + (receiptBytes phase r).length ≤ 512 := by rw [hlen]; omega
    have hw := writeRange_refused (bs := receiptBytes phase r) (by intro h; rw [h] at hlen; simp at hlen) hrow (by rw [hlen]; decide) hp
    obtain ⟨hm, hc, hx⟩ := writeReceipt_of_write hw
    rw [hpost hroom hwait]
    intro t ch'
    have hch : ch' = _ := hc
    refine ⟨hm, ?_, ?_, ?_⟩
    · rw [hch]
    · rw [hch]; simp [hp]
    · exact hx.trans (by simp [hp])
  · have h : ¬ (decide (ch.unconsumed < ch.depth) && ch.rcptWait.isEmpty) = true := by simp [hfull]
    exact if_neg h

end Sys2Proof.Machine
end

section
open Sys2Proof.Laws
namespace Sys2Proof.Machine

/-! ### Tenants (06 R147, 05 R120) -/

/-- While a clear of the docket's Mills runs, it does not complete. -/
theorem settleTenant_waits {s : State} {j : Job} (hj : s.control.tenantJob = some j)
    (h : ∃ m ∈ maskMills (wMask j.words), (s.mills[m.val]).regs.hopClearing = true) : settleTenant s = s := by
  have hall : ((maskMills (wMask j.words)).all fun m => !(s.mills[m.val]).regs.hopClearing) = false := by
    simpa [List.all_eq_false] using h
  simp only [settleTenant, hj, hall, Bool.false_eq_true, if_false]

theorem settleTenant_ends {s : State} {j : Job} (hj : s.control.tenantJob = some j)
    (h : ∀ m ∈ maskMills (wMask j.words), (s.mills[m.val]).regs.hopClearing = false) :
    settleTenant s = fwDone (onControl s fun k =>
      { k with tenantJob := none
               millTenant := .ofFn fun m =>
                 if (maskMills (wMask j.words)).contains m then fin 8 j.words[4].toNat else k.millTenant[m.val] }) j stOk 0 := by
  have hall : ((maskMills (wMask j.words)).all fun m => !(s.mills[m.val]).regs.hopClearing) = true := by
    simpa [List.all_eq_true] using h
  simp only [settleTenant, hj, hall, if_true]

/-- Settles O11: the clears are those of `clearMill`, and the docket completes once none of them runs. -/
theorem tenantSwitchClearsTheMills : Obligations.TenantSwitchClearsTheMills := by
  unfold Obligations.TenantSwitchClearsTheMills
  intro s j rest hup ms
  have hdone (m : MillId) : exec (.tenantClearDone m) s = .next (settleErr (tenantCleared s m)) :=
    liveRows_next hup fun s => tenantCleared s m
  refine ⟨fun hhead hnone hne hdrained hquiet => ?_, fun m hj hm hothers => ?_, fun m hj hother hquiet => ?_⟩
  · let u := onControl s fun k => { k with fwQueue := rest, tenantJob := some j }
    obtain ⟨hcontrol, -, hpend, hmills, hmem⟩ := clears ms u
    obtain ⟨m0, hm0⟩ := List.exists_mem_of_ne_nil ms hne
    have hstart : tenantStart s = ms.foldl clearMill u := by
      have hall : (s.control.tenantJob.isNone && ms.all (drained s)) = true := by
        rw [hnone, List.all_eq_true.mpr hdrained]; rfl
      unfold tenantStart
      simp only [hhead, ms, u] at hall hcontrol ⊢
      rw [if_pos hall]
      exact settleTenant_waits (by rw [hcontrol]; rfl) ⟨m0, hm0, by have := hmills m0; simp only [ms, u] at this hm0; rw [this, if_pos hm0]⟩
    have hexec : exec .tenantSwitch s = .next (ms.foldl clearMill u) :=
      (liveRows_next hup tenantStart).trans (next_of_quiet hstart (hpend.trans hquiet))
    refine ⟨_, hexec, hcontrol, fun m hm => ?_, fun m hm => ?_, fun a ha => ?_⟩
    · have h := hmills m
      rw [if_pos hm] at h
      rw [h]
      refine ⟨rfl, rfl, fun q => ?_, fun hflat i hi => ?_⟩
      · rw [Vector.getElem_map]; exact ⟨rfl, rfl⟩
      · rw [hmem, if_pos ⟨hflat, m, hm, by omega, by omega⟩]
    · rw [hmills m, if_neg hm]; rfl
    · rw [hmem, if_neg ?_]
      · rfl
      · rintro ⟨-, m, hm, hlo, hhi⟩
        have := ha m hm
        omega
  · have hcl : ∀ x ∈ ms, (((onRegs s m fun r => { r with hopClearing := false }).mills[x.val]).regs.hopClearing) = false := by
      intro x hx
      rw [onRegs_mills, vmod_get]
      split
      · rfl
      · rename_i hxm; exact hothers x hx fun e => hxm (congrArg _ e)
    refine ⟨_, hdone m, ?_⟩
    rw [tenantCleared, settleTenant_ends (by exact hj) hcl]
    refine Reported.trans (.of_eq (onControl_congr _ ?_)) ((fwDone_reported ..).trans (settleErr_reported _))
    simp only [List.contains_iff_mem, ms]
  · obtain ⟨x, hx, hxm, hclear⟩ := hother
    refine (hdone m).trans (next_of_quiet (settleTenant_waits (by exact hj) ⟨x, hx, ?_⟩) hquiet)
    rw [onRegs_mills, vmod_other _ _ _ _ _ fun e => hxm (Fin.ext e)]
    exact hclear

end Sys2Proof.Machine
end

section
open Sys2Proof.Laws
namespace Sys2Proof.Machine

/-! ### The Mill's messages (19 R438 to R440) -/

section
variable {s : State} {m : MillId} {src : NiId} {h : HandoutMsg}

/-- A HANDOUT as it leaves the messages on their way. -/
def handoutTaken (s : State) (m : MillId) (h : HandoutMsg) : State := onControl s fun k => { k with toMills := k.toMills.erase (m, h) }

theorem handoutArrives_fills (hadm : (s.net.nis[m.val]).admits = true) (hsrc : src.val = (s.mills[m.val]).mb.ctrlNi.toNat)
    (hfree : (s.mills[m.val]).slots[h.slot.val] = none) (htakes : slotTakes h.slot.val h.cls = true) :
    handoutArrives s m src h = onMill (handoutTaken s m h) m fun x =>
      { x with slots := vmod x.slots h.slot fun _ => some { msg := h, order := x.arrivals }, arrivals := x.arrivals + 1 } := by
  simp only [handoutArrives, onControl_net, onControl_mills, hadm, hsrc, hfree, htakes, Bool.not_true, Bool.false_eq_true, if_false,
    ne_eq, not_true_eq_false, Option.isSome_none, Bool.or_self]
  rfl

theorem handoutArrives_foreign (hadm : (s.net.nis[m.val]).admits = true) (hsrc : src.val ≠ (s.mills[m.val]).mb.ctrlNi.toNat) :
    handoutArrives s m src h = protoErr (handoutTaken s m h) m := by
  simp only [handoutArrives, onControl_net, onControl_mills, hadm, hsrc, Bool.not_true, Bool.false_eq_true, if_false, ne_eq,
    not_false_eq_true, if_true]
  rfl

theorem handoutArrives_refused (hadm : (s.net.nis[m.val]).admits = true) (hsrc : src.val = (s.mills[m.val]).mb.ctrlNi.toNat)
    (hslot : (s.mills[m.val]).slots[h.slot.val] ≠ none ∨ slotTakes h.slot.val h.cls = false) (hours : (m, h) ∉ s.control.toMills) :
    handoutArrives s m src h = protoErr s m := by
  have hno : s.control.toMills.contains (m, h) = false := by simpa using hours
  have hbad : (((s.mills[m.val]).slots[h.slot.val]).isSome || !slotTakes h.slot.val h.cls) = true := by
    rcases hslot with hs | hs
    · rw [Option.isSome_iff_ne_none.mpr hs]; rfl
    · rw [hs]; simp
  have hsame : (onControl s fun k => { k with toMills := k.toMills.erase (m, h) }) = s :=
    onControl_same s (by rw [List.erase_of_not_mem hours])
  simp only [handoutArrives, hsame, hadm, hsrc, hno, hbad, Bool.not_true, Bool.false_eq_true, if_false, ne_eq, not_true_eq_false, if_true]
end

/-- A Mill's part of a docket, taken off what it still waits for. -/
def partMerged (o : Outstanding) (m : MillId) (r : DoneMsg) : Outstanding := merge { o with mills := o.mills.filter (· ≠ m) } r

@[simp] theorem partMerged_stop (o : Outstanding) (m : MillId) (r : DoneMsg) : (partMerged o m r).stop = o.stop := rfl
@[simp] theorem partMerged_others (o : Outstanding) (m : MillId) (r : DoneMsg) : (partMerged o m r).others = o.others := rfl
@[simp] theorem partMerged_words (o : Outstanding) (m : MillId) (r : DoneMsg) : (partMerged o m r).words = o.words := rfl

section
variable {s : State} {m : MillId} {r : DoneMsg} {id : Nat} {o : Outstanding} (hc : (s.control.credits[m.val])[r.slot.val] = some id)
  (ho : (s.control.chutes[r.chute.val]).out.find? (fun o => o.id = id && o.mills.contains m) = some o)
include hc ho

/-- The slot credit of a part returns with it. -/
theorem partDone_found : partDone s m r =
    let u := onControl s fun k => { k with credits := vmod k.credits m fun v => vmod v r.slot fun _ => none }
    let o' := partMerged o m r
    let tell := okStatus o.status && !okStatus r.status && o'.stop.isNone
    let o'' := if tell then { o' with stop := some .faultElsewhere } else o'
    let v := onChute u r.chute fun ch => { ch with out := ch.out.map fun x => if x.id = id then o'' else x }
    if o'.mills.isEmpty && o'.others = 0 then complete u r.chute o'
    else if tell then onControl v fun k => { k with aborts := k.aborts ++ o''.mills.map fun x => (x, wTag o''.words, r.chute, .faultElsewhere) }
    else v := by
  unfold partDone
  simp only [hc, ho]
  rfl

theorem partDone_last (hm : (partMerged o m r).mills = []) (hothers : o.others = 0) : partDone s m r =
    complete (onControl s fun k => { k with credits := vmod k.credits m fun v => vmod v r.slot fun _ => none }) r.chute (partMerged o m r) := by
  rw [partDone_found hc ho]; simp [hm, hothers]

theorem partDone_merges (hm : (partMerged o m r).mills ≠ [])
    (hquiet : okStatus r.status = true ∨ okStatus o.status = false ∨ o.stop ≠ none) : partDone s m r =
    onChute (onControl s fun k => { k with credits := vmod k.credits m fun v => vmod v r.slot fun _ => none }) r.chute fun ch =>
      { ch with out := ch.out.map fun x => if x.id = id then partMerged o m r else x } := by
  have htell : (okStatus o.status && !okStatus r.status && o.stop.isNone) = false := by
    rcases hquiet with h | h | h
    · simp [h]
    · simp [h]
    · simp [Option.isNone_eq_false_iff.mpr (Option.isSome_iff_ne_none.mpr h)]
  rw [partDone_found hc ho]; simp [hm, htell]

theorem partDone_tells (hm : (partMerged o m r).mills ≠ []) (hr : okStatus r.status = false) (hst : okStatus o.status = true)
    (hstop : o.stop = none) : partDone s m r =
    onControl (onChute (onControl s fun k => { k with credits := vmod k.credits m fun v => vmod v r.slot fun _ => none }) r.chute fun ch =>
      { ch with out := ch.out.map fun x => if x.id = id then { partMerged o m r with stop := some .faultElsewhere } else x }) fun k =>
      { k with aborts := k.aborts ++ (partMerged o m r).mills.map fun x => (x, wTag o.words, r.chute, .faultElsewhere) } := by
  rw [partDone_found hc ho]; simp [hm, hr, hst, hstop]
end

/-- The held docket that an ABORT names. -/
def namedBy (tag : BitVec 16) (c : ChuteId) (x : Option Held) : Option HandoutMsg :=
  x.bind fun h => if wTag h.msg.docket = tag && h.msg.chute = c then some h.msg else none

theorem namedBy_eq_some_iff {tag : BitVec 16} {c : ChuteId} {x : Option Held} {h : HandoutMsg} :
    namedBy tag c x = some h ↔ ∃ g, x = some g ∧ g.msg = h ∧ wTag h.docket = tag ∧ h.chute = c := by
  cases x with
  | none => simp [namedBy]
  | some g =>
    simp only [namedBy, Option.bind_some, Option.ite_none_right_eq_some, Bool.and_eq_true, decide_eq_true_eq, Option.some.injEq,
      exists_eq_left']
    constructor
    · rintro ⟨⟨h1, h2⟩, rfl⟩; exact ⟨rfl, h1, h2⟩
    · rintro ⟨rfl, h1, h2⟩; exact ⟨⟨h1, h2⟩, rfl⟩

section
variable {s : State} {m : MillId} {src : NiId} {tag : BitVec 16} {c : ChuteId} {a : AbortReason}

/-- An ABORT as it leaves the messages on their way. -/
def abortTaken (s : State) (m : MillId) (tag : BitVec 16) (c : ChuteId) (a : AbortReason) : State :=
  onControl s fun k => { k with aborts := k.aborts.erase (m, tag, c, a) }

theorem abortArrives_own (hadm : (s.net.nis[m.val]).admits = true) (hsrc : src.val = (s.mills[m.val]).mb.ctrlNi.toNat) :
    abortArrives s m src tag c a =
      match (s.mills[m.val]).slots.toList.findSome? (namedBy tag c) with
      | some h => stopHeld (abortTaken s m tag c a) m a h
      | none => abortTaken s m tag c a := by
  simp only [abortArrives, onControl_net, onControl_mills, hadm, hsrc, Bool.not_true, Bool.false_eq_true, if_false, ne_eq, not_true_eq_false]
  rfl

theorem slots_findSome_none {slots : Vector (Option Held) 8}
    (hno : ∀ (i : Fin 8) (h : Held), slots[i.val] = some h → ¬ (wTag h.msg.docket = tag ∧ h.msg.chute = c)) :
    slots.toList.findSome? (namedBy tag c) = none := by
  refine List.findSome?_eq_none_iff.mpr fun x hx => ?_
  obtain ⟨i, hi, rfl⟩ := List.getElem_of_mem hx
  rw [Vector.length_toList] at hi
  refine Option.eq_none_iff_forall_ne_some.mpr fun h hh => ?_
  obtain ⟨g, hg, rfl, ht⟩ := namedBy_eq_some_iff.mp hh
  rw [Vector.getElem_toList] at hg
  exact hno ⟨i, hi⟩ g hg ht

theorem slots_findSome_only {slots : Vector (Option Held) 8} {i : Fin 8} {h : Held} (hi : slots[i.val] = some h)
    (htag : wTag h.msg.docket = tag) (hch : h.msg.chute = c)
    (honly : ∀ (j : Fin 8) (g : Held), slots[j.val] = some g → wTag g.msg.docket = tag → g.msg.chute = c → j = i) :
    slots.toList.findSome? (namedBy tag c) = some h.msg := by
  cases hf : slots.toList.findSome? (namedBy tag c) with
  | none =>
    have hmem : some h ∈ slots.toList := by rw [← hi, ← Vector.getElem_toList (h := by simp)]; exact List.getElem_mem _
    have := List.findSome?_eq_none_iff.mp hf _ hmem
    simp [namedBy, htag, hch] at this
  | some y =>
    obtain ⟨x, hx, hxy⟩ := List.exists_of_findSome?_eq_some hf
    obtain ⟨j, hj, rfl⟩ := List.getElem_of_mem hx
    rw [Vector.length_toList] at hj
    obtain ⟨g, hg, rfl, ht1, ht2⟩ := namedBy_eq_some_iff.mp hxy
    rw [Vector.getElem_toList] at hg
    have hji := honly ⟨j, hj⟩ g hg ht1 ht2
    subst hji
    rw [hi] at hg
    cases hg; rfl
end

/-- Edges join the first entry of their docket that still awaits some. -/
theorem joinEdges_first {m : MillId} {c : ChuteId} {slot : Fin 8} {es : List Edge} {j : SchedJob} {after : List SchedJob} (hm : j.mill = m)
    (hc : j.chute = c) (hs : j.slot = slot) (ha : 0 < j.awaiting) : ∀ {before : List SchedJob},
    (∀ k ∈ before, ¬ (k.mill = m ∧ k.chute = c ∧ k.slot = slot ∧ 0 < k.awaiting)) →
    joinEdges m c slot es (before ++ j :: after) = before ++ { j with edges := j.edges ++ es, awaiting := j.awaiting - es.length } :: after := by
  intro before
  induction before with
  | nil => intro _; simp [joinEdges, hm, hc, hs, ha]
  | cons k before ih =>
    intro h
    have hk : ¬ ((decide (k.mill = m) && decide (k.chute = c) && decide (k.slot = slot) && decide (0 < k.awaiting)) = true) := by
      simpa [and_assoc] using h k List.mem_cons_self
    rw [List.cons_append, joinEdges, if_neg hk, ih fun k hk => h k (List.mem_cons_of_mem _ hk), List.cons_append]

/-- Settles O12: each message arrives by one of the rules above. -/
theorem millMessagesFollowTheirRules : Obligations.MillMessagesFollowTheirRules := by
  unfold Obligations.MillMessagesFollowTheirRules
  intro s m hup hquiet x
  refine ⟨?handout, ?done, ?abort, fun b => ⟨liveRows_next hup fun s => raiseBell s b, (raiseBell_reported ..).trans (settleErr_reported _)⟩,
    fun c slot es before after j hq hm hc hs ha hno => ?edges⟩
  case handout =>
    intro src h hadm u
    have hexec {t : State} (ht : handoutArrives s m src h = t) (hg : t.granary = s.granary) : exec (.handout m src h) s = .next t :=
      (liveRows_next hup fun s => handoutArrives s m src h).trans (next_of_quiet ht (by rw [hg]; exact hquiet))
    exact ⟨fun hsrc hfree htakes => hexec (handoutArrives_fills hadm hsrc hfree htakes) rfl,
      fun hsrc => hexec (handoutArrives_foreign hadm hsrc) rfl,
      fun hsrc hslot hours => hexec (handoutArrives_refused hadm hsrc hslot hours) rfl⟩
  case done =>
    intro r id o hc ho o' u
    have hexec {t : State} (ht : partDone (onControl s fun k => { k with toControl := k.toControl.erase (m, r) }) m r = t) :
        exec (.done m r) s = .next (settleErr t) :=
      (liveRows_next hup fun s => doneArrives s m r).trans (congrArg (fun t => Host.Outcome.next (settleErr t)) ht)
    refine ⟨fun hm hothers => hexec (partDone_last hc ho hm hothers), fun hm hq => ?_, fun hm hr hst hstop => ?_⟩
    · rw [hexec (partDone_merges hc ho hm hq)]
      exact congrArg _ (settleErr_quiet hquiet)
    · rw [hexec (partDone_tells hc ho hm hr hst hstop)]
      exact congrArg _ (settleErr_quiet hquiet)
  case abort =>
    intro src tag c a hadm hsrc u
    have hexec : exec (.abort m src tag c a) s = .next (abortArrives s m src tag c a) := live_next hup fun s => abortArrives s m src tag c a
    refine ⟨fun hno => ?_, fun i h hi htag hch honly hslot => ⟨fun hrun hpre hiso => ?_, fun r hrun hpre hr hbusy => ?_⟩⟩
    · rw [hexec, abortArrives_own hadm hsrc, slots_findSome_none hno]; rfl
    · rw [hexec, abortArrives_own hadm hsrc, slots_findSome_only hi htag hch honly]
      have hstop : stopHeld u m a h.msg = sendDone u m h.msg (abortStatus a) (mkDetail 0 (noOperand h.msg.docket) 0) (now u) 0 0 := by
        simp only [stopHeld, show (u.mills[m.val]).preempted = [] from hpre, show (u.mills[m.val]).running = none from hrun, List.find?_nil]
      refine congrArg _ (hstop.trans ((sendDone_open u m _ _ _ _ _ _ hiso).trans ?_))
      rw [hslot, htag, hch]
      rfl
    · rw [hexec, abortArrives_own hadm hsrc, slots_findSome_only hi htag hch honly]
      have hstop : stopHeld u m a h.msg = onRun u m fun r => { r with abort := some a } := by
        simp only [stopHeld, show (u.mills[m.val]).preempted = [] from hpre, show (u.mills[m.val]).running = some r from hrun, List.find?_nil,
          hr, hslot, hbusy, if_true]
      exact congrArg _ (hstop.trans (onRun_some _ hrun))
  case edges =>
    refine (live_next hup fun s => edgesArrive s m c slot es).trans (congrArg _ (onSpigot_congr s ?_))
    rw [hq, joinEdges_first hm hc hs ha hno]

end Sys2Proof.Machine
end

section
open Sys2Proof.Laws
namespace Sys2Proof.Machine

/-! ### The boundary of a Mill (19 R435 to R456) -/

/-- Bytes written read back. -/
theorem readBytes_writeBytes {m : Memory} (a : Nat) (bs : List Byte) (h : Memory.wf m = true) :
    readBytes (writeBytes m a bs) a bs.length = bs := by
  rw [readBytes_eq]
  refine List.ext_getElem (by simp) fun i h1 h2 => ?_
  rw [List.getElem_map, List.getElem_range, readByte_writeBytes h i h2]

theorem leNat_leBytes (n : Nat) : ∀ x : Nat, leNat (leBytes n x) = x % 256 ^ n := by
  induction n with
  | zero => intro x; simp [leBytes, leNat, Nat.mod_one]
  | succ n ih =>
    intro x
    simp only [leBytes, leNat, ih, BitVec.toNat_ofNat]
    rw [Nat.pow_succ' (n := n), Nat.mod_mul]

/-- A word written reads back. -/
theorem readW_writeBytes {m : Memory} (a : Nat) (v : Word) (h : Memory.wf m = true) : readW (writeBytes m a (leBytes 4 v.toNat)) a = v := by
  have hb := readBytes_writeBytes a (leBytes 4 v.toNat) h
  rw [length_leBytes] at hb
  rw [readW, readLe, hb, leNat_leBytes]
  apply BitVec.eq_of_toNat_eq
  have := v.isLt
  rw [BitVec.toNat_ofNat, Nat.mod_mod_of_dvd _ (by decide), Nat.mod_eq_of_lt (by omega)]

/-- A clear changes the memory, its poison marks and its Mill. -/
theorem clearMill_shape (s : State) (m : MillId) : ∃ mem poison mills, clearMill s m =
    { s with mem := mem, granary := { s.granary with poison := poison }, mills := mills } := by
  unfold clearMill
  dsimp only
  split
  · exact ⟨_, _, _, rfl⟩
  · exact ⟨_, _, _, rfl⟩

/-- What a clear of Mill `m` leaves: its arrays and its Hopper read zero, and nothing of another Mill has changed. -/
structure Cleared (s t : State) (m : MillId) : Prop where
  others : ∀ d : MillId, d ≠ m → t.mills[d.val] = s.mills[d.val]
  outside : ∀ a, (a < 0x1000000000 + m.val * 0x01000000 ∨ 0x1000000000 + m.val * 0x01000000 + 0x00800000 ≤ a) → readByte t.mem a = readByte s.mem a
  hopper : s.granary.flat = false → ∀ i, i < 0x00800000 → readByte t.mem (0x1000000000 + m.val * 0x01000000 + i) = 0
  banks : ∀ q : QuernId, ((t.mills[m.val]).querns[q.val]).a = QBank.reset ∧ ((t.mills[m.val]).querns[q.val]).b = QBank.reset
  purses : (t.mills[m.val]).purses = []

theorem clearMill_cleared (s : State) (m : MillId) : Cleared s (clearMill s m) m where
  others d hd := by rw [clearMill_mills]; exact vmod_other _ _ _ _ _ fun e => hd (Fin.ext e)
  outside a ha := by rw [clearMill_mem, if_neg]; rintro ⟨-, h1, h2⟩; omega
  hopper hf i hi := by rw [clearMill_mem, if_pos ⟨hf, by omega, by omega⟩]
  banks q := by rw [clearMill_mills, vmod_self, Vector.getElem_map]; exact ⟨rfl, rfl⟩
  purses := by rw [clearMill_mills, vmod_self]

/-- A later change of that Mill which leaves it reset. -/
theorem Cleared.onMill {s t : State} {m : MillId} (h : Cleared s t m) (f : Mill → Mill)
    (hq : (f t.mills[m.val]).querns = .replicate 7 .reset) (hp : (f t.mills[m.val]).purses = []) : Cleared s (onMill t m f) m where
  others d hd := by rw [onMill_mills, vmod_other _ _ _ _ _ fun e => hd (Fin.ext e)]; exact h.others d hd
  outside := h.outside
  hopper := h.hopper
  banks q := by rw [onMill_mills, vmod_self, hq, Vector.getElem_replicate]; exact ⟨rfl, rfl⟩
  purses := by rw [onMill_mills, vmod_self, hp]

/-- A field after the reset of its Sluice (04 R80). -/
theorem invalidate_field (u : Sluice) (f : Fin 128) : u.invalidate.fields[f.val] =
    { u.fields[f.val] with state := if (u.fields[f.val]).state = .programming then .invalid else (u.fields[f.val]).state } := by
  unfold Sluice.invalidate
  rw [Vector.getElem_map]
  split <;> rfl

/-- The Mill after a reset of its block, before its boundary registers change. -/
theorem resetMill_mill (s : State) (m : MillId) (q : BitVec 18) : (resetMill s m q).mills[m.val] =
    (clearMill s m).mills[m.val].afterReset m q := by
  simp only [resetMill, onMill_mills, vmod_self]

theorem resetMill_cleared (s : State) (m : MillId) (q : BitVec 18) (mb : Millblock → Millblock) :
    Cleared s (onMill (resetMill s m q) m fun x => { x with mb := mb x.mb }) m := by
  unfold resetMill
  rw [onMill_onMill]
  exact (clearMill_cleared s m).onMill _ rfl rfl

theorem qmapOr_ofNat (n : Nat) : qmapOr (BitVec.ofNat 18 n) = if n % 2 ^ 18 = 0 then 0x2C688 else BitVec.ofNat 18 (n % 2 ^ 18) := by
  have hmod : BitVec.ofNat 18 (n % 2 ^ 18) = BitVec.ofNat 18 n := BitVec.eq_of_toNat_eq (by simp)
  have hz : (BitVec.ofNat 18 n = 0) ↔ n % 2 ^ 18 = 0 :=
    ⟨fun h => by simpa using congrArg BitVec.toNat h, fun h => BitVec.eq_of_toNat_eq (by simpa using h)⟩
  simp only [qmapOr, hz, hmod]

section
variable {s : State} {m : MillId} {tag : Fin 16} {st : Fin 4} {parityOk : Bool} {q : RowReq} (hq : (s.mills[m.val]).mb.tags[tag.val] = some q)

/-- The row-port tag of a response is freed, and a parity error of a read row counts (19 R444). -/
def tagFreed (s : State) (m : MillId) (tag : Fin 16) (bad : Bool) : State := onMill s m fun x =>
  { x with mb := { x.mb with tags := vmod x.mb.tags tag fun _ => none, grPar := if bad then bump x.mb.grPar else x.mb.grPar } }

include hq

theorem rowResponse_ends (h : (st = 0 ∧ (!parityOk && !q.write) = false) ∨ (s.mills[m.val]).mb.rstN = false) :
    rowResponse s m tag st parityOk = tagFreed s m tag (!parityOk && !q.write) := by
  simp only [rowResponse, hq]
  rcases h with ⟨rfl, hb⟩ | h
  · simp [hb, tagFreed]
  · simp [h, tagFreed]

theorem rowResponse_faults {r : Run} (h : ¬ (st = 0 ∧ (!parityOk && !q.write) = false)) (hrst : (s.mills[m.val]).mb.rstN = true)
    (hrun : (s.mills[m.val]).running = some r) (hend : r.ending = none) :
    rowResponse s m tag st parityOk = onMill (tagFreed s m tag (!parityOk && !q.write)) m fun x =>
      { x with running := some { r with ending := some {
          status := if st = 2 then stOffline else stUncorr, subcode := 0, operand := BitVec.ofNat 8 (noOperand r.msg.docket) } } } := by
  have hrun' : ((tagFreed s m tag (!parityOk && !q.write)).mills[m.val]).running = some r := by
    simp only [tagFreed, onMill_mills, vmod_self]; exact hrun
  simp only [rowResponse, hq, hrst]
  by_cases h2 : st = 2
  · simp only [h2, if_true, Bool.not_true, Bool.or_false]
    refine (onRun_some _ hrun').trans ?_
    simp only [hend]; rfl
  · have hbad : (decide (st ≠ 0) || (!parityOk && !q.write)) = true := by
      by_cases h0 : st = 0
      · rw [Bool.or_eq_true]; exact .inr (Bool.of_not_eq_false fun hf => h ⟨h0, hf⟩)
      · simp [h0]
    simp only [h2, hbad, if_true, if_false, Bool.not_true, Bool.or_false]
    refine (onRun_some _ hrun').trans ?_
    simp only [hend]; rfl
end

/-- What a reset of the block leaves of its Mill beside the arrays. -/
structure ResetMill (x y : Mill) : Prop where
  regs : y.regs = { MillRegs.reset with hopPowered := x.regs.hopPowered }
  slots : y.slots = .replicate 8 none
  running : y.running = none
  preempted : y.preempted = []
  weights : y.sluice.weights = x.sluice.weights
  defects : y.sluice.defects = x.sluice.defects
  compDone : y.sluice.compDone = false
  fields : ∀ f : Fin 128, (y.sluice.fields[f.val]).state =
    if (x.sluice.fields[f.val]).state = .programming then .invalid else (x.sluice.fields[f.val]).state

theorem resetMill_resets (s : State) (m : MillId) (mb : Millblock → Millblock) :
    ResetMill s.mills[m.val] ((onMill (resetMill s m 0x2C688) m fun x => { x with mb := mb x.mb }).mills[m.val]) := by
  rw [onMill_mills, vmod_self, resetMill_mill, clearMill_mills, vmod_self]
  exact ⟨rfl, rfl, rfl, rfl, rfl, rfl, rfl, fun f => congrArg SField.state (invalidate_field (s.mills[m.val]).sluice f)⟩

/-- Settles O13: the boundary's rows are resets built on `clearMill`, straps, and the row port's responses. -/
theorem millblockBoundaryFollowsItsRules : Obligations.MillblockBoundaryFollowsItsRules := by
  unfold Obligations.MillblockBoundaryFollowsItsRules
  intro s m hup x cleared resetMill'
  have hcl {t : State} (h : Cleared s t m) : cleared t := ⟨h.others, h.outside, h.hopper, h.banks, h.purses⟩
  refine ⟨?porst, ?rst, fun strap flat => live_next hup fun s => porstRise s m strap flat, fun flat => ?release, fun level => ?iso,
    fun v => ⟨fun hv => ?clear, fun hv => ?clearNot⟩, ?row, fun off v => ⟨fun hr => ?record, fun hr => ?recordWrite⟩⟩
  case porst =>
    let boundary := fun mb : Millblock => { Millblock.reset m with porstN := false, credited := false, iso := mb.iso }
    obtain ⟨M, P, ms, hshape⟩ := clearMill_shape s m
    have hnis : (porstFall s m).net = { s.net with nis := vmod s.net.nis (millNi m) fun _ =>
        { Ni.reset (millNi m) with routes := .replicate 64 0, admits := false } } := by
      simp only [porstFall, resetMill, hshape]; rfl
    have hni (n : NiId) : (porstFall s m).net.nis[n.val] = if n.val = m.val then
        { Ni.reset (millNi m) with routes := .replicate 64 0, admits := false } else s.net.nis[n.val] := by
      rw [hnis, vmod_get, show (millNi m).val = m.val from Nat.mod_eq_of_lt (by omega)]
    have hown : (porstFall s m).net.nis[m.val] = { Ni.reset (millNi m) with routes := .replicate 64 0, admits := false } :=
      (hni ⟨m.val, by omega⟩).trans (if_pos rfl)
    have hc : Cleared s (porstFall s m) m :=
      have h := resetMill_cleared s m 0x2C688 boundary
      ⟨h.others, h.outside, h.hopper, h.banks, h.purses⟩
    have hr : ResetMill x ((porstFall s m).mills[m.val]) := resetMill_resets s m boundary
    refine ⟨_, live_next hup fun s => porstFall s m, ⟨hcl hc, hr.regs, hr.slots, hr.running, hr.preempted, hr.weights, hr.defects,
      hr.compDone, hr.fields⟩, ?_, ?_, ?_, fun n hn => ?_, ?_, ?_⟩
    · simp only [porstFall, resetMill, hshape]; rfl
    · have h : (porstFall s m).mills[m.val] = { (resetMill s m 0x2C688).mills[m.val] with mb := boundary ((resetMill s m 0x2C688).mills[m.val]).mb } :=
        vmod_self ..
      rw [h, resetMill_mill, clearMill_mills, vmod_self]; rfl
    · rw [hnis]
    · rw [hni, if_neg hn]
    · rw [hown]
    · rw [hown]
  case rst =>
    obtain ⟨M, P, ms, hshape⟩ := clearMill_shape s m
    have hr : ResetMill x ((rstFall s m).mills[m.val]) := resetMill_resets s m fun mb => { mb with rstN := false }
    refine ⟨_, live_next hup fun s => rstFall s m, ⟨hcl (resetMill_cleared s m 0x2C688 fun mb => { mb with rstN := false }), hr.regs, hr.slots,
      hr.running, hr.preempted, hr.weights, hr.defects, hr.compDone, hr.fields⟩, ?_, ?_⟩
    · simp only [rstFall, resetMill, hshape]; rfl
    · have h : (rstFall s m).mills[m.val] = { (resetMill s m 0x2C688).mills[m.val] with mb := { ((resetMill s m 0x2C688).mills[m.val]).mb with rstN := false } } :=
        vmod_self ..
      rw [h, resetMill_mill, clearMill_mills, vmod_self]; rfl
  case release =>
    intro q
    refine ⟨_, live_next hup fun s => rstRise s m flat, { x with
      regs := { x.regs with qmap := qmapOr (BitVec.ofNat 18 (readLe x.mb.recordRam 4 4)) }
      sluice := { x.sluice.invalidate with compFault := !recordOk x }
      mb := { x.mb with rstN := true, flat := flat } }, onMill_congr s m rfl, ?_, invalidate_field x.sluice⟩
    have hrec : (!recordOk x) = decide (readW x.mb.recordRam 0 ≠ 0x5245434B) := by simp [recordOk]
    rw [qmapOr_ofNat, hrec]
    rfl
  case iso => exact live_next hup fun s => onMill s m fun x => { x with mb := { x.mb with iso := level } }
  case clear =>
    obtain ⟨M, P, ms, hshape⟩ := clearMill_shape s m
    have he : exec (.mbClear m v) s = .next (clearMill s m) :=
      (live_next hup fun s => if bitOf v 0 then clearMill s m else s).trans (congrArg _ (if_pos hv))
    refine ⟨_, he, hcl (clearMill_cleared s m), ?_, ?_⟩
    · rw [clearMill_mills, vmod_self]
    · rw [hshape]
  case clearNot =>
    exact (live_next hup fun s => if bitOf v 0 then clearMill s m else s).trans
      (congrArg _ (if_neg (by rw [hv]; exact Bool.false_ne_true)))
  case row =>
    intro tag st row parityOk q hq bad code u
    have he {t : State} (h : rowResponse s m tag st parityOk = t) : exec (.grResponse m tag st row parityOk) s = .next t :=
      (live_next hup fun s => rowResponse s m tag st parityOk).trans (congrArg _ h)
    exact ⟨fun h => he (rowResponse_ends hq h), fun r h hrst hrun hend => he (rowResponse_faults hq h hrst hrun hend)⟩
  case record =>
    refine (live_next hup fun s => onMill s m fun x => if x.mb.rstN then _ else _).trans (congrArg _ (onMill_congr s m (if_pos hr)))
  case recordWrite =>
    let w := writeBytes x.mb.recordRam (off.toNat / 4 * 4) (leBytes 4 v.toNat)
    have he : exec (.recordRamWrite m off v) s = .next (onMill s m fun x => { x with mb := { x.mb with recordRam := w, ttErr := false } }) :=
      (live_next hup fun s => onMill s m fun x => if x.mb.rstN then _ else _).trans
        (congrArg _ (onMill_congr s m (if_neg (by rw [hr]; exact Bool.false_ne_true))))
    refine ⟨_, he, ?_, fun hwf => ?_, fun a ha => ?_⟩
    · refine onMill_congr s m ?_
      rw [onMill_mills, vmod_self]
    · rw [onMill_mills, vmod_self]; exact readW_writeBytes _ _ hwf
    · rw [onMill_mills, vmod_self]; exact readByte_writeBytes_other (by rw [length_leBytes]; exact ha)

end Sys2Proof.Machine
end

section
/-! The array datapaths: accumulators, the Querns' fills, swaps and vectors (02 R33, R35; 03; 07 R158). -/
open Sys2Proof.Laws
namespace Sys2Proof.Machine

/-! ### Accumulators (02 R35, 07 R158) -/

/-- Integer partial sums added to an accumulator, with the count of new saturations. -/
def accTotal (a : Acc × Nat) (xs : List Int) : Acc × Nat :=
  xs.foldl (fun (a : Acc × Nat) x => let r := accAdd a.1 x; (r.1, a.2 + if r.2 then 1 else 0)) a

/-- A magnitude an accumulator can hold. -/
def AccHolds (x : Int) : Prop := -(2 ^ 47 - 1) ≤ x ∧ x ≤ 2 ^ 47 - 1

theorem accLimit_eq : accLimit = 2 ^ 47 - 1 := by decide

theorem accAdd_of_holds {v x : Int} (h : AccHolds (v + x)) : accAdd (.int v false) x = (.int (v + x) false, false) := by
  obtain ⟨hlo, hhi⟩ := h
  simp only [accAdd, accLimit_eq]
  rw [if_neg (by omega), if_neg (by omega)]

theorem accAdd_of_beyond {v x : Int} (h : ¬ AccHolds (v + x)) :
    accAdd (.int v false) x = (.int (if 0 < v + x then 2 ^ 47 - 1 else -(2 ^ 47 - 1)) true, true) := by
  simp only [accAdd, accLimit_eq]
  by_cases hpos : (2 ^ 47 - 1 : Int) < v + x
  · rw [if_pos hpos, if_pos (by omega)]
  · have hneg : v + x < -(2 ^ 47 - 1) := Int.not_le.mp fun hlo => h ⟨hlo, Int.not_lt.mp hpos⟩
    rw [if_neg hpos, if_pos hneg, if_neg (by omega)]

/-- A stuck accumulator stays as it is. -/
theorem accTotal_stuck (v : Int) (n : Nat) (xs : List Int) : accTotal (.int v true, n) xs = (.int v true, n) := by
  induction xs with
  | nil => rfl
  | cons x xs ih => exact ih

theorem accTotal_of_holds (n : Nat) (xs : List Int) : ∀ v : Int, (∀ k, k ≤ xs.length → AccHolds (v + (xs.take k).sum)) →
    accTotal (.int v false, n) xs = (.int (v + xs.sum) false, n) := by
  induction xs with
  | nil => intro v _; simp [accTotal]
  | cons x xs ih =>
    intro v h
    have hx : AccHolds (v + x) := by simpa using h 1 (by simp)
    have hrest := ih (v + x) fun k hk => by
      have := h (k + 1) (by simpa using hk)
      rwa [List.take_succ_cons, List.sum_cons, ← Int.add_assoc] at this
    rw [List.sum_cons, ← Int.add_assoc, ← hrest]
    simp only [accTotal, List.foldl_cons, accAdd_of_holds hx, Bool.false_eq_true, if_false, Nat.add_zero]

/-- The code of a value that an accumulator can hold gives the value back. -/
theorem ofInt48_toInt {v : Int} (h : AccHolds v) : (BitVec.ofInt 48 v).toInt = v := by
  obtain ⟨hlo, hhi⟩ := h
  rw [BitVec.toInt_ofInt]
  exact Int.bmod_eq_of_le_mul_two (by omega) (by omega)

theorem unspill_spillWord_int {v : Int} (sat : Bool) (h : AccHolds v) : unspill false (spillWord (.int v sat)) = .int v sat := by
  have hlt := (BitVec.ofInt 48 v).isLt
  have hcode : (spillWord (.int v sat)).toNat = (BitVec.ofInt 48 v).toNat + flag sat 48 := by
    simp only [spillWord, BitVec.toNat_ofNat]
    cases sat <;> simp only [flag, Bool.false_eq_true, if_true, if_false] <;> omega
  have hval : BitVec.ofNat 48 (spillWord (.int v sat)).toNat = BitVec.ofInt 48 v := by
    apply BitVec.eq_of_toNat_eq
    rw [BitVec.toNat_ofNat, hcode]
    cases sat <;> simp only [flag, Bool.false_eq_true, if_true, if_false] <;> omega
  have hbit : bitOf (spillWord (.int v sat)) 48 = sat := by
    rw [bitOf, BitVec.getLsbD, Nat.testBit_eq_decide_div_mod_eq, hcode]
    cases sat <;> simp only [flag, Bool.false_eq_true, if_true, if_false, decide_eq_true_eq, decide_eq_false_iff_not] <;> omega
  simp only [unspill, Bool.false_eq_true, if_false, hval, hbit, ofInt48_toInt h]

/-- Settles O15: sums are exact up to the first that an accumulator cannot hold, and a spill element holds all there is. -/
theorem accumulatorsAreExactOrStick : Obligations.AccumulatorsAreExactOrStick := by
  unfold Obligations.AccumulatorsAreExactOrStick
  intro limit within total
  have hexact (xs : List Int) (h : ∀ n, n ≤ xs.length → within (xs.take n).sum) : total xs = (Acc.int xs.sum false, 0) := by
    refine (accTotal_of_holds 0 xs 0 fun k hk => ?_).trans (by rw [Int.zero_add])
    rw [Int.zero_add]; exact h k hk
  refine ⟨hexact, fun xs more x h hx => ?_, fun v sat hv => unspill_spillWord_int sat hv, fun w => ?_⟩
  · have hsplit : total (xs ++ x :: more) = accTotal (total xs) (x :: more) := List.foldl_append
    rw [hsplit, hexact xs h]
    have hone : accTotal (.int xs.sum false, 0) (x :: more) =
        accTotal (.int (if 0 < xs.sum + x then limit else -limit) true, 1) more := by
      simp only [accTotal, List.foldl_cons, accAdd_of_beyond hx, if_true, Nat.zero_add]
      rfl
    rw [hone, accTotal_stuck]
  · have : lo32 (w.zeroExtend 64) = w := BitVec.eq_of_toNat_eq (by have := w.isLt; simp [lo32]; omega)
    simp [unspill, spillWord, this]

end Sys2Proof.Machine
end

section
open Sys2Proof.Laws
namespace Sys2Proof.Machine

/-! ### Fills of the Querns (03 R51 to R53, R59) -/

@[simp] theorem onIdle_idle (u : Quern) (f : QBank → QBank) : (u.onIdle f).idle = f u.idle := by
  unfold Quern.onIdle Quern.idle; split <;> simp [*]
@[simp] theorem onIdle_act (u : Quern) (f : QBank → QBank) : (u.onIdle f).act = u.act := by
  unfold Quern.onIdle Quern.act; split <;> simp [*]
@[simp] theorem onIdle_active (u : Quern) (f : QBank → QBank) : (u.onIdle f).active = u.active := by unfold Quern.onIdle; split <;> rfl
@[simp] theorem onIdle_parCount (u : Quern) (f : QBank → QBank) : (u.onIdle f).parCount = u.parCount := by
  unfold Quern.onIdle; split <;> rfl

/-- Dropping the fills leaves an EMPTY bank EMPTY. -/
theorem dropFills_idle_empty (x : Mill) (p : QuernId) (h : (x.querns[p.val]).idle.state = .empty) :
    (x.dropFills.querns[p.val]).idle.state = .empty := by
  unfold Mill.dropFills Quern.idle at *
  rw [Vector.getElem_map]
  dsimp only
  split at h <;> simp [*]

/-- The pending fill that goes first is one of the lowest logical Quern. -/
theorem nextFill_least {l : List FillReq} {q : FillReq} (h : nextFill l = some q) : q ∈ l ∧ ∀ g ∈ l, q.quern ≤ g.quern := by
  refine ⟨firstBy_mem _ _ _ h, fun g hg => ?_⟩
  have := firstBy_least (fun a b : FillReq => decide (a.quern < b.quern)) (fun a => by simp)
    (fun a b c hab hbc => by simp only [decide_eq_false_iff_not, Fin.not_lt] at *; exact Fin.le_trans hbc hab)
    (fun a b hab => by simp only [decide_eq_true_eq, decide_eq_false_iff_not, Fin.not_lt] at *; exact Fin.le_of_lt hab) l q h g hg
  simpa only [decide_eq_false_iff_not, Fin.not_lt] using this

/-- The fills that LOADW asks for. -/
def loadwFills (r : Run) : List FillReq :=
  ((List.finRange 6).filter fun q => (opWord r.msg.docket 1).getLsbD q.val).zipIdx.map fun (q, i) =>
    { quern := q, kblk := (opWord r.msg.docket 2).toNat, nblk := (opWord r.msg.docket 3).toNat + i, vOperand := false }

/-- The bank a fill goes to. -/
theorem fillStart_takes {s : State} {m : MillId} {q : FillReq} (hnone : (s.mills[m.val]).filling = none) (hq : nextFill (s.mills[m.val]).fills = some q) :
    fillStart s m = onMill s m fun x =>
      { onQuern x (physOf x q.quern) (fun u => u.onIdle fun b => { b with state := .filling, repairRow := none }) with
        fills := x.fills.erase q, filling := some q } := by
  simp only [fillStart, hnone, hq]

section
variable {s : State} {m : MillId} {r : Run} (hrun : (s.mills[m.val]).running = some r)
include hrun

theorem runOf_of_opcode {o : Opcode} (ho : wOpcode r.msg.docket = some o) : runOf s m o = some r := by
  simp only [runOf, hrun, ho, if_true]

theorem loadw_asks (ho : wOpcode r.msg.docket = some .loadw) (hw : r.walked = false) (hne : loadwFills r ≠ []) :
    loadw s m = onMill s m fun x => { x with fills := loadwFills r, running := some { r with walked := true } } := by
  have hemp : (loadwFills r).isEmpty = false := List.isEmpty_eq_false_iff.mpr hne
  simp only [loadwFills] at hemp
  simp only [loadw, runOf_of_opcode hrun ho, hw, hemp, Bool.false_eq_true, if_false]
  exact onMill_congr s m (by rw [hrun]; rfl)

variable {q : FillReq} (hq : (s.mills[m.val]).filling = some q)

/-- The fill under way reads in place. -/
structure ReadsInPlace (s : State) (r : Run) (q : FillReq) (mem : Memory) : Prop where
  operand : ((r.descD (r.fillOperand q)).ownHop || decide (wOpcode r.msg.docket = some .loadw)) = true
  source : (if wOpcode r.msg.docket = some .loadw then (s.mem, 0) else srcOf s r r.fillTile (r.descD (r.fillOperand q))) = (mem, 0)

/-- The bank that a fill leaves. -/
def filledBank (s : State) (r : Run) (q : FillReq) (mem : Memory) (b : QBank) : QBank :=
  let d := r.descD (r.fillOperand q)
  let g := r.fillSrc r.fillTile q
  b.filled (.ofFn fun i => g.row mem 0 d.mint d.weightBits i.val) d.weightBits g (if d.fm.isCodebook then some d.mintOff else none) (now s)

include hq

theorem fillDone_fills {mem : Memory} (hin : ReadsInPlace s r q mem)
    (hrows : ∀ z ∈ (r.fillSrc r.fillTile q).ranges, rowsOk s (some m) z.1 z.2) (hint : (r.fillSrc r.fillTile q).integer = true)
    (hmore : wOpcode r.msg.docket ≠ some .loadw ∨ (s.mills[m.val]).fills ≠ []) :
    fillDone s m = onMill s m fun x =>
      { onQuern x (physOf s.mills[m.val] q.quern) (fun u => u.onIdle (filledBank s r q mem)) with filling := none } := by
  obtain ⟨hop, hsrc⟩ := hin
  have hbad : firstBad ((r.fillSrc r.fillTile q).ranges.map fun (a, n) => rangeStatus s m a n) = (.ok, none) :=
    firstBad_ok fun a n h => hrows (a, n) h
  have hend : (decide (wOpcode r.msg.docket = some .loadw) && (s.mills[m.val]).fills.isEmpty) = false := by
    rcases hmore with h | h
    · rw [decide_eq_false h, Bool.false_and]
    · rw [List.isEmpty_eq_false_iff.mpr h, Bool.and_false]
  have hfill : fillRows s mem 0 (r.fillSrc r.fillTile q) (r.descD (r.fillOperand q)).mint (r.descD (r.fillOperand q)).weightBits = _ := if_pos hint
  unfold fillDone
  simp only [hq, hrun, hsrc, hop, hbad, hfill, decide_true, Bool.and_self, if_true, ne_eq, not_true_eq_false, if_false]
  rw [if_neg]
  · rfl
  · simp only [onMill_mills, vmod_self, onQuern, hend, Bool.false_eq_true, not_false_eq_true]

/-- A source row that is refused: the bank is EMPTY, and a docket whose tile does not compute ends (03 R53, 11 R269). -/
theorem fillDone_refused {mem : Memory} {st : NetStatus} {w : Option Nat} (hin : ReadsInPlace s r q mem)
    (hbad : firstBad ((r.fillSrc r.fillTile q).ranges.map fun (a, n) => rangeStatus s m a n) = (st, w)) (hst : st ≠ .ok)
    (hun : st ≠ .uncorr) (hcur : r.cur = none) :
    fillDone s m = endWith (onMill s m fun x =>
      { onQuern x (physOf s.mills[m.val] q.quern) (fun u => u.onIdle fun b => { b with state := .empty }) with filling := none }) m r (netEnding r st) := by
  obtain ⟨hop, hsrc⟩ := hin
  have hnote : noteRead s (st, w) = s := by
    unfold noteRead
    split
    · rename_i h; cases h; exact absurd rfl hun
    · rfl
  unfold fillDone
  simp only [hq, hrun, hsrc, hop, hbad, hst, hnote, hcur, decide_true, Bool.and_self, if_true, ne_eq, not_false_eq_true,
    Option.isNone_none, Bool.or_true]
end

/-- The first range that does not answer gives the status. -/
theorem firstBad_first {s : State} {m : MillId} {before rest : List (Nat × Nat)} {z : Nat × Nat} {st : NetStatus}
    (hb : ∀ y ∈ before, rowsOk s (some m) y.1 y.2) (hz : (rangeStatus s m z.1 z.2).1 = st) (hst : st ≠ .ok) :
    firstBad ((before ++ z :: rest).map fun (a, n) => rangeStatus s m a n) = rangeStatus s m z.1 z.2 := by
  have hnone : (before.map fun (a, n) => rangeStatus s m a n).find? (fun x => x.1 ≠ .ok) = none := by
    rw [List.find?_eq_none]
    intro x hx
    obtain ⟨y, hy, rfl⟩ := List.mem_map.mp hx
    simp [rangeStatus_ok (hb y hy)]
  rw [← hz] at hst
  unfold firstBad
  rw [List.map_append, List.find?_append, hnone, Option.none_or, List.map_cons, List.find?_cons]
  simp [hst]

/-- Settles O16: a fill's start and its two ends are the rules above. -/
theorem fillsLoadTheIdleBank : Obligations.FillsLoadTheIdleBank := by
  unfold Obligations.FillsLoadTheIdleBank
  intro s m r hup hquiet x hrun
  refine ⟨fun ho hw q qs hqs => ?loadw, fun q hnone hq => ⟨(nextFill_least hq).1, (nextFill_least hq).2, ?start⟩, ?done⟩
  case loadw =>
    have hf : loadwFills r = (q :: qs).zipIdx.map fun y =>
        { quern := y.1, kblk := (opWord r.msg.docket 2).toNat, nblk := (opWord r.msg.docket 3).toNat + y.2, vOperand := false } := by
      rw [loadwFills, hqs]
    refine (liveRows_next hup fun s => loadw s m).trans (next_of_quiet ?_ hquiet)
    rw [loadw_asks hrun ho hw (by rw [hf]; simp), hf]
  case start => exact (live_next hup fun s => fillStart s m).trans (congrArg _ (fillStart_takes hnone hq))
  case done =>
    intro q hq d g src p hop hoff
    have hin : ReadsInPlace s r q src.1 := ⟨by simpa [d] using hop, Prod.ext rfl hoff⟩
    have hexec : exec (.bankFillDone m) s = .next (settleErr (fillDone s m)) := liveRows_next hup fun s => fillDone s m
    refine ⟨fun hrows hint hmore => ?_, fun z hz before rest st hsplit hbefore hst hne hun hcur hiso => ?_⟩
    · have hf := fillDone_fills hrun hq hin hrows hint hmore
      have he := hexec.trans (next_of_quiet hf hquiet)
      have hown := vmod_self x.querns p (fun u => u.onIdle (filledBank s r q src.1)) p.isLt
      have hmill : (onMill s m fun x => { onQuern x p (fun u => u.onIdle (filledBank s r q src.1)) with filling := none }).mills[m.val] =
          { x with querns := vmod x.querns p (fun u => u.onIdle (filledBank s r q src.1)), filling := none } := vmod_self ..
      refine ⟨_, he, ?_⟩
      intro u v
      have hv : v = u.onIdle (filledBank s r q src.1) := by
        show ((onMill s m _).mills[m.val]).querns[p.val] = _
        rw [hmill]; exact hown
      refine ⟨?_, fun d hd => ?_, ?_, ?_, ?_, ?_, ?_, fun i => ?_, ?_, fun hcb => ?_⟩
      · rw [hmill]; exact onMill_congr s m rfl
      · rw [hmill]; exact vmod_other _ _ _ _ _ fun e => hd (Fin.ext e)
      · rw [hv, onIdle_act]
      · rw [hv, onIdle_active]
      · rw [hv, onIdle_parCount]
      · rw [hv, onIdle_idle]; rfl
      · rw [hv, onIdle_idle]; rfl
      · rw [hv, onIdle_idle]
        simp only [filledBank, QBank.filled, Vector.getElem_map, Vector.getElem_ofFn, and_true]
        rw [hoff]
      · rw [hv, onIdle_idle]; rfl
      · rw [hv, onIdle_idle]
        simp only [filledBank, QBank.filled]
        rw [if_pos hcb]; rfl
    · have hbad := firstBad_first (rest := rest) hbefore hst hne
      rw [← hsplit] at hbad
      have hbad' : firstBad (g.ranges.map fun (a, n) => rangeStatus s m a n) = (st, (rangeStatus s m z.1 z.2).2) :=
        hbad.trans (Prod.ext hst rfl)
      have hf := fillDone_refused hrun hq hin hbad' hne hun hcur
      let u := onMill s m fun x => { onQuern x p (fun u => u.onIdle fun b => { b with state := .empty }) with filling := none }
      have hend : endWith u m r (netEnding r st) = _ := endRun_open u m r _ _ _ _ (by simp only [u, onMill_mills, vmod_self]; exact hiso)
      intro e
      refine ⟨_, _, hexec.trans (next_of_quiet (hf.trans hend) hquiet), rfl, ?_, rfl, rfl, ?_, ?_, ?_⟩
      · exact ite_congr (propext (by rw [Bool.and_eq_true, decide_eq_true_eq, decide_eq_true_eq]; exact Iff.rfl)) (fun _ => rfl) fun _ => rfl
      · simp only [onControl_mills, onMill_mills, vmod_self]
      · simp only [onControl_mills, onMill_mills, vmod_self, Mill.dropFills]
      · simp only [onControl_mills, onMill_mills, vmod_self, u]
        exact dropFills_idle_empty _ p (by simp only [onQuern, vmod_self, onIdle_idle])

end Sys2Proof.Machine
end

section
open Sys2Proof.Laws
namespace Sys2Proof.Machine

/-! ### Swaps, vectors and partial sums of the Querns (03 R46 to R56) -/

/-- Changing the Querns of a set changes the Querns alone. -/
theorem onSet_shape (f : Quern → Quern) (set : List FillReq) : ∀ x : Mill, onSet x set f = { x with querns := (onSet x set f).querns } := by
  induction set with
  | nil => exact fun x => rfl
  | cons q set ih => exact fun x => ih (onQuern x (physOf x q.quern) f)

/-- A Quern changes once for each member of the set that names it. -/
theorem onSet_quern (f : Quern → Quern) (p : QuernId) (set : List FillReq) : ∀ x : Mill,
    (onSet x set f).querns[p.val] = (set.filter fun q => physOf x q.quern = p).foldl (fun y _ => f y) x.querns[p.val] := by
  induction set with
  | nil => exact fun x => rfl
  | cons q set ih =>
    intro x
    refine (ih (onQuern x (physOf x q.quern) f)).trans ?_
    show (set.filter fun q => physOf x q.quern = p).foldl (fun y _ => f y) (vmod x.querns (physOf x q.quern) f)[p.val] = _
    rw [vmod_get]
    by_cases hq : physOf x q.quern = p
    · simp [hq]
    · have hne : ¬ p.val = (physOf x q.quern).val := fun e => hq (Fin.ext e.symm)
      simp [hq, hne]

theorem onSet_quern_other {f : Quern → Quern} {p : QuernId} {set : List FillReq} {x : Mill} (h : ¬ ∃ q ∈ set, physOf x q.quern = p) :
    (onSet x set f).querns[p.val] = x.querns[p.val] := by
  have hnil : (set.filter fun q => physOf x q.quern = p) = [] := by simpa [List.filter_eq_nil_iff] using h
  rw [onSet_quern, hnil]; rfl

/-- A set whose members name different Querns changes each of them once. -/
theorem onSet_quern_member {f : Quern → Quern} {p : QuernId} {set : List FillReq} {x : Mill} (h : ∃ q ∈ set, physOf x q.quern = p)
    (hinj : ∀ f ∈ set, ∀ g ∈ set, physOf x f.quern = physOf x g.quern → f = g) (hnodup : set.Nodup) :
    (onSet x set f).querns[p.val] = f x.querns[p.val] := by
  obtain ⟨q, hq, hp⟩ := h
  have hone : (set.filter fun q => physOf x q.quern = p) = [q] := by
    rw [List.filter_congr (q := fun g => decide (g = q)) fun g hg => ?_, List.filter_eq, hnodup.count, if_pos hq]
    · rfl
    · exact decide_eq_decide.mpr ⟨fun hgp => hinj g hg q hq (hgp.trans hp.symm), fun e => e ▸ hp⟩
  rw [onSet_quern, hone]; rfl

theorem setReady_iff {x : Mill} {set : List FillReq} : setReady x set = true ↔ ∀ f ∈ set,
    (x.querns[(physOf x f.quern).val]).idle.state = .full ∧ (x.querns[(physOf x f.quern).val]).act.state ≠ .repair ∧
      (x.querns[(physOf x f.quern).val]).act.repairRow = none := by
  simp [setReady, and_assoc]

/-- A Mill whose running docket is written back. -/
theorem mill_running_same {x : Mill} {r : Run} (h : x.running = some r) : { x with running := some r } = x := by rw [← h]

/-- Without a BX10 block nothing is replaced in an input vector. -/
theorem countInputs_nil {s : State} {m : MillId} {r : Run} (hrun : (s.mills[m.val]).running = some r) : countInputs s m [] = s := by
  have h1 : (onRegs s m fun g => { g with nanIn := bump g.nanIn 0, infIn := bump g.infIn 0 }) = s :=
    onRegs_same s m (by rw [bump_zero, bump_zero])
  have h2 : (onRun s m fun r => { r with nan := r.nan + 0, sat := r.sat + 0 }) = s :=
    onMill_same s m (by rw [hrun]; exact mill_running_same hrun)
  simp only [countInputs, List.map_nil, List.sum_nil]
  rw [h1, h2]

section
variable {s : State} {m : MillId} {r : Run} {c : TileRun} (hrun : (s.mills[m.val]).running = some r) (hcur : r.cur = some c)
include hrun hcur

theorem bankSwap_waits {set : List FillReq} (hdue : c.dueSet = some set) (hready : setReady s.mills[m.val] set = false) :
    bankSwap s m = onMill s m fun x => onSet x set fun u => { u with swapStall := bump u.swapStall } := by
  simp only [bankSwap, hrun, Option.bind_some, hcur, hdue, hready, Bool.not_false, if_true]

theorem bankSwap_swaps {set : List FillReq} (hdue : c.dueSet = some set) (hready : setReady s.mills[m.val] set = true) :
    bankSwap s m = onMill s m fun x =>
      { onSet x set (fun u => { u with active := !u.active }) with
        running := x.running.map fun r => { r with cur := some c.afterSwap }
        fills := x.fills ++ ((c.afterSwap.sets.drop 1).headD []) } := by
  simp only [bankSwap, hrun, Option.bind_some, hcur, hdue, hready, Bool.not_true, Bool.false_eq_true, if_false]
  refine onMill_congr s m ?_
  have hshape := onSet_shape (fun u => { u with active := !u.active }) set s.mills[m.val]
  generalize onSet s.mills[m.val] set (fun u => { u with active := !u.active }) = y at *
  rw [hshape]

variable {q : Fin 6} {f : FillReq} (hf : (c.sets.headD []).find? (fun f => f.quern = q && !f.vOperand) = some f)
  (hswapped : c.swapped = true) (hleft : c.vecDone[q.val] < c.tile.rows)
include hf hswapped hleft

theorem quernVector_stalls {z : Nat} (hz : ((s.mills[m.val]).querns[(physOf s.mills[m.val] q).val]).act.repairRow = some z) :
    quernVector s m q = onMill s m fun x => onQuern x (physOf x q) fun u => { u with swapStall := bump u.swapStall } := by
  simp only [quernVector, hrun, hcur, hf, hswapped, Nat.not_le.mpr hleft, hz, decide_false, Bool.not_true, Bool.or_self,
    Bool.false_eq_true, if_false, Option.isSome_some, if_true]

theorem quernVector_takes (hnone : ((s.mills[m.val]).querns[(physOf s.mills[m.val] q).val]).act.repairRow = none)
    (hfull : ((s.mills[m.val]).querns[(physOf s.mills[m.val] q).val]).act.state = .full) (hbx : r.shape.bx = false)
    (hrows : ∀ z ∈ r.vectorReads c.tile (c.tile.row0 + c.vecDone[q.val]) (if r.isFuse then 0 else 256 * f.kblk) 256,
      rowsOk s (some m) z.1 z.2) :
    quernVector s m q =
      let u := ((s.mills[m.val]).querns[(physOf s.mills[m.val] q).val]).act
      let src := srcOf s r c.tile (r.descD 0)
      let vs := r.inputs src.1 src.2 c.tile (c.tile.row0 + c.vecDone[q.val]) (if r.isFuse then 0 else 256 * f.kblk) 256
      onMill s m fun x => { x with running := some { r with cur := some { c with
        vecDone := vmod c.vecDone q fun n => n + 1
        flight := c.flight ++ [{ vec := c.vecDone[q.val], quern := q.val
                                 parts := [(0, quernParts r.shape.planes (bankWb u.wfmt) (vs.map fun v => planesOf r.shape.planes (intOf v)) u.rows.toList)] }] } } } := by
  have hbad := firstBad_ok fun a n h => hrows (a, n) h
  simp only [quernVector, hrun, hcur, hf, hswapped, Nat.not_le.mpr hleft, hnone, hfull, hbx, hbad, decide_false, Bool.not_true, Bool.or_self,
    Bool.false_eq_true, if_false, Option.isSome_none, ne_eq, not_true_eq_false, countInputs_nil hrun, ite_self, vectorParts]
  refine (onRun_some _ hrun).trans ?_
  simp only [hcur, hswapped, Option.map_some]
end

theorem partialsOut_accumulates {s : State} {m : MillId} {r : Run} {c : TileRun} (hrun : (s.mills[m.val]).running = some r)
    (hcur : r.cur = some c) (hfuse : r.isFuse = false) (hset : c.sets.headD [] ≠ []) (hswapped : c.swapped = true)
    (hleft : c.outDone < c.tile.rows)
    (hdone : ∀ f ∈ c.sets.headD [], f.vOperand = false ∧ ∃ g ∈ c.flight, g.vec = c.outDone ∧ g.quern = f.quern.val) :
    partialsOut s m =
      let acc := accumulateSet r c (c.sets.headD []) c.outDone
      onMill s m fun x =>
        { x with
          regs := { x.regs with accSat := bump x.regs.accSat acc.2 }
          running := some { r with
            sat := r.sat + acc.2
            cur := some { c with outDone := c.outDone + 1, acc := acc.1, flight := c.flight.filter fun g => g.vec ≠ c.outDone } } } := by
  have hne : (c.sets.headD []).isEmpty = false := List.isEmpty_eq_false_iff.mpr hset
  have hk : (((c.sets.headD []).filter (!·.vOperand)).all fun f => c.flight.any fun g => g.vec = c.outDone && g.quern = f.quern.val) = true := by
    simp only [List.all_eq_true, List.any_eq_true, Bool.and_eq_true, decide_eq_true_eq]
    exact fun f hf => (hdone f (List.mem_filter.mp hf).1).2
  have hv : (c.sets.headD []).filter (·.vOperand) = [] :=
    List.filter_eq_nil_iff.mpr fun f hf => by rw [(hdone f hf).1]; exact Bool.false_ne_true
  simp only [partialsOut, hrun, hcur, hne, hswapped, hleft, hk, hv, hfuse, decide_true, Bool.not_false, Bool.and_self, List.all_nil, Bool.not_true,
    Bool.false_eq_true, if_false]
  refine (onRun_some _ (r := r) ?_).trans ?_
  · simp only [onRegs_mills, vmod_self]; exact hrun
  · simp only [onRegs, onMill_onMill]

/-- Settles O17: the swap acts on the set's Querns, and vectors enter and leave by the two rules above. -/
theorem swapsVectorsAndPartialSums : Obligations.SwapsVectorsAndPartialSums := by
  unfold Obligations.SwapsVectorsAndPartialSums
  intro s m r c hup hquiet x hrun hcur
  refine ⟨fun set hdue => ⟨?swap, setReady_iff⟩, ?vector, fun hfuse hset hswapped hleft => ?partials⟩
  case swap =>
    have hexec : exec (.bankSwap m) s = .next (bankSwap s m) := live_next hup fun s => bankSwap s m
    have hshape (f : Quern → Quern) := onSet_shape f set x
    refine ⟨_, hexec, ?_, fun hinj hnodup p => ?_⟩
    · cases hr : setReady x set
      · rw [bankSwap_waits hrun hcur hdue hr]
        refine onMill_congr s m ?_
        rw [onMill_mills, vmod_self, hshape]
      · rw [bankSwap_swaps hrun hcur hdue hr]
        refine onMill_congr s m ?_
        rw [onMill_mills, vmod_self, hshape]
    · intro u
      refine ⟨fun hno => ?_, fun hyes => ⟨fun hr => ?_, fun hr => ?_⟩⟩
      · cases hr : setReady x set
        · rw [bankSwap_waits hrun hcur hdue hr, onMill_mills, vmod_self]; exact onSet_quern_other hno
        · rw [bankSwap_swaps hrun hcur hdue hr, onMill_mills, vmod_self]; exact onSet_quern_other hno
      · rw [bankSwap_swaps hrun hcur hdue hr, onMill_mills, vmod_self]; exact onSet_quern_member hyes hinj hnodup
      · rw [bankSwap_waits hrun hcur hdue hr, onMill_mills, vmod_self]; exact onSet_quern_member hyes hinj hnodup
  case vector =>
    intro q f hf u i k0 row hswapped hleft
    have hexec {t : State} (h : quernVector s m q = t) (hg : t.granary = s.granary) : exec (.quernVector m q) s = .next t :=
      (liveRows_next hup fun s => quernVector s m q).trans (next_of_quiet h (by rw [hg]; exact hquiet))
    exact ⟨fun z hz => hexec (quernVector_stalls hrun hcur hf hswapped hleft hz) rfl,
      fun hnone hfull hbx hrows => hexec (quernVector_takes hrun hcur hf hswapped hleft hnone hfull hbx hrows) rfl⟩
  case partials =>
    intro set hdone acc
    exact (live_next hup fun s => partialsOut s m).trans (congrArg _ (partialsOut_accumulates hrun hcur hfuse hset hswapped hleft hdone))

end Sys2Proof.Machine
end

section
open Sys2Proof.Laws
namespace Sys2Proof.Machine

/-! ### The Sluice's vectors (04 R67 to R73) -/

/-- A code clamped to its range lies in it. -/
theorem clamp_range (lo hi c : Int) (h : lo ≤ hi) :
    lo ≤ (if hi < c then hi else if c < lo then lo else c) ∧ (if hi < c then hi else if c < lo then lo else c) ≤ hi := by
  split
  · exact ⟨h, Int.le_refl _⟩
  · split <;> omega

/-- A high conversion gives a code of -128 to 127, clipped at either end. -/
theorem adc_high (draw g : Nat) (ideal : Int) : (adc draw true g ideal).1 ≤ 127 ∧ (-128 : Int) ≤ (adc draw true g ideal).1 ∧
    ((adc draw true g ideal).2 = true ↔ (adc draw true g ideal).1 = 127 ∨ (adc draw true g ideal).1 = -128) := by
  have h := clamp_range (-128) 127 (FVal.roundInt false (decide (Config.analog draw ideal < 0)) (Config.analog draw ideal).natAbs (-4 - (g : Int)))
    (by decide)
  exact ⟨h.2, h.1, by simp only [adc, if_true, Bool.or_eq_true, decide_eq_true_eq]⟩

/-- A low conversion gives a code of 0 to 255, clipped at the top. -/
theorem adc_low (draw g : Nat) (ideal : Int) : 0 ≤ (adc draw false g ideal).1 ∧ (adc draw false g ideal).1 ≤ 255 ∧
    ((adc draw false g ideal).2 = true ↔ (adc draw false g ideal).1 = 255) := by
  have h := clamp_range 0 255 (FVal.roundInt false (decide (Config.analog draw ideal < 0)) (Config.analog draw ideal).natAbs (-4 - (g : Int)))
    (by decide)
  exact ⟨h.1, h.2, by simp only [adc, Bool.false_eq_true, if_false, decide_eq_true_eq]⟩

section
variable {s : State} {m : MillId} {r : Run} {c : TileRun} (hrun : (s.mills[m.val]).running = some r) (hcur : r.cur = some c)
  (hslu : r.onSluice = true) (hplan : r.plan.isSome = true)
include hrun hcur hslu hplan

theorem sluiceVector_takes (hleft : c.vecDone[0] < c.tile.rows)
    (hrows : ∀ z ∈ r.vectorReads c.tile (c.tile.row0 + c.vecDone[0]) 0 1024, rowsOk s (some m) z.1 z.2) :
    sluiceVector s m =
      let i := c.vecDone[0]
      let src := srcOf s r c.tile (r.descD 0)
      let vs := r.inputs src.1 src.2 c.tile (c.tile.row0 + c.vecDone[0]) 0 1024
      let bs := if r.shape.bx then r.blocks vs else []
      let aligned := if r.shape.bx then alignBlocks bs else (0, vs.map intOf)
      let xb := if r.shape.bx then 10 else r.shape.planes
      let res := (List.range 512).map fun n => (s.mills[m.val]).sluice.part s.free xb (aligned.2.map (planesOf xb)) n
      let u := onSluice { s with free := s.free + 2 * 512 * xb } m fun u => { u with adcClip := bump u.adcClip (res.map (·.2)).sum }
      onRun (countInputs u m bs) m fun r => { r with cur := r.cur.map fun c => { c with
        vecDone := vmod c.vecDone (0 : Fin 6) fun n => n + 1
        flight := c.flight ++ [{ vec := i, quern := 0, parts := [(aligned.1, res.map (·.1))] }] } } := by
  have hbad := firstBad_ok fun a n h => hrows (a, n) h
  have hnone : r.plan.isNone = false := by rw [Option.isNone_eq_false_iff]; exact hplan
  unfold sluiceVector
  simp only [hrun, hcur, hslu, hnone, Nat.not_le.mpr hleft, hbad, decide_false, Bool.not_true, Bool.or_self,
    Bool.false_eq_true, if_false, ne_eq, not_true_eq_false]

theorem sluiceOut_accumulates {g : Flight} (hg : c.flight.find? (fun g => g.vec = c.outDone) = some g) :
    sluiceOut s m =
      let acc := accumulate r.shape.bx r.shape.ch (c.outDone * (c.tile.ns * r.shape.ch)) g.parts c.acc
      onMill s m fun x =>
        { x with
          regs := { x.regs with accSat := bump x.regs.accSat acc.2 }
          running := some { r with
            sat := r.sat + acc.2
            cur := some { c with outDone := c.outDone + 1, acc := acc.1, flight := c.flight.filter fun y => y.vec ≠ g.vec } } } := by
  have hnone : r.plan.isNone = false := by rw [Option.isNone_eq_false_iff]; exact hplan
  simp only [sluiceOut, hrun, hcur, hslu, hnone, hg, Bool.not_true, Bool.or_self, Bool.false_eq_true, if_false]
  refine (onRun_some _ (r := r) ?_).trans ?_
  · simp only [onRegs_mills, vmod_self]; exact hrun
  · simp only [onRegs, onMill_onMill]
end

theorem countInputs_granary (s : State) (m : MillId) (bs : List BxBlock) : (countInputs s m bs).granary = s.granary := rfl

/-- Counting the inputs changes the running docket's counts alone. -/
theorem countInputs_running {s : State} {m : MillId} {r : Run} (bs : List BxBlock) (hrun : (s.mills[m.val]).running = some r) :
    ∃ nan sat, ((countInputs s m bs).mills[m.val]).running = some { r with nan := nan, sat := sat } := by
  refine ⟨_, _, (onRun_running _ (r := r) ?_).trans rfl⟩
  simp only [onRegs_mills, vmod_self]; exact hrun

/-- Settles O19: the vector enters and leaves by the two rules above, and a conversion is a clamped code. -/
theorem sluiceVectorsAndPartialSums : Obligations.SluiceVectorsAndPartialSums := by
  unfold Obligations.SluiceVectorsAndPartialSums
  refine ⟨fun s m r c hup hquiet => ?_, fun draw g ideal => ?_⟩
  · intro x hrun hcur hslu hplan
    refine ⟨?vector, fun g hg => ?out⟩
    case vector =>
      intro i row src vs bs aligned xb res hleft hrows
      refine ⟨_, _, (liveRows_next hup fun s => sluiceVector s m).trans
        (next_of_quiet (sluiceVector_takes hrun hcur hslu hplan hleft hrows) hquiet), rfl, ?_⟩
      obtain ⟨nan, sat, hr⟩ := countInputs_running bs (s := onMill { s with free := s.free + 2 * 512 * xb } m (fun x =>
          { x with sluice := { x.sluice with adcClip := bump x.sluice.adcClip (res.map (·.2)).sum } })) (m := m) (r := r)
          (by rw [onMill_mills, vmod_self]; exact hrun)
      refine (onRun_some _ hr).trans (Eq.trans ?_ (onRun_some _ hr).symm)
      rw [hcur]; rfl
    case out => exact (live_next hup fun s => sluiceOut s m).trans (congrArg _ (sluiceOut_accumulates hrun hcur hslu hplan hg))
  · obtain ⟨h1, h2, h3⟩ := adc_high draw g ideal
    exact ⟨h1, h2, h3, adc_low draw g ideal⟩

end Sys2Proof.Machine
end

section
open Sys2Proof.Laws
namespace Sys2Proof.Machine

/-! ### Programming, verifying and refreshing the Sluice's fields (04 R74 to R85) -/

theorem onSluice_sluice (s : State) (m : MillId) (f : Sluice → Sluice) : ((onSluice s m f).mills[m.val]).sluice = f (s.mills[m.val]).sluice := by
  simp only [onSluice, onMill_mills, vmod_self]

theorem onSluice_running (s : State) (m : MillId) (f : Sluice → Sluice) : ((onSluice s m f).mills[m.val]).running = (s.mills[m.val]).running := by
  simp only [onSluice, onMill_mills, vmod_self]

theorem onSluice_iso (s : State) (m : MillId) (f : Sluice → Sluice) : ((onSluice s m f).mills[m.val]).mb.iso = (s.mills[m.val]).mb.iso := by
  simp only [onSluice, onMill_mills, vmod_self]

/-- Without a free entry the table overflows. -/
theorem enter_overflows {u : Sluice} (row pair err) (l) (h : (List.finRange 256).find? (fun i => !(u.defects[i.val]).valid) = none) :
    u.enter ((row, pair, err) :: l) = (u, 0, true) := by
  simp only [Sluice.enter, h]

/-- A cell takes the first free entry. -/
theorem enter_takes {u : Sluice} (row pair err) (l) {i : Fin 256}
    (h : (List.finRange 256).find? (fun i => !(u.defects[i.val]).valid) = some i) :
    u.enter ((row, pair, err) :: l) =
      let v := ({ u with defects := vmod u.defects i fun _ => { valid := true, row := row, pair := pair, err := err } } : Sluice).enter l
      (v.1, v.2.1 + 1, v.2.2) := by
  simp only [Sluice.enter, h]

/-- Defect entries change the table alone. -/
theorem enter_shape (l : List (Fin 1024 × Fin 1024 × BitVec 8)) : ∀ u : Sluice, (u.enter l).1 = { u with defects := (u.enter l).1.defects } := by
  induction l with
  | nil => exact fun u => rfl
  | cons e l ih =>
    intro u
    cases h : (List.finRange 256).find? (fun i => !(u.defects[i.val]).valid) with
    | none => rw [enter_overflows _ _ _ l h]
    | some i => rw [enter_takes _ _ _ l h]; exact ih _

theorem enter_fields (u : Sluice) (l : List (Fin 1024 × Fin 1024 × BitVec 8)) : (u.enter l).1.fields = u.fields := by
  rw [enter_shape]

theorem enter_weights (u : Sluice) (l : List (Fin 1024 × Fin 1024 × BitVec 8)) : (u.enter l).1.weights = u.weights := by
  rw [enter_shape]

/-- The table overflows when it has no entry left. -/
theorem enter_full (l : List (Fin 1024 × Fin 1024 × BitVec 8)) : ∀ u : Sluice, (u.enter l).2.2 = true →
    ∀ i : Fin 256, ((u.enter l).1.defects[i.val]).valid = true := by
  induction l with
  | nil => exact fun u h => nomatch h
  | cons e l ih =>
    intro u
    cases h : (List.finRange 256).find? (fun i => !(u.defects[i.val]).valid) with
    | none =>
      rw [enter_overflows _ _ _ l h]
      exact fun _ i => by simpa using List.find?_eq_none.mp h i (List.mem_finRange i)
    | some i => rw [enter_takes _ _ _ l h]; exact ih _

/-- A started field: PROGRAMMING with 1.0 cycle of wear. -/
theorem startField_field (u : Sluice) (f : Fin 128) : (u.startField f).fields[f.val] =
    { u.fields[f.val] with state := .programming, wear := bump (u.fields[f.val]).wear 10 } := by
  simp only [Sluice.startField, Sluice.addWear, Sluice.onField, vmod_self]

theorem startField_other (u : Sluice) {f g : Fin 128} (h : g ≠ f) : (u.startField f).fields[g.val] = u.fields[g.val] := by
  have hne : g.val ≠ f.val := fun e => h (Fin.ext e)
  simp only [Sluice.startField, Sluice.addWear, Sluice.onField, vmod_vmod, vmod_other _ _ _ _ _ hne]

theorem startField_worn (u : Sluice) (f : Fin 128) :
    (u.startField f).worn = (u.worn || decide (100000 < (bump (u.fields[f.val]).wear 10).toNat)) := by
  simp only [Sluice.startField, Sluice.addWear, Sluice.onField, vmod_self]

theorem startField_defect (u : Sluice) (f : Fin 128) (i : Fin 256) : (u.startField f).defects[i.val] =
    if inField f (u.defects[i.val]).row.val (u.defects[i.val]).pair.val then { u.defects[i.val] with valid := false } else u.defects[i.val] := by
  simp only [Sluice.startField, Sluice.addWear, Sluice.onField, Vector.getElem_map]

/-- An instruction has one next state. -/
theorem next_unique {o : Result} {t u : State} (h : o = .next t) (g : o = .next u) : t = u := by
  cases h; cases g; rfl

/-- What the end of a Sluice docket leaves: its DONE message, no running docket, and the Sluice as `v`. -/
structure SluiceEnd (s t : State) (m : MillId) (v : Sluice) (r : Run) (st : Byte) (sub mid low : Nat) (w : DoneMsg) : Prop where
  control : t.control = { s.control with toControl := s.control.toControl ++ [(m, w)] }
  status : w.status = st
  detail : w.detail = mkDetail sub mid low
  tag : w.tag = wTag r.msg.docket
  chute : w.chute = r.msg.chute
  running : (t.mills[m.val]).running = none
  sluice : (t.mills[m.val]).sluice = v
  granary : t.granary = s.granary

theorem endSluice_ends {s : State} {m : MillId} {r : Run} (st : Byte) (sub : Nat) {j : SluJob} {mid low : Nat}
    (hmid : (if j.op = .verify then 0 else stopAt 255 j.failed) = mid) (hlow : (if j.op = .verify then j.worst else j.added) = low) (habort : r.abort = none)
    (hsat : r.sat = 0) (hiso : (s.mills[m.val]).mb.iso = false) :
    ∃ w, SluiceEnd s (endSluice s m r st sub j) m (s.mills[m.val]).sluice r st sub mid (stopAt 0xFFFF low) w := by
  simp only [endSluice, habort, hmid, hlow]
  rw [endRun_open s m r _ _ _ _ hiso]
  refine ⟨_, rfl, ?_, rfl, rfl, rfl, ?_, ?_, rfl⟩
  · simp [hsat]
  · simp only [onControl_mills, onMill_mills, vmod_self]
  · simp only [onControl_mills, onMill_mills, vmod_self]; rfl

theorem endSluice_onSluice_ends {s : State} {m : MillId} {r : Run} (v : Sluice) (st : Byte) (sub : Nat) {j : SluJob} {mid low : Nat}
    (hmid : (if j.op = .verify then 0 else stopAt 255 j.failed) = mid) (hlow : (if j.op = .verify then j.worst else j.added) = low) (habort : r.abort = none)
    (hsat : r.sat = 0) (hiso : (s.mills[m.val]).mb.iso = false) :
    ∃ w, SluiceEnd s (endSluice (onSluice s m fun _ => v) m r st sub j) m v r st sub mid (stopAt 0xFFFF low) w := by
  obtain ⟨w, hw⟩ := endSluice_ends (s := onSluice s m fun _ => v) st sub hmid hlow habort hsat ((onSluice_iso ..).trans hiso)
  exact ⟨w, hw.control, hw.status, hw.detail, hw.tag, hw.chute, hw.running, hw.sluice.trans (onSluice_sluice ..), hw.granary⟩

/-- The defect table of a field after its programming: the entries it took, and whether they overflowed. -/
def Sluice.fieldEntries (u : Sluice) (f : Fin 128) (j : SluJob) (o : FieldOutcome) : Sluice × Nat × Bool :=
  (u.loadField f j.weights).enter (o.outOfBand.filter fun y => inField f y.1.val y.2.1.val)

/-- The Sluice after a field's programming. -/
def Sluice.programmed (u : Sluice) (f : Fin 128) (j : SluJob) (o : FieldOutcome) : Sluice :=
  let e := u.fieldEntries f j o
  let v := e.1.onField f fun y => { y with state := if e.2.2 then .failed else .valid }
  if e.2.2 then v else { v with gHi := j.gHi, gLo := j.gLo }

theorem loadField_fields (u : Sluice) (f : Fin 128) (w : SMem 8) : (u.loadField f w).fields = u.fields := by
  cases u; rfl

theorem fieldEntries_fields (u : Sluice) (f : Fin 128) (j : SluJob) (o : FieldOutcome) : (u.fieldEntries f j o).1.fields = u.fields := by
  unfold Sluice.fieldEntries; rw [enter_fields, loadField_fields]

theorem fieldEntries_weights (u : Sluice) (f : Fin 128) (j : SluJob) (o : FieldOutcome) :
    (u.fieldEntries f j o).1.weights = (u.loadField f j.weights).weights := by
  unfold Sluice.fieldEntries; rw [enter_weights]

theorem programmed_fields (u : Sluice) (f : Fin 128) (j : SluJob) (o : FieldOutcome) : (u.programmed f j o).fields =
    vmod u.fields f fun y => { y with state := if (u.fieldEntries f j o).2.2 then .failed else .valid } := by
  rw [← fieldEntries_fields u f j o]; unfold Sluice.programmed; dsimp only; split <;> rfl

theorem programmed_weights (u : Sluice) (f : Fin 128) (j : SluJob) (o : FieldOutcome) :
    (u.programmed f j o).weights = (u.loadField f j.weights).weights := by
  rw [← fieldEntries_weights u f j o]; unfold Sluice.programmed; dsimp only; split <;> rfl

theorem programmed_gains {u : Sluice} {f : Fin 128} {j : SluJob} {o : FieldOutcome} (h : (u.fieldEntries f j o).2.2 = false) :
    (u.programmed f j o).gHi = j.gHi ∧ (u.programmed f j o).gLo = j.gLo := by
  simp only [Sluice.programmed, h, Bool.false_eq_true, if_false, and_self]

section
variable {s : State} {m : MillId} {r : Run} (hrun : (s.mills[m.val]).running = some r)
include hrun

theorem sluProg_withoutVpp (ho : wOpcode r.msg.docket = some .sluProg) (hw : r.walked = false) (hv : (s.mills[m.val]).sluice.vppOk = false) :
    sluProg s m = endSluice s m r stInternal 0x01 (newJob .prog r.msg.docket) := by
  simp only [sluProg, runOf_of_opcode hrun ho, hw, hv, Bool.false_eq_true, if_false, Bool.not_false, if_true]

theorem sluProg_starts (ho : wOpcode r.msg.docket = some .sluProg) (hw : r.walked = false) (hv : (s.mills[m.val]).sluice.vppOk = true)
    {f : Fin 128} {rest : List (Fin 128)} (hf : maskFields r.msg.docket = f :: rest)
    (hrows : ∀ k, k < min 1024 (r.descD 0).effRows → rowsOk s (some m) ((r.descD 0).row 0 0 k) (rowLen (r.descD 0).bits (r.descD 0).cols)) :
    sluProg s m = onMill s m fun x => { x with
      sluice := x.sluice.startField f
      running := some { r with walked := true, slu := some { newJob .prog r.msg.docket with weights := progWeights s.mem (r.descD 0) } } } := by
  have hbad : firstBad ((List.range (min 1024 (r.descD 0).effRows)).map fun k =>
      rangeStatus s m ((r.descD 0).row 0 0 k) (rowLen (r.descD 0).bits (r.descD 0).cols)) = (.ok, none) := by
    have h := firstBad_ok (s := s) (m := m) (l := (List.range (min 1024 (r.descD 0).effRows)).map fun k =>
      ((r.descD 0).row 0 0 k, rowLen (r.descD 0).bits (r.descD 0).cols)) fun a n h => by
        obtain ⟨k, hk, he⟩ := List.mem_map.mp h
        cases he
        exact hrows k (List.mem_range.mp hk)
    rwa [List.map_map] at h
  have hjob : (newJob .prog r.msg.docket).todo = f :: rest := hf
  simp only [sluProg, runOf_of_opcode hrun ho, hw, hv, Bool.false_eq_true, if_false, Bool.not_true, hbad, ne_eq, not_true_eq_false, progNext, hjob]
  refine (onRun_some _ (r := r) ((onSluice_running ..).trans hrun)).trans ?_
  simp only [onSluice, onMill_onMill]

theorem fieldDone_last (ho : wOpcode r.msg.docket = some .sluProg) {j : SluJob} {f : Fin 128} (o : FieldOutcome) (hslu : r.slu = some j)
    (hf : j.todo = [f]) :
    fieldDone s m o =
      let e := (s.mills[m.val]).sluice.fieldEntries f j o
      let j' := { j with todo := [], added := j.added + e.2.1, failed := j.failed + (if e.2.2 then 1 else 0) }
      endSluice (onSluice s m fun _ => (s.mills[m.val]).sluice.programmed f j o) m { r with slu := some j' } stOk 0 j' := by
  rcases he : (s.mills[m.val]).sluice.fieldEntries f j o with ⟨v, n, full⟩
  have henter : ((s.mills[m.val]).sluice.loadField f j.weights).enter (o.outOfBand.filter fun y => inField f y.1.val y.2.1.val) = (v, n, full) := he
  simp only [fieldDone, runOf_of_opcode hrun ho, hslu, hf, henter, progNext, Sluice.programmed, he]

theorem sluVerify_last (ho : wOpcode r.msg.docket = some .sluVerify) {j : SluJob} {f : Fin 128} (scan : FieldScan)
    (hslu : r.slu.getD (newJob .verify r.msg.docket) = j) (hf : j.todo = [f]) (habort : r.abort = none) :
    sluVerify s m [scan] =
      let j' := { j with todo := [], worst := max j.worst scan.oob.toNat }
      endSluice (onSluice s m fun _ => (s.mills[m.val]).sluice.onField f fun y => { y with oob := scan.oob }) m { r with walked := true, slu := some j' } stOk 0 j' := by
  simp only [sluVerify, runOf_of_opcode hrun ho, hslu, hf, habort, Option.isSome_none, Bool.false_eq_true, if_false, verifyFields, List.isEmpty_nil, if_true]

theorem sluRefresh_withoutVpp (ho : wOpcode r.msg.docket = some .sluRefresh) (scan : FieldScan) (habort : r.abort = none)
    (hv : (s.mills[m.val]).sluice.vppOk = false) :
    sluRefresh s m scan = endSluice s m r stInternal 0x01 (r.slu.getD (newJob .refresh r.msg.docket)) := by
  simp only [sluRefresh, runOf_of_opcode hrun ho, habort, hv, Option.isSome_none, Bool.false_eq_true, if_false, Bool.not_false, if_true]

theorem sluRefresh_next (ho : wOpcode r.msg.docket = some .sluRefresh) {j : SluJob} {f : Fin 128} {rest : List (Fin 128)} {scan : FieldScan}
    (hslu : r.slu.getD (newJob .refresh r.msg.docket) = j) (hf : j.todo = f :: rest) (hne : rest ≠ []) (habort : r.abort = none)
    (hv : (s.mills[m.val]).sluice.vppOk = true) (hin : scan.outOfBand = []) :
    sluRefresh s m scan = onMill s m fun x => { x with
      sluice := (x.sluice.addWear f (refreshWear scan.pulsed)).onField f fun y => { y with oob := scan.oob }
      running := some { r with walked := true, slu := some { j with todo := rest } } } := by
  simp only [sluRefresh, runOf_of_opcode hrun ho, hslu, hf, habort, hv, hin, Option.isSome_none, Bool.false_eq_true, if_false, Bool.not_true,
    Sluice.refreshField, List.filter_nil, Sluice.enter, List.isEmpty_eq_false_iff.mpr hne, Nat.add_zero]
  refine (onRun_some _ (r := r) ((onSluice_running ..).trans hrun)).trans ?_
  simp only [onSluice, onMill_onMill]
  exact onMill_congr s m rfl
end

/-- A refreshed field's wear and its count of cells out of band. -/
theorem refreshed_field (u : Sluice) (f : Fin 128) (scan : FieldScan) :
    ((u.addWear f (refreshWear scan.pulsed)).onField f fun y => { y with oob := scan.oob }) =
      let wear := bump (u.fields[f.val]).wear ((10 * scan.pulsed + 16383) / 16384)
      { u with
        fields := vmod u.fields f fun y => { y with wear := wear, oob := scan.oob }
        worn := u.worn || decide (100000 < wear.toNat) } := by
  have hw : refreshWear scan.pulsed = (10 * scan.pulsed + 16383) / 16384 := rfl
  simp only [Sluice.addWear, Sluice.onField, vmod_vmod, vmod_self, hw, Sluice.mk.injEq, and_self, and_true, true_and]
  exact vmod_congr _ _ rfl

/-- Settles O20: a field starts, ends and is verified or refreshed by the rules above, and a docket ends with its DONE message. -/
theorem sluiceFieldsAreProgrammedInOrder : Obligations.SluiceFieldsAreProgrammedInOrder := by
  unfold Obligations.SluiceFieldsAreProgrammedInOrder
  intro s m r hup hquiet x d ends hrun hsat habort hiso
  refine ⟨fun ho hw => ⟨fun hv => ?low, ?starts⟩, ?done, ?verify, ?refresh⟩
  case low =>
    obtain ⟨w, hend⟩ := endSluice_ends stInternal 0x01 (j := newJob .prog r.msg.docket) rfl rfl habort hsat hiso
    have hexec : exec (.sluProg m) s = .next _ := (liveRows_next hup fun s => sluProg s m).trans
      (next_of_quiet (sluProg_withoutVpp hrun ho hw hv) (hend.granary ▸ hquiet))
    exact ⟨⟨_, w, hexec, hend.control, hend.status, hend.detail, hend.tag, hend.chute, hend.running⟩,
      fun t ht => next_unique hexec ht ▸ hend.sluice⟩
  case starts =>
    intro f rest hv hf hrows
    have hexec : exec (.sluProg m) s = .next _ := (liveRows_next hup fun s => sluProg s m).trans
      (next_of_quiet (sluProg_starts hrun ho hw hv hf hrows) hquiet)
    refine ⟨_, hexec, onMill_congr s m ?_, ?_⟩
    · rw [onMill_mills, vmod_self]
    · rw [onMill_mills, vmod_self]
      intro u
      refine ⟨startField_field x.sluice f, fun g hg => startField_other x.sluice hg, rfl, startField_worn x.sluice f, fun i e he => ⟨fun hin => ?_, fun hin => ?_⟩⟩
      · refine (congrArg Defect.valid ((startField_defect x.sluice f i).trans (if_pos (he.symm ▸ hin)))).trans rfl
      · refine (startField_defect x.sluice f i).trans ((if_neg ?_).trans he)
        rw [he, hin]; exact Bool.false_ne_true
  case done =>
    intro j f o ho hslu hop hf new u full
    have hop' : ¬ j.op = .verify := fun h => SluOp.noConfusion (hop.symm.trans h)
    have hdone := fieldDone_last hrun ho o hslu hf
    obtain ⟨w, hend⟩ := endSluice_onSluice_ends (s := s) (m := m) (x.sluice.programmed f j o)
      (r := { r with slu := some { j with todo := [], added := j.added + u.2.1, failed := j.failed + (if full then 1 else 0) } }) stOk 0
      (j := { j with todo := [], added := j.added + u.2.1, failed := j.failed + (if full then 1 else 0) })
      (if_neg hop') (if_neg hop') habort hsat hiso
    have hexec : exec (.sluFieldDone m o) s = .next _ := (live_next hup fun s => fieldDone s m o).trans (congrArg _ hdone)
    refine ⟨⟨_, w, hexec, hend.control, hend.status, hend.detail, hend.tag, hend.chute, hend.running⟩, fun t v ht hv => ?_, fun hfull => enter_full _ _ hfull⟩
    have hvs : v = x.sluice.programmed f j o := by
      rw [← hv, ← next_unique hexec ht]; exact hend.sluice
    rw [hvs]
    refine ⟨?_, fun h => programmed_gains h, programmed_weights .., fun g hg => ?_⟩
    · rw [programmed_fields, vmod_self]; rfl
    · rw [programmed_fields]; exact vmod_other _ _ _ _ _ fun e => hg (Fin.ext e)
  case verify =>
    intro j f scan hslu hf ho hop
    obtain ⟨w, hend⟩ := endSluice_onSluice_ends (s := s) (m := m) (x.sluice.onField f fun y => { y with oob := scan.oob })
      (r := { r with walked := true, slu := some { j with todo := [], worst := max j.worst scan.oob.toNat } }) stOk 0
      (j := { j with todo := [], worst := max j.worst scan.oob.toNat }) (if_pos hop) (if_pos hop) habort hsat hiso
    have hexec : exec (.sluVerify m [scan]) s = .next _ := (live_next hup fun s => sluVerify s m [scan]).trans
      (congrArg _ (sluVerify_last hrun ho scan hslu hf habort))
    exact ⟨⟨_, w, hexec, hend.control, hend.status, hend.detail, hend.tag, hend.chute, hend.running⟩,
      fun t ht => next_unique hexec ht ▸ hend.sluice⟩
  case refresh =>
    intro j f rest scan hslu ho hop
    have hop' : ¬ j.op = .verify := fun h => SluOp.noConfusion (hop.symm.trans h)
    refine ⟨fun hv => ?_, fun hv hf hne hin => ?_⟩
    · obtain ⟨w, hend⟩ := endSluice_ends stInternal 0x01 (j := j) (if_neg hop') (if_neg hop') habort hsat hiso
      have hexec : exec (.sluRefresh m scan) s = .next _ := (live_next hup fun s => sluRefresh s m scan).trans
        (congrArg _ ((sluRefresh_withoutVpp hrun ho scan habort hv).trans (by rw [hslu])))
      exact ⟨⟨_, w, hexec, hend.control, hend.status, hend.detail, hend.tag, hend.chute, hend.running⟩,
        fun t ht => next_unique hexec ht ▸ hend.sluice⟩
    · refine (live_next hup fun s => sluRefresh s m scan).trans (congrArg _ ((sluRefresh_next hrun ho hslu hf hne habort hv hin).trans (onMill_congr s m ?_)))
      rw [refreshed_field]

end Sys2Proof.Machine
end

section
open Sys2Proof.Laws
namespace Sys2Proof.Machine

/-! ### Temperature compensation and the programming rail (04 R87 to R90, 20 R461, R464) -/

/-- The code of a temperature in range. -/
theorem tempCode_ok {t : Int} (h : -55 ≤ t ∧ t ≤ 150) : ((tempCode t).toNat : Int) = t + 64 := by
  obtain ⟨hl, hh⟩ := h
  have hin : (t < -55 || 150 < t) = false := by simp; omega
  simp only [tempCode, hin, Bool.false_eq_true, if_false, BitVec.toNat_ofNat]
  omega

theorem tempCode_failed {t : Int} (h : t < -55 ∨ 150 < t) : tempCode t = 0xFF := by
  have hout : (t < -55 || 150 < t) = true := by simpa using h
  simp only [tempCode, hout, if_true]

theorem compDue_iff (s : State) (u : Sluice) : compDue s u = true ↔ u.compDone = false ∨ u.lastComp.toNat + 1000 * u.period ≤ (now s).toNat ∨
    (u.moved = true ∧ u.lastComp.toNat + 100000 ≤ (now s).toNat) := by
  simp only [compDue, Bool.or_eq_true, Bool.and_eq_true, Bool.not_eq_true', elapsed_iff, or_assoc]

/-- What an update leaves in the Sluice. -/
def Sluice.updated (u : Sluice) (t : Word64) (resid : BitVec 16) : Sluice :=
  let dead := u.temp.all (· = 0xFF)
  { u with lastComp := t, compDone := true, moved := false, tempAtComp := u.temp, compFault := dead,
           refResid := if dead then u.refResid else resid }

section
variable {s : State} {m : MillId} (hdue : compDue s (s.mills[m.val]).sluice = true)
include hdue

theorem compUpdate_quiet {resid : BitVec 16}
    (h : (s.mills[m.val]).sluice.temp.all (· = 0xFF) = true ∨ resid.toNat ≤ bitsOf (s.mills[m.val]).sluice.compCtl 7 1) :
    compUpdate s m resid = onSluice s m fun u => u.updated (now s) resid := by
  have hbell : (!(s.mills[m.val]).sluice.temp.all (· = 0xFF) && decide (bitsOf (s.mills[m.val]).sluice.compCtl 7 1 < resid.toNat)) = false := by
    rcases h with h | h
    · rw [h]; rfl
    · rw [decide_eq_false (Nat.not_lt.mpr h), Bool.and_false]
  simp only [compUpdate, hdue, hbell, Bool.not_true, Bool.false_eq_true, if_false]
  exact onMill_congr s m rfl

theorem compUpdate_bell {resid : BitVec 16} (hdead : (s.mills[m.val]).sluice.temp.all (· = 0xFF) = false)
    (h : bitsOf (s.mills[m.val]).sluice.compCtl 7 1 < resid.toNat) :
    compUpdate s m resid = raiseBell (onSluice s m fun u => u.updated (now s) resid) (fin 256 (bitsOf (s.mills[m.val]).sluice.compCtl 31 24)) := by
  have hbell : (!(s.mills[m.val]).sluice.temp.all (· = 0xFF) && decide (bitsOf (s.mills[m.val]).sluice.compCtl 7 1 < resid.toNat)) = true := by
    rw [hdead, decide_eq_true h]; rfl
  simp only [compUpdate, hdue, hbell, Bool.not_true, Bool.false_eq_true, if_false, if_true]
  exact congrArg (raiseBell · _) (onMill_congr s m rfl)
end

/-- A fold that acts on one element alone. -/
theorem foldl_once {α β : Type} {f : α → β → α} {P : α → Prop} {b : β} (hskip : ∀ a, P a → ∀ d, d ≠ b → f a d = a) :
    ∀ {l : List β}, l.Nodup → b ∈ l → ∀ a, P a → P (f a b) → l.foldl f a = f a b := by
  intro l
  induction l with
  | nil => exact fun _ h => absurd h List.not_mem_nil
  | cons d l ih =>
    intro hnodup hmem a ha hb
    obtain ⟨hd, hl⟩ := List.nodup_cons.mp hnodup
    by_cases he : d = b
    · subst he
      have hrest : ∀ l' : List β, d ∉ l' → l'.foldl f (f a d) = f a d := by
        intro l'
        induction l' with
        | nil => exact fun _ => rfl
        | cons e l' ih' =>
          intro hne
          obtain ⟨h1, h2⟩ := List.ne_and_not_mem_of_not_mem_cons hne
          rw [List.foldl_cons, hskip _ hb e h1.symm, ih' h2]
      exact hrest l hd
    · rw [List.foldl_cons, hskip a ha d he]
      exact ih hl ((List.mem_cons.mp hmem).resolve_left fun e => he e.symm) a ha hb

/-- A fold of which no element acts. -/
theorem foldl_still {α β : Type} {f : α → β → α} {a : α} : ∀ {l : List β}, (∀ d, f a d = a) → l.foldl f a = a
  | [], _ => rfl
  | d :: l, h => (congrArg (l.foldl f) (h d)).trans (foldl_still h)

/-- What the loss of the rail does to the Mill of one Sluice. -/
def railStep (s : State) (m : MillId) : State := if ((s.mills[m.val]).sluice).vppOk then vppLost s m else s

/-- A Sluice without its rail, or whose Mill runs nothing, loses nothing. -/
def RailIdle (s : State) (m : MillId) : Prop := (s.mills[m.val]).running = none ∨ (s.mills[m.val]).sluice.vppOk = false

theorem railStep_idle {s : State} {m : MillId} (h : RailIdle s m) : railStep s m = s := by
  unfold railStep
  split
  · rename_i hv
    rcases h with h | h
    · simp only [vppLost, h]
    · exact absurd (h.symm.trans hv) Bool.false_ne_true
  · rfl

theorem vppFall_low {s : State} {mv : Nat} (h : mv < 3000) :
    vppFall s mv = .next (setVpp ((List.finRange 16).foldl railStep s) false) := by
  have hr : ¬ 3800 < mv := by omega
  unfold vppFall
  rw [if_neg hr, if_pos h]
  rfl

/-- A docket that is programming when the rail falls leaves its field INVALID. -/
theorem vppLost_job {s : State} {m : MillId} {r : Run} {j : SluJob} {f : Fin 128} {rest : List (Fin 128)}
    (hrun : (s.mills[m.val]).running = some r) (hslu : r.slu = some j) (hop : j.op ≠ .verify) (hf : j.todo = f :: rest) :
    vppLost s m = endSluice (onSluice s m fun _ => (s.mills[m.val]).sluice.onField f fun y => { y with state := .invalid }) m r stInternal 0x01 j := by
  simp only [vppLost, hrun, hslu, hop, hf, if_false]
  exact congrArg (endSluice · m r stInternal 0x01 j) (onMill_congr s m rfl)

/-- The end of a docket leaves the other Mills. -/
theorem endRun_other {s : State} {m d : MillId} (r : Run) (st : Byte) (sub mid low : Nat) (hd : d ≠ m)
    (hiso : (s.mills[m.val]).mb.iso = false) : (endRun s m r st sub mid low).mills[d.val] = s.mills[d.val] := by
  rw [endRun_open s m r _ _ _ _ hiso]
  exact vmod_other _ _ _ _ _ fun e => hd (Fin.ext e)

theorem endSluice_other {s : State} {m d : MillId} {r : Run} {st : Byte} {sub : Nat} {j : SluJob} (hd : d ≠ m) (habort : r.abort = none)
    (hiso : (s.mills[m.val]).mb.iso = false) : (endSluice s m r st sub j).mills[d.val] = s.mills[d.val] := by
  simp only [endSluice, habort]
  exact endRun_other r _ _ _ _ hd hiso

/-- The subcode of a DETAIL. -/
theorem mkDetail_sub {sub mid low : Nat} (h : sub < 256) : bitsOf (mkDetail sub mid low) 31 24 = sub := by
  simp only [bitsOf, mkDetail, img, BitVec.toNat_ofNat, Nat.shiftRight_eq_div_pow]
  omega

theorem setVpp_mill (s : State) (ok : Bool) (m : MillId) :
    (setVpp s ok).mills[m.val] = { s.mills[m.val] with sluice := { (s.mills[m.val]).sluice with vppOk := ok } } := by
  simp only [setVpp, Vector.getElem_map]

/-- Settles O21: polls, updates and the rail follow the rules above. -/
theorem compensationAndTheProgrammingRail : Obligations.CompensationAndTheProgrammingRail := by
  unfold Obligations.CompensationAndTheProgrammingRail
  intro s hup
  refine ⟨fun m t => ⟨live_next hup fun s => sensorPoll s m t, fun i => ⟨fun h => ?_, fun h => ?_⟩⟩, ?comp, ?rail⟩
  · rw [Vector.getElem_map]; exact tempCode_ok h
  · rw [Vector.getElem_map]; exact tempCode_failed h
  case comp =>
    intro m resid hquiet u dead v
    have hexec : exec (.compUpdate m resid) s = .next (settleErr (compUpdate s m resid)) := liveRows_next hup fun s => compUpdate s m resid
    refine ⟨fun hdue h => hexec.trans (next_of_quiet (compUpdate_quiet hdue h) hquiet), fun hdue hdead h => ?_, compDue_iff s u⟩
    rw [compUpdate_bell hdue hdead h] at hexec
    exact ⟨_, hexec, rfl, (raiseBell_reported ..).trans (settleErr_reported _)⟩
  case rail =>
    intro mv
    refine ⟨fun h => ⟨if_pos h, if_pos h⟩, fun hl hh => ?_, fun h => ?_, fun hl hh => ?_, fun h => ⟨fun hidle => ?_, ?lost⟩⟩
    · exact (if_neg (Nat.not_lt.mpr hh)).trans (congrArg _ (if_pos hl))
    · exact (if_neg (by omega)).trans (congrArg _ (if_neg (Nat.not_lt.mpr h)))
    · exact (if_neg (Nat.not_lt.mpr hh)).trans (congrArg _ (if_neg (Nat.not_lt.mpr hl)))
    · refine (vppFall_low h).trans (congrArg _ ?_)
      rw [foldl_still fun d => railStep_idle (hidle d)]; rfl
    case lost =>
      intro m r j f rest hidle hv hrun hslu hop hf habort hsat hiso
      have hstep : railStep s m = _ := (if_pos hv).trans (vppLost_job hrun hslu hop hf)
      obtain ⟨w, hend⟩ := endSluice_onSluice_ends (s := s) (m := m) ((s.mills[m.val]).sluice.onField f fun y => { y with state := .invalid })
        stInternal 0x01 (j := j) (if_neg hop) (if_neg hop) habort hsat hiso
      have hfold : (List.finRange 16).foldl railStep s = railStep s m :=
        foldl_once (P := fun t => ∀ d, d ≠ m → RailIdle t d) (fun t ht d hd => railStep_idle (ht d hd)) (List.nodup_finRange 16)
          (List.mem_finRange m) s hidle fun d hd => by
            have hsame : (railStep s m).mills[d.val] = s.mills[d.val] := by
              rw [hstep, endSluice_other hd habort ((onSluice_iso ..).trans hiso)]
              exact vmod_other _ _ _ _ _ fun e => hd (Fin.ext e)
            unfold RailIdle
            rw [hsame]
            exact hidle d hd
      rw [hstep] at hfold
      refine ⟨_, w, (vppFall_low h).trans (congrArg (fun t => Host.Outcome.next (setVpp t false)) hfold), hend.control, hend.status, hend.detail ▸ mkDetail_sub (by decide), hend.tag, ?_, ?_⟩
      · rw [setVpp_mill]; exact hend.running
      · rw [setVpp_mill]; exact congrArg (fun u : Sluice => { u with vppOk := false }) hend.sluice

end Sys2Proof.Machine
end

section
open Sys2Proof.Laws
namespace Sys2Proof.Machine

/-! ### Histograms and signature bands (04 R92 to R94) -/

/-- A sample counted where it goes. -/
def Hist.place (h : Hist) : BinAt → Hist
  | .bin i => { h with bins := vmod h.bins i fun c => bump c }
  | .under => { h with under := bump h.under }
  | .overs => { h with overs := bump h.overs }

/-- A sample that enters the moments. -/
def Hist.moments (h : Hist) (x : Word) : Hist :=
  { h with
    min := if flt x h.min then x else h.min
    max := if flt h.max x then x else h.max
    sum := dword ((dval h.sum).add (fval x))
    sumsq := dword ((dval h.sumsq).add (dval (dword ((fval x).mul (fval x))))) }

theorem place_count (h : Hist) (a : BinAt) : (h.place a).count = h.count := by cases a <;> rfl
theorem place_min (h : Hist) (a : BinAt) : (h.place a).min = h.min := by cases a <;> rfl
theorem place_max (h : Hist) (a : BinAt) : (h.place a).max = h.max := by cases a <;> rfl
theorem place_sum (h : Hist) (a : BinAt) : (h.place a).sum = h.sum := by cases a <;> rfl
theorem place_sumsq (h : Hist) (a : BinAt) : (h.place a).sumsq = h.sumsq := by cases a <;> rfl
theorem place_under (h : Hist) (a : BinAt) : (h.place a).under = if a = .under then bump h.under else h.under := by cases a <;> rfl
theorem place_overs (h : Hist) (a : BinAt) : (h.place a).overs = if a = .overs then bump h.overs else h.overs := by cases a <;> rfl
theorem place_bin (h : Hist) (a : BinAt) (i : Fin 64) : (h.place a).bins[i.val] = if a = .bin i then bump h.bins[i.val] else h.bins[i.val] := by
  cases a with
  | bin j =>
    refine (vmod_get ..).trans ?_
    simp [Fin.ext_iff, eq_comm]
  | under => rfl
  | overs => rfl

theorem sample_nan {h : Hist} {x : Word} {sat : Bool} (hen : h.en = true) (hnan : fisNan x = true) :
    h.sample x sat = { h with count := bump h.count }.place (h.binOf (fval x) sat) := by
  simp only [Hist.sample, hen, hnan, Bool.not_true, Bool.false_eq_true, if_false, if_true]
  rfl

theorem sample_number {h : Hist} {x : Word} {sat : Bool} (hen : h.en = true) (hnan : fisNan x = false) :
    h.sample x sat = ({ h with count := bump h.count }.place (h.binOf (fval x) sat)).moments x := by
  simp only [Hist.sample, hen, hnan, Bool.not_true, Bool.false_eq_true, if_false]
  rfl

/-- A NaN goes to underflow. -/
theorem binOf_nan (h : Hist) {x : Word} (hnan : fisNan x = true) : h.binOf (fval x) false = .under := by
  have hv : fval x = .nan := by
    unfold fisNan at hnan
    split at hnan
    · assumption
    · exact nomatch hnan
  unfold Hist.binOf
  rw [hv]
  cases h.mode <;> rfl

/-- The histogram after a sample that HCFG let in. -/
structure Sampled (old : Hist) (at_ : BinAt) (w : Word) (y : Hist) : Prop where
  count : y.count = bump old.count
  bins : ∀ i : Fin 64, y.bins[i.val] = if at_ = .bin i then bump old.bins[i.val] else old.bins[i.val]
  under : y.under = if at_ = .under then bump old.under else old.under
  overs : y.overs = if at_ = .overs then bump old.overs else old.overs
  nan : fisNan w = true → at_ = .under ∧ y.min = old.min ∧ y.max = old.max ∧ y.sum = old.sum ∧ y.sumsq = old.sumsq
  number : fisNan w = false → y.min = (if flt w old.min then w else old.min) ∧ y.max = (if flt old.max w then w else old.max) ∧
    y.sum = dword ((dval old.sum).add (fval w)) ∧ y.sumsq = dword ((dval old.sumsq).add (dval (dword ((fval w).mul (fval w)))))

theorem sample_sampled {h : Hist} (w : Word) (hen : h.en = true) : Sampled h (h.binOf (fval w) false) w (h.sample w false) := by
  cases hn : fisNan w with
  | true =>
    rw [sample_nan hen hn]
    exact ⟨place_count .., place_bin _ _, place_under .., place_overs ..,
      fun _ => ⟨binOf_nan h hn, place_min .., place_max .., place_sum .., place_sumsq ..⟩, fun h => (nomatch hn.symm.trans h)⟩
  | false =>
    rw [sample_number hen hn]
    refine ⟨place_count .., place_bin _ _, place_under .., place_overs .., fun h => (nomatch hn.symm.trans h), fun _ => ?_⟩
    simp only [Hist.moments, place_min, place_max, place_sum, place_sumsq, and_self]

theorem windowEnd_off {s : State} {m : MillId} {b : Fin 8} (h : ((s.mills[m.val]).bands[b.val]).en = false) : windowEnd s m b = s := by
  simp only [windowEnd, h, Bool.false_and, Bool.false_eq_true, if_false]

/-- The Mill after HCFG's own fields. -/
def Mill.hcfg (x : Mill) (h : Fin 4) (v : Word) : Mill :=
  { x with
    hists := vmod x.hists h fun y =>
      if bitOf v 31 then { Hist.reset with mode := bitOf v 1, en := bitOf v 0, lo := y.lo, width := y.width }
      else { y with mode := bitOf v 1, en := bitOf v 0 }
    bands := if bitOf v 31 then x.bands.map fun b => if b.hist = h then b.restart else b else x.bands }

theorem histCfg_eq (s : State) (m : MillId) (h : Fin 4) (v : Word) (l : List Word) :
    histCfg s m h v l = (l.map fun w => (w, false)).foldl (tallySample m h) (onMill s m fun x => x.hcfg h v) := rfl

/-- CLR leaves every band's enable. -/
theorem hcfg_bandsOff {x : Mill} (h : Fin 4) (v : Word) (hoff : ∀ b : Fin 8, (x.bands[b.val]).en = false) (b : Fin 8) :
    ((x.hcfg h v).bands[b.val]).en = false := by
  unfold Mill.hcfg
  cases bitOf v 31 with
  | false => exact hoff b
  | true =>
    simp only [if_true, Vector.getElem_map]
    split
    · exact hoff b
    · exact hoff b

theorem tallySample_bandsOff {s : State} {m : MillId} {h : Fin 4} (w : Word) (hen : ((s.mills[m.val]).hists[h.val]).en = true)
    (hoff : ∀ b : Fin 8, ((s.mills[m.val]).bands[b.val]).en = false) :
    tallySample m h s (w, false) = onMill s m fun x => { x with
      hists := vmod x.hists h fun y => y.sample w false
      bands := x.bands.map (bandSample h (((s.mills[m.val]).hists[h.val]).binOf (fval w) false)) } := by
  simp only [tallySample, hen, Bool.not_true, Bool.false_eq_true, if_false]
  rw [foldl_still fun b => windowEnd_off (hoff b)]

theorem hcfg_hist (x : Mill) (h : Fin 4) (v : Word) : (x.hcfg h v).hists[h.val] =
    { (if bitOf v 31 then Hist.reset else x.hists[h.val]) with
      mode := bitOf v 1, en := bitOf v 0, lo := (x.hists[h.val]).lo, width := (x.hists[h.val]).width } := by
  refine (vmod_self ..).trans ?_
  cases bitOf v 31 <;> rfl

theorem hcfg_sampled (x : Mill) (h : Fin 4) (v w : Word) (hen : bitOf v 0 = true) :
    Sampled (if bitOf v 31 then Hist.reset else x.hists[h.val]) (Hist.binOf { x.hists[h.val] with mode := bitOf v 1, en := true } (fval w) false) w
      (vmod (x.hcfg h v).hists h fun y => y.sample w false)[h.val] := by
  rw [vmod_self, hcfg_hist]
  obtain ⟨hcount, hbins, hunder, hovers, hnan, hnumber⟩ := sample_sampled (h := { (if bitOf v 31 then Hist.reset else x.hists[h.val]) with
      mode := bitOf v 1, en := bitOf v 0, lo := (x.hists[h.val]).lo, width := (x.hists[h.val]).width }) w hen
  exact ⟨hcount, hbins, hunder, hovers, hnan, hnumber⟩

theorem histCfg_sample {s : State} {m : MillId} {h : Fin 4} {v w : Word} (hen : bitOf v 0 = true)
    (hoff : ∀ b : Fin 8, ((s.mills[m.val]).bands[b.val]).en = false) :
    histCfg s m h v [w] = onMill s m fun x =>
      let y := x.hcfg h v
      { y with
        hists := vmod y.hists h fun y => y.sample w false
        bands := y.bands.map (bandSample h ((y.hists[h.val]).binOf (fval w) false)) } := by
  rw [histCfg_eq, List.map_singleton, List.foldl_cons, List.foldl_nil, tallySample_bandsOff w, onMill_onMill]
  · refine onMill_congr s m ?_
    rw [onMill_mills, vmod_self]
  · rw [onMill_mills, vmod_self, hcfg_hist]; exact hen
  · rw [onMill_mills, vmod_self]; exact hcfg_bandsOff h v hoff

theorem windowEnd_full {s : State} {m : MillId} {b : Fin 8} (hen : ((s.mills[m.val]).bands[b.val]).en = true)
    (hfull : ((s.mills[m.val]).bands[b.val]).length ≤ ((s.mills[m.val]).bands[b.val]).seen) :
    windowEnd s m b =
      let t := onMill s m fun y => { y with bands := vmod y.bands b SigBand.finish }
      if ((s.mills[m.val]).bands[b.val]).violates then raiseBell t ((s.mills[m.val]).bands[b.val]).bell else t := by
  simp only [windowEnd, hen, decide_eq_true hfull, Bool.and_self, if_true]

theorem finish_inside {b : SigBand} (h : b.violates = false) : b.finish = { b with lastFrac := b.frac, seen := 0, hits := 0 } := by
  simp only [SigBand.finish, h, Bool.false_eq_true, if_false]

theorem finish_outside {b : SigBand} (h : b.violates = true) :
    b.finish = { b with lastFrac := b.frac, viol := bump b.viol, seen := 0, hits := 0 } := by
  simp only [SigBand.finish, h, if_true]

/-- Settles O22: HCFG, a sample and a window's end are the rules above. -/
theorem histogramsAndSignatureBands : Obligations.HistogramsAndSignatureBands := by
  unfold Obligations.HistogramsAndSignatureBands
  intro s m hup hquiet x
  refine ⟨fun h v => ⟨fun hc => ?clear, fun hc => ?write, ?sample⟩, ?window⟩
  case clear =>
    refine (liveRows_next hup fun s => histCfg s m h v []).trans (next_of_quiet ((histCfg_eq ..).trans (onMill_congr s m ?_)) hquiet)
    simp only [Mill.hcfg, hc, if_true]
    rfl
  case write =>
    refine (liveRows_next hup fun s => histCfg s m h v []).trans (next_of_quiet ((histCfg_eq ..).trans (onMill_congr s m ?_)) hquiet)
    simp only [Mill.hcfg, hc, Bool.false_eq_true, if_false]
  case sample =>
    intro w hen hoff
    have hexec : exec (.histClear m h v [w]) s = .next _ := (liveRows_next hup fun s => histCfg s m h v [w]).trans
      (next_of_quiet (histCfg_sample hen hoff) hquiet)
    refine ⟨_, hexec, onMill_congr s m ?_, ?_⟩
    · rw [onMill_mills, vmod_self]; rfl
    · rw [onMill_mills, vmod_self]
      refine ⟨fun g hg => ?_, ?_⟩
      · refine (vmod_other _ _ _ _ _ fun e => hg (Fin.ext e)).trans (vmod_other _ _ _ _ _ fun e => hg (Fin.ext e))
      · intro y old at_
        have hs : Sampled old at_ w y := hcfg_sampled x h v w hen
        exact ⟨hs.count, hs.bins, hs.under, hs.overs, hs.nan, hs.number⟩
  case window =>
    intro b y frac hen hfull
    have hexec : exec (.sigWindowEnd m b) s = .next (settleErr (windowEnd s m b)) := liveRows_next hup fun s => windowEnd s m b
    have hviol : y.violates = (flt frac y.fracMin || flt y.fracMax frac) := rfl
    refine ⟨fun ⟨hl, hh⟩ => hexec.trans (next_of_quiet ?_ hquiet), fun h => ⟨_, hexec, congrArg settleErr ?_⟩⟩
    · refine (windowEnd_full hen hfull).trans ((if_neg ?_).trans ?_)
      · rw [hviol, hl, hh]; exact Bool.false_ne_true
      · refine onMill_congr s m ?_
        refine congrArg (fun z => { s.mills[m.val] with bands := z }) (vmod_congr _ b ?_)
        exact finish_inside (hviol.trans (by rw [hl, hh]; rfl))
    · refine (windowEnd_full hen hfull).trans ((if_pos ?_).trans ?_)
      · rw [hviol, Bool.or_eq_true]; exact h
      · refine congrArg (raiseBell · y.bell) (onMill_congr s m ?_)
        refine congrArg (fun z => { s.mills[m.val] with bands := z }) (vmod_congr _ b ?_)
        exact finish_outside (hviol.trans (by rwa [Bool.or_eq_true]))

end Sys2Proof.Machine
end

section
open Sys2Proof.Laws
namespace Sys2Proof.Machine

/-! ### Row requests at their interface (05 R98, 11 R258, R270) -/

/-- An interface with a route back answers a request whose tag is not suppressed. -/
theorem respond_routed {s : State} {req : Packet} (st : NetStatus) (data : List Byte)
    (hsup : req ∉ (s.net.nis[req.dst.val]).suppressed) (hroute : routeValid (s.net.nis[req.dst.val]).routes[req.src.val] = true) :
    respond s req st data = onNet (onNi s req.dst fun x => { x with accepted := x.accepted.erase req }) fun n =>
      { n with sent := n.sent ++ [responseOf s.net.nis[req.dst.val] req st data] } := by
  have hc : (s.net.nis[req.dst.val]).suppressed.contains req = false := by simpa using hsup
  simp only [respond, hc, hroute, Bool.false_eq_true, if_false, if_true]

/-- A response carries its interface's epoch and routes alone. -/
theorem responseOf_congr {x y : Ni} (req : Packet) (st : NetStatus) (data : List Byte) (he : x.epoch = y.epoch) (hr : x.routes = y.routes) :
    responseOf x req st data = responseOf y req st data := by
  simp only [responseOf, he, hr]

/-- The answer of an interface whose counts a command has changed. -/
theorem respond_onNi {s : State} {req : Packet} {f : Ni → Ni} (st : NetStatus) (data : List Byte)
    (hs : (f s.net.nis[req.dst.val]).suppressed = (s.net.nis[req.dst.val]).suppressed)
    (hr : (f s.net.nis[req.dst.val]).routes = (s.net.nis[req.dst.val]).routes) (hsup : req ∉ (s.net.nis[req.dst.val]).suppressed)
    (hroute : routeValid (s.net.nis[req.dst.val]).routes[req.src.val] = true) :
    respond (onNi s req.dst f) req st data = onNet (onNi (onNi s req.dst f) req.dst fun x => { x with accepted := x.accepted.erase req }) fun n =>
      { n with sent := n.sent ++ [responseOf (f s.net.nis[req.dst.val]) req st data] } := by
  have hni : (onNi s req.dst f).net.nis[req.dst.val] = f s.net.nis[req.dst.val] := vmod_self ..
  refine (respond_routed st data ?_ ?_).trans ?_
  · rw [hni, hs]; exact hsup
  · rw [hni, hr]; exact hroute
  · rw [hni]

/-- A packet of an issued tag is on its way. -/
theorem rowPacket_issued {s : State} {p : Packet} (f : State → State) (h : ((s.net.nis[p.src.val]).slotOf p.slot p.gen).isSome = true) :
    rowPacket s p f = if knownKind p.kind then f (takePacket s p) else logNi (takePacket s p) p.dst .ok p p.src := by
  have hi : issue s p = (true, s) := by simp only [issue, h, Bool.true_or, if_true]
  simp only [rowPacket, hi, Bool.not_true, Bool.false_eq_true, if_false]

theorem admitted_iff {s : State} {p : Packet} :
    admitted s p = true ↔ (s.net.nis[p.dst.val]).admits = true ∧ p.epoch = (s.net.nis[p.dst.val]).epoch := by
  simp only [admitted, Bool.and_eq_true, decide_eq_true_eq]

theorem onBank_quiet {s : State} {b : BankRef} {f : Bank → Bank} (h : s.granary.errPend = false) : (onBank s b f).granary.errPend = false := by
  cases b <;> exact h

section
variable {s : State} {p : Packet}

theorem rowArrives_refused (hadm : admitted s p = false) : rowArrives s p = refuse s p := by
  simp only [rowArrives, hadm, Bool.not_false, if_true]

variable (hadm : admitted s p = true)
include hadm

theorem rowArrives_open {b : BankRef} (hb : bankRefOf p.addr.toNat = some b) (hni : niOf p.addr.toNat = p.dst)
    (hopen : targetOpen s p.addr.toNat = true) :
    rowArrives s p = onBank (accept s p) b fun x => { x with queue := x.queue ++ [.narrow p] } := by
  have ho : targetOpen (accept s p) p.addr.toNat = true := hopen
  simp only [rowArrives, hadm, hb, hni, ho, Bool.not_true, Bool.false_eq_true, if_false, ne_eq, not_true_eq_false, if_true]

theorem rowArrives_closed {b : BankRef} (hb : bankRefOf p.addr.toNat = some b) (hni : niOf p.addr.toNat = p.dst)
    (hopen : targetOpen s p.addr.toNat = false) : rowArrives s p = respond (accept s p) p .offline [] := by
  have ho : targetOpen (accept s p) p.addr.toNat = false := hopen
  simp only [rowArrives, hadm, hb, hni, ho, Bool.not_true, Bool.false_eq_true, if_false, ne_eq, not_true_eq_false]

theorem rowArrives_bound (h : bankRefOf p.addr.toNat = none ∨ niOf p.addr.toNat ≠ p.dst) :
    rowArrives s p = respond (accept s p) p .bound [] := by
  simp only [rowArrives, hadm, Bool.not_true, Bool.false_eq_true, if_false]
  split
  · rfl
  · rename_i b hb
    rw [if_pos (h.resolve_left fun e => by rw [e] at hb; cases hb)]
end

/-- Settles O23: a row packet of an issued tag leaves its wires and arrives by the rules above. -/
theorem rowRequestsReachTheirBank : Obligations.RowRequestsReachTheirBank := by
  unfold Obligations.RowRequestsReachTheirBank
  intro s p hup hquiet hslot u ni a both ends answer
  have hrd {t : State} (h : rowPacket s p (fun s => rowArrives s p) = t) (hq : t.granary.errPend = false) : exec (.rdRow p) s = .next t :=
    (liveRows_next hup fun s => rowPacket s p fun s => rowArrives s p).trans (next_of_quiet h hq)
  have hwr {ecc : Ecc} {t : State} (h : rowPacket s p (fun s => if ecc = .bad && admitted s p then
      respond (onNi s p.dst fun x => { x with e2eUe := bump x.e2eUe }) p .uncorr [] else rowArrives s p) = t)
      (hq : t.granary.errPend = false) : exec (.wrRow p ecc) s = .next t :=
    (liveRows_next hup fun s => rowPacket s p fun s => if ecc = .bad && admitted s p then
      respond (onNi s p.dst fun x => { x with e2eUe := bump x.e2eUe }) p .uncorr [] else rowArrives s p).trans (next_of_quiet h hq)
  have hboth {t : State} (hk : knownKind p.kind = true) (h : rowArrives u p = t) (hq : t.granary.errPend = false) : both t := by
    have hpack : rowPacket s p (fun s => rowArrives s p) = t := (rowPacket_issued _ hslot).trans ((if_pos hk).trans h)
    exact ⟨hrd hpack hq, hwr (ecc := .good) ((congrArg _ (funext fun s => if_neg (by simp))).trans hpack) hq⟩
  refine ⟨fun hk => ?unknown, fun hk hadmits hep => ⟨fun b hb hni hopen => ?opened, fun hsup hroute => ⟨fun b hb hni hopen => ?closed, fun h => ?bound, ?bad⟩⟩,
    fun hk hno hsup hroute => ?refused⟩
  case unknown =>
    have hpack (f : State → State) : rowPacket s p f = logNi u p.dst .ok p p.src :=
      (rowPacket_issued f hslot).trans (if_neg (by rw [hk]; exact Bool.false_ne_true))
    exact ⟨⟨hrd (hpack _) hquiet, hwr (hpack _) hquiet⟩, hwr (hpack _) hquiet⟩
  case opened =>
    have hadm : admitted u p = true := admitted_iff.mpr ⟨hadmits, hep⟩
    exact hboth hk (rowArrives_open hadm hb hni hopen) (onBank_quiet hquiet)
  case closed =>
    have hadm : admitted u p = true := admitted_iff.mpr ⟨hadmits, hep⟩
    exact hboth hk ((rowArrives_closed hadm hb hni hopen).trans (respond_onNi _ _ rfl rfl hsup hroute)) hquiet
  case bound =>
    have hadm : admitted u p = true := admitted_iff.mpr ⟨hadmits, hep⟩
    exact hboth hk ((rowArrives_bound hadm h).trans (respond_onNi _ _ rfl rfl hsup hroute)) hquiet
  case bad =>
    have hadm : admitted u p = true := admitted_iff.mpr ⟨hadmits, hep⟩
    refine hwr ((rowPacket_issued _ hslot).trans ((if_pos hk).trans ((if_pos (by rw [hadm]; rfl)).trans
      ((respond_onNi (s := u) (req := p) _ _ rfl rfl hsup hroute).trans ?_)))) hquiet
    rw [onNi_onNi]; rfl
  case refused =>
    have hadm : admitted u p = false := by
      rw [Bool.eq_false_iff]
      exact fun h => (admitted_iff.mp h).elim fun h1 h2 => hno.elim (fun e => Bool.false_ne_true (e.symm.trans h1)) fun e => e h2
    have href : refuse u p = _ := (respond_onNi (s := u) (req := p) _ _ rfl rfl hsup hroute).trans (by rw [onNi_onNi])
    have harr : rowArrives u p = _ := (rowArrives_refused hadm).trans href
    exact ⟨hboth hk harr hquiet, hwr ((rowPacket_issued _ hslot).trans ((if_pos hk).trans ((if_neg (by rw [hadm]; exact fun h => nomatch h)).trans harr))) hquiet⟩

end Sys2Proof.Machine
end

section
open Sys2Proof.Laws
namespace Sys2Proof.Machine

/-! ### The slots of a bank (05 R103, R108 to R110) -/

theorem onBank_mem (s : State) (b : BankRef) (f : Bank → Bank) : (onBank s b f).mem = s.mem := rfl
theorem onBank_net (s : State) (b : BankRef) (f : Bank → Bank) : (onBank s b f).net = s.net := rfl
theorem onBank_targetOpen (s : State) (b : BankRef) (f : Bank → Bank) (a : Nat) : targetOpen (onBank s b f) a = targetOpen s a := by
  cases b <;> rfl
theorem onBank_poisoned (s : State) (b : BankRef) (f : Bank → Bank) (a : Nat) : poisoned (onBank s b f) a = poisoned s a := by
  cases b <;> rfl
theorem onBank_free (s : State) (b : BankRef) (f : Bank → Bank) : (onBank s b f).free = s.free := rfl

theorem logError_mem (s : State) (a : Nat) (uncorr poison rowpar : Bool) (word : Nat) : (logError s a uncorr poison rowpar word).mem = s.mem := by
  unfold logError
  split
  · rfl
  · split <;> rfl

theorem respond_mem (s : State) (req : Packet) (st : NetStatus) (data : List Byte) : (respond s req st data).mem = s.mem := by
  unfold respond; dsimp only
  split
  · rfl
  · split <;> rfl

theorem respond_granary (s : State) (req : Packet) (st : NetStatus) (data : List Byte) : (respond s req st data).granary = s.granary := by
  unfold respond; dsimp only
  split
  · rfl
  · split <;> rfl

/-- A clean read of a row that is not poisoned. -/
theorem readOutcome_clean {s : State} {a : Nat} (h : poisoned s a = false) : readOutcome s a .clean = (.ok, s) := by
  simp only [readOutcome, h, Bool.false_eq_true, if_false]

/-- A poisoned row. -/
theorem readOutcome_poisoned {s : State} {a : Nat} (ecc : RowEcc) (h : poisoned s a = true) :
    readOutcome s a ecc = (.uncorr, logError s a true true false 0) := by
  simp only [readOutcome, h, if_true]

/-- The state in which a granted request is served. -/
def grantState (s : State) (ref : BankRef) (r : BankReq) : State :=
  onBank (onBank s ref fun x => { x with slots := x.slots + 1 }) ref fun x => x.after r

/-- A slot that neither the clear engine nor the migration engine takes. -/
def SlotFree (s : State) (ref : BankRef) : Prop :=
  match ref with
  | .hop _ _ => True
  | .gran i => ¬ ((bankOf s ref).slots % 1000 = 999 ∧ quadClearing s (quadOf i) = true) ∧
      ¬ ((bankOf s ref).slots % 16 = 8 ∧ (s.granary.spares[(quadOf i).val]).migrating = true)

theorem slotGrant_free {s : State} {ref : BankRef} (ecc : RowEcc) (h : SlotFree s ref) :
    slotGrant s ref ecc = match nextReq (bankOf s ref) with
      | some r => serve (grantState s ref r) ref r ecc
      | none => onBank s ref fun x => { x with slots := x.slots + 1 } := by
  cases ref with
  | hop m i => rfl
  | gran i =>
    obtain ⟨hc, hm⟩ := h
    have h1 : ((bankOf s (.gran i)).slots % 1000 = 999 && quadClearing s (quadOf i)) = false := by
      rw [Bool.eq_false_iff]; simpa using hc
    have h2 : ((bankOf s (.gran i)).slots % 16 = 8 && (s.granary.spares[(quadOf i).val]).migrating) = false := by
      rw [Bool.eq_false_iff]; simpa using hm
    unfold slotGrant
    refine (if_neg ?_).trans ((if_neg ?_).trans rfl)
    · exact Bool.eq_false_iff.mp h1
    · show ¬ ((((bankOf s (.gran i)).slots % 16 = 8 && (s.granary.spares[(quadOf i).val]).migrating) && _) && _) = true
      rw [h2]; exact Bool.false_ne_true

theorem slotGrant_clears {s : State} {i : BankId} (ecc : RowEcc) (hslot : (bankOf s (.gran i)).slots % 1000 = 999)
    (hc : quadClearing s (quadOf i) = true) : slotGrant s (.gran i) ecc = onBank s (.gran i) fun x => { x with slots := x.slots + 1 } := by
  unfold slotGrant
  refine if_pos ?_
  show (decide ((bankOf s (.gran i)).slots % 1000 = 999) && quadClearing s (quadOf i)) = true
  rw [hc, decide_eq_true hslot]; rfl

theorem migrateRow_clean {s : State} {i : BankId} {row : Nat} (h : poisoned s (bankAddr i row) = false) : migrateRow s i row .clean = s := by
  simp only [migrateRow, readOutcome_clean h]
  exact onGran_same s rfl

theorem slotGrant_migrates {s : State} {i : BankId} (hno : ¬ ((bankOf s (.gran i)).slots % 1000 = 999 ∧ quadClearing s (quadOf i) = true))
    (hslot : (bankOf s (.gran i)).slots % 16 = 8) (hm : (s.granary.spares[(quadOf i).val]).migrating = true)
    (hb : (s.granary.spares[(quadOf i).val]).lbank = inQuad i) (hp : (s.granary.spares[(quadOf i).val]).progress < 6143)
    (hpois : poisoned s (bankAddr i (s.granary.spares[(quadOf i).val]).progress) = false) :
    slotGrant s (.gran i) .clean = onGran (onBank s (.gran i) fun x => { x with slots := x.slots + 1 }) fun g =>
      { g with spares := vmod g.spares (quadOf i) fun y => { y with progress := y.progress + 1 } } := by
  have h1 : ((bankOf s (.gran i)).slots % 1000 = 999 && quadClearing s (quadOf i)) = false := by
    rw [Bool.eq_false_iff]; simpa using hno
  have h2 : ((bankOf s (.gran i)).slots % 16 = 8 && (s.granary.spares[(quadOf i).val]).migrating &&
      decide ((s.granary.spares[(quadOf i).val]).lbank = inQuad i) && decide ((s.granary.spares[(quadOf i).val]).progress < 6143)) = true := by
    simp only [hslot, hm, hb, hp, decide_true, Bool.and_self]
  unfold slotGrant
  refine (if_neg (Bool.eq_false_iff.mp h1)).trans ((if_pos h2).trans (congrArg (onGran · _) (migrateRow_clean hpois)))

section
variable {s : State} {ref : BankRef} {p : Packet} (hopen : targetOpen s p.addr.toNat = true) (hal : p.addr.toNat % 512 = 0)
include hopen hal

theorem serve_read_clean (hk : p.kind = 0) (hp : poisoned s p.addr.toNat = false) :
    serve s ref (.narrow p) .clean = respond s p .ok (readBytes s.mem p.addr.toNat 512) := by
  have ha : p.addr.toNat / 512 * 512 = p.addr.toNat := by omega
  simp only [serve, ha, hopen, hk, readOutcome_clean hp, Bool.not_true, Bool.false_eq_true, if_false, if_true]

theorem serve_read_poisoned (ecc : RowEcc) (hk : p.kind = 0) (hp : poisoned s p.addr.toNat = true) :
    serve s ref (.narrow p) ecc = respond (logError s p.addr.toNat true true false 0) p .uncorr (readBytes s.mem p.addr.toNat 512) := by
  have ha : p.addr.toNat / 512 * 512 = p.addr.toNat := by omega
  simp only [serve, ha, hopen, hk, readOutcome_poisoned _ hp, logError_mem, Bool.not_true, Bool.false_eq_true, if_false, if_true]

theorem serve_write (ecc : RowEcc) (hk : p.kind ≠ 0) :
    serve s ref (.narrow p) ecc = respond (rowWritten (if timedOut s p then looseRow s p.addr.toNat else
      { s with mem := writeBytes s.mem p.addr.toNat (p.payload.take 512) }) p.addr.toNat) p .ok [] := by
  have ha : p.addr.toNat / 512 * 512 = p.addr.toNat := by omega
  simp only [serve, ha, hopen, hk, Bool.not_true, Bool.false_eq_true, if_false]
  split <;> rfl
end

/-- A row written whole is not poisoned. -/
theorem rowWritten_unpoisoned (s : State) (a : Nat) : poisoned (rowWritten s a) a = false := by
  simp [poisoned, rowWritten, onGran]

/-- A row whose contents are left open leaves every other byte. -/
theorem looseRow_other {s : State} {a b : Nat} (ha : a % 512 = 0) (h : b < a ∨ a + 512 ≤ b) :
    readByte (looseRow s a).mem b = readByte s.mem b := by
  cases hm : mappedRow a with
  | false => simp only [looseRow, hm, Bool.false_eq_true, if_false]
  | true =>
    simp only [looseRow, hm, if_true, draw]
    refine readByte_writeBytes_other ?_
    rw [length_leBytes]; omega

theorem looseRow_granary (s : State) (a : Nat) : (looseRow s a).granary = s.granary := by
  unfold looseRow; split <;> rfl

section
variable {s : State} {i : BankId}

theorem patrolRead_waits (ecc : RowEcc) (h : bitOf s.granary.scrubCfg 31 = false ∨ (now s).toNat <
      (bankOf s (.gran i)).patrolFrom.toNat + (bankOf s (.gran i)).patrolRow * patrolNs s.granary.scrubCfg / 6144) :
    patrolRead s i ecc = s := by
  unfold patrolRead
  refine if_pos ?_
  rcases h with h | h
  · rw [h]; rfl
  · rw [Bool.or_eq_true]
    refine Or.inr ?_
    rw [Bool.not_eq_true', Bool.eq_false_iff, Ne, elapsed_iff]
    exact Nat.not_le.mpr h

theorem patrolRead_clean (hen : bitOf s.granary.scrubCfg 31 = true)
    (hdue : (bankOf s (.gran i)).patrolFrom.toNat + (bankOf s (.gran i)).patrolRow * patrolNs s.granary.scrubCfg / 6144 ≤ (now s).toNat)
    (hrow : (bankOf s (.gran i)).patrolRow < 6143) (hp : poisoned s (bankAddr i (bankOf s (.gran i)).patrolRow) = false) :
    patrolRead s i .clean = onBank s (.gran i) fun x => { x with patrolRow := (bankOf s (.gran i)).patrolRow + 1 } := by
  have hd := (elapsed_iff s (bankOf s (.gran i)).patrolFrom ((bankOf s (.gran i)).patrolRow * patrolNs s.granary.scrubCfg / 6144)).mpr hdue
  unfold bankOf at hd hrow hp
  dsimp only at hd hrow hp
  simp only [patrolRead, hen, hd, readOutcome_clean hp, Bool.not_true, Bool.or_self, Bool.false_eq_true, if_false, ite_self]
  refine onGran_congr s (congrArg (fun z => { s.granary with banks := z }) (vmod_congr _ i ?_))
  exact if_pos hrow
end

/-- Settles O24: the slot's order is that of `nextReq`, and what it grants acts by the rules above. -/
theorem bankSlotsGrantInOrder : Obligations.BankSlotsGrantInOrder := by
  unfold Obligations.BankSlotsGrantInOrder
  intro s ref hup hquiet x narrow port counted taken free
  obtain ⟨horder, hempty⟩ := nextReq_spec x
  have hexec (ecc : RowEcc) : exec (.bankSlotGrant ref ecc) s = .next (settleErr (slotGrant s ref ecc)) :=
    liveRows_next hup fun s => slotGrant s ref ecc
  have hquietB {t : State} {f : Bank → Bank} (h : t.granary.errPend = false) : (onBank t ref f).granary.errPend = false := onBank_quiet h
  refine ⟨horder, hempty, fun hfree ecc => ?free, ?engines, ?writeback, ?patrol⟩
  case free =>
    have hslot (ecc : RowEcc) {r : BankReq} (hr : nextReq x = some r) : slotGrant s ref ecc = serve (taken r) ref r ecc := by
      have hr' : nextReq (bankOf s ref) = some r := hr
      exact (slotGrant_free ecc hfree).trans (by rw [hr']; rfl)
    have htaken (r : BankReq) : (taken r).granary.errPend = false := hquietB (hquietB hquiet)
    have hopenT (r : BankReq) (a : Nat) : targetOpen (taken r) a = targetOpen s a := by simp only [taken, counted, onBank_targetOpen]
    have hpoisT (r : BankReq) (a : Nat) : poisoned (taken r) a = poisoned s a := by simp only [taken, counted, onBank_poisoned]
    refine ⟨fun hq => ?_, fun p hr hopen hal => ⟨fun hk hp => ?_, fun hk hp => ?_, fun hk => ?_⟩, fun m row hr => ?_⟩
    · have hn : nextReq (bankOf s ref) = none := hempty.mp hq
      exact (hexec ecc).trans (next_of_quiet ((slotGrant_free ecc hfree).trans (by rw [hn])) (hquietB hquiet))
    · refine (hexec _).trans (next_of_quiet ((hslot _ hr).trans (serve_read_clean ((hopenT ..).trans hopen) hal hk ((hpoisT ..).trans hp))) ?_)
      rw [respond_granary]; exact htaken _
    · exact (hexec _).trans (congrArg _ (congrArg settleErr ((hslot _ hr).trans (serve_read_poisoned ((hopenT ..).trans hopen) hal ecc hk ((hpoisT ..).trans hp)))))
    · have hserve := (hslot ecc hr).trans (serve_write ((hopenT ..).trans hopen) hal ecc hk)
      have hgens : timedOut (taken (.narrow p)) p = decide ((s.net.nis[p.src.val]).gens[p.slot.val] ≠ p.gen) := rfl
      have hrow (u : State) (h : u.granary.errPend = false) : (respond (rowWritten u p.addr.toNat) p .ok []).granary.errPend = false := by
        rw [respond_granary]; exact h
      have hclean (u : State) : poisoned (respond (rowWritten u p.addr.toNat) p .ok []) p.addr.toNat = false := by
        unfold poisoned; rw [respond_granary]; exact rowWritten_unpoisoned u _
      rw [hgens] at hserve
      by_cases hg : (s.net.nis[p.src.val]).gens[p.slot.val] = p.gen
      · rw [decide_eq_false (not_not_intro hg)] at hserve
        refine ⟨_, (hexec ecc).trans (next_of_quiet hserve (hrow _ (htaken _))), hclean _, fun _ => ?_, fun h => absurd hg h⟩
        rw [respond_mem]; rfl
      · rw [decide_eq_true hg] at hserve
        refine ⟨_, (hexec ecc).trans (next_of_quiet hserve (hrow _ ?_)), hclean _, fun h => absurd h hg, fun _ b hb => ?_⟩
        · rw [if_pos rfl, looseRow_granary]; exact htaken _
        · rw [respond_mem, rowWritten_mem, if_pos rfl]
          exact looseRow_other hal hb
    · exact (hexec _).trans (next_of_quiet ((hslot _ hr).trans rfl) (htaken _))
  case engines =>
    intro i ecc href
    subst href
    exact ⟨fun hs hc => (hexec ecc).trans (next_of_quiet (slotGrant_clears ecc hs hc) hquiet),
      fun hno hs hm hb hp hpois => (hexec _).trans (next_of_quiet (slotGrant_migrates hno hs hm hb hp hpois) hquiet)⟩
  case writeback => exact live_next hup fun s => ceWriteback s ref
  case patrol =>
    intro i ecc href row due
    subst href
    have hex (ecc : RowEcc) : exec (.patrolScrubRead i ecc) s = .next (settleErr (patrolRead s i ecc)) := liveRows_next hup fun s => patrolRead s i ecc
    exact ⟨fun h => (hex _).trans (next_of_quiet (patrolRead_waits ecc h) hquiet),
      fun hen hdue hrow hp => (hex _).trans (next_of_quiet (patrolRead_clean hen hdue hrow hp) hquiet)⟩

end Sys2Proof.Machine
end

section
open Sys2Proof.Laws
namespace Sys2Proof.Machine

/-! ### The bank engines (05 R113 to R117) -/

/-- The state in which an engine's docket runs: the engine is free. -/
def engineFreed (s : State) (q : QuadId) : State := onGran s fun g => { g with engine := vmod g.engine q fun _ => none }

theorem engineNext_takes {s : State} {q : QuadId} {j : Job} {rest : List Job} (he : s.granary.engine[q.val] = none)
    (hq : s.granary.engineQ[q.val] = j :: rest) :
    engineNext s q = onGran s fun g =>
      { g with
        engineQ := vmod g.engineQ q fun _ => rest
        engine := vmod g.engine q fun _ =>
          some { job := j, src := none, dst := 0, rows := j.words[8].toNat, doneRows := 0, started := now s } } := by
  simp only [engineNext, he, hq]

theorem engineRun_of {s : State} {q : QuadId} {e : EngineJob} {o : Opcode} (f : State → EngineJob → State)
    (he : s.granary.engine[q.val] = some e) (ho : wOpcode e.job.words = some o) : engineRun s q o f = f (engineFreed s q) e := by
  simp only [engineRun, he, ho, if_true]
  rfl

section
variable {s : State} {e : EngineJob} (hstop : jobStop s e.job = none)
include hstop

theorem fillJob_badRange (h : badRange e.job.words [copyDst e.job.words] = true) : fillJob s e = engineDone s e stBound 0x13 0 := by
  simp only [fillJob, hstop, h, if_true]

theorem fillJob_outside (h : badRange e.job.words [copyDst e.job.words] = false)
    (hd : (localPart s.flume.nodeId (copyDst e.job.words)).bind (jobRange s e) = none) : fillJob s e = engineDone s e stBound 0x08 0 := by
  simp only [fillJob, hstop, h, hd, Bool.false_eq_true, if_false]

theorem fillJob_fills {d : Nat} (h : badRange e.job.words [copyDst e.job.words] = false)
    (hd : (localPart s.flume.nodeId (copyDst e.job.words)).bind (jobRange s e) = some d) (hal : d % 512 = 0)
    (hrows : rowsOk s none d (512 * e.rowCount)) (hw : Memory.wf s.mem = true) :
    ∃ u, fillJob s e = engineDone u e stOk 0 e.rowCount ∧ RowsOnly s u ∧
      (∀ i, i < 512 * e.rowCount → readByte u.mem (d + i) = BitVec.ofNat 8 ((e.job.words[9]).toNat / 256 ^ (i % 4))) ∧
      (∀ a, (a < d ∨ d + 512 * e.rowCount ≤ a) → readByte u.mem a = readByte s.mem a) := by
  obtain ⟨u, hgo, hrest, hin, hout⟩ := fillGo_ok (row := patternRow e.job.words[9]) hal (patternRow_length _) e.rowCount 0 s
    (fun i _ hi => placeStatus_of_rowStatus (hrows.row (by omega))) hw
  refine ⟨u, ?_, hrest, fun i hi => ?_, fun a ha => hout a (by omega)⟩
  · simp only [fillJob, hstop, h, hd, Bool.false_eq_true, if_false, hgo, engineReport]
    rw [Nat.zero_add]; rfl
  · have h := hin i hi
    rw [patternRow_get, show i % 512 % 4 = i % 4 by omega] at h
    exact h

theorem copyJob_badRange (net : NetStatus) (h : badRange e.job.words [copySrc e.job.words, copyDst e.job.words] = true) :
    copyJob s e net = engineDone s e stBound 0x13 0 := by
  simp only [copyJob, hstop, h, if_true]

variable {a b : Nat} (net : NetStatus) (h : badRange e.job.words [copySrc e.job.words, copyDst e.job.words] = false)
  (ha : localPart s.flume.nodeId (copySrc e.job.words) = some a) (hb : localPart s.flume.nodeId (copyDst e.job.words) = some b)
include h ha hb

theorem copyJob_here : copyJob s e net = copyHere s e a b := by
  simp only [copyJob, hstop, h, ha, hb, Bool.false_eq_true, if_false]
end

theorem jobMeets_eq {s : State} {e : EngineJob} {a b x y : Nat} (hx : jobRange s e a = some x) (hy : jobRange s e b = some y) :
    jobMeets s e a b = rangesMeet x y (512 * e.rowCount) := by
  simp only [jobMeets, jobAddr, effAddr_of_effRange hx, effAddr_of_effRange hy]

theorem copyHere_meets {s : State} {e : EngineJob} {a b x y : Nat} (hx : jobRange s e a = some x) (hy : jobRange s e b = some y)
    (h : x < y + 512 * e.rowCount ∧ y < x + 512 * e.rowCount) : copyHere s e a b = engineDone s e stBound 0x13 0 := by
  refine if_pos ?_
  rw [jobMeets_eq hx hy]
  simp only [rangesMeet, h.1, h.2, decide_true, Bool.and_self]

theorem copyHere_copies {s : State} {e : EngineJob} {a b x y : Nat} (hx : jobRange s e a = some x) (hy : jobRange s e b = some y)
    (hxa : x % 512 = 0) (hya : y % 512 = 0) (h : y + 512 * e.rowCount ≤ x ∨ x + 512 * e.rowCount ≤ y)
    (hsrc : rowsOk s none x (512 * e.rowCount)) (hdst : rowsOk s none y (512 * e.rowCount)) (hw : Memory.wf s.mem = true) :
    ∃ u, copyHere s e a b = engineDone u e stOk 0 e.rowCount ∧ RowsOnly s u ∧
      (∀ i, i < 512 * e.rowCount → readByte u.mem (y + i) = readByte s.mem (x + i)) ∧
      (∀ z, (z < y ∨ y + 512 * e.rowCount ≤ z) → readByte u.mem z = readByte s.mem z) := by
  have hmeet : jobMeets s e a b = false := by
    rw [jobMeets_eq hx hy, Bool.eq_false_iff]
    simp only [rangesMeet, ne_eq, Bool.and_eq_true, decide_eq_true_eq]
    omega
  obtain ⟨u, hgo, hrest, hin, hout⟩ := copyGo_ok hxa hya e.rowCount 0 s (by omega) (fun i _ hi => hsrc.row (by omega))
    (fun i _ hi => placeStatus_of_rowStatus (hdst.row (by omega))) hw
  refine ⟨u, ?_, hrest, fun i hi => hin i hi, fun z hz => hout z (by omega)⟩
  simp only [copyHere, hmeet, hx, hy, hgo, Bool.false_eq_true, if_false, engineReport]
  rw [Nat.zero_add]; rfl

/-- Settles O25: the engine's dockets end by the rules above. -/
theorem bankEnginesFillAndCopy : Obligations.BankEnginesFillAndCopy := by
  unfold Obligations.BankEnginesFillAndCopy
  intro s q hup
  refine ⟨fun j rest he hq => ⟨_, (live_next hup fun s => engineNext s q).trans (congrArg _ (engineNext_takes he hq)), rfl, rfl⟩, fun e he => ?_⟩
  intro w n idle ends hstop
  have hstop' : jobStop (engineFreed s q) e.job = none := hstop
  refine ⟨fun ho => ?fill, fun ho net => ?copy⟩
  case fill =>
    have hexec {t : State} (h : fillJob (engineFreed s q) e = t) : exec (.fill q) s = .next (settleErr t) :=
      (liveRows_next hup fun s => engineRun s q .fill fillJob).trans (congrArg _ (congrArg settleErr ((engineRun_of _ he ho).trans h)))
    refine ⟨fun h => hexec (fillJob_badRange hstop' h), fun h hd => hexec (fillJob_outside hstop' h hd), fun d h hd hal hrows hw => ?_⟩
    obtain ⟨u, hfill, hrest, hin, hout⟩ := fillJob_fills hstop' h hd hal hrows hw
    exact ⟨u, hexec hfill, hin, hout, hrest.rest, hrest.banks⟩
  case copy =>
    have hexec {t : State} (h : copyJob (engineFreed s q) e net = t) : exec (.copy q net) s = .next (settleErr t) :=
      (liveRows_next hup fun s => engineRun s q .copy fun s e => copyJob s e net).trans
        (congrArg _ (congrArg settleErr ((engineRun_of _ he ho).trans h)))
    refine ⟨fun h => hexec (copyJob_badRange hstop' net h), fun a b x y h ha hb hx hy hxa hya => ⟨fun hm => ?_, fun hd hsrc hdst hw => ?_⟩⟩
    · exact hexec ((copyJob_here hstop' net h ha hb).trans (copyHere_meets hx hy hm))
    · obtain ⟨u, hcopy, hrest, hin, hout⟩ := copyHere_copies (s := engineFreed s q) hx hy hxa hya hd hsrc hdst hw
      exact ⟨u, hexec ((copyJob_here hstop' net h ha hb).trans hcopy), hin, hout, hrest.rest, hrest.banks⟩

end Sys2Proof.Machine
end

section
open Sys2Proof.Laws
namespace Sys2Proof.Machine

/-! ### Plots, flat mode and spares (05 R121 to R125) -/

/-- The first index of a range at which a test holds. -/
theorem find_finRange {n : Nat} {f : Fin n → Bool} {i : Fin n} (h : f i = true) (hl : ∀ j, j < i → f j = false) :
    (List.finRange n).find? f = some i := by
  rw [List.find?_eq_some_iff_getElem]
  refine ⟨h, i.val, by simp, by simp, fun j hj => ?_⟩
  simpa using hl ⟨j, by omega⟩ hj

theorem plotCfg_same {s : State} {p : PlotId} {v : Word} (ho : (s.granary.plots[p.val]).owner = fin 8 (bitsOf v 6 4))
    (hc : (s.granary.plots[p.val]).cls = bitOf v 0) : plotCfg s p v = s := by
  refine if_pos ?_
  rw [ho, hc, decide_eq_true rfl, decide_eq_true rfl]; rfl

theorem plotCfg_changes {s : State} {p : PlotId} {v : Word} (h : (s.granary.plots[p.val]).owner ≠ fin 8 (bitsOf v 6 4) ∨
      (s.granary.plots[p.val]).cls ≠ bitOf v 0) :
    plotCfg s p v = zeroMem (onGran s fun g =>
      { g with plots := vmod g.plots p fun _ => { clearing := true, owner := fin 8 (bitsOf v 6 4), cls := bitOf v 0 } })
      (p.val * 0x400000) 0x400000 := by
  refine if_neg ?_
  rw [Bool.and_eq_true, decide_eq_true_eq, decide_eq_true_eq]
  exact fun ⟨h1, h2⟩ => h.elim (· h1) (· h2)

theorem zeroMem_zero (s : State) {a n i : Nat} (h : a ≤ i ∧ i < a + n) : readByte (zeroMem s a n).mem i = 0 := readByte_zeroRange h

theorem zeroMem_other (s : State) {a n i : Nat} (h : i < a ∨ a + n ≤ i) : readByte (zeroMem s a n).mem i = readByte s.mem i :=
  readByte_zeroRange_other h

/-- Every dispatcher is idle. -/
theorem allIdle_iff {s : State} : allIdle s = true ↔ ∀ m : MillId, (s.mills[m.val]).idle = true := by
  rw [allIdle, Vector.all_eq_true]
  exact ⟨fun h m => h m.val m.isLt, fun h i hi => h ⟨i, hi⟩⟩

section
variable {s : State} {v : Word}

theorem granMode_same (h : bitOf v 0 = s.granary.flat) : granMode s v = onGran s fun g => { g with modeRej := g.modeRej && !bitOf v 31 } :=
  if_pos h

variable (h : bitOf v 0 ≠ s.granary.flat)
include h

theorem granMode_refused (hbusy : s.granary.busy = true ∨ ∃ m : MillId, (s.mills[m.val]).idle = false) :
    granMode s v = onGran s fun g => { g with modeRej := true } := by
  refine (if_neg h).trans ((if_pos ?_).trans rfl)
  rw [Bool.or_eq_true, Bool.not_eq_true', Bool.eq_false_iff]
  refine hbusy.symm.imp (fun ⟨m, hm⟩ hall => ?_) id
  exact Bool.false_ne_true (hm.symm.trans (allIdle_iff.mp hall m))

theorem granMode_switches (hbusy : s.granary.busy = false) (hidle : ∀ m : MillId, (s.mills[m.val]).idle = true) :
    granMode s v = zeroMem (onGran s fun g => { g with modeRej := g.modeRej && !bitOf v 31, flat := bitOf v 0, busy := true })
      hopTop (16 * 0x01000000) := by
  refine (if_neg h).trans ((if_neg ?_).trans rfl)
  have hall : allIdle (onGran s fun g => { g with modeRej := g.modeRej && !bitOf v 31 }) = true := allIdle_iff.mpr hidle
  rw [hall]
  exact fun hb => Bool.false_ne_true (hbusy.symm.trans hb)
end

/-- Settles O26: plots, the mode and the spares change by the rules above. -/
theorem plotsModesAndSpares : Obligations.PlotsModesAndSpares := by
  unfold Obligations.PlotsModesAndSpares
  intro s hup hquiet
  refine ⟨?plot, ?cleared, ?mode, fun hbusy => ?done, ?spare, ?migrated⟩
  case plot =>
    intro p v x owner
    refine ⟨fun ho hc => (live_next hup fun s => plotCfg s p v).trans (congrArg _ (plotCfg_same ho hc)), fun h => ?_⟩
    refine ⟨_, (live_next hup fun s => plotCfg s p v).trans (congrArg _ (plotCfg_changes h)), rfl, vmod_self .., fun d hd => ?_, fun i hi => ?_, fun a ha => ?_⟩
    · exact vmod_other _ _ _ _ _ fun e => hd (Fin.ext e)
    · exact zeroMem_zero _ (by omega)
    · exact (zeroMem_other _ (by omega)).trans rfl
  case cleared =>
    intro q p hp hc hl
    refine (live_next hup fun s => plotCleared s q).trans (congrArg _ ?_)
    unfold plotCleared
    rw [find_finRange (i := p) (by simp [hp, hc]) fun j hj => ?_]
    by_cases hq : j.val / 24 = q.val
    · rw [hl j hj hq, Bool.and_false]
    · rw [decide_eq_false hq, Bool.false_and]
  case mode =>
    intro v rej
    have hexec {t : State} (h : granMode s v = t) : exec (.granModeWrite v) s = .next t := (live_next hup fun s => granMode s v).trans (congrArg _ h)
    refine ⟨fun h => hexec (granMode_same h), fun h hbusy => hexec (granMode_refused h hbusy), fun h hbusy hidle => ?_⟩
    exact ⟨_, hexec (granMode_switches h hbusy hidle), rfl, fun i hi => zeroMem_zero _ ⟨Nat.le_add_right .., Nat.add_lt_add_left hi _⟩,
      fun a ha => (zeroMem_other _ ha).trans rfl⟩
  case done =>
    refine ⟨_, (live_next hup modeDone).trans (congrArg _ (if_pos hbusy)), rfl, fun m => ?_⟩
    exact Vector.getElem_map ..
  case spare =>
    intro q v x rej becomes
    have hexec {y : Spare} (h : (let x := { x with rej := rej }
        if x.used || x.migrating then { x with rej := x.rej || bitOf v 5 }
        else if bitOf v 5 then { x with lbank := fin 32 (bitsOf v 4 0), migrating := true, progress := 0 }
        else { x with lbank := fin 32 (bitsOf v 4 0) }) = y) : becomes y :=
      (live_next hup fun s => spareWrite s q v).trans (congrArg _ (onGran_congr s (congrArg (fun z => { s.granary with spares := z }) (vmod_congr _ q h))))
    refine ⟨fun h => hexec (if_pos ?_), fun hu hm hgo => hexec ((if_neg ?_).trans (if_pos hgo)),
      fun hu hm hgo => hexec ((if_neg ?_).trans (if_neg (by rw [hgo]; exact Bool.false_ne_true)))⟩
    · rwa [Bool.or_eq_true]
    · rw [hu, hm]; exact Bool.false_ne_true
    · rw [hu, hm]; exact Bool.false_ne_true
  case migrated =>
    intro q x hm hp hpois
    have hc : (x.migrating && decide (x.progress = 6143)) = true := by rw [hm, hp]; rfl
    exact (liveRows_next hup fun s => migrationDone s q .clean).trans
      (next_of_quiet ((if_pos hc).trans (congrArg (onGran · _) (migrateRow_clean hpois))) hquiet)

end Sys2Proof.Machine
end

section
open Sys2Proof.Laws
namespace Sys2Proof.Machine

/-! ### The dispatcher takes its next docket (05 R118, 06 R144) -/

/-- A docket that no other goes before is of the highest class, and among URGENT ones of the lowest chute. -/
theorem not_before {g h : Held} (hb : Held.before g h = false) :
    g.msg.cls ≤ h.msg.cls ∧ (g.msg.cls = 3 → h.msg.cls = 3 → h.msg.chute ≤ g.msg.chute) := by
  unfold Held.before at hb
  by_cases hc : g.msg.cls = h.msg.cls
  · refine ⟨hc ▸ Nat.le_refl _, fun hg hh => ?_⟩
    rw [if_neg (not_not_intro hc)] at hb
    by_cases hne : g.msg.chute = h.msg.chute
    · exact hne ▸ Nat.le_refl _
    · rw [if_pos (by rw [hg, decide_eq_true rfl, decide_eq_true hne]; rfl), decide_eq_false_iff_not] at hb
      exact Nat.not_lt.mp hb
  · rw [if_pos hc, decide_eq_false_iff_not] at hb
    exact ⟨Nat.not_lt.mp hb, fun hg hh => absurd (hg.trans hh.symm) hc⟩

section
variable {s : State} {m : MillId} {h : HandoutMsg}

/-- A docket whose plots are another tenant's completes at its dispatch. -/
theorem startHeld_bound (hown : ∃ p ∈ winPlots s.granary.flat m (msgWin h), (s.granary.plots[p.val]).owner ≠ h.tenant) :
    startHeld s m h = dispatchFault s m h { st := stBound, sub := 0x04 } := by
  refine if_pos ?_
  simpa using hown

theorem startHeld_clearing (hown : ∀ p ∈ winPlots s.granary.flat m (msgWin h), (s.granary.plots[p.val]).owner = h.tenant)
    (hclear : ∃ p ∈ winPlots s.granary.flat m (msgWin h), (s.granary.plots[p.val]).clearing = true) : startHeld s m h = s := by
  refine (if_neg ?_).trans (if_pos ?_)
  · simpa using hown
  · simpa using hclear

theorem startHeld_starts {r : Run} (hplots : ∀ p ∈ winPlots s.granary.flat m (msgWin h), (s.granary.plots[p.val]).owner = h.tenant ∧
      (s.granary.plots[p.val]).clearing = false) (hok : prepare s m h = .ok r)
    (hslu : r.onSluice = false ∨ (s.mills[m.val]).sluice.compDone = true) :
    startHeld s m h = onMill (setBound s m (r.bound s.granary.flat)) m fun x => { x with running := some r } := by
  have hown : ¬ ((winPlots s.granary.flat m (msgWin h)).any fun p => (s.granary.plots[p.val]).owner ≠ h.tenant) = true := by
    simpa using fun p hp => (hplots p hp).1
  have hclear : ¬ ((winPlots s.granary.flat m (msgWin h)).any fun p => (s.granary.plots[p.val]).clearing) = true := by
    simpa using fun p hp => (hplots p hp).2
  have hready : (r.onSluice && r.plan.isSome && !(s.mills[m.val]).sluice.compDone) = false := by
    rcases hslu with h | h <;> simp [h]
  unfold startHeld
  simp only [hown, hclear, hok, hready, Bool.false_eq_true, if_false]
end

/-- The dispatch fault of R118: a DONE message with BOUND. -/
theorem dispatchFault_open {s : State} {m : MillId} {h : HandoutMsg} {st : Byte} {sub : Nat} (hiso : (s.mills[m.val]).mb.iso = false) :
    dispatchFault s m h { st := st, sub := sub } = onControl (onMill s m fun x => { x with slots := vmod x.slots h.slot fun _ => none }) fun k =>
      { k with toControl := k.toControl ++ [(m,
        { chute := h.chute, status := st, tag := wTag h.docket, detail := mkDetail sub (noOperand h.docket) 0,
          doneTime := now s, startTime := now s, tiles := 0, sat := 0, slot := h.slot })] } :=
  sendDone_open s m h st _ (now s) 0 0 hiso

theorem setBound_run (s : State) (m : MillId) (b : Option Nat) (r : Run) :
    (onMill (setBound s m b) m fun x => { x with running := some r }) = onMill s m fun x => { x with
      running := some r
      regs := { x.regs with tbound := match b with | some t => img (stopAt 0xFFFFFFFF t) | none => x.regs.tbound } } := by
  cases b with
  | none => rfl
  | some t => exact onMill_onMill ..

theorem resume_resumes {s : State} {m : MillId} {r : Run} {rest : List Run} (hi : (s.mills[m.val]).mayIssue = true)
    (hrun : (s.mills[m.val]).running = none) (hp : (s.mills[m.val]).preempted = r :: rest) (hn : (s.mills[m.val]).nextHeld = none) :
    resume s m = onMill s m fun x => { x with running := some r, preempted := rest } := by
  simp only [resume, hrun, hp, hi, hn, Option.isNone_none, Bool.and_self, if_true]

/-- Settles O27: the docket taken is `nextHeld`'s, and it starts, waits or completes by the rules above. -/
theorem dispatchTakesTheNextDocket : Obligations.DispatchTakesTheNextDocket := by
  unfold Obligations.DispatchTakesTheNextDocket
  intro s m hup hquiet x hi hrun
  refine ⟨?next, fun r rest hp hn => (live_next hup fun s => resume s m).trans (congrArg _ (resume_resumes hi hrun hp hn))⟩
  intro h hh plots
  have hexec {t : State} (ht : startHeld s m h.msg = t) (hq : t.granary.errPend = false) : exec (.dispatch m) s = .next t :=
    (liveRows_next hup fun s => dispatch s m).trans (next_of_quiet ((dispatch_idle s m hi hrun).trans (by
      have hh' : (s.mills[m.val]).nextHeld = some h := hh
      rw [hh']; exact ht)) hq)
  obtain ⟨hmem, hfirst, hpre⟩ := nextHeld_spec x h hh
  refine ⟨⟨hmem, hpre, fun g hg hgp => not_before (hfirst g hg hgp)⟩, fun r hplots hok hslu => ?starts, fun hown hiso => ?bound,
    fun hown hclear => hexec (startHeld_clearing hown hclear) hquiet⟩
  case starts =>
    obtain ⟨hmsg, _, _, hstart, _, _, htiles, hbound, hplan⟩ := prepare_ok s m h.msg r hok
    exact ⟨hexec ((startHeld_starts hplots hok hslu).trans (setBound_run ..)) hquiet, hmsg, hstart, htiles, hbound, hplan⟩
  case bound => exact hexec ((startHeld_bound hown).trans (dispatchFault_open hiso)) hquiet

end Sys2Proof.Machine
end

section
open Sys2Proof.Laws
namespace Sys2Proof.Machine

/-! ### Staging of L2 tiles (07 R160) -/

/-- A change of memory, its poison, the banks and the draws alone. -/
def MemoryOnly (s u : State) : Prop :=
  u = { s with mem := u.mem, granary := { s.granary with poison := u.granary.poison, banks := u.granary.banks }, free := u.free }

theorem MemoryOnly.refl (s : State) : MemoryOnly s s := rfl

theorem MemoryOnly.trans {s t u : State} (h : MemoryOnly s t) (k : MemoryOnly t u) : MemoryOnly s u := by
  unfold MemoryOnly at *
  rw [k, h]

theorem scramble_memoryOnly (s : State) (m : MillId) (w : Win) (start rows : Nat) : MemoryOnly s (scramble s m w start rows) := by
  obtain ⟨mem, g, h, hg⟩ := scramble_frame s m w start rows
  unfold MemoryOnly
  rw [h, hg]

/-- The staging buffers that a stage overwrites. -/
def stagingWritten (s : State) (m : MillId) (r : Run) (p : Plan) : State :=
  let buf := r.stageCount % 2
  let win := msgWin r.msg
  let u := if r.stagesIn then scramble s m win (p.stgIn.toNat + buf * (r.stgInRows p / 2)) (r.stgInRows p / 2) else s
  if r.stagesW then scramble u m win (p.stgW.toNat + buf * (r.stgWRows p / 2)) (r.stgWRows p / 2) else u

theorem stagingWritten_memoryOnly (s : State) (m : MillId) (r : Run) (p : Plan) : MemoryOnly s (stagingWritten s m r p) := by
  have hif (b : Bool) (u : State) (start rows : Nat) : MemoryOnly u (if b then scramble u m (msgWin r.msg) start rows else u) := by
    cases b with
    | false => exact .refl u
    | true => exact scramble_memoryOnly ..
  exact (hif ..).trans (hif ..)

/-- Source rows of an L2 tile. -/
def Run.stageSrc (r : Run) (p : Plan) (x : Nat × Nat × Nat × Nat) : List (Nat × Nat) :=
  (if r.stagesIn then r.inRanges p x.1 x.2.1 x.2.2.1 else []) ++ (if r.stagesW then r.wRanges p x.1 x.2.1 x.2.2.2 else [])

/-- Rows of a list of ranges that come over the row port of Mill `m`. -/
def nearOf (m : MillId) (src : List (Nat × Nat)) : List (Nat × Nat) := src.filter fun q => nearRows m q.1 q.2 ≠ 0

/-- L2 tiles that are still to be used. -/
def Run.keptTiles (r : Run) (p : Plan) : List (Nat × Nat × Nat × Nat) :=
  (r.cur.map fun c => c.tile.l2 p).toList ++ (r.issued ++ r.todo).map fun t => t.l2 p

/-- The docket after L2 tile `x` is staged from `src`. -/
def Run.withStage (r : Run) (keep : List (Nat × Nat × Nat × Nat)) (src : List (Nat × Nat)) (mem : Memory) (x : Nat × Nat × Nat × Nat) : Run :=
  { r with
    stagedMem := copyRanges mem (bufferKey r.stageCount) r.stagedMem src
    staged := (r.staged.filter keep.contains) ++ [x]
    stageCount := r.stageCount + 1 }

theorem withStage_rest (r : Run) (keep : List (Nat × Nat × Nat × Nat)) (src : List (Nat × Nat)) (mem : Memory) (x : Nat × Nat × Nat × Nat) :
    r.withStage keep src mem x = { r with
      stagedMem := (r.withStage keep src mem x).stagedMem
      staged := (r.withStage keep src mem x).staged
      stageCount := r.stageCount + 1 } := rfl

theorem withStage_staged (r : Run) (keep : List (Nat × Nat × Nat × Nat)) (src : List (Nat × Nat)) (mem : Memory) (x : Nat × Nat × Nat × Nat) :
    x ∈ (r.withStage keep src mem x).staged := List.mem_append_right _ List.mem_cons_self

/-- The row port's read of the near rows. -/
def nearRead (s : State) (m : MillId) (tag : Fin 16) (src : List (Nat × Nat)) : State :=
  let near := ((nearOf m src).map fun q => nearRows m q.1 q.2).sum
  if near = 0 then s
  else
    let first := ((nearOf m src).map (·.1)).headD 0
    let s := if first < granTop then
        onGran s fun g =>
          { g with banks := vmod g.banks (granBank first) fun b => { b with queue := b.queue ++ [.wide m false (granRow first)] } }
      else s
    onMill s m fun x =>
      { x with
        regs := { x.regs with portRd := bump x.regs.portRd near }
        mb := { x.mb with tags := vmod x.mb.tags tag fun _ => some { write := false, addr := first } } }

theorem stageL2_stages {s : State} {m : MillId} {r : Run} {p : Plan} {x : Nat × Nat × Nat × Nat} {tag : Fin 16}
    (hrun : (s.mills[m.val]).running = some r) (hplan : r.plan = some p) (hw : r.walked = true) (he : r.ending = none)
    (ha : r.abort = none) (hst : r.stagesIn = true ∨ r.stagesW = true) (hn : r.nextStage p = some x) (htag : freeTag s.mills[m.val] = some tag)
    (hrows : ∀ q ∈ r.stageSrc p x, rowsOk s (some m) q.1 q.2) (hfit : r.stageFits p s.granary.flat = true) :
    stageL2 s m = nearRead (onRun (stagingWritten s m r p) m fun q =>
      q.withStage (r.keptTiles p) (r.stageSrc p x) (stagingWritten s m r p).mem x) m tag (r.stageSrc p x) := by
  obtain ⟨b, h, m2, n2⟩ := x
  have hbad : firstBad ((r.stageSrc p (b, h, m2, n2)).map fun (a, n) => rangeStatus s m a n) = (.ok, none) := firstBad_ok fun a n hq => hrows (a, n) hq
  have hstages : (r.stagesIn || r.stagesW) = true := by rwa [Bool.or_eq_true]
  unfold Run.stageSrc at hbad
  simp only [stageL2, hrun, hplan, hw, he, ha, hstages, hn, htag, hfit, hbad, Option.isSome_none, Bool.not_true, Bool.or_self, Bool.false_eq_true,
    if_false, ne_eq, not_true_eq_false]
  rfl

/-- The row port's read queues at a bank and holds a tag; all else stands. -/
structure NearRead (s t : State) (m : MillId) (near : Nat) : Prop where
  mem : t.mem = s.mem
  control : t.control = s.control
  quiet : t.granary.errPend = s.granary.errPend
  other : ∀ d : MillId, d ≠ m → t.mills[d.val] = s.mills[d.val]
  running : (t.mills[m.val]).running = (s.mills[m.val]).running
  regs : (t.mills[m.val]).regs = { (s.mills[m.val]).regs with
    portRd := if near = 0 then (s.mills[m.val]).regs.portRd else bump (s.mills[m.val]).regs.portRd near }

theorem nearRead_reads (s : State) (m : MillId) (tag : Fin 16) (src : List (Nat × Nat)) :
    NearRead s (nearRead s m tag src) m ((nearOf m src).map fun q => nearRows m q.1 q.2).sum := by
  unfold nearRead
  dsimp only
  by_cases hz : ((nearOf m src).map fun q => nearRows m q.1 q.2).sum = 0
  · rw [if_pos hz, hz]
    exact ⟨rfl, rfl, rfl, fun _ _ => rfl, rfl, rfl⟩
  · have hother (u : State) (hu : u.mills = s.mills) (f : Mill → Mill) (d : MillId) (hd : d ≠ m) : (onMill u m f).mills[d.val] = s.mills[d.val] := by
      rw [onMill_mills, vmod_other _ _ _ _ _ fun e => hd (Fin.ext e)]; simp only [hu]
    have hself (u : State) (hu : u.mills = s.mills) (f : Mill → Mill) : (onMill u m f).mills[m.val] = f s.mills[m.val] := by
      rw [onMill_mills, vmod_self]; simp only [hu]
    rw [if_neg hz]
    split
    · refine ⟨rfl, rfl, rfl, hother (onGran s _) rfl _, ?_, ?_⟩
      · exact (congrArg Mill.running (hself (onGran s _) rfl _)).trans rfl
      · exact (congrArg Mill.regs (hself (onGran s _) rfl _)).trans (by rw [if_neg hz])
    · refine ⟨rfl, rfl, rfl, hother s rfl _, ?_, ?_⟩
      · exact (congrArg Mill.running (hself s rfl _)).trans rfl
      · exact (congrArg Mill.regs (hself s rfl _)).trans (by rw [if_neg hz])

/-- The tile staged next is of the walk and not staged. -/
theorem nextStage_ahead {r : Run} {p : Plan} {x : Nat × Nat × Nat × Nat} (h : r.nextStage p = some x) :
    x ∈ (r.issued ++ r.todo).map (fun t => t.l2 p) ∧ x ∉ r.staged := by
  unfold Run.nextStage at h
  dsimp only at h
  split at h
  · cases h
  · exact ⟨List.mem_of_find?_eq_some h, by simpa using List.find?_some h⟩

/-- Settles O29: the tile staged is `nextStage`'s, and its source is copied whole. -/
theorem stagingCopiesTheNextL2Tile : Obligations.StagingCopiesTheNextL2Tile := by
  unfold Obligations.StagingCopiesTheNextL2Tile
  intro s m r p b h m2 n2 tag hup hquiet x src near hrun hplan hw he ha hst hn htag hrows hfit hwf
  have hstage : stageL2 s m = nearRead (onRun (stagingWritten s m r p) m fun q =>
      q.withStage (r.keptTiles p) src (stagingWritten s m r p).mem (b, h, m2, n2)) m tag src := stageL2_stages (x := (b, h, m2, n2)) hrun hplan hw he ha hst hn htag hrows hfit
  have hu := stagingWritten_memoryOnly s m r p
  generalize stagingWritten s m r p = u at hstage hu
  have hmills : u.mills = s.mills := by rw [hu]
  have hrunU : (u.mills[m.val]).running = some r := by simp only [hmills]; exact hrun
  rw [onRun_some _ hrunU] at hstage
  obtain ⟨hmem, hcontrol, hq, hother, hrunning, hregs⟩ := nearRead_reads (onMill u m fun x =>
    { x with running := some (r.withStage (r.keptTiles p) src u.mem (b, h, m2, n2)) }) m tag src
  obtain ⟨hahead, hnot⟩ := nextStage_ahead hn
  have hexec : exec (.l2Stage m) s = .next _ := (liveRows_next hup fun s => stageL2 s m).trans (next_of_quiet hstage (hq.trans (by
    show u.granary.errPend = false
    rw [hu]; exact hquiet)))
  refine ⟨_, r.withStage (r.keptTiles p) src u.mem (b, h, m2, n2), hexec, ?_, withStage_rest ..,
    withStage_staged .., hahead, hnot, fun q hq i hi => ?_, fun d hd => ?_, ?_, ?_⟩
  · rw [hrunning, onMill_mills, vmod_self]
  · rw [hmem, Nat.add_assoc]
    exact (copyRanges_read hwf (q.1 + i)).trans (if_pos ⟨q, hq, Nat.le_add_right .., Nat.add_lt_add_left hi _⟩)
  · rw [hother d hd, onMill_mills, vmod_other _ _ _ _ _ fun e => hd (Fin.ext e)]; simp only [hmills]
  · rw [hcontrol]; show u.control = s.control; rw [hu]
  · rw [hregs, onMill_mills, vmod_self]; simp only [hmills]; rfl

end Sys2Proof.Machine
end

section
open Sys2Proof.Laws
namespace Sys2Proof.Machine

/-! ### Tiles issue in walk order (07 R158, R160, R173) -/

section
variable {s : State} {m : MillId} {r : Run} {t : Tile} {rest : List Tile} (hrun : (s.mills[m.val]).running = some r)
  (hw : r.walked = true) (he : r.ending = none) (ha : r.abort = none) (hi : r.issued = []) (ht : r.todo = t :: rest)
include hrun hw he ha hi ht

/-- A tile whose footprint fails ends its docket. -/
theorem issueTile_overflows {level operand : Nat} {c : TileRun} (hf : (r.plan.bind fun p => r.footprint p s.granary.flat t) = some (level, operand))
    (hcur : r.cur = some c) :
    issueTile s m = onMill s m fun x => { x with
      regs := x.regs.logOverflow (wTag r.msg.docket) level operand t
      running := some { r with ending := some { status := stOverflow, subcode := BitVec.ofNat 8 (0x10 + level), operand := BitVec.ofNat 8 operand } } } := by
  have hstop : issueTile s m = onRun (onRegs s m fun g => g.logOverflow (wTag r.msg.docket) level operand t) m fun r =>
      { r with ending := r.ending.orElse fun _ => some { status := stOverflow, subcode := BitVec.ofNat 8 (0x10 + level), operand := BitVec.ofNat 8 operand } } := by
    simp only [issueTile, hrun, hw, he, ha, hi, ht, hf, hcur, stopOn, Option.isSome_some, Option.isNone_some, Option.isSome_none, List.isEmpty_nil,
      Bool.not_true, Bool.or_self, Bool.false_and, Bool.false_eq_true, if_false, if_true]
  refine hstop.trans ((onRun_some _ (r := r) ?_).trans ?_)
  · simp only [onRegs_mills, vmod_self]; exact hrun
  · rw [he]; exact onMill_onMill ..

variable (hf : (r.plan.bind fun p => r.footprint p s.granary.flat t) = none)
include hf

theorem issueTile_waits (hp : r.present s.mills[m.val] t = false) (hcur : r.cur = none) :
    issueTile s m = onRegs s m fun g => { g with stageWait := bump g.stageWait } := by
  simp only [issueTile, hrun, hw, he, ha, hi, ht, hf, hcur, hp, Option.isNone_none, Option.isSome_none, List.isEmpty_nil,
    Bool.not_true, Bool.not_false, Bool.or_self, Bool.and_false, Bool.false_eq_true, if_false, if_true]

variable (hp : r.present s.mills[m.val] t = true)
include hp

theorem issueTile_prefetches {c : TileRun} (hcur : r.cur = some c) (hlast : c.lastSet = true) :
    issueTile s m = onMill s m fun x => { x with
      fills := x.fills ++ (r.setsOf t).headD [], running := some { r with issued := [t], todo := rest } } := by
  have hnext : issueTile s m = queueFirst (onRun s m fun r => { r with issued := [t], todo := rest }) m r t := by
    simp only [issueTile, hrun, hw, he, ha, hi, ht, hf, hcur, hp, hlast, Option.isNone_some, Option.isSome_none, List.isEmpty_nil,
      Bool.not_true, Bool.or_self, Bool.false_and, Bool.false_eq_true, if_false, if_true]
  rw [hnext, onRun_some _ hrun]
  exact onMill_onMill ..

theorem issueTile_issues (hcur : r.cur = none) (hpre : (s.mills[m.val]).wantsPreempt = false) (hk : t.kr = 0 ∨ r.plan = none) :
    issueTile s m = onMill s m fun x => { x with
      regs := { x.regs with tilesIssued := bump x.regs.tilesIssued }
      fills := x.fills ++ (r.setsOf t).headD []
      running := some { r with todo := rest, start := some (r.start.getD (now s)), cur := some (r.tileRun t none) } } := by
  have hnext : issueTile s m = queueFirst (startTile s m { r with todo := rest } t) m r t := by
    simp only [issueTile, hrun, hw, he, ha, hi, ht, hf, hcur, hp, hpre, Option.isNone_none, Option.isSome_none, List.isEmpty_nil,
      Bool.not_true, Bool.or_self, Bool.and_false, Bool.false_eq_true, if_false]
  rw [hnext, startTile_plain (r := { r with todo := rest }) hk]
  refine (onMill_onMill ..).trans (onMill_congr s m ?_)
  rw [← hi]
  rfl
end

/-- Settles O30: the tile issues, waits or ends its docket by the rules above. -/
theorem tilesIssueInWalkOrder : Obligations.TilesIssueInWalkOrder := by
  unfold Obligations.TilesIssueInWalkOrder
  intro s m r t rest hup hquiet x hrun hw he ha hi ht fails fills
  have hexec {u : State} (h : issueTile s m = u) (hq : u.granary.errPend = false) : exec (.tileIssue m) s = .next u :=
    (liveRows_next hup fun s => issueTile s m).trans (next_of_quiet h hq)
  exact ⟨fun hf hp => ⟨fun hcur hpre hk => hexec (issueTile_issues hrun hw he ha hi ht hf hp hcur hpre hk) hquiet,
      fun c hcur hlast => hexec (issueTile_prefetches hrun hw he ha hi ht hf hp hcur hlast) hquiet⟩,
    fun hf hp hcur => hexec (issueTile_waits hrun hw he ha hi ht hf hp hcur) hquiet,
    fun level operand c hf hcur => hexec (issueTile_overflows hrun hw he ha hi ht hf hcur) hquiet⟩

end Sys2Proof.Machine
end

section
open Sys2Proof.Laws
namespace Sys2Proof.Machine

/-! ### Tiles complete at a boundary (07 R158, R174) -/

section
variable {s : State} {m : MillId} {r : Run} {c : TileRun} (hrun : (s.mills[m.val]).running = some r) (hcur : r.cur = some c)
  (hcomplete : c.complete r = true)
include hrun hcur hcomplete

/-- A tile whose reads and writes are accepted is counted before its boundary. -/
theorem completeTile_counts {u : State} {q : Run} (hreads : ∀ z ∈ completionReads r c.tile, rowsOk s (some m) z.1 z.2)
    (hwrites : tileWrites s m r c = (.ok, u)) (hq : (u.mills[m.val]).running = some q) :
    completeTile s m = boundary (onMill u m fun x => { x with running := some { q with cur := none, tiles := q.tiles + 1 } }) m := by
  have hbad := firstBad_ok fun a n h => hreads (a, n) h
  have hend : completeTile s m = boundary (onRun u m fun r => { r with
      cur := none, tiles := r.tiles + 1, ending := r.ending.orElse fun _ => none }) m := by
    simp only [completeTile, hrun, hcur, hcomplete, hbad, hwrites, Bool.not_true, Bool.false_eq_true, if_false, ne_eq, not_true_eq_false, if_true]
  rw [hend, onRun_some _ hq]
  cases q.ending <;> rfl

/-- A tile with a refused read is not counted, and its docket ends at the boundary. -/
theorem completeTile_refused {q : Nat × Nat} {before rest : List (Nat × Nat)} {st : NetStatus} (hsplit : completionReads r c.tile = before ++ q :: rest)
    (hbefore : ∀ z ∈ before, rowsOk s (some m) z.1 z.2) (hq : (rangeStatus s m q.1 q.2).1 = st) (hst : st ≠ .ok) (hun : st ≠ .uncorr) :
    completeTile s m = boundary (onMill s m fun x => { x with
      running := some { r with cur := none, ending := r.ending.orElse fun _ => some (netEnding r st) } }) m := by
  have hbad := firstBad_first hbefore hq hst (rest := rest)
  rw [← hsplit] at hbad
  have hnote : noteRead s (rangeStatus s m q.1 q.2) = s := by
    unfold noteRead
    split
    · rename_i h; exact absurd (hq.symm.trans (congrArg Prod.fst h)) hun
    · rfl
  have hend : completeTile s m = boundary (onRun s m fun q => { q with
      cur := none, tiles := q.tiles + 0, ending := q.ending.orElse fun _ => some (netEnding r st) }) m := by
    simp only [completeTile, hrun, hcur, hcomplete, hbad, hnote, hq, hst, Bool.not_true, Bool.false_eq_true, if_false, ne_eq, not_false_eq_true, if_true]
  rw [hend, onRun_some _ hrun]
  rfl
end

/-- What follows at a boundary is what the docket's state asks for. -/
theorem boundary_settled {s v : State} {m : MillId} {r : Run} (hup : s.up) (hr : (v.mills[m.val]).running = some r)
    (h : completeTile s m = boundary v m) : ∃ t, exec (.tileComplete m) s = .next t ∧
      (∀ e, r.ending = some e → t = settleErr (endWith v m r e)) ∧
      (∀ a, r.ending = none → r.abort = some a → t = settleErr (endAborted v m r a)) ∧
      (r.ending = none → r.abort = none → r.issued = [] → r.todo = [] → t = settleErr (finishWalk v m r)) ∧
      (r.ending = none → r.abort = none → (r.issued ≠ [] ∨ r.todo ≠ []) → (v.mills[m.val]).wantsPreempt = true →
        t = settleErr (preemptNow v m)) ∧
      (∀ n l, r.ending = none → r.abort = none → r.issued = n :: l → (v.mills[m.val]).wantsPreempt = false →
        t = settleErr (startTile v m r n)) ∧
      (r.ending = none → r.abort = none → r.issued = [] → r.todo ≠ [] → (v.mills[m.val]).wantsPreempt = false → t = settleErr v) := by
  obtain ⟨hending, habort, hlast, hpre, hissued, htodo⟩ := boundary_cases v m r hr
  exact ⟨_, (liveRows_next hup fun s => completeTile s m).trans (congrArg _ (congrArg settleErr h)), fun e h1 => congrArg settleErr (hending e h1),
    fun a h1 h2 => congrArg settleErr (habort a h1 h2), fun h1 h2 h3 h4 => congrArg settleErr (hlast h1 h2 h3 h4),
    fun h1 h2 h3 h4 => congrArg settleErr (hpre h1 h2 h3 h4), fun n l h1 h2 h3 h4 => congrArg settleErr (hissued n l h1 h2 h3 h4),
    fun h1 h2 h3 h4 h5 => congrArg settleErr (htodo h1 h2 h3 h4 h5)⟩

/-- Settles O31: a counted or refused tile reaches its boundary, which acts by `boundary_cases`. -/
theorem tilesCompleteAtABoundary : Obligations.TilesCompleteAtABoundary := by
  unfold Obligations.TilesCompleteAtABoundary
  intro s m r c hup hrun hcur hcomplete reads after
  refine ⟨fun u hreads hwrites q hq => ?counted, fun q before rest st hsplit hbefore hq hst hun => ?refused⟩
  case counted =>
    intro r' v
    exact boundary_settled hup (by rw [onMill_mills, vmod_self]) (completeTile_counts hrun hcur hcomplete hreads hwrites hq)
  case refused =>
    intro r'
    exact boundary_settled hup (by rw [onMill_mills, vmod_self]) (completeTile_refused hrun hcur hcomplete hsplit hbefore hq hst hun)

end Sys2Proof.Machine
end

section
open Sys2Proof.Laws
namespace Sys2Proof.Machine

/-! ### Binding a Weir's matrix (08 R183 to R189, R205) -/

/-- A sequence of checks passes when each does. -/
theorem bind_ok {ε α β : Type} {x : Except ε α} {f : α → Except ε β} {b : β} (h : (x >>= f) = .ok b) : ∃ a, x = .ok a ∧ f a = .ok b := by
  cases x with
  | error e => cases h
  | ok a => exact ⟨a, rfl, h⟩

theorem need_ok {b : Bool} {f : WFail} {u : Unit} (h : need b f = .ok u) : b = true := by
  cases b with
  | false => cases h
  | true => rfl

theorem bind_error {ε α β : Type} {x : Except ε α} {f : α → Except ε β} {e : ε} (h : x = .error e) : (x >>= f) = .error e := by
  rw [h]; rfl

theorem bind_of_ok {ε α β : Type} {x : Except ε α} {f : α → Except ε β} {a : α} (h : x = .ok a) : (x >>= f) = f a := by
  rw [h]; rfl

theorem need_pass {b : Bool} {f : WFail} (h : b = true) : need b f = .ok () := by rw [h]; rfl

theorem need_fail {b : Bool} {f : WFail} (h : b = false) : need b f = .error f := by rw [h]; rfl

/-- A matrix whose entries alone may have changed. -/
def EntriesOnly (a b : Matrix) : Prop := b = { a with ents := b.ents, tEnts := b.tEnts }

theorem EntriesOnly.trans {a b c : Matrix} (h : EntriesOnly a b) (k : EntriesOnly b c) : EntriesOnly a c := by
  unfold EntriesOnly at *
  rw [k, h]

theorem put_entriesOnly (a : Matrix) (free i j : Nat) (v : Word) : EntriesOnly a (a.put free i j v).1 := by
  unfold EntriesOnly Matrix.put
  dsimp only
  split <;> rfl

theorem putAll_entriesOnly (l : List (Nat × Nat × Word)) : ∀ (a : Matrix) (free : Nat), EntriesOnly a (a.putAll free l).1 := by
  induction l with
  | nil => exact fun a free => rfl
  | cons e l ih => exact fun a free => (put_entriesOnly a free e.1 e.2.1 e.2.2).trans (ih _ _)

/-- What a bind fixes of its matrix: the layout of the header, and the inverse diagonal. -/
structure BoundShape (mode n m : Nat) (blocks : List (Nat × Nat)) (a : Matrix) : Prop where
  mode : a.mode = mode
  n : a.n = n
  m : a.m = m
  blocks : a.blocks = blocks
  dinv : a.dinv = a.invDiag

theorem bindMatrix_bound (mode n m headroom : Nat) (blocks : List (Nat × Nat)) (free : Nat) (master : Nat → Nat → Word) :
    BoundShape mode n m blocks (bindMatrix mode n m headroom blocks free master).1 := by
  unfold bindMatrix
  dsimp only
  generalize List.flatMap _ _ = l
  generalize expsOf _ _ _ = exps
  generalize (if mode = 2 then _ else _ : List Byte) = tExps
  have h := putAll_entriesOnly l
    { mode := mode, n := n, m := m, headroom := headroom, ents := [], tEnts := [], exps := exps, tExps := tExps, blocks := blocks, dinv := [] } free
  unfold EntriesOnly at h
  rw [h]
  exact ⟨rfl, rfl, rfl, rfl, rfl⟩

/-- An element of the inverse diagonal (R189). -/
theorem invDiag_get {a : Matrix} {i : Nat} (hi : i < a.n) :
    a.invDiag[i]? = some (let v := a.value i i; if fisZero v then 0 else fdiv fOne v) := by
  simp only [Matrix.invDiag, List.getElem?_map, List.getElem?_range hi, Option.map_some]

/-- What a bind that passes its checks is. -/
structure BindOk (s : State) (w : WeirId) (j : Job) (b : WeirBinding) : Prop where
  en : (s.weirs[w.val]).en = true
  tenant : j.tenant = (s.weirs[w.val]).tenant
  job : b.job = j
  started : b.started = now s
  mode : b.mat.mode ≤ 2
  n : 1 ≤ b.mat.n ∧ b.mat.n ≤ (if b.mat.mode = 1 then 1024 else 256)
  m : b.mat.mode = 2 → 1 ≤ b.mat.m ∧ b.mat.m ≤ 256
  blocks : b.mat.blocks.eraseDups.length = b.mat.blocks.length ∧ stripCount b.mat.blocks ≤ 16
  rules : b.rules.length ≤ 1024 ∧ ∀ r ∈ b.rules, r.row < b.mat.rows ∧ (r.op.val < 2 → r.col < b.mat.n)
  dinv : b.mat.dinv = b.mat.invDiag

theorem bitsOf_lt {w : Nat} (x : BitVec w) (hi lo : Nat) : bitsOf x hi lo < 2 ^ (hi - lo + 1) := Nat.mod_lt _ (Nat.two_pow_pos _)

/-- A bind within the limits of its layout. -/
theorem bindMatrix_bindOk {s : State} {w : WeirId} {j : Job} {mode n m headroom free rules sat : Nat} {blocks : List (Nat × Nat)}
    {master : Nat → Nat → Word} {rs : List WRule} (hen : need (s.weirs[w.val]).en { st := stOffline, sub := 0 } = .ok ())
    (htenant : need (decide (j.tenant = (s.weirs[w.val]).tenant)) weirTenant = .ok ()) (hlt : mode < 4)
    (hmode : need (decide (mode ≠ 3) && decide (rules ≤ 1024)) badSolve = .ok ())
    (hsize : need (decide (1 ≤ n) && decide (n ≤ if mode = 1 then 1024 else 256) && (mode ≠ 2 || (decide (1 ≤ m) && decide (m ≤ 256)))) badSolve = .ok ())
    (hblocks : need (decide (blocks.eraseDups.length = blocks.length) && decide (stripCount blocks ≤ 16)) badSolve = .ok ())
    (hrules : need (rs.all fun r => decide (r.row < if mode = 2 then m else n) && (decide (2 ≤ r.op.val) || decide (r.col < n))) badSolve = .ok ())
    (hlen : rs.length = rules) :
    BindOk s w j { job := j, mat := (bindMatrix mode n m headroom blocks free master).1, rules := rs, sat := sat, started := now s } := by
  have hmode := need_ok hmode
  have hsize := need_ok hsize
  have hblocks := need_ok hblocks
  have hrules := need_ok hrules
  simp only [Bool.and_eq_true, Bool.or_eq_true, decide_eq_true_eq, List.all_eq_true, ne_eq] at hmode hsize hblocks hrules
  obtain ⟨hmodeEq, hnEq, hmEq, hblocksEq, hdinv⟩ := bindMatrix_bound mode n m headroom blocks free master
  refine ⟨need_ok hen, of_decide_eq_true (need_ok htenant), rfl, rfl, ?_, ?_, fun h2 => ?_, ?_, ⟨?_, fun r hr => ?_⟩, hdinv⟩
  · exact le_of_eq_of_le hmodeEq (by omega)
  · rw [hnEq, hmodeEq]; exact hsize.1
  · rw [hmEq]; exact hsize.2.resolve_left (not_not_intro (hmodeEq.symm.trans h2))
  · rw [hblocksEq]; exact hblocks
  · exact le_of_eq_of_le hlen hmode.2
  · obtain ⟨hrow, hcol⟩ := hrules r hr
    rw [Matrix.rows, hmEq, hnEq, hmodeEq]
    exact ⟨hrow, fun hop => hcol.resolve_left (Nat.not_le.mpr hop)⟩

theorem bindPlan_ok {s : State} {w : WeirId} {j : Job} {b : WeirBinding} (h : bindPlan s w j = .ok b) : BindOk s w j b := by
  unfold bindPlan at h
  obtain ⟨_, hen, h⟩ := bind_ok h
  obtain ⟨_, htenant, h⟩ := bind_ok h
  obtain ⟨t, _, h⟩ := bind_ok h
  obtain ⟨hd, _, h⟩ := bind_ok h
  obtain ⟨_, hmode, h⟩ := bind_ok h
  obtain ⟨_, hsize, h⟩ := bind_ok h
  obtain ⟨ws, _, h⟩ := bind_ok h
  obtain ⟨_, hblocks, h⟩ := bind_ok h
  obtain ⟨_, hrules, h⟩ := bind_ok h
  obtain ⟨d, _, h⟩ := bind_ok h
  obtain ⟨data, _, h⟩ := bind_ok h
  generalize (if bitsOf (nthW (wordsOf hd) 0) 1 0 = 1 then List.filterMap _ _ else [] : List (Nat × Nat)) = blocks at h hblocks
  obtain ⟨data, _⟩ := data
  cases h
  exact bindMatrix_bindOk hen htenant (bitsOf_lt ..) hmode hsize hblocks hrules (by rw [List.length_map, List.length_range])

/-- A Weir that is off refuses a bind (R188). -/
theorem bindPlan_off {s : State} {w : WeirId} (j : Job) (h : (s.weirs[w.val]).en = false) :
    bindPlan s w j = .error { st := stOffline, sub := 0 } := by
  exact bind_error (need_fail h)

theorem bindPlan_tenant {s : State} {w : WeirId} {j : Job} (hen : (s.weirs[w.val]).en = true) (h : j.tenant ≠ (s.weirs[w.val]).tenant) :
    bindPlan s w j = .error { st := stBound, sub := 0x04 } := by
  exact (bind_of_ok (need_pass hen)).trans (bind_error (need_fail (decide_eq_false h)))

section
variable {s : State} {w : WeirId} {j : Job} (hj : (s.weirs[w.val]).nextJob = some j)
include hj

/-- A docket of its opcode that nothing stops leaves the queue. -/
theorem weirTake_runs {o : Opcode} (f : State → Job → State) (ho : wOpcode j.words = some o) (hstop : jobStop s j = none) :
    weirTake s w o f = f (onWeir s w fun x => { x with queue := x.queue.erase j }) j := by
  simp only [weirTake, hj, ho, hstop, ne_eq, not_true_eq_false, if_false]

variable (hb : (s.weirs[w.val]).binding = none)
include hb

theorem bindStart_waits {b : WeirBinding} (hok : bindPlan s w j = .ok b) (hx : (s.weirs[w.val]).exclusive b = true)
    (hr : (s.weirs[w.val]).running.isSome = true) : bindStart s w = s := by
  simp only [bindStart, hb, hj, hok, hx, hr, Option.isSome_none, Bool.false_eq_true, if_false, Bool.and_self, if_true]

variable (ho : wOpcode j.words = some .weirBind) (hstop : jobStop s j = none)
include ho hstop

theorem bindStart_binds {b : WeirBinding} (hok : bindPlan s w j = .ok b)
    (hx : ¬ ((s.weirs[w.val]).exclusive b = true ∧ (s.weirs[w.val]).running.isSome = true)) :
    bindStart s w = onWeir { s with free := s.free + bindDraws } w fun x => { x with queue := x.queue.erase j, binding := some b } := by
  have hx' : ((s.weirs[w.val]).exclusive b && (s.weirs[w.val]).running.isSome) = false := by
    rw [Bool.eq_false_iff, ne_eq, Bool.and_eq_true]; exact hx
  simp only [bindStart, hb, hj, hok, hx', Option.isSome_none, Bool.false_eq_true, if_false]
  rw [weirTake_runs hj _ ho hstop]
  exact onWeir_onWeir { s with free := s.free + bindDraws } w (fun x => { x with queue := x.queue.erase j }) fun x => { x with binding := some b }

theorem bindStart_fails {f : WFail} (herr : bindPlan s w j = .error f) (hrow : f.row = none) :
    bindStart s w = finishJob (onWeir s w fun x => { x with queue := x.queue.erase j }) j f.st f.sub 0 0 (now s) 0 0 := by
  simp only [bindStart, hb, hj, herr, Option.isSome_none, Bool.false_eq_true, if_false]
  rw [weirTake_runs hj _ ho hstop]
  simp only [weirFail, hrow]
  rfl
end

/-- With no credit to return the bands wait on. -/
theorem returnCredits_nil (s : State) (w : WeirId) : (onGauge s fun g => { g with ports := g.ports.map fun p =>
    { p with ended := p.ended.map fun e => { e with waits := e.waits.filter fun t => !(t.2 = w && ([] : List Nat).contains t.1) } } }) = s := by
  refine onGauge_same s (congrArg (fun z => { s.gauge with ports := z }) (vec_map_eq fun c => ?_).symm)
  have hwaits (l : List (Nat × WeirId)) : (l.filter fun t => !(t.2 = w && ([] : List Nat).contains t.1)) = l :=
    List.filter_eq_self.mpr fun t _ => by rw [List.contains_nil, Bool.and_false]; rfl
  simp only [hwaits]
  rw [List.map_id'' fun _ => rfl]

/-- With no record held the assembler has nothing to do. -/
theorem assemble_idle {s : State} {w : WeirId} (h : (s.weirs[w.val]).held = []) : assemble s w = s := by
  have hx : (s.weirs[w.val]).assemble 17 = (s.weirs[w.val], []) := by simp only [Weir.assemble, h]
  have hw : (onWeir s w fun _ => s.weirs[w.val]) = s := onWeir_same s w rfl
  simp only [assemble, hx, hw]
  exact returnCredits_nil s w

/-- The mask of WEIR_CFG keeps the tenant. -/
theorem mask_tenant (v : Word) : bitsOf (v &&& 0xC0000007) 2 0 = bitsOf v 2 0 := by
  have hmask : (0xC0000007 : Word).toNat % 2 ^ 3 = 2 ^ 3 - 1 := by decide
  simp only [bitsOf, Nat.shiftRight_zero, BitVec.toNat_and, Nat.sub_zero, Nat.reduceAdd]
  rw [Nat.and_mod_two_pow, hmask, Nat.and_two_pow_sub_one_eq_mod, Nat.mod_mod]

/-- The Weir that a bind leaves. -/
def Weir.afterBind (x : Weir) (b : WeirBinding) : Weir :=
  { x with
    binding := none
    bound := true
    mat := if b.mat.mode = 1 then b.mat else x.mat
    shadow := if b.mat.mode = 1 then none else some b.mat
    rules := b.rules
    x := List.replicate b.mat.n 0
    rhs := List.replicate b.mat.rows 0
    rhsOps := []
    pending := []
    seqNew := none
    solves := 0
    running := x.running.map fun r => { r with keep := false } }

theorem bindDone_completes {s : State} {w : WeirId} {b : WeirBinding} (hb : (s.weirs[w.val]).binding = some b) (hh : (s.weirs[w.val]).held = []) :
    bindDone s w = finishJob (onWeir s w fun x => x.afterBind b) b.job (if b.sat = 0 then stOk else stSat) 0 0 0 b.started 0 b.sat := by
  have hheld : (onWeir s w fun x => { x.afterBind b with held := x.held.map fun h => { h with rule := 0 } }) = onWeir s w fun x => x.afterBind b :=
    onWeir_congr s w (by rw [hh]; exact (congrArg (fun z => { (s.weirs[w.val]).afterBind b with held := z }) hh.symm))
  have hidle : (((onWeir s w fun x => x.afterBind b).weirs[w.val]).held) = [] := (congrArg Weir.held (vmod_self ..)).trans hh
  have hdone : bindDone s w = finishJob (assemble (onWeir s w fun x => { x.afterBind b with held := x.held.map fun h => { h with rule := 0 } }) w)
      b.job (if b.sat = 0 then stOk else stSat) 0 0 0 b.started 0 b.sat := by
    simp only [bindDone, hb]
    rfl
  rw [hdone, hheld, assemble_idle hidle]

section
variable {s : State} {w : WeirId} {v : Word}

theorem weirCfg_same (h : bitsOf v 2 0 = bitsOf (s.weirs[w.val]).cfg 2 0) :
    weirCfg s w v = onWeir s w fun x => { x with cfg := v &&& 0xC0000007 } :=
  onWeir_congr s w (if_pos ((mask_tenant v).trans h))

theorem weirCfg_busy (h : bitsOf v 2 0 ≠ bitsOf (s.weirs[w.val]).cfg 2 0) (hb : (s.weirs[w.val]).busy = true) : weirCfg s w v = s :=
  onWeir_same s w ((if_neg fun e => h ((mask_tenant v).symm.trans e)).trans (if_pos hb))

theorem weirCfg_wipes (h : bitsOf v 2 0 ≠ bitsOf (s.weirs[w.val]).cfg 2 0) (hb : (s.weirs[w.val]).busy = false) :
    weirCfg s w v = onWeir s w fun _ => { (s.weirs[w.val]).wipe with cfg := v &&& 0xC0000007 } :=
  onWeir_congr s w ((if_neg fun e => h ((mask_tenant v).symm.trans e)).trans (if_neg (Bool.eq_false_iff.mp hb)))
end

/-- Settles O32: a bind starts, waits, fails and completes by the rules above. -/
theorem weirBindsItsMatrix : Obligations.WeirBindsItsMatrix := by
  unfold Obligations.WeirBindsItsMatrix
  intro s w hup hquiet x
  refine ⟨fun j hb hj ho => ?start, fun b hb hh => ?complete, fun v => ?tenant⟩
  case start =>
    have hexec {t : State} (h : bindStart s w = t) : exec (.weirBind w) s = .next (settleErr t) :=
      (liveRows_next hup fun s => bindStart s w).trans (congrArg _ (congrArg settleErr h))
    refine ⟨fun b hok => ⟨?ok, fun hstop hx => ?_, fun hx hr => ?_⟩, fun f herr hstop hrow => ?_, bindPlan_off j, bindPlan_tenant⟩
    case ok =>
      have h := bindPlan_ok hok
      exact ⟨h.en, h.tenant, h.job, h.started, h.mode, h.n.1, h.n.2, h.m, h.blocks.1, h.blocks.2, h.rules.1, h.rules.2,
        fun i hi => by rw [h.dinv]; exact invDiag_get hi⟩
    · exact (hexec (bindStart_binds hj hb ho hstop hok hx)).trans (next_of_quiet rfl hquiet)
    · exact (hexec (bindStart_waits hj hb hok hx hr)).trans (next_of_quiet rfl hquiet)
    · exact ⟨_, hexec (bindStart_fails hj hb ho hstop herr hrow), (finishJob_reported ..).trans (settleErr_reported _), rfl⟩
  case complete =>
    exact ⟨_, (liveRows_next hup fun s => bindDone s w).trans (congrArg _ (congrArg settleErr (bindDone_completes hb hh))),
      (finishJob_reported ..).trans (settleErr_reported _), rfl⟩
  case tenant =>
    intro cfg
    have hexec {t : State} (h : weirCfg s w v = t) : exec (.weirTenantWrite w v) s = .next t :=
      (live_next hup fun s => weirCfg s w v).trans (congrArg _ h)
    refine ⟨fun h => hexec (weirCfg_same h), fun h hb => hexec (weirCfg_busy h (by rwa [Weir.busy, Bool.or_eq_true])), fun h hr hb => ?_⟩
    refine ⟨_, hexec (weirCfg_wipes h (by rw [Weir.busy, hr, hb]; rfl)), ?_⟩
    rw [onWeir_weirs, vmod_self]
    refine ⟨rfl, rfl, fun i j => rfl, fun a ha => ?_, fun a ha => ?_⟩
    · obtain ⟨_, _, rfl⟩ := List.mem_map.mp ha; rfl
    · obtain ⟨_, _, rfl⟩ := List.mem_map.mp ha; rfl

end Sys2Proof.Machine
end

section
open Sys2Proof.Laws
namespace Sys2Proof.Machine

/-! ### Records, solves and stamps of a Weir (08 R190 to R203) -/

/-- Applying a rule neither reads nor changes the held records. -/
theorem applyRule_held (x : Weir) (l : List HeldRecord) (k : WRule) (v : Word) :
    ({ x with held := l } : Weir).applyRule k v = (x.applyRule k v).map fun y => { y with held := l } := by
  unfold Weir.applyRule
  dsimp only
  split
  · rfl
  · have hn : ({ x with held := l } : Weir).next = x.next := rfl
    rw [hn]
    split
    · rfl
    · split
      · rfl
      · split <;> rfl

theorem applyRule_keepsHeld {x y : Weir} {k : WRule} {v : Word} (h : x.applyRule k v = some y) : y.held = x.held := by
  have := applyRule_held x x.held k v
  rw [h] at this
  have hy : y = { y with held := x.held } := Option.some.inj this
  exact (congrArg Weir.held hy).trans rfl

/-- No rule reads a record of another source. -/
theorem applyRules_other {r : Record} {l : List WRule} (h : ∀ k ∈ l, k.src ≠ r.src) : ∀ (x : Weir) (i : Nat), x.applyRules r i l = (x, none) := by
  induction l with
  | nil => exact fun _ _ => rfl
  | cons k l ih =>
    intro x i
    rw [Weir.applyRules, if_pos (h k List.mem_cons_self)]
    exact ih (fun k hk => h k (List.mem_cons_of_mem _ hk)) x (i + 1)

theorem applyRules_applies {x y : Weir} {r : Record} {k : WRule} {v : Word} {i : Nat} (hsrc : k.src = r.src) (hv : Record.val r k.val = some v)
    (h : x.applyRule k v = some y) : x.applyRules r i [k] = ({ y with seqNew := maxSeq y.seqNew r.seq }, none) := by
  simp only [Weir.applyRules, hsrc, hv, h, ne_eq, not_true_eq_false, if_false]

theorem applyRules_held {x : Weir} {r : Record} {k : WRule} {v : Word} {i : Nat} (hsrc : k.src = r.src) (hv : Record.val r k.val = some v)
    (h : x.applyRule k v = none) : x.applyRules r i [k] = (x, some i) := by
  simp only [Weir.applyRules, hsrc, hv, h, ne_eq, not_true_eq_false, if_false]

section
variable {s : State} {w : WeirId} {r : Record}

theorem takeRecord_full (h : 16 ≤ (s.weirs[w.val]).held.length) : takeRecord s w r = s := if_pos h

variable (hheld : (s.weirs[w.val]).held = []) (hsent : s.gauge.sent.find? (fun t => t.1 = w && t.2.2 = r) = none)
include hheld hsent

/-- A record that no band waits for reaches an empty buffer. -/
theorem takeRecord_arrives : takeRecord s w r = assemble (onWeir s w fun x => { x with held := [{ record := r, rule := 0, no := none }] }) w := by
  have hg : (onGauge s fun g => { g with sent := g.sent }) = s := rfl
  simp only [takeRecord, hheld, hsent, List.length_nil, Nat.reduceLeDiff, if_false, hg, Option.map_none]
  refine congrArg (assemble · w) (onWeir_congr s w ?_)
  rw [hheld]; rfl

/-- The assembler finishes a record. -/
theorem assemble_finishes {y : Weir}
    (h : ({ s.weirs[w.val] with held := [{ record := r, rule := 0, no := none }] } : Weir).applyRules r 0 (s.weirs[w.val]).rules =
      ({ y with held := [{ record := r, rule := 0, no := none }] }, none)) (hy : y.held = []) :
    takeRecord s w r = onWeir s w fun _ => y := by
  rw [takeRecord_arrives hheld hsent]
  have hx : ((onWeir s w fun x => { x with held := [{ record := r, rule := 0, no := none }] }).weirs[w.val]).assemble 17 = (y, []) := by
    rw [onWeir_weirs, vmod_self, Weir.assemble]
    dsimp only
    rw [List.drop_zero, h]
    dsimp only
    have hempty : ({ y with held := [] } : Weir) = y := by rw [← hy]
    rw [hempty, Weir.assemble, hy]
    rfl
  simp only [assemble, hx]
  rw [onWeir_onWeir]
  exact returnCredits_nil _ w

/-- The assembler keeps a record for which the pending list has no room. -/
theorem assemble_keeps
    (h : ({ s.weirs[w.val] with held := [{ record := r, rule := 0, no := none }] } : Weir).applyRules r 0 (s.weirs[w.val]).rules =
      ({ s.weirs[w.val] with held := [{ record := r, rule := 0, no := none }] }, some 0)) :
    takeRecord s w r = onWeir s w fun x => { x with held := [{ record := r, rule := 0, no := none }] } := by
  rw [takeRecord_arrives hheld hsent]
  have hx : ((onWeir s w fun x => { x with held := [{ record := r, rule := 0, no := none }] }).weirs[w.val]).assemble 17 =
      ({ s.weirs[w.val] with held := [{ record := r, rule := 0, no := none }] }, []) := by
    rw [onWeir_weirs, vmod_self, Weir.assemble]
    dsimp only
    rw [List.drop_zero, h]
  simp only [assemble, hx]
  rw [onWeir_onWeir]
  exact (returnCredits_nil _ w).trans (onWeir_congr s w rfl)
end

/-- A rule that sets or adds to an entry that is not pending. -/
theorem applyRule_entry {x : Weir} {k : WRule} (v : Word) (hop : k.op.val < 2) (hin : x.next.inside k.row k.col = true)
    (hnew : x.pending.find? (fun e => e.1 = k.row && e.2.1 = k.col) = none) :
    x.applyRule k v = if 512 ≤ x.pending.length then none else some { x with pending := x.pending ++ [(k.row, k.col,
      if k.op = 1 then fadd (x.next.value k.row k.col) (fmul v k.coef) else fmul v k.coef)] } := by
  simp only [Weir.applyRule, Nat.not_le.mpr hop, hin, hnew, Bool.not_true, Bool.false_eq_true, if_false]

/-- A rule that sets or adds to the right-hand side. -/
theorem applyRule_rhs {x : Weir} {k : WRule} (v : Word) (hop : 2 ≤ k.op.val) :
    x.applyRule k v = some { x with
      rhs := listSet x.rhs k.row fun old => if decide (k.op.val = 3) then fadd old (fmul v k.coef) else fmul v k.coef
      rhsOps := x.rhsOps ++ [(decide (k.op.val = 3), k.row, fmul v k.coef)] } := by
  simp only [Weir.applyRule, hop, if_true]

/-- What a solve that passes its checks is (R195, R197, R203). -/
structure SolveOk (x : Weir) (j : Job) (delta : Bool) (p : SolvePlan) : Prop where
  en : x.en = true
  bound : x.bound = true
  tenant : j.tenant = x.tenant
  algo : p.algo ≤ 4
  k : 1 ≤ p.k ∧ p.k ≤ 4096
  mode : p.algo = 4 ↔ x.next.mode = 2
  noDelta : p.algo = 3 → delta = false
  deltas : delta = true → 1 ≤ p.deltas.length ∧ p.deltas.length ≤ 512

theorem solvePlan_ok {s : State} {w : WeirId} {j : Job} {delta : Bool} {p : SolvePlan} (h : solvePlan s w j delta = .ok p) :
    SolveOk s.weirs[w.val] j delta p := by
  unfold solvePlan at h
  obtain ⟨_, hen, h⟩ := bind_ok h
  obtain ⟨_, hk, h⟩ := bind_ok h
  obtain ⟨_, hmode, h⟩ := bind_ok h
  obtain ⟨_, hproj, h⟩ := bind_ok h
  obtain ⟨_, hcnt, h⟩ := bind_ok h
  obtain ⟨_, htenant, h⟩ := bind_ok h
  obtain ⟨d, _, h⟩ := bind_ok h
  obtain ⟨_, _, h⟩ := bind_ok h
  obtain ⟨_, _, h⟩ := bind_ok h
  obtain ⟨⟨rhs, r1⟩, _, h⟩ := bind_ok h
  obtain ⟨⟨lo, hi, r2⟩, _, h⟩ := bind_ok h
  obtain ⟨⟨ds, r3⟩, hds, h⟩ := bind_ok h
  cases h
  have hk := need_ok hk
  have hmode := need_ok hmode
  have hproj := need_ok hproj
  have hcnt := need_ok hcnt
  simp only [Bool.and_eq_true, Bool.or_eq_true, Bool.not_eq_true', decide_eq_true_eq, beq_iff_eq, decide_eq_decide] at hk hmode hcnt
  obtain ⟨⟨⟨halgo, hk1⟩, hk2⟩, hbound⟩ := hk
  refine ⟨need_ok hen, hbound, of_decide_eq_true (need_ok htenant), halgo, ⟨hk1, hk2⟩, hmode, fun h3 => ?_, fun hdelta => ?_⟩
  · cases delta with
    | false => rfl
    | true => rw [decide_eq_true h3] at hproj; cases hproj
  · rw [if_pos hdelta] at hds
    obtain ⟨dd, _, hds⟩ := bind_ok hds
    obtain ⟨ws, _, hds⟩ := bind_ok hds
    cases hds
    rw [List.length_map, List.length_range]
    exact hcnt.resolve_left fun h => Bool.false_ne_true (h.symm.trans hdelta)

section
variable {s : State} {w : WeirId} {j : Job} {delta : Bool} (hr : (s.weirs[w.val]).running = none) (hb : (s.weirs[w.val]).binding = none)
  (hj : (s.weirs[w.val]).nextJob = some j) (ho : wOpcode j.words = some (if delta then .solveDelta else .solve)) (hstop : jobStop s j = none)
include hr hb hj ho hstop

theorem solveStart_takes : solveStart s w delta =
    match solvePlan (onWeir s w fun x => { x with queue := x.queue.erase j }) w j delta with
    | .error f => weirFail (onWeir s w fun x => { x with queue := x.queue.erase j }) j f
    | .ok p => solveRun (onWeir s w fun x => { x with queue := x.queue.erase j }) w j p := by
  simp only [solveStart, hr, hb, Option.isSome_none, Bool.or_self, Bool.false_eq_true, if_false]
  exact weirTake_runs hj _ ho hstop

theorem solveStart_fails {f : WFail} (herr : solvePlan (onWeir s w fun x => { x with queue := x.queue.erase j }) w j delta = .error f)
    (hrow : f.row = none) :
    solveStart s w delta = finishJob (onWeir s w fun x => { x with queue := x.queue.erase j }) j f.st f.sub 0 0 (now s) 0 0 := by
  rw [solveStart_takes hr hb hj ho hstop, herr]
  simp only [weirFail, hrow]
  rfl

theorem solveStart_runs {p : SolvePlan} (hok : solvePlan (onWeir s w fun x => { x with queue := x.queue.erase j }) w j delta = .ok p) :
    solveStart s w delta = solveRun (onWeir s w fun x => { x with queue := x.queue.erase j }) w j p := by
  rw [solveStart_takes hr hb hj ho hstop, hok]
end

/-- The matrix, its saturated entries and the deltas it refused, as a solve commits them. -/
def Weir.commit (x : Weir) (free : Nat) (p : SolvePlan) : Matrix × Nat × Nat :=
  let committed := x.next.putAll free x.pending
  let changed := applyDeltas committed.1 (free + 2 * x.pending.length) p.deltas
  (changed.1, committed.2 + changed.2.1, changed.2.2)

/-- What a solve of a Weir iterates on. -/
def Weir.solveIn (x : Weir) (free : Nat) (j : Job) (p : SolvePlan) : SolveIn :=
  { mat := (x.commit free p).1, algo := p.algo, step := if p.deltas.isEmpty then j.words[8] else 0, b := stagedRhs x.rhs p.rhs x.rhsOps, lo := p.lo, hi := p.hi }

/-- The run that a solve leaves. -/
def Weir.solveOut (x : Weir) (s : State) (j : Job) (p : SolvePlan) : WeirRun :=
  let c := x.commit s.free p
  let inp := x.solveIn s.free j p
  let it := inp.iterate p.k (inp.init x.x)
  { job := j, k := p.k, x := it.good, residual := (inp.residual it.good).1, finite := it.finite, sat := c.2.1, seq := x.seqNew.getD x.seq,
    cycles := solveCycles c.1 p.algo p.k p.rd p.wr (x.pending.length + p.deltas.length - c.2.2), started := now s, solAt := p.solAt, keep := true }

/-- The Weir that a solve leaves. -/
def Weir.solving (x : Weir) (s : State) (j : Job) (p : SolvePlan) : Weir :=
  let c := x.commit s.free p
  let inp := x.solveIn s.free j p
  let it := inp.iterate p.k (inp.init x.x)
  { x with
    mat := c.1
    shadow := none
    activePair := if x.shadow.isSome then !x.activePair else x.activePair
    pending := []
    rhs := stagedRhs x.rhs p.rhs x.rhsOps
    rhsOps := []
    seq := x.seqNew.getD x.seq
    seqNew := none
    refused := bump x.refused c.2.2
    nanIn := bump x.nanIn (it.bad + (inp.residual it.good).2)
    running := some (x.solveOut s j p) }

theorem solveRun_runs {s : State} {w : WeirId} {x : Weir} (j : Job) (p : SolvePlan) (hx : s.weirs[w.val] = x) (hh : x.held = []) :
    solveRun s w j p = onWeir { s with free := s.free + 2 * x.pending.length + 2 * p.deltas.length } w fun _ => x.solving s j p := by
  have hrun : solveRun s w j p = assemble (onWeir { s with free := s.free + 2 * (s.weirs[w.val]).pending.length + 2 * p.deltas.length } w fun _ =>
      (s.weirs[w.val]).solving s j p) w :=
    congrArg (assemble · w) (onWeir_congr { s with free := s.free + 2 * (s.weirs[w.val]).pending.length + 2 * p.deltas.length } w rfl)
  rw [hrun, hx, assemble_idle]
  rw [onWeir_weirs, vmod_self]; exact hh

theorem length_wordBytes (ws : List Word) : (wordBytes ws).length = 4 * ws.length := by
  simp only [wordBytes, List.length_flatMap, length_leBytes, List.map_const', List.sum_replicate_nat]
  omega

theorem stampRow_length (r : WeirRun) (st : Byte) (t : Word64) (solves : Word) : (stampRow r st t solves).length = 512 := by
  simp only [stampRow, List.length_append, length_wordBytes, List.length_replicate, words64, List.length_cons, List.length_nil]

/-- A whole row that its place accepts is stored; beside it only the Granary's counts change. -/
theorem writeRowPart_stored {s : State} {own : Option MillId} {a : Nat} {bs : List Byte} (ha : a % 512 = 0) (hl : bs.length = 512)
    (hp : placeStatus s own a = .ok) : ∃ g : Granary, writeRowPart s own a bs = (.ok, { s with mem := writeBytes s.mem a bs, granary := g }) :=
  ⟨_, (writeRowPart_whole ha hl hp).1⟩

/-- A solution whose rows answer is written, and then its stamp. -/
theorem writeSolution_ok {s : State} {r : WeirRun} (st : Byte) (solves : Word) (hrows : rowsOk s none r.solAt (4 * r.x.length))
    (hal : r.solAt % 512 = 0) (hroom : 512 ≤ r.solAt) (hstamp : rowStatus s none (r.solAt - 512) = .ok) :
    ∃ g : Granary, writeSolution s r st solves = (.ok, { s with
      mem := writeBytes (writeBytes s.mem r.solAt (wordBytes r.x)) (r.solAt - 512) (stampRow r st (now s) solves), granary := g }) := by
  obtain ⟨g, hw, hg, hbanks⟩ := writeRange_ok (bs := wordBytes r.x) (by rw [length_wordBytes]; exact hrows)
  have hro : RowsOnly s { s with mem := writeBytes s.mem r.solAt (wordBytes r.x), granary := g } :=
    ⟨congrArg (fun g => { s with mem := writeBytes s.mem r.solAt (wordBytes r.x), granary := g }) hg, hbanks, fun h => writeBytes_wf _ _ h⟩
  have hplace : placeStatus { s with mem := writeBytes s.mem r.solAt (wordBytes r.x), granary := g } none (r.solAt - 512) = .ok := by
    rw [hro.place]; exact placeStatus_of_rowStatus hstamp
  obtain ⟨g', hrow⟩ := writeRowPart_stored (by omega) (stampRow_length r st (now s) solves) hplace
  refine ⟨g', ?_⟩
  unfold writeSolution
  rw [hw]
  exact hrow

/-- The status of a solve. -/
def WeirRun.status (r : WeirRun) (target : Word) : Byte := if !r.finite || overTarget r.residual target then stNotConv else if r.sat = 0 then stOk else stSat

section
variable {s : State} {w : WeirId} {r : WeirRun} (hr : (s.weirs[w.val]).running = some r) (hstop : jobStop s r.job = none)
include hr hstop

theorem solveDone_waits (hf : (s.weirs[w.val]).fixedTime = true) (ht : cimElapsed s r.started r.cycles 0 = false) : solveDone s w = s := by
  simp only [solveDone, hr, hstop, hf, ht, Bool.not_false, Bool.and_self, if_true]

theorem solveDone_writes (ht : (s.weirs[w.val]).fixedTime = false ∨ cimElapsed s r.started r.cycles 0 = true) {u : State}
    (hw : writeSolution s r (r.status (s.weirs[w.val]).resTarget) (bump (s.weirs[w.val]).solves) = (.ok, u)) (hnow : now u = now s) :
    solveDone s w = finishJob (onWeir u w fun x =>
      { x with
        running := none
        x := if r.keep then r.x else x.x
        nonfinite := if r.finite then x.nonfinite else bump x.nonfinite
        solveLate := if r.job.cls ≠ 3 && cimElapsed s r.started r.cycles 10 then bump x.solveLate else x.solveLate
        solves := bump x.solves
        lastRes := r.residual
        lastSeq := r.seq }) r.job (r.status (s.weirs[w.val]).resTarget) 0 0 (fBF16.encode (fval r.residual)) r.started r.k r.sat := by
  have hgo : ((s.weirs[w.val]).fixedTime && !cimElapsed s r.started r.cycles 0) = false := by
    rcases ht with h | h
    · rw [h]; rfl
    · rw [h]; exact Bool.and_false _
  have hlate : cimElapsed u r.started r.cycles 10 = cimElapsed s r.started r.cycles 10 := by unfold cimElapsed; rw [hnow]
  unfold WeirRun.status at hw ⊢
  simp only [solveDone, hr, hstop, hgo, hw, hlate, Bool.false_eq_true, if_false, if_true]
end

/-- Settles O33: records, rules, solves and stamps follow the rules above. -/
theorem weirSolvesCommitAndStamp : Obligations.WeirSolvesCommitAndStamp := by
  unfold Obligations.WeirSolvesCommitAndStamp
  intro s w hup hquiet x
  refine ⟨fun r => ⟨?full, fun hh hsent => ⟨?other, ?applied, ?kept⟩⟩, fun k v => ⟨fun hop hin hnew => ⟨?noRoom, ?room⟩, ?rhs⟩, ?solve, fun r hr hstop => ⟨?waits, ?writes⟩⟩
  case full =>
    intro h
    exact (live_next hup fun s => takeRecord s w r).trans (congrArg _ (takeRecord_full h))
  case other =>
    intro hne
    refine (live_next hup fun s => takeRecord s w r).trans (congrArg _ ((assemble_finishes hh hsent (applyRules_other hne _ 0) hh).trans ?_))
    exact onWeir_same s w rfl
  case applied =>
    intro k v y hrules hsrc hv happ
    refine (live_next hup fun s => takeRecord s w r).trans (congrArg _ (assemble_finishes hh hsent ?_ ((applyRule_keepsHeld happ).trans hh)))
    have hheld := applyRule_held x [{ record := r, rule := 0, no := none }] k v
    rw [happ] at hheld
    have hx : (s.weirs[w.val]).rules = [k] := hrules
    rw [hx]
    exact applyRules_applies hsrc hv hheld
  case kept =>
    intro k v hrules hsrc hv happ
    refine (live_next hup fun s => takeRecord s w r).trans (congrArg _ (assemble_keeps hh hsent ?_))
    have hheld := applyRule_held x [{ record := r, rule := 0, no := none }] k v
    rw [happ] at hheld
    have hx : (s.weirs[w.val]).rules = [k] := hrules
    rw [hx]
    exact applyRules_held hsrc hv hheld
  case noRoom => exact fun h => (applyRule_entry v hop hin hnew).trans (if_pos h)
  case room => exact fun h => (applyRule_entry v hop hin hnew).trans (if_neg (Nat.not_le.mpr h))
  case rhs =>
    intro hop
    refine ⟨_, applyRule_rhs v hop, rfl, fun hrow => ?_⟩
    show (x.rhs.modify k.row _)[k.row]? = _
    rw [List.getElem?_modify_eq, List.getElem?_eq_getElem hrow]
    by_cases h3 : k.op.val = 3
    · simp [h3, List.getD, hrow]
    · simp [h3]
  case solve =>
    intro j delta c o u hr hb hj ho hstop
    have ho' : wOpcode j.words = some (if delta then .solveDelta else .solve) := ho
    have hexec {t : State} (h : solveStart s w delta = t) : exec c s = .next (settleErr t) := by
      rw [← h]
      cases delta with
      | false => exact liveRows_next hup fun s => solveStart s w false
      | true => exact liveRows_next hup fun s => solveStart s w true
    refine ⟨fun f herr hrow => ?fails, fun p hok => ⟨?checks, fun hh => ?runs⟩⟩
    case fails => exact ⟨_, hexec (solveStart_fails hr hb hj ho' hstop herr hrow), (finishJob_reported ..).trans (settleErr_reported _), rfl⟩
    case checks =>
      have h := solvePlan_ok hok
      rw [onWeir_weirs, vmod_self] at h
      exact ⟨h.en, h.bound, h.tenant, h.algo, h.k.1, h.k.2, h.mode, h.noDelta, h.deltas⟩
    case runs =>
      have hu : u.weirs[w.val] = { x with queue := x.queue.erase j } := vmod_self ..
      intro committed changed b inp it res
      refine ⟨_, ({ x with queue := x.queue.erase j } : Weir).solveOut s j p, (hexec ((solveStart_runs hr hb hj ho' hstop hok).trans (solveRun_runs j p hu hh))).trans (next_of_quiet rfl hquiet), ?_⟩
      refine ⟨(onWeir_onWeir { s with free := s.free + 2 * x.pending.length + 2 * p.deltas.length } w (fun x => { x with queue := x.queue.erase j })
        fun _ => ({ x with queue := x.queue.erase j } : Weir).solving u j p).trans (onWeir_congr { s with free := s.free + 2 * x.pending.length + 2 * p.deltas.length } w rfl), rfl, rfl, rfl, rfl, rfl, rfl, rfl, rfl, rfl, rfl⟩
  case waits =>
    intro hf ht
    exact (liveRows_next hup fun s => solveDone s w).trans (next_of_quiet (solveDone_waits hr hstop hf ht) hquiet)
  case writes =>
    intro ht hrows hal hroom hstamp st
    obtain ⟨g, hw⟩ := writeSolution_ok (r.status x.resTarget) (bump x.solves) hrows hal hroom hstamp
    exact ⟨_, _, (liveRows_next hup fun s => solveDone s w).trans (congrArg _ (congrArg settleErr (solveDone_writes hr hstop ht hw (by dsimp only [now])))), rfl,
      (finishJob_reported ..).trans (settleErr_reported _), rfl, stampRow_length ..⟩

end Sys2Proof.Machine
end

section
open Sys2Proof.Laws
namespace Sys2Proof.Machine

/-! ### Camera lines, frames and band rings (09 R207 to R215) -/

theorem onCam_onCam (s : State) (c : CamId) (f g : CamPort → CamPort) : onCam (onCam s c f) c g = onCam s c fun p => g (f p) :=
  congrArg (fun v => onGauge s fun _ => { s.gauge with ports := v }) (vmod_vmod s.gauge.ports c f g)

theorem onCam_port (s : State) (c : CamId) (f : CamPort → CamPort) : (onCam s c f).gauge.ports[c.val] = f s.gauge.ports[c.val] := vmod_self ..

theorem onCam_congr (s : State) {c : CamId} {f g : CamPort → CamPort} (h : f s.gauge.ports[c.val] = g s.gauge.ports[c.val]) :
    onCam s c f = onCam s c g :=
  onGauge_congr s (congrArg (fun v => { s.gauge with ports := v }) (vmod_congr _ c h))

theorem length_lineBytes (p : CamPort) (stride : Nat) (pixels : List Nat) : (lineBytes p stride pixels).length = stride := by
  unfold lineBytes
  split
  · exact List.length_replicate
  · rw [List.length_take, List.length_append, List.length_replicate]; omega

/-- Whole rows that answer are written, none is refused. -/
theorem writeBand_ok (n : Nat) : ∀ (s : State) (a : Nat) (bs : List Byte), a % 512 = 0 → bs.length = 512 * n →
    (∀ i, i < 512 * n → placeStatus s none (a + i) = .ok) →
    ∃ g : Granary, writeBand s a bs n = (0, { s with mem := writeBytes s.mem a bs, granary := g }) ∧
      g = { s.granary with poison := g.poison, banks := g.banks } := by
  induction n with
  | zero =>
    intro s a bs _ hl _
    have hnil : bs = [] := List.eq_nil_of_length_eq_zero hl
    subst hnil
    exact ⟨s.granary, rfl, rfl⟩
  | succ n ih =>
    intro s a bs ha hl hp
    have hone : (bs.take 512).length = 512 := by rw [List.length_take]; omega
    obtain ⟨hw, hro⟩ := writeRowPart_whole ha hone (hp 0 (by omega))
    obtain ⟨g, hrest, hg⟩ := ih (rowWritten { s with mem := writeBytes s.mem a (bs.take 512) } a) (a + 512) (bs.drop 512) (by omega)
      (by rw [List.length_drop]; omega) fun i hi => by
        rw [hro.place, Nat.add_assoc]; exact hp _ (by omega)
    have hmem : writeBytes (writeBytes s.mem a (bs.take 512)) (a + 512) (bs.drop 512) = writeBytes s.mem a bs := by
      have h := writeBytes_append s.mem a (bs.take 512) (bs.drop 512)
      rw [hone, List.take_append_drop] at h
      exact h
    refine ⟨g, ?_, hg⟩
    rw [rowWritten_mem, hmem] at hrest
    unfold writeBand
    rw [hw]
    dsimp only
    rw [hrest]
    rfl

section
variable {s : State} {c : CamId} {k : LongPacket}

theorem longPacket_bad (h : k.hdr = .bad) (hn : nearLen s.gauge.ports[c.val] k.measured = false) :
    longPacket s c k = onCam s c (·.count 3) := by
  have hn' : nearLen ((onCam s c fun p => p.count 3).gauge.ports[c.val]) k.measured = false := by rw [onCam_port]; exact hn
  simp only [longPacket, h, hn, if_true, Bool.false_eq_true, if_false]

theorem longPacket_stray (h : k.hdr ≠ .bad) (hn : ¬ (k.vc = (s.gauge.ports[c.val]).vc ∧ k.dt = (s.gauge.ports[c.val]).dt)) :
    longPacket s c k = onCam s c fun p => (if k.hdr = .corrected then p.count 2 else p).count 5 := by
  have hstream : (decide (k.vc = (s.gauge.ports[c.val]).vc) && decide (k.dt = (s.gauge.ports[c.val]).dt)) = false := by
    rw [← Bool.decide_and]; exact decide_eq_false hn
  unfold longPacket
  simp only [h, if_false, hstream, Bool.false_eq_true]
  split
  · exact onCam_onCam ..
  · rfl

theorem longPacket_taken (h : k.hdr = .good) (hcrc : k.crcErr = false) (hvc : k.vc = (s.gauge.ports[c.val]).vc) (hdt : k.dt = (s.gauge.ports[c.val]).dt) :
    longPacket s c k = takeLine (onCam s c fun p => { p with expected := some k.measured }) c (some k.pixels) false := by
  have hstream : (decide (k.vc = (s.gauge.ports[c.val]).vc) && decide (k.dt = (s.gauge.ports[c.val]).dt)) = true := by
    rw [decide_eq_true hvc, decide_eq_true hdt]; rfl
  unfold longPacket
  simp only [h, hstream, hcrc, reduceCtorEq, if_false, if_true, Bool.false_eq_true]
end

/-- A line outside the crop, or of a port without a ring, is counted only. -/
theorem takeLine_outside {s : State} {c : CamId} (px : Option (List Nat)) (crc : Bool) (hf : (s.gauge.ports[c.val]).inFrame = true)
    (ho : (s.gauge.ports[c.val]).ring = none ∨ (s.gauge.ports[c.val]).lines < (s.gauge.ports[c.val]).y0 ∨
      (s.gauge.ports[c.val]).y0 + (s.gauge.ports[c.val]).h ≤ (s.gauge.ports[c.val]).lines) :
    takeLine s c px crc = onCam s c fun p => { p with lines := p.lines + 1 } := by
  have hout : ((s.gauge.ports[c.val]).ring.isNone || decide ((s.gauge.ports[c.val]).lines < (s.gauge.ports[c.val]).y0) ||
      decide ((s.gauge.ports[c.val]).y0 + (s.gauge.ports[c.val]).h ≤ (s.gauge.ports[c.val]).lines)) = true := by
    rcases ho with h | h | h
    · rw [h]; rfl
    · rw [decide_eq_true h, Bool.or_true, Bool.true_or]
    · rw [decide_eq_true h, Bool.or_true]
  simp only [takeLine, hf, hout, Bool.not_true, Bool.false_eq_true, if_false, if_true]

/-- What a received line records in its open band (R215). -/
def BandRun.received (b : BandRun) (s : State) (p : CamPort) : BandRun :=
  { b with
    valid := b.valid ||| BitVec.twoPow 64 b.line
    stamps := vmod b.stamps (fin 64 b.line) fun _ => lineStamp s p
    flags := b.flags ||| (if s.gauge.isLocked then 0 else fTimeUnlocked) }

/-- A line of an open band is written and stamped, then the band goes on. -/
theorem takeLine_band {s : State} {c : CamId} {b : BandRun} {r : BandRing} (px : List Nat) (hf : (s.gauge.ports[c.val]).inFrame = true)
    (hr : (s.gauge.ports[c.val]).ring = some r) (hb : (s.gauge.ports[c.val]).band = some b)
    (hlo : (s.gauge.ports[c.val]).y0 ≤ (s.gauge.ports[c.val]).lines)
    (hhi : (s.gauge.ports[c.val]).lines < (s.gauge.ports[c.val]).y0 + (s.gauge.ports[c.val]).h) :
    takeLine s c (some px) false = nextLine (writeLine (onCam s c fun p => { p with lines := p.lines + 1, band := some (b.received s s.gauge.ports[c.val]) }) c px) c := by
  have hin : ((s.gauge.ports[c.val]).ring.isNone || decide ((s.gauge.ports[c.val]).lines < (s.gauge.ports[c.val]).y0) ||
      decide ((s.gauge.ports[c.val]).y0 + (s.gauge.ports[c.val]).h ≤ (s.gauge.ports[c.val]).lines)) = false := by
    rw [hr, decide_eq_false (Nat.not_lt.mpr hlo), decide_eq_false (Nat.not_le.mpr hhi)]; rfl
  simp only [takeLine, hf, hin, Bool.not_true, Bool.false_eq_true, if_false, Option.getD_some]
  refine congrArg (fun t => nextLine (writeLine t c px) c) ?_
  unfold openBand onBand
  rw [onCam_onCam, onCam_onCam]
  refine onCam_congr s ?_
  simp only [hb, hr, BitVec.ofNat_eq_ofNat, BitVec.or_zero]
  rfl

/-- A line of whole rows that answer is written to its place in the ring. -/
theorem writeLine_ok {s : State} {c : CamId} {b : BandRun} {r : BandRing} {slot : Nat} (px : List Nat)
    (hb : (s.gauge.ports[c.val]).band = some b) (hr : (s.gauge.ports[c.val]).ring = some r) (hs : b.slot = some slot)
    (ha : (r.base + slot * r.batchStride + b.line * r.rowStride) % 512 = 0) (hl : r.rowStride % 512 = 0)
    (hp : ∀ i, i < r.rowStride → placeStatus s none (r.base + slot * r.batchStride + b.line * r.rowStride + i) = .ok) :
    ∃ g : Granary, writeLine s c px = { s with
        mem := writeBytes s.mem (r.base + slot * r.batchStride + b.line * r.rowStride) (lineBytes s.gauge.ports[c.val] r.rowStride px), granary := g } ∧
      g = { s.granary with poison := g.poison, banks := g.banks } := by
  have hlen : 512 * (r.rowStride / 512) = r.rowStride := by omega
  obtain ⟨g, hw, hg⟩ := writeBand_ok (r.rowStride / 512) s _ (lineBytes s.gauge.ports[c.val] r.rowStride px) ha
    (by rw [length_lineBytes, hlen]) (by rw [hlen]; exact hp)
  refine ⟨g, ?_, hg⟩
  simp only [writeLine, hb, hr, hs, hw, if_true]

/-- A band goes on after any line but its last. -/
theorem nextLine_next {s : State} {c : CamId} {b : BandRun} (hb : (s.gauge.ports[c.val]).band = some b) (hl : b.line < 63) :
    nextLine s c = onBand s c fun b => { b with line := b.line + 1 } := by
  simp only [nextLine, hb, Nat.ne_of_lt hl, if_false]

theorem takeLine_written {s : State} {c : CamId} {b : BandRun} {r : BandRing} {slot : Nat} (px : List Nat)
    (hf : (s.gauge.ports[c.val]).inFrame = true) (hr : (s.gauge.ports[c.val]).ring = some r) (hb : (s.gauge.ports[c.val]).band = some b)
    (hs : b.slot = some slot) (hlo : (s.gauge.ports[c.val]).y0 ≤ (s.gauge.ports[c.val]).lines)
    (hhi : (s.gauge.ports[c.val]).lines < (s.gauge.ports[c.val]).y0 + (s.gauge.ports[c.val]).h) (hl : b.line < 63)
    (ha : (r.base + slot * r.batchStride + b.line * r.rowStride) % 512 = 0) (hst : r.rowStride % 512 = 0)
    (hp : ∀ i, i < r.rowStride → placeStatus s none (r.base + slot * r.batchStride + b.line * r.rowStride + i) = .ok) :
    ∃ g : Granary, takeLine s c (some px) false = onCam { s with
        mem := writeBytes s.mem (r.base + slot * r.batchStride + b.line * r.rowStride) (lineBytes s.gauge.ports[c.val] r.rowStride px), granary := g } c
          (fun p => { p with lines := p.lines + 1, band := some { b.received s s.gauge.ports[c.val] with line := b.line + 1 } }) ∧
      g = { s.granary with poison := g.poison, banks := g.banks } := by
  obtain ⟨u, hu⟩ : ∃ u, u = onCam s c fun p => { p with lines := p.lines + 1, band := some (b.received s s.gauge.ports[c.val]) } := ⟨_, rfl⟩
  have hport : u.gauge.ports[c.val] = { s.gauge.ports[c.val] with
      lines := (s.gauge.ports[c.val]).lines + 1, band := some (b.received s s.gauge.ports[c.val]) } := by rw [hu]; exact onCam_port ..
  obtain ⟨g, hw, hg⟩ := writeLine_ok (s := u) (c := c) (b := b.received s s.gauge.ports[c.val]) (r := r) (slot := slot) px
    (by rw [hport]) (by rw [hport]; exact hr) hs ha hst (by rw [hu]; exact hp)
  refine ⟨g, ?_, by rw [hg, hu]; rfl⟩
  rw [takeLine_band px hf hr hb hlo hhi, ← hu, hw, nextLine_next (b := b.received s s.gauge.ports[c.val]) (by dsimp only; rw [hport]) hl]
  rw [hport, hu]
  unfold onBand
  exact onCam_onCam { s with
    mem := writeBytes s.mem (r.base + slot * r.batchStride + b.line * r.rowStride) (lineBytes s.gauge.ports[c.val] r.rowStride px), granary := g } c _ _

/-! The Bell of a band, and the frames. -/

theorem bandBell_rings {s : State} {c : CamId} {e : BandEnd} {rest : List BandEnd} (h : (s.gauge.ports[c.val]).ended = e :: rest) (hw : e.waits = []) :
    bandBell s c = raiseBell (onCam s c fun p => { p with ended := rest }) (s.gauge.ports[c.val]).bandBell := by
  simp only [bandBell, h, hw, List.isEmpty_nil, if_true]

theorem bandBell_waits {s : State} {c : CamId} {e : BandEnd} {rest : List BandEnd} (h : (s.gauge.ports[c.val]).ended = e :: rest) (hw : e.waits ≠ []) :
    bandBell s c = s := by
  have hne : e.waits.isEmpty = false := by rw [List.isEmpty_eq_false_iff]; exact hw
  simp only [bandBell, h, hne, Bool.false_eq_true, if_false]

section
variable {s : State} {c : CamId} {vc : Fin 4} {no : BitVec 16}

theorem frameBegin_other (h : vc ≠ (s.gauge.ports[c.val]).vc) : frameBegin s c vc no = onCam s c (·.count 5) := by
  simp only [frameBegin, h, ne_eq, not_false_eq_true, if_true]

theorem frameFinish_other (h : vc ≠ (s.gauge.ports[c.val]).vc) : frameFinish s c vc = onCam s c (·.count 5) := by
  simp only [frameFinish, h, ne_eq, not_false_eq_true, if_true]

theorem frameFinish_idle (h : vc = (s.gauge.ports[c.val]).vc) (hf : (s.gauge.ports[c.val]).inFrame = false) : frameFinish s c vc = s := by
  simp only [frameFinish, h, hf, ne_eq, not_true_eq_false, if_false, Bool.false_eq_true]

/-- With no open band there is nothing to change in it. -/
theorem onBand_closed (f : BandRun → BandRun) (h : (s.gauge.ports[c.val]).band = none) : onBand s c f = s := by
  have hport : { s.gauge.ports[c.val] with band := (s.gauge.ports[c.val]).band.map f } = s.gauge.ports[c.val] := by rw [h, Option.map_none, ← h]
  have hports : (vmod s.gauge.ports c fun p => { p with band := p.band.map f }) = s.gauge.ports :=
    (vmod_congr _ c (g := fun p => p) hport).trans (vmod_id ..)
  unfold onBand onCam onGauge
  dsimp only
  rw [hports]

theorem closeFrame_closed (flags : Byte) (h : (s.gauge.ports[c.val]).band = none) : closeFrame s c flags = s := by
  rw [closeFrame, onBand_closed _ h, fillBand, h]
  rfl

theorem frameFinish_closed (h : vc = (s.gauge.ports[c.val]).vc) (hf : (s.gauge.ports[c.val]).inFrame = true) (hb : (s.gauge.ports[c.val]).band = none) :
    frameFinish s c vc = onCam s c fun p => { p with inFrame := false } := by
  simp only [frameFinish, h, hf, ne_eq, not_true_eq_false, if_false, if_true, closeFrame_closed _ hb]

theorem frameBegin_plain (h : vc = (s.gauge.ports[c.val]).vc) (hf : (s.gauge.ports[c.val]).inFrame = false) (ha : (s.gauge.ports[c.val]).arm = none) :
    frameBegin s c vc no = onCam s c fun p => { p with inFrame := true, frameNo := no, lines := 0, band := none } := by
  simp only [frameBegin, h, hf, ne_eq, not_true_eq_false, if_false, Bool.false_eq_true]
  exact onCam_congr s (by simp only [ha])

theorem frameBegin_armed (h : vc = (s.gauge.ports[c.val]).vc) (hf : (s.gauge.ports[c.val]).inFrame = false) {ring : Option BandRing}
    (ha : (s.gauge.ports[c.val]).arm = some ring) :
    frameBegin s c vc no = onCam s c fun p =>
      { p with ring := ring, arm := none, heldSlots := 0, nextSlot := 0, bandSeq := 0, droppedSince := 0, inFrame := true,
               frameNo := no, lines := 0, band := none } := by
  simp only [frameBegin, h, hf, ne_eq, not_true_eq_false, if_false, Bool.false_eq_true]
  exact onCam_congr s (by simp only [ha])
end

theorem releaseSlots_held {p : CamPort} {n : Nat} (h : n ≤ p.heldSlots) : releaseSlots p n = { p with heldSlots := p.heldSlots - n } := by
  unfold releaseSlots
  split
  · next hz => subst hz; rfl
  · exact if_neg (Nat.not_lt.mpr h)

theorem releaseSlots_refused {p : CamPort} {n : Nat} (h : p.heldSlots < n) : releaseSlots p n = p.count 7 := by
  unfold releaseSlots
  rw [if_neg (by omega), if_pos h]
  rfl

/-! GAUGE_ARM. -/

/-- What a ring that GAUGE_ARM accepts is (R210). -/
structure RingOk (q : CamPort) (j : Job) (r : BandRing) : Prop where
  rows : r.rowStride % 512 = 0
  few : 2 ≤ r.batches
  many : r.batches ≤ 256
  room : 64 * r.rowStride + 1024 ≤ r.batchStride
  whole : r.batchStride % 512 = 0
  bands : q.h % 64 = 0
  frame : q.h ≤ 64 * 255
  line : q.lineLen.getD 0 ≤ r.rowStride
  stamps : j.win.base + 1024 ≤ r.base

theorem armPlan_off {s : State} {j : Job} {d : CamId} {ring : Option BandRing} (h : armPlan s j = .ok (d, ring)) (ha : absent j.words[5] = true) :
    ring = none := by
  unfold armPlan at h
  rw [if_pos ha] at h
  cases h
  rfl

theorem armPlan_ring {s : State} {j : Job} {d : CamId} {ring : Option BandRing} (h : armPlan s j = .ok (d, ring)) (ha : absent j.words[5] = false) :
    ∃ r, ring = some r ∧ RingOk s.gauge.ports[d.val] j r := by
  unfold armPlan at h
  rw [if_neg (by rw [ha]; decide)] at h
  obtain ⟨desc, _, h⟩ := bind_ok h
  obtain ⟨_, hrows, h⟩ := bind_ok h
  obtain ⟨_, hline, h⟩ := bind_ok h
  obtain ⟨_, hstride, h⟩ := bind_ok h
  obtain ⟨_, _, h⟩ := bind_ok h
  obtain ⟨_, hframe, h⟩ := bind_ok h
  obtain ⟨_, hbase, h⟩ := bind_ok h
  cases h
  have hrows := need_ok hrows
  have hline := need_ok hline
  have hstride := need_ok hstride
  have hframe := need_ok hframe
  have hbase := need_ok hbase
  simp only [Bool.and_eq_true, decide_eq_true_eq] at hrows hline hstride hframe hbase
  obtain ⟨⟨_, _⟩, hrow⟩ := hrows
  obtain ⟨⟨hlen, hfew⟩, hmany⟩ := hline
  obtain ⟨⟨hlow, _⟩, _⟩ := hbase
  exact ⟨_, rfl, hrow, hfew, hmany, hstride.1, hstride.2, hframe.1, hframe.2, hlen, Nat.add_le_add_left hlow _⟩

section
variable {s : State} {j : Job} {rest : List Job} (hq : s.gauge.queue = j :: rest) (ho : wOpcode j.words = some .gaugeArm) (hs : jobStop s j = none)
include hq ho hs

theorem gaugeArmOp_arms {d : CamId} {ring : Option BandRing} (hp : armPlan (onGauge s fun g => { g with queue := rest }) j = .ok (d, ring)) :
    gaugeArmOp s = finishJob (onCam (onGauge s fun g => { g with queue := rest }) d fun p => { p with arm := some ring }) j stOk 0 0 0 (now s) 0 0 := by
  have hs' : jobStop (onGauge s fun g => { g with queue := rest }) j = none := hs
  simp only [gaugeArmOp, headJob, hq, ho, if_true, hs', hp]
  rfl

theorem gaugeArmOp_fails {f : WFail} (hp : armPlan (onGauge s fun g => { g with queue := rest }) j = .error f) (hf : f.row = none) :
    gaugeArmOp s = finishJob (onGauge s fun g => { g with queue := rest }) j f.st f.sub 0 0 (now s) 0 0 := by
  have hs' : jobStop (onGauge s fun g => { g with queue := rest }) j = none := hs
  simp only [gaugeArmOp, headJob, hq, ho, if_true, hs', hp, weirFail, hf]
  rfl
end

/-- Settles O34: packets, lines, frames, releases, rings and Bells follow the rules above. -/
theorem cameraLinesFillBandRings : Obligations.CameraLinesFillBandRings := by
  unfold Obligations.CameraLinesFillBandRings
  intro s c hup hquiet p
  refine ⟨fun k => ⟨?bad, ?stray, ?taken⟩, fun e rest he => ⟨?rings, ?waits⟩, fun vc no => ⟨?other, ?start, ?finish⟩, ?arm, ?release⟩
  case bad =>
    intro h hn
    exact (liveRows_next hup fun s => longPacket s c k).trans (next_of_quiet (longPacket_bad h hn) hquiet)
  case stray =>
    intro h hn
    exact (liveRows_next hup fun s => longPacket s c k).trans (next_of_quiet (longPacket_stray h hn) hquiet)
  case taken =>
    intro hhdr hcrc hvc hdt seen
    have hexec {t : State} (h : takeLine (onCam s c fun p => { p with expected := some k.measured }) c (some k.pixels) false = t)
        (hq : t.granary.errPend = false) : exec (.csiLongPacket c k) s = .next t :=
      (liveRows_next hup fun s => longPacket s c k).trans (next_of_quiet ((longPacket_taken hhdr hcrc hvc hdt).trans h) hq)
    have hport : (onCam s c fun p => { p with expected := some k.measured }).gauge.ports[c.val] = { p with expected := some k.measured } := onCam_port ..
    refine ⟨fun hf hout => ?outside, ?band⟩
    case outside =>
      refine hexec ((takeLine_outside _ _ (by rw [hport]; exact hf) (by rw [hport]; exact hout)).trans (onCam_onCam ..)) hquiet
    case band =>
      intro r b slot hf hr hb hs hlo hhi hl a ha hst hp
      obtain ⟨g, ht, hg⟩ := takeLine_written (s := onCam s c fun p => { p with expected := some k.measured }) (c := c) (b := b) (r := r) k.pixels
        (by rw [hport]; exact hf) (by rw [hport]; exact hr) (by rw [hport]; exact hb) hs (by rw [hport]; exact hlo)
        (by rw [hport]; exact hhi) hl ha hst hp
      refine ⟨g, hexec (ht.trans ?_) ?_, hg⟩
      · rw [hport]
        exact (onCam_onCam { s with mem := writeBytes s.mem a (lineBytes p r.rowStride k.pixels), granary := g } c
          (fun p => { p with expected := some k.measured }) _).trans (onCam_congr _ rfl)
      · rw [hg]; exact hquiet
  case rings =>
    intro hw
    exact ⟨_, (liveRows_next hup fun s => bandBell s c).trans (congrArg _ (congrArg settleErr (bandBell_rings he hw))),
      (raiseBell_reported ..).trans (settleErr_reported _), rfl⟩
  case waits =>
    exact fun hw => (liveRows_next hup fun s => bandBell s c).trans (next_of_quiet (bandBell_waits he hw) hquiet)
  case other =>
    exact fun h => ⟨(liveRows_next hup fun s => frameBegin s c vc no).trans (next_of_quiet (frameBegin_other h) hquiet),
      (liveRows_next hup fun s => frameFinish s c vc).trans (next_of_quiet (frameFinish_other h) hquiet)⟩
  case start =>
    intro h hf
    refine ⟨(liveRows_next hup fun s => frameFinish s c vc).trans (next_of_quiet (frameFinish_idle h hf) hquiet), fun ha => ?_, fun ring ha => ?_⟩
    · exact (liveRows_next hup fun s => frameBegin s c vc no).trans (next_of_quiet (frameBegin_plain h hf ha) hquiet)
    · exact (liveRows_next hup fun s => frameBegin s c vc no).trans (next_of_quiet (frameBegin_armed h hf ha) hquiet)
  case finish =>
    exact fun h hf hb => (liveRows_next hup fun s => frameFinish s c vc).trans (next_of_quiet (frameFinish_closed h hf hb) hquiet)
  case arm =>
    intro j rest hq ho hs u
    refine ⟨fun d ring hp => ⟨?armed, ?disarm, ?checks⟩, fun f hp hf => ?fails⟩
    case armed =>
      exact ⟨_, (liveRows_next hup gaugeArmOp).trans (congrArg _ (congrArg settleErr (gaugeArmOp_arms hq ho hs hp))),
        (finishJob_reported ..).trans (settleErr_reported _)⟩
    case disarm =>
      refine ⟨fun hnone => ?_, fun h => armPlan_off hp (decide_eq_true h)⟩
      refine Classical.byContradiction fun hne => ?_
      obtain ⟨r, hr, _⟩ := armPlan_ring hp (decide_eq_false hne)
      rw [hnone] at hr
      cases hr
    case checks =>
      intro r hr q
      have hab : absent j.words[5] = false := by
        cases hab : absent j.words[5] with
        | false => rfl
        | true => rw [armPlan_off hp hab] at hr; cases hr
      obtain ⟨r', hr', hok⟩ := armPlan_ring hp hab
      rw [hr] at hr'
      cases hr'
      exact ⟨hok.rows, hok.few, hok.many, hok.room, hok.whole, hok.bands, hok.frame, hok.line, hok.stamps⟩
    case fails =>
      exact ⟨_, (liveRows_next hup gaugeArmOp).trans (congrArg _ (congrArg settleErr (gaugeArmOp_fails hq ho hs hp hf))),
        (finishJob_reported ..).trans (settleErr_reported _), rfl⟩
  case release =>
    intro v n
    refine ⟨fun h => ?_, fun h => ?_⟩
    · exact (live_next hup fun s => onCam s c fun p => releaseSlots p n).trans (congrArg _ (onCam_congr s (releaseSlots_held h)))
    · exact (live_next hup fun s => onCam s c fun p => releaseSlots p n).trans (congrArg _ (onCam_congr s (releaseSlots_refused h)))

end Sys2Proof.Machine
end

section
open Sys2Proof.Laws
namespace Sys2Proof.Machine

/-! ### Device time and its servo (09 R216 to R221) -/

theorem effRate_range (g : Gauge) : -21474836 ≤ effRate g ∧ effRate g ≤ 21474836 := by unfold effRate; omega

/-- Device time with its fraction, in units of 2^-32 ns. -/
def Gauge.fine (g : Gauge) : Int := g.time.toNat * 2 ^ 32 + g.frac.toNat

/-- A step of device time: ten ns, RATE and what SLEW may add. -/
def Gauge.advance (g : Gauge) : Int := 10 * 2 ^ 32 + effRate g + max (-slewStep) (min slewStep g.slew)

theorem advance_range (g : Gauge) : 0 ≤ g.advance ∧ g.advance < 11 * 2 ^ 32 := by
  have h := effRate_range g
  unfold Gauge.advance slewStep
  omega

/-- Short of its end device time takes the whole step and does not decrease. -/
theorem tick_advances (g : Gauge) (h : g.time.toNat + 11 < 2 ^ 64) : (tick g).fine = g.fine + g.advance ∧ g.time ≤ (tick g).time := by
  obtain ⟨hlo, hhi⟩ := advance_range g
  have hfrac : g.frac.toNat < 2 ^ 32 := g.frac.isLt
  obtain ⟨n, hn⟩ : ∃ n, n = (g.advance + g.frac.toNat).toNat := ⟨_, rfl⟩
  have htime : (tick g).time.toNat = (g.time + BitVec.ofNat 64 (n / 2 ^ 32)).toNat := by rw [hn]; rfl
  have hrest : (tick g).frac.toNat = n % 2 ^ 32 := by rw [hn]; rfl
  rw [BitVec.toNat_add, BitVec.toNat_ofNat, Nat.mod_eq_of_lt (by omega : n / 2 ^ 32 < 2 ^ 64), Nat.mod_eq_of_lt (by omega)] at htime
  constructor
  · unfold Gauge.fine
    rw [htime, hrest]
    omega
  · rw [BitVec.le_def, htime]; omega

theorem append_ofNat (hi lo : Word) : BitVec.ofNat 64 (hi.toNat * 2 ^ 32 + lo.toNat) = hi ++ lo := by
  refine BitVec.eq_of_toNat_eq ?_
  rw [BitVec.toNat_append, ← Nat.shiftLeft_add_eq_or_of_lt lo.isLt, Nat.shiftLeft_eq, BitVec.toNat_ofNat, Nat.mod_eq_of_lt]
  have := hi.isLt
  have := lo.isLt
  omega

section
variable {s : State}

theorem timeLoadHi_refused (hi : Word) (h : (∃ p : CamId, (s.gauge.ports[p.val]).ring ≠ none) ∨ edgesScheduled s = true) :
    timeLoadHi s hi = onGauge s fun g => { g with loadRej := true } := by
  refine onGauge_congr s (if_pos ?_)
  rcases h with ⟨p, hp⟩ | h
  · have : s.gauge.ports.any (·.ring.isSome) = true :=
      Vector.any_eq_true.mpr ⟨p.val, p.isLt, Option.isSome_iff_ne_none.mpr hp⟩
    rw [this]; rfl
  · rw [h, Bool.or_true]

theorem timeLoadHi_loads (hi : Word) (h : ∀ p : CamId, (s.gauge.ports[p.val]).ring = none) (he : edgesScheduled s = false) :
    timeLoadHi s hi = onGauge s fun g => { g with time := hi ++ s.gauge.loadLo } := by
  have hnone : s.gauge.ports.any (·.ring.isSome) = false := by
    refine Vector.any_eq_false.mpr fun i hi => ?_
    rw [h ⟨i, hi⟩]; decide
  refine onGauge_congr s ((if_neg ?_).trans ?_)
  · rw [hnone, he]; decide
  · rw [append_ofNat]

/-! PPS edges. -/

/-- The error of a PPS edge taken now. -/
def Gauge.edgeError (g : Gauge) : Int := ((g.time.toNat : Int) - sx g.ppsOffset + 500000000) % 1000000000 - 500000000

theorem ppsRise_other {p : Fin 2} (h : s.gauge.ppsInput ≠ some p) :
    ppsRise s p = onGauge s fun g => { g with ppsCap := vmod g.ppsCap p fun _ => g.time } := by
  have h' : ({ s.gauge with ppsCap := vmod s.gauge.ppsCap p fun _ => s.gauge.time } : Gauge).ppsInput ≠ some p := h
  simp only [ppsRise, onGauge_gauge, h', ne_eq, not_false_eq_true, if_true]

theorem ppsRise_glitch {p : Fin 2} (h : s.gauge.ppsInput = some p) (hl : s.gauge.isLocked = true)
    (he : bitsOf s.gauge.servoCfg 31 16 * 1000 < s.gauge.edgeError.natAbs) :
    ppsRise s p = onGauge (onGauge s fun g => { g with ppsCap := vmod g.ppsCap p fun _ => g.time }) fun g =>
      { g with ppsErr := BitVec.ofInt 32 s.gauge.edgeError, ppsGlitch := bump g.ppsGlitch } := by
  have h' : ({ s.gauge with ppsCap := vmod s.gauge.ppsCap p fun _ => s.gauge.time } : Gauge).ppsInput = some p := h
  have hg : (({ s.gauge with ppsCap := vmod s.gauge.ppsCap p fun _ => s.gauge.time } : Gauge).isLocked &&
      decide (bitsOf s.gauge.servoCfg 31 16 * 1000 < s.gauge.edgeError.natAbs)) = true := by
    rw [decide_eq_true he, Bool.and_true]; exact hl
  unfold ppsRise
  exact (if_neg (not_not_intro h')).trans (if_pos hg)
/-- What an accepted edge sets (R219). -/
def Gauge.disciplined (g : Gauge) (p : Fin 2) : Gauge :=
  let rate := sx g.rate - rheDiv (4295 * g.edgeError) (100 * 2 ^ bitsOf g.servoCfg 3 0)
  let near := decide (g.edgeError.natAbs ≤ bitsOf g.servoCfg 15 8 * 10)
  { g with
    ppsCap := vmod g.ppsCap p fun _ => g.time
    ppsErr := BitVec.ofInt 32 g.edgeError
    slew := -g.edgeError * 2 ^ 32
    rate := BitVec.ofInt 32 rate
    lockRun := if near then stopAt 4 (g.lockRun + 1) else 0
    locked := near && (g.locked || decide (4 ≤ g.lockRun + 1))
    holdover := false
    ppsLost := false
    lastPps := g.time }

theorem ppsRise_accepted {p : Fin 2} (h : s.gauge.ppsInput = some p)
    (hl : s.gauge.isLocked = false ∨ s.gauge.edgeError.natAbs ≤ bitsOf s.gauge.servoCfg 31 16 * 1000)
    (hhi : sx s.gauge.rate - rheDiv (4295 * s.gauge.edgeError) (100 * 2 ^ bitsOf s.gauge.servoCfg 3 0) < 2 ^ 31)
    (hlo : -(2 ^ 31) ≤ sx s.gauge.rate - rheDiv (4295 * s.gauge.edgeError) (100 * 2 ^ bitsOf s.gauge.servoCfg 3 0)) :
    ppsRise s p = (trigger (onGauge { s with free := s.free + 1 } fun g => g.disciplined p) (12 + p.val)).2 := by
  have h' : ({ s.gauge with ppsCap := vmod s.gauge.ppsCap p fun _ => s.gauge.time } : Gauge).ppsInput = some p := h
  have hg : (({ s.gauge with ppsCap := vmod s.gauge.ppsCap p fun _ => s.gauge.time } : Gauge).isLocked &&
      decide (bitsOf s.gauge.servoCfg 31 16 * 1000 < s.gauge.edgeError.natAbs)) = false := by
    rcases hl with hl | hl
    · rw [show ({ s.gauge with ppsCap := vmod s.gauge.ppsCap p fun _ => s.gauge.time } : Gauge).isLocked = false from hl]; rfl
    · rw [decide_eq_false (Nat.not_lt.mpr hl), Bool.and_false]
  unfold ppsRise
  refine (if_neg (not_not_intro h')).trans ((if_neg (by rw [Bool.not_eq_true]; exact hg)).trans ?_)
  refine congrArg (fun g => (trigger { s with free := s.free + 1, gauge := g } (12 + p.val)).2) ?_
  have hrate : (if -(2 ^ 31) ≤ sx s.gauge.rate - rheDiv (4295 * s.gauge.edgeError) (100 * 2 ^ bitsOf s.gauge.servoCfg 3 0) ∧
      sx s.gauge.rate - rheDiv (4295 * s.gauge.edgeError) (100 * 2 ^ bitsOf s.gauge.servoCfg 3 0) < 2 ^ 31 then
      BitVec.ofInt 32 (sx s.gauge.rate - rheDiv (4295 * s.gauge.edgeError) (100 * 2 ^ bitsOf s.gauge.servoCfg 3 0)) else Config.fresh 32 s.free) =
      (s.gauge.disciplined p).rate := if_pos ⟨hlo, hhi⟩
  exact congrArg (fun r => { s.gauge.disciplined p with rate := r }) hrate

/-! Holdover. -/

theorem holdoverStart_still (h : s.gauge.ppsInput = none ∨ s.gauge.holdover = true ∨ (now s).toNat < s.gauge.lastPps.toNat + 1500000000) :
    holdoverStart s = s := by
  refine if_neg ?_
  rw [Bool.and_eq_true, Bool.and_eq_true, elapsed_iff]
  rintro ⟨⟨hin, hout⟩, htime⟩
  rcases h with h | h | h
  · rw [h] at hin; cases hin
  · rw [h] at hout; cases hout
  · omega

theorem holdoverStart_starts (hin : s.gauge.ppsInput ≠ none) (hout : s.gauge.holdover = false)
    (ht : s.gauge.lastPps.toNat + 1500000000 ≤ (now s).toNat) :
    holdoverStart s = raiseBell (onGauge s fun g =>
      { g with holdover := true, ppsLost := true, locked := false, lockRun := 0, ppsLoss := bump g.ppsLoss,
               otherInput := if bitOf g.ctl 3 then !g.otherInput else g.otherInput }) (fin 256 (bitsOf s.gauge.ctl 15 8)) := by
  refine if_pos ?_
  rw [Bool.and_eq_true, Bool.and_eq_true, elapsed_iff, hout]
  exact ⟨⟨Option.isSome_iff_ne_none.mpr hin, rfl⟩, ht⟩
end

/-- Settles O35: ticks, SLEW, TIME_LOAD, PPS edges and holdover follow the rules above. -/
theorem deviceTimeAndItsServo : Obligations.DeviceTimeAndItsServo := by
  unfold Obligations.DeviceTimeAndItsServo
  intro s hup g
  refine ⟨⟨_, live_next hup sluTick, ?_⟩, fun v => live_next hup fun s => slewSet s v, fun hi => ⟨fun h => ?_, fun h he => ?_⟩,
    fun m => ⟨_, live_next hup fun s => answer (timeLo s).2 (masterNo m) false (timeLo s).1, rfl⟩, fun p => ?edge, fun hquiet => ⟨fun h => ?_, ?starts⟩⟩
  · intro step after
    exact ⟨rfl, (effRate_range g).1, (effRate_range g).2, fun h => ⟨(tick_advances g h).1, (tick_advances g h).2⟩⟩
  · exact (live_next hup fun s => timeLoadHi s hi).trans (congrArg _ (timeLoadHi_refused hi h))
  · exact (live_next hup fun s => timeLoadHi s hi).trans (congrArg _ (timeLoadHi_loads hi h he))
  case edge =>
    intro cap e
    refine ⟨fun h => ?_, fun h hl he => ?_, ?accepted⟩
    · exact (live_next hup fun s => ppsRise s p).trans (congrArg _ (ppsRise_other h))
    · exact (live_next hup fun s => ppsRise s p).trans (congrArg _ (ppsRise_glitch h hl he))
    case accepted =>
      intro h hl rate near hhi hlo
      exact (live_next hup fun s => ppsRise s p).trans (congrArg _ (ppsRise_accepted h hl hhi hlo))
  · exact (liveRows_next hup holdoverStart).trans (next_of_quiet (holdoverStart_still h) hquiet)
  case starts =>
    intro hin hout ht u
    exact ⟨_, (liveRows_next hup holdoverStart).trans (congrArg _ (congrArg settleErr (holdoverStart_starts hin hout ht))), rfl,
      (raiseBell_reported ..).trans (settleErr_reported _)⟩

end Sys2Proof.Machine
end

section
open Sys2Proof.Laws
namespace Sys2Proof.Machine

/-! ### Edge lists, the schedule queue and due edges (10 R232 to R236) -/

theorem count_zero (sp : Spigot) (i : Fin 7) : sp.count i 0 = sp := by
  have hv : vmod sp.counters i (fun x => bump x 0) = sp.counters :=
    (vmod_congr _ i (g := fun x => x) (bump_zero _)).trans (vmod_id ..)
  unfold Spigot.count
  rw [hv]

theorem onChan_onChan (sp : Spigot) (ch : ChanId) (f g : Channel → Channel) : (sp.onChan ch f).onChan ch g = sp.onChan ch fun c => g (f c) :=
  congrArg (fun v => { sp with chans := v }) (vmod_vmod sp.chans ch f g)

theorem onChan_congr (sp : Spigot) {ch : ChanId} {f g : Channel → Channel} (h : f sp.chans[ch.val] = g sp.chans[ch.val]) :
    sp.onChan ch f = sp.onChan ch g :=
  congrArg (fun v => { sp with chans := v }) (vmod_congr _ ch h)

/-! The list. -/

/-- The edge of an entry in time form. -/
def timeEdge (ws : List Word) : Edge :=
  { chan := fin 256 (bitsOf (nthW ws 0) 7 0), action := fin 4 (bitsOf (nthW ws 0) 13 12), duty := dutyOf (bitsOf (nthW ws 0) 25 16),
    time := BitVec.ofNat 64 ((nthW ws 2).toNat + (nthW ws 3).toNat * 2 ^ 32) }

theorem edgeOf_time (s : State) (speed : Option (Word × Word)) (free : Word64) {ws : List Word} (h : bitOf (nthW ws 0) 8 = false) :
    edgeOf s speed free ws = some (timeEdge ws) := by
  exact if_pos (by rw [h]; rfl)

/-- A list in time form gives an edge for each entry. -/
theorem edges_time (s : State) (speed : Option (Word × Word)) (free : Nat → Word64) {entries : List (List Word)}
    (h : ∀ ws ∈ entries, bitOf (nthW ws 0) 8 = false) :
    entries.mapIdx (fun i ws => edgeOf s speed (free i) ws) = (entries.map timeEdge).map some := by
  refine List.ext_getElem (by simp) fun i hi _ => ?_
  rw [List.getElem_mapIdx, List.getElem_map, List.getElem_map]
  exact edgeOf_time _ _ _ (h _ (List.getElem_mem _))

theorem dist_none {entries : List (List Word)} (h : ∀ ws ∈ entries, bitOf (nthW ws 0) 8 = false) :
    (entries.any fun ws => bitOf (nthW ws 0) 8) = false :=
  List.any_eq_false.mpr fun ws hw => by rw [h ws hw]; decide

theorem conv_none {entries : List (List Word)} (l : List (Option Edge)) (h : ∀ ws ∈ entries, bitOf (nthW ws 0) 8 = false) :
    ((entries.zip l).any fun p => bitOf (nthW p.1 0) 8 && p.2.isSome) = false :=
  List.any_eq_false.mpr fun p hp => by rw [h p.1 (List.of_mem_zip hp).1]; simp

/-- What the schedule queue and the edges under way are after a list in time form. -/
def Spigot.scheduled (sp : Spigot) (m : MillId) (r : Run) (id : Nat) (es : List Edge) : Spigot :=
  { sp with
    queue := sp.queue ++ [{
      id := id, words := r.msg.docket, start := r.start.getD r.dispatched, mill := m, slot := r.msg.slot, chute := r.msg.chute,
      urgent := decide (r.msg.cls = 3), edges := [], awaiting := es.length, taken := 0, refused := 0, remote := [],
      seqUsed := 0, noSpeed := false }]
    flying := sp.flying ++ (edgeMsgs es.length es).map fun x => (m, r.msg.chute, r.msg.slot, x) }

section
variable {s : State} {m : MillId} {r : Run} (hr : runOf s m .spigotSchedule = some r) (ha : r.abort = none) (hon : bitOf s.spigot.ctl 31 = true)
include hr ha hon

theorem spigotSchedule_error {f : DFault} (he : edgeList s m r.msg = .error f) (hrow : f.row = none) :
    spigotSchedule s m = endRun s m r f.st f.sub 0 0 := by
  simp only [spigotSchedule, hr, ha, hon, he, hrow, Bool.not_true, Bool.false_eq_true, if_false]

theorem spigotSchedule_waits {entries : List (List Word)} (he : edgeList s m r.msg = .ok entries)
    (hroom : s.spigot.room (decide (r.msg.cls = 3)) = false) : spigotSchedule s m = s := by
  simp only [spigotSchedule, hr, ha, hon, he, hroom, Bool.not_true, Bool.not_false, Bool.false_eq_true, if_false, if_true]

theorem spigotSchedule_passes {entries : List (List Word)} (he : edgeList s m r.msg = .ok entries)
    (hroom : s.spigot.room (decide (r.msg.cls = 3)) = true) (ht : ∀ ws ∈ entries, bitOf (nthW ws 0) 8 = false) :
    spigotSchedule s m = endRun (joinSpigot { s with
      free := s.free + entries.length
      spigot := s.spigot.scheduled m r (((s.control.credits[m.val])[r.msg.slot.val]).getD 0) (entries.map timeEdge) } r.msg.chute
        (((s.control.credits[m.val])[r.msg.slot.val]).getD 0)) m r stOk 0 0 0 := by
  have hgood : ((entries.map timeEdge).map some).filterMap id = entries.map timeEdge := by
    rw [List.filterMap_map]; exact List.filterMap_some
  have hbad : (((entries.map timeEdge).map some).filter (·.isNone)).length = 0 := by
    rw [List.filter_eq_nil_iff.mpr fun x hx => by obtain ⟨e, _, rfl⟩ := List.mem_map.mp hx; exact Bool.false_ne_true]; rfl
  simp only [spigotSchedule, hr, ha, hon, he, hroom, Bool.not_true, Bool.false_eq_true, if_false, dist_none ht,
    edges_time s none (fun i => Config.fresh 64 (s.free + i)) ht, hgood, hbad, conv_none _ ht, count_zero, Nat.lt_irrefl, decide_false]
  rfl
end

/-! The rows of Table 10.2. -/

/-- What an accepted edge changes beside its FIFO (R231, R238). -/
def Channel.held (cause : Bool) (c : Channel) : Channel := { c with holding := false, holdFrom := none, forced := c.forced && cause }

/-- An accepted edge joins its FIFO unless a cause holds the channel safe. -/
theorem accepted_joined (sp : Spigot) (ch : ChanId) (f : Channel → Channel) :
    (if sp.cause then sp else sp.onChan ch f).accepted ch = sp.onChan ch fun x => (if sp.cause then x else f x).held sp.cause := by
  cases hc : sp.cause with
  | true =>
    rw [if_pos rfl]
    exact congrArg (fun b => sp.onChan ch (Channel.held b)) hc
  | false =>
    rw [if_neg Bool.false_ne_true]
    refine Eq.trans ?_ (onChan_onChan sp ch f (Channel.held false))
    exact congrArg (fun b => (sp.onChan ch f).onChan ch (Channel.held b)) hc

section
variable {sp : Spigot} {c : ChuteId} {e : Edge} {a : Word64}

theorem accept_noAction (h : e.action = 3) : sp.accept c e a = (.refused, false, sp) := by
  simp only [Spigot.accept, h, if_true]

theorem accept_unbound (h : e.action ≠ 3) (hc : (sp.chans[e.chan.val]).chute ≠ c) (hany : (sp.chans[e.chan.val]).any = false) :
    sp.accept c e a = (.refused, false, sp.count 3) := by
  have hb : (decide ((sp.chans[e.chan.val]).chute ≠ c) && !(sp.chans[e.chan.val]).any) = true := by rw [decide_eq_true hc, hany]; rfl
  simp only [Spigot.accept, h, hb, if_true, if_false]

/-- An edge to the channel's safe level. -/
def edgeToSafe (e : Edge) (x : Channel) : Bool := (e.action = 0 && !x.safeLevel) || (e.action = 1 && x.safeLevel)

theorem edgeToSafe_iff {x : Channel} : edgeToSafe e x = true ↔ (e.action = 0 ∧ x.safeLevel = false) ∨ (e.action = 1 ∧ x.safeLevel = true) := by
  unfold edgeToSafe
  simp only [Bool.or_eq_true, Bool.and_eq_true, decide_eq_true_eq, Bool.not_eq_true']

/-- The channel takes edges of the chute. -/
def Spigot.bound (sp : Spigot) (c : ChuteId) (e : Edge) : Prop := e.action ≠ 3 ∧ ((sp.chans[e.chan.val]).chute = c ∨ (sp.chans[e.chan.val]).any = true)

theorem bound_passes (h : sp.bound c e) : (decide ((sp.chans[e.chan.val]).chute ≠ c) && !(sp.chans[e.chan.val]).any) = false := by
  rcases h.2 with h | h
  · rw [decide_eq_false (not_not_intro h)]; rfl
  · rw [h, Bool.and_comm]; rfl

section
variable (hb : sp.bound c e)
include hb

section
variable (hl : e.time.toNat < a.toNat + sp.minLead e.chan)
include hl

theorem accept_lateSafe (hs : edgeToSafe e sp.chans[e.chan.val] = true) :
    sp.accept c e a = (.late, false, ((sp.count 1).count 0).onChan e.chan fun x =>
      (if sp.cause then x else x.act e.action e.duty a (direct e.chan)).held sp.cause) := by
  have hs' : ((decide (e.action = 0) && !(sp.chans[e.chan.val]).safeLevel) || (decide (e.action = 1) && (sp.chans[e.chan.val]).safeLevel)) = true := hs
  simp only [Spigot.accept, hb.1, bound_passes hb, decide_eq_true hl, hs', if_true, if_false, Bool.false_eq_true]
  refine congrArg (fun t => (Accept.late, false, t)) ?_
  exact accepted_joined ((sp.count 1).count 0) e.chan fun x => x.act e.action e.duty a (direct e.chan)

theorem accept_lateOther (hs : edgeToSafe e sp.chans[e.chan.val] = false) : sp.accept c e a = (.refused, true, sp.count 1) := by
  have hs' : ((decide (e.action = 0) && !(sp.chans[e.chan.val]).safeLevel) || (decide (e.action = 1) && (sp.chans[e.chan.val]).safeLevel)) = false := hs
  simp only [Spigot.accept, hb.1, bound_passes hb, decide_eq_true hl, hs', if_true, if_false, Bool.false_eq_true]
end

section
variable (hl : ¬ e.time.toNat < a.toNat + sp.minLead e.chan)
include hl

theorem accept_merged {q : Edge} (hq : (sp.chans[e.chan.val]).fifo.getLast? = some q) (ht : e.time ≤ q.time) (h1 : e.action = 1) (h0 : q.action = 0) :
    sp.accept c e a = (.merged q.time, false, (sp.count 4).onChan e.chan fun x => { x with fifo := x.fifo.dropLast }.held sp.cause) := by
  have h3 : (1 : Fin 4) ≠ 3 := by decide
  have hp := bound_passes hb
  simp only [Spigot.accept, h1, h3, h0, hp, decide_eq_false hl, hq, ht, decide_true, Bool.and_self, if_true, if_false, Bool.false_eq_true]
  exact congrArg (fun t => (Accept.merged q.time, false, t))
    (onChan_onChan (sp.count 4) e.chan (fun x => { x with fifo := x.fifo.dropLast }) (Channel.held sp.cause))

theorem accept_order {q : Edge} (hq : (sp.chans[e.chan.val]).fifo.getLast? = some q) (ht : e.time ≤ q.time) (h : ¬ (e.action = 1 ∧ q.action = 0)) :
    sp.accept c e a = (.refused, false, sp.count 2) := by
  have hm : (decide (e.action = 1) && decide (q.action = 0)) = false := by
    rw [← Bool.decide_and, decide_eq_false h]
  simp only [Spigot.accept, hb.1, bound_passes hb, decide_eq_false hl, hq, hm, ht, Bool.false_and, if_true, if_false, Bool.false_eq_true]

section
variable (ho : ∀ q, (sp.chans[e.chan.val]).fifo.getLast? = some q → q.time < e.time)
include ho

theorem accept_full (hf : 32 ≤ (sp.chans[e.chan.val]).fifo.length) : sp.accept c e a = (.full, false, sp) := by
  obtain ⟨q, hq⟩ : ∃ q, (sp.chans[e.chan.val]).fifo.getLast? = some q := by
    cases hq : (sp.chans[e.chan.val]).fifo.getLast? with
    | some q => exact ⟨q, rfl⟩
    | none => rw [List.getLast?_eq_none_iff.mp hq] at hf; exact absurd hf (by decide)
  have ht : ¬ e.time ≤ q.time := BitVec.not_le.mpr (ho q hq)
  simp only [Spigot.accept, hb.1, bound_passes hb, decide_eq_false hl, hq, ht, hf, decide_false, Bool.and_false, if_true, if_false, Bool.false_eq_true]

theorem accept_appended (hf : (sp.chans[e.chan.val]).fifo.length < 32) :
    sp.accept c e a = (.appended, false, sp.onChan e.chan fun x => { x with fifo := if sp.cause then x.fifo else x.fifo ++ [e] }.held sp.cause) := by
  have hheld : (fun x : Channel => ({ x with fifo := if sp.cause then x.fifo else x.fifo ++ [e] } : Channel).held sp.cause) =
      fun x => (if sp.cause then x else { x with fifo := x.fifo ++ [e] }).held sp.cause := by
    funext x
    split <;> rfl
  rw [hheld]
  cases hq : (sp.chans[e.chan.val]).fifo.getLast? with
  | none =>
    have hnil := List.getLast?_eq_none_iff.mp hq
    simp only [Spigot.accept, hb.1, bound_passes hb, decide_eq_false hl, hq, if_false, Bool.false_eq_true]
    refine congrArg (fun t => (Accept.appended, false, t)) ((accepted_joined ..).trans (onChan_congr sp ?_))
    rw [hnil]; rfl
  | some q =>
    have ht : ¬ e.time ≤ q.time := BitVec.not_le.mpr (ho q hq)
    simp only [Spigot.accept, hb.1, bound_passes hb, decide_eq_false hl, hq, ht, Nat.not_le.mpr hf, decide_false, Bool.and_false, if_false, Bool.false_eq_true]
    exact congrArg (fun t => (Accept.appended, false, t)) (accepted_joined ..)
end
end
end
end

/-! EDGE_ACCEPT. -/

/-- A docket of the schedule queue after one edge more. -/
def SchedJob.after (j : SchedJob) (e : Edge) (es : List Edge) (r : Accept) : SchedJob :=
  { j with
    edges := es
    taken := j.taken + if r ≠ .refused then 1 else 0
    refused := j.refused + if r ≠ .refused then 0 else 1
    remote := if direct e.chan then j.remote else j.remote ++ match r with
      | .merged old => [(e.chan, (3 : Fin 4), (0 : BitVec 10), old)]
      | .refused => []
      | _ => [(e.chan, e.action, e.duty, e.time)] }

theorem after_refused (j : SchedJob) (e : Edge) (es : List Edge) :
    j.after e es .refused = { j with edges := es, refused := j.refused + 1 } := by
  unfold SchedJob.after
  simp only [ne_eq, not_true_eq_false, if_false, Nat.add_zero, List.append_nil, ite_self]

/-- A docket without edges left leaves the schedule queue. -/
def settleSched (s : State) (j : SchedJob) : State := if j.edges = [] ∧ j.awaiting = 0 then schedDone s j stOk else s

theorem settleSched_eq (s : State) (j : SchedJob) :
    (if j.edges.isEmpty && decide (j.awaiting = 0) then schedDone s j stOk else s) = settleSched s j := by
  unfold settleSched
  refine ite_congr (propext ?_) (fun _ => rfl) fun _ => rfl
  rw [Bool.and_eq_true, List.isEmpty_iff, decide_eq_true_eq]

section
variable {s : State} {j : SchedJob} {rest : List SchedJob} (hq : s.spigot.queue = j :: rest) (hstop : schedStop s j = none)
include hq hstop

theorem edgeAccept_noEdges (he : j.edges = []) : edgeAccept s = settleSched s j := by
  simp only [edgeAccept, hq, hstop, he, settleSched, true_and]

variable {e : Edge} {es : List Edge} (he : j.edges = e :: es)
include he

theorem edgeAccept_full {bell : Bool} {sp : Spigot} (ha : s.spigot.accept j.chute e (now s) = (.full, bell, sp)) : edgeAccept s = s := by
  simp only [edgeAccept, hq, hstop, he, ha, if_true]

theorem edgeAccept_step {r : Accept} {bell : Bool} {sp : Spigot} (ha : s.spigot.accept j.chute e (now s) = (r, bell, sp)) (hr : r ≠ .full) :
    edgeAccept s = settleSched (if bell then raiseBell { s with spigot := { sp with queue := j.after e es r :: rest } } (fin 256 (bitsOf sp.ctl 15 8))
      else { s with spigot := { sp with queue := j.after e es r :: rest } }) (j.after e es r) := by
  unfold edgeAccept
  rw [hq]
  dsimp only
  rw [hstop]
  dsimp only
  rw [he]
  dsimp only
  rw [ha]
  refine (if_neg hr).trans ?_
  exact settleSched_eq (if bell then raiseBell { s with spigot := { sp with queue := j.after e es r :: rest } } (fin 256 (bitsOf sp.ctl 15 8))
    else { s with spigot := { sp with queue := j.after e es r :: rest } }) (j.after e es r)
end

section
variable {s : State} {ch : ChanId}

theorem edgeDue_none (h : (s.spigot.chans[ch.val]).fifo = []) : edgeDue s ch = s := by
  simp only [edgeDue, h]

variable {e : Edge} {rest : List Edge} (h : (s.spigot.chans[ch.val]).fifo = e :: rest)
include h

theorem edgeDue_early (ht : now s < e.time) : edgeDue s ch = s := by
  simp only [edgeDue, h, ht, if_true]

theorem edgeDue_acts (ht : e.time ≤ now s) : edgeDue s ch = onSpigot s fun sp =>
    (sp.onChan ch fun c => { c with fifo := rest }.act e.action e.duty e.time (direct ch)).count 0 := by
  simp only [edgeDue, h, BitVec.not_lt.mpr ht, if_false]
end

/-- Settles O37: edge lists, the schedule queue and due edges follow the rules above. -/
theorem edgesAreScheduledAcceptedAndApplied : Obligations.EdgesAreScheduledAcceptedAndApplied := by
  unfold Obligations.EdgesAreScheduledAcceptedAndApplied
  intro s hup hquiet
  refine ⟨fun m r hr habort hon => ?schedule, fun j rest hq hstop => ?accept, fun ch => ?due⟩
  case schedule =>
    intro n
    refine ⟨fun hn => ?bad, fun entries he => ⟨fun hroom => ?waits, fun hroom ht => ?passes⟩⟩
    case bad =>
      have he : edgeList s m r.msg = .error { st := stFormat, sub := 0x0D } := if_pos hn
      exact (liveRows_next hup fun s => spigotSchedule s m).trans (congrArg _ (congrArg settleErr (spigotSchedule_error hr habort hon he rfl)))
    case waits =>
      exact (liveRows_next hup fun s => spigotSchedule s m).trans (next_of_quiet (spigotSchedule_waits hr habort hon he hroom) hquiet)
    case passes =>
      intro es id u
      exact (liveRows_next hup fun s => spigotSchedule s m).trans (congrArg _ (congrArg settleErr (spigotSchedule_passes hr habort hon he hroom ht)))
  case accept =>
    intro a cause leaves next
    refine ⟨fun u => unitDone_reported .., fun he => ?_, fun e es he => ?edge⟩
    · exact (liveRows_next hup edgeAccept).trans (congrArg _ (congrArg settleErr (edgeAccept_noEdges hq hstop he)))
    case edge =>
      intro x lead no yes wire held late bound
      have hlead : lead = s.spigot.minLead e.chan := by
        unfold Spigot.minLead direct
        simp only [decide_eq_true_eq]
        rfl
      have hlate (h : late) : e.time.toNat < a.toNat + s.spigot.minLead e.chan := by rw [← hlead]; exact h
      have hno : j.after e es .refused = no := after_refused ..
      have hyes {w} {r : Accept} (h : j.after e es r = { j with
            edges := es, taken := j.taken + 1, remote := if direct e.chan then j.remote else j.remote ++ [w] }) : j.after e es r = yes w := by
        rw [h]
        simp only [direct, decide_eq_true_eq, yes]
      have hnext {r : Accept} {sp : Spigot} {k : SchedJob} (ha : s.spigot.accept j.chute e (now s) = (r, false, sp)) (hr : r ≠ .full)
          (hk : j.after e es r = k) : next k sp := by
        subst hk
        exact (liveRows_next hup edgeAccept).trans (congrArg _ (congrArg settleErr (edgeAccept_step hq hstop he ha hr)))
      refine ⟨fun h => ?_, fun h hc hany => ?_, fun hb hl hs => ?_, fun hb hl hs => ?lateOther, fun q hb hl hlast ht => ⟨fun h1 h0 => ?_, fun h => ?_⟩,
        fun hb hl ho => ⟨fun hf => ?_, fun hf => ?_⟩⟩
      · exact hnext (accept_noAction h) (by decide) hno
      · exact hnext (accept_unbound h hc hany) (by decide) hno
      · have ha := accept_lateSafe hb (hlate hl) (edgeToSafe_iff.mpr hs)
        refine hnext (sp := ((s.spigot.count 1).count 0).onChan e.chan fun c => held (if cause then c else c.act e.action e.duty a (decide (e.chan.val < 64))))
          ha (by decide) (hyes rfl)
      case lateOther =>
        have ha := accept_lateOther hb (hlate hl) (Bool.eq_false_iff.mpr (mt edgeToSafe_iff.mp hs))
        have h := edgeAccept_step hq hstop he ha (by decide)
        rw [hno] at h
        exact (liveRows_next hup edgeAccept).trans (congrArg _ (congrArg settleErr h))
      · exact hnext (accept_merged hb (hlead ▸ hl) hlast ht h1 h0) (fun h => nomatch h) (hyes rfl)
      · exact hnext (accept_order hb (hlead ▸ hl) hlast ht h) (by decide) hno
      · exact (liveRows_next hup edgeAccept).trans (next_of_quiet (edgeAccept_full hq hstop he (accept_full hb (hlead ▸ hl) ho hf)) hquiet)
      · exact hnext (accept_appended hb (hlead ▸ hl) ho hf) (by decide) (hyes rfl)
  case due =>
    intro x
    refine ⟨fun hf => ?_, fun e rest hf => ⟨fun ht => ?_, fun ht => ?_⟩⟩
    · exact (live_next hup fun s => edgeDue s ch).trans (congrArg _ (edgeDue_none hf))
    · exact (live_next hup fun s => edgeDue s ch).trans (congrArg _ (edgeDue_early hf ht))
    · exact (live_next hup fun s => edgeDue s ch).trans (congrArg _ (edgeDue_acts hf ht))

end Sys2Proof.Machine
end

section
open Sys2Proof.Laws
namespace Sys2Proof.Machine

/-! ### Channels: levels, PWM, holds and safe levels (10 R229 to R231, R238, R239) -/

theorem dutyOf_le (n : Nat) : (dutyOf n).toNat ≤ 1000 := by
  unfold dutyOf stopAt
  rw [BitVec.toNat_ofNat]
  split <;> omega

section
variable (c : Channel) (d : BitVec 10) (t : Word64) (own : Bool)

theorem act_low : c.act 0 d t own = { c with level := false, on := false, hit := false, running := false } := rfl

/-- The duty an edge to the high level asks for. -/
def Channel.dutyFor (c : Channel) (d : BitVec 10) : BitVec 10 := if d = 0 then dutyOf (bitsOf c.cfg 25 16) else dutyOf d.toNat

theorem act_high : c.act 1 d t own = { c with
    level := true, on := true, dutyNow := c.dutyFor d, dutyNext := c.dutyFor d, since := t,
    hit := (own && c.pwmMode) && c.hitUs ≠ 0, running := (own && c.pwmMode) && c.hitUs = 0 } := rfl

theorem act_duty (h : ¬ (own = true ∧ c.pwmMode = true ∧ c.on = true)) :
    c.act 2 d t own = { c with dutyNow := dutyOf d.toNat, dutyNext := dutyOf d.toNat } := by
  have hb : (own && c.pwmMode && c.on) = false := by
    rw [← Bool.not_eq_true, Bool.and_eq_true, Bool.and_eq_true, and_assoc]; exact h
  exact (if_neg (by decide)).trans ((if_neg (by decide)).trans ((if_pos rfl).trans (if_neg (by rw [hb]; decide))))

theorem act_duties : c.act 2 d t own = { c with dutyNow := (c.act 2 d t own).dutyNow, dutyNext := dutyOf d.toNat } := by
  unfold Channel.act
  simp only [Fin.reduceEq, if_false, if_true]
  split <;> rfl

theorem act_dutyNext (ho : own = true) (hp : c.pwmMode = true) (hn : c.on = true) : c.act 2 d t own = { c with dutyNext := dutyOf d.toNat } := by
  have hb : (own && c.pwmMode && c.on) = true := by rw [ho, hp, hn]; rfl
  exact (if_neg (by decide)).trans ((if_neg (by decide)).trans ((if_pos rfl).trans (if_pos hb)))
end

/-! Every channel safe. -/

/-- What going safe leaves of the Spigot, for the channels gone so far. -/
structure SafeFor (sp : Spigot) (l : List ChanId) (u : Spigot) : Prop where
  rest : u = { sp with chans := u.chans, nodes := u.nodes }
  safe : ∀ ch ∈ l, u.chans[ch.val] = (sp.chans[ch.val]).toSafe
  other : ∀ ch ∉ l, u.chans[ch.val] = sp.chans[ch.val]
  nodes : ∀ k : BoomId, ∃ d, u.nodes[k.val] = { sp.nodes[k.val] with dropPend := d } ∧
    ∀ i : Fin 24, d.getLsbD i.val = true ↔ (sp.nodes[k.val]).dropPend.getLsbD i.val = true ∨
      ∃ ch ∈ l, direct ch = false ∧ boomOf ch = k ∧ boomChan ch = i.val ∧ (sp.chans[ch.val]).fifo ≠ []

theorem SafeFor.refl (sp : Spigot) : SafeFor sp [] sp :=
  ⟨rfl, fun _ h => (nomatch h), fun _ _ => rfl, fun _ => ⟨_, rfl, fun _ => ⟨Or.inl, fun h => h.elim id fun ⟨_, h, _⟩ => (nomatch h)⟩⟩⟩

theorem dropPend_bit (sp : Spigot) (ch : ChanId) (k : BoomId) : ∃ d, (sp.dropPend ch).nodes[k.val] = { sp.nodes[k.val] with dropPend := d } ∧
    ∀ i : Fin 24, d.getLsbD i.val = true ↔ (sp.nodes[k.val]).dropPend.getLsbD i.val = true ∨
      (direct ch = false ∧ boomOf ch = k ∧ boomChan ch = i.val) := by
  unfold Spigot.dropPend
  cases hd : direct ch with
  | true => exact ⟨_, rfl, fun i => by simp⟩
  | false =>
    rw [if_neg Bool.false_ne_true]
    by_cases hk : boomOf ch = k
    · subst hk
      have hlt : boomChan ch < 24 := Nat.mod_lt _ (by decide)
      refine ⟨_, vmod_self .., fun i => ?_⟩
      rw [BitVec.getLsbD_or, BitVec.getLsbD_twoPow, decide_eq_true hlt, Bool.true_and, Bool.or_eq_true, decide_eq_true_eq]
      exact or_congr Iff.rfl ⟨fun h => ⟨rfl, rfl, h⟩, fun h => h.2.2⟩
    · refine ⟨_, vmod_other _ _ _ _ _ fun e => hk (Fin.ext e.symm), fun i => by simp [hk]⟩

/-- A channel that goes safe tells its node of the edges it drops. -/
theorem safe_bit (sp : Spigot) (ch : ChanId) (k : BoomId) : ∃ d, (sp.safe ch).nodes[k.val] = { sp.nodes[k.val] with dropPend := d } ∧
    ∀ i : Fin 24, d.getLsbD i.val = true ↔ (sp.nodes[k.val]).dropPend.getLsbD i.val = true ∨
      (direct ch = false ∧ boomOf ch = k ∧ boomChan ch = i.val ∧ (sp.chans[ch.val]).fifo ≠ []) := by
  unfold Spigot.safe
  cases hf : (sp.chans[ch.val]).fifo with
  | nil => exact ⟨(sp.nodes[k.val]).dropPend, rfl, fun i => by simp⟩
  | cons e rest =>
    obtain ⟨d, hd, hi⟩ := dropPend_bit (sp.onChan ch Channel.toSafe) ch k
    refine ⟨d, hd, fun i => ?_⟩
    rw [hi]
    simp [Spigot.onChan]

theorem safe_chans (sp : Spigot) (ch : ChanId) : sp.safe ch = { sp with chans := vmod sp.chans ch Channel.toSafe, nodes := (sp.safe ch).nodes } := by
  unfold Spigot.safe Spigot.dropPend
  dsimp only
  split
  · split <;> rfl
  · rfl

theorem SafeFor.next {sp u : Spigot} {l : List ChanId} {ch : ChanId} (h : SafeFor sp l u) (hn : ch ∉ l) : SafeFor sp (l ++ [ch]) (u.safe ch) where
  rest := by rw [safe_chans, h.rest]
  safe c hc := by
    rw [safe_chans]
    rcases List.mem_append.mp hc with hc | hc
    · have hne : c ≠ ch := fun e => hn (e ▸ hc)
      exact (vmod_other _ _ _ _ _ fun e => hne (Fin.ext e)).trans (h.safe c hc)
    · rw [List.mem_singleton.mp hc]
      exact (vmod_self ..).trans (congrArg Channel.toSafe (h.other ch hn))
  other c hc := by
    rw [List.mem_append, not_or] at hc
    rw [safe_chans]
    exact (vmod_other _ _ _ _ _ fun e => hc.2 (List.mem_singleton.mpr (Fin.ext e))).trans (h.other c hc.1)
  nodes k := by
    obtain ⟨d, hd, hi⟩ := h.nodes k
    obtain ⟨d', hd', hi'⟩ := safe_bit u ch k
    refine ⟨d', by rw [hd', hd], fun i => ?_⟩
    rw [hi' i, hd, h.other ch hn]
    dsimp only
    rw [hi i]
    simp only [List.mem_append, List.mem_singleton, or_assoc, or_and_right, exists_or, exists_eq_left]

theorem SafeFor.foldl {sp : Spigot} (todo : List ChanId) : ∀ (done : List ChanId) (u : Spigot), SafeFor sp done u → (done ++ todo).Nodup →
    SafeFor sp (done ++ todo) (todo.foldl Spigot.safe u) := by
  induction todo with
  | nil => intro done u h _; rw [List.append_nil]; exact h
  | cons ch todo ih =>
    intro done u h hn
    have hnot : ch ∉ done := fun hc => (List.nodup_append.mp hn).2.2 ch hc ch List.mem_cons_self rfl
    have happ : done ++ ch :: todo = (done ++ [ch]) ++ todo := by rw [List.append_assoc]; rfl
    rw [happ] at hn ⊢
    exact ih _ _ (h.next hnot) hn

theorem SafeFor.all (sp : Spigot) {l : List ChanId} (hn : l.Nodup) : SafeFor sp l (l.foldl Spigot.safe sp) :=
  SafeFor.foldl l [] sp (.refl sp) hn

theorem allSafe_safe (sp : Spigot) : SafeFor sp (List.finRange 256) sp.allSafe := by
  unfold Spigot.allSafe
  exact .all sp (List.nodup_finRange 256)

/-- The channel of a bit of DROP_PEND. -/
theorem boomChan_iff (k : BoomId) (i : Fin 24) (ch : ChanId) :
    (direct ch = false ∧ boomOf ch = k ∧ boomChan ch = i.val) ↔ ch = fin 256 (64 + 24 * k.val + i.val) := by
  have hch := ch.isLt
  have hk := k.isLt
  have hi := i.isLt
  unfold direct boomOf boomChan fin
  rw [Fin.ext_iff, Fin.ext_iff, decide_eq_false_iff_not]
  simp only [Fin.val_ofNat]
  rw [Nat.mod_eq_of_lt (by omega : (ch.val - 64) / 24 < 8), Nat.mod_eq_of_lt (by omega : 64 + 24 * k.val + i.val < 256)]
  omega

/-- With every channel safe, each node is told of the edges its channels have lost. -/
theorem allSafe_spec (sp : Spigot) : sp.allSafe = { sp with chans := sp.chans.map Channel.toSafe, nodes := sp.allSafe.nodes } ∧
    ∀ (k : BoomId) (i : Fin 24), ∃ d, sp.allSafe.nodes[k.val] = { sp.nodes[k.val] with dropPend := d } ∧
      (d.getLsbD i.val = true ↔ (sp.nodes[k.val]).dropPend.getLsbD i.val = true ∨
        (sp.chans[(fin 256 (64 + 24 * k.val + i.val)).val]).fifo ≠ []) := by
  have h := allSafe_safe sp
  constructor
  · have hc : sp.allSafe.chans = sp.chans.map Channel.toSafe :=
      Vector.ext fun i hi => (h.safe ⟨i, hi⟩ (List.mem_finRange _)).trans (Vector.getElem_map ..).symm
    rw [← hc]
    exact h.rest
  · intro k i
    obtain ⟨d, hd, hbits⟩ := h.nodes k
    refine ⟨d, hd, (hbits i).trans (or_congr Iff.rfl ?_)⟩
    constructor
    · rintro ⟨ch, _, hdir, hk, hi, hf⟩
      have hch := (boomChan_iff k i ch).mp ⟨hdir, hk, hi⟩
      subst hch
      exact hf
    · intro hf
      obtain ⟨hdir, hk, hi⟩ := (boomChan_iff k i _).mpr rfl
      exact ⟨_, List.mem_finRange _, hdir, hk, hi, hf⟩

/-! Timed events. -/

section
variable {s : State} (ch : ChanId)

/-- With no hit interval or period at its end a channel goes on. -/
theorem onChan_still (sp : Spigot) {f : Channel → Channel} (h : f sp.chans[ch.val] = sp.chans[ch.val]) : sp.onChan ch f = sp := by
  have hv : vmod sp.chans ch f = sp.chans := (vmod_congr _ ch (g := fun x => x) h).trans (vmod_id ..)
  unfold Spigot.onChan
  rw [hv]

theorem hitEnd_ends (h : (s.spigot.chans[ch.val]).hit = true) (ht : (s.spigot.chans[ch.val]).since.toNat + 1000 * (s.spigot.chans[ch.val]).hitUs ≤ (now s).toNat) :
    hitEnd s ch = onSpigot s fun sp => sp.onChan ch fun c =>
      c.startPeriod ((s.spigot.chans[ch.val]).since + BitVec.ofNat 64 (1000 * (s.spigot.chans[ch.val]).hitUs)) :=
  onSpigot_congr s (onChan_congr _ (if_pos (by rw [h, Bool.true_and]; exact (elapsed_iff ..).mpr ht)))

theorem hitEnd_still (h : (s.spigot.chans[ch.val]).hit = false ∨
    (now s).toNat < (s.spigot.chans[ch.val]).since.toNat + 1000 * (s.spigot.chans[ch.val]).hitUs) : hitEnd s ch = s := by
  refine onSpigot_same s (onChan_still ch _ (if_neg ?_))
  rw [Bool.and_eq_true, elapsed_iff]
  rcases h with h | h
  · rw [h]; exact fun h => (nomatch h.1)
  · exact fun h' => absurd h'.2 (Nat.not_le.mpr h)

theorem periodStart_starts (h : (s.spigot.chans[ch.val]).running = true)
    (ht : (s.spigot.chans[ch.val]).since.toNat + 1000 * (s.spigot.chans[ch.val]).periodUs ≤ (now s).toNat) :
    periodStart s ch = onSpigot s fun sp => sp.onChan ch fun c =>
      c.startPeriod ((s.spigot.chans[ch.val]).since + BitVec.ofNat 64 (1000 * (s.spigot.chans[ch.val]).periodUs)) :=
  onSpigot_congr s (onChan_congr _ (if_pos (by rw [h, Bool.true_and]; exact (elapsed_iff ..).mpr ht)))

theorem periodStart_still (h : (s.spigot.chans[ch.val]).running = false ∨
    (now s).toNat < (s.spigot.chans[ch.val]).since.toNat + 1000 * (s.spigot.chans[ch.val]).periodUs) : periodStart s ch = s := by
  refine onSpigot_same s (onChan_still ch _ (if_neg ?_))
  rw [Bool.and_eq_true, elapsed_iff]
  rcases h with h | h
  · rw [h]; exact fun h => (nomatch h.1)
  · exact fun h' => absurd h'.2 (Nat.not_le.mpr h)

theorem holdLimit_expires {f : Word64} (hh : (s.spigot.chans[ch.val]).holding = true) (hf : (s.spigot.chans[ch.val]).holdFrom = some f)
    (hl : bitsOf s.spigot.ctl 23 16 ≠ 0) (ht : f.toNat + 1000000 * bitsOf s.spigot.ctl 23 16 ≤ (now s).toNat) :
    holdLimit s ch = onSpigot s fun sp => sp.safe ch := by
  have he := (elapsed_iff s f (1000000 * bitsOf s.spigot.ctl 23 16)).mpr ht
  simp only [holdLimit, hf, hh, hl, he, ne_eq, not_false_eq_true, decide_true, Bool.and_self, if_true]

theorem holdLimit_still (h : (s.spigot.chans[ch.val]).holding = false ∨ (s.spigot.chans[ch.val]).holdFrom = none ∨ bitsOf s.spigot.ctl 23 16 = 0) :
    holdLimit s ch = s := by
  unfold holdLimit
  dsimp only
  split
  · next t hf =>
    refine if_neg ?_
    rw [Bool.and_eq_true, Bool.and_eq_true, decide_eq_true_eq]
    rintro ⟨⟨hh, hl⟩, _⟩
    rcases h with h | h | h
    · rw [h] at hh; cases hh
    · rw [h] at hf; cases hf
    · exact hl h
  · rfl
end

/-! Heartbeats. -/

/-- A boom frame of a node waits at a MAC. -/
def boomWaits (s : State) (k : BoomId) : Prop :=
  ∃ (m : MacId) (tc : Fin 8) (es : List (ChanId × Fin 4 × BitVec 10 × Word64)) (h : Bool), TxFrame.boom k es h ∈ ((s.spigot.macs[m.val]).queues[tc.val])

theorem boomWaits_iff (s : State) (k : BoomId) :
    (s.spigot.macs.any fun x => x.queues.any fun q => q.any fun f => match f with | .boom i _ _ => decide (i = k) | .ring _ _ _ => false) = true ↔
      boomWaits s k := by
  simp only [Vector.any_eq_true, List.any_eq_true]
  constructor
  · rintro ⟨m, hm, tc, htc, f, hf, hb⟩
    cases f with
    | boom i es h => rw [decide_eq_true_eq] at hb; subst hb; exact ⟨⟨m, hm⟩, ⟨tc, htc⟩, es, h, hf⟩
    | ring => cases hb
  · rintro ⟨m, tc, es, h, hf⟩
    exact ⟨m.val, m.isLt, tc.val, tc.isLt, _, hf, decide_eq_true rfl⟩

section
variable {s : State} {k : BoomId}

theorem heartbeat_queues (hen : bitOf (s.spigot.nodes[k.val]).cfg 31 = true) (hw : ¬ boomWaits s k)
    (ht : (s.spigot.nodes[k.val]).lastSent.toNat / 1000 + bitsOf (s.spigot.nodes[k.val]).timing 31 16 + 1 ≤ (now s).toNat / 1000) :
    heartbeat s k = onSpigot s fun sp => sp.queueBoom k [] := by
  have hnone := Bool.eq_false_iff.mpr (mt (boomWaits_iff s k).mp hw)
  refine if_pos ?_
  rw [hen, Bool.true_and, Bool.and_eq_true, usElapsed_iff, Bool.not_eq_true']
  exact ⟨hnone, ht⟩

theorem heartbeat_still (h : bitOf (s.spigot.nodes[k.val]).cfg 31 = false ∨ boomWaits s k ∨
    (now s).toNat / 1000 < (s.spigot.nodes[k.val]).lastSent.toNat / 1000 + bitsOf (s.spigot.nodes[k.val]).timing 31 16 + 1) : heartbeat s k = s := by
  refine if_neg ?_
  rw [Bool.and_eq_true, Bool.and_eq_true, usElapsed_iff, Bool.not_eq_true']
  rintro ⟨⟨hen, hnone⟩, ht⟩
  rcases h with h | h | h
  · rw [h] at hen; cases hen
  · exact Bool.eq_false_iff.mp hnone ((boomWaits_iff s k).mpr h)
  · exact Nat.not_le.mpr h ht
end

/-- Settles O38: edges, PWM, holds, safe levels and heartbeats follow the rules above. -/
theorem channelsPwmAndSafeLevels : Obligations.ChannelsPwmAndSafeLevels := by
  unfold Obligations.ChannelsPwmAndSafeLevels
  refine ⟨fun c d t own => ⟨act_low .., ⟨rfl, rfl, rfl, fun h => ?_, fun h => ?_, ?hit⟩, ⟨?level, ?on, fun ho hp hn => act_dutyNext _ _ _ _ ho hp hn, fun h => ?_⟩,
    Nat.le_max_left .., dutyOf_le _⟩, fun s hup => ⟨fun ch => ?timers, ?safe, fun v hv => ?_, live_next hup fun s => onSpigot s fun sp => { sp with safePinLow := false }, fun k => ?heartbeat⟩⟩
  · exact if_neg h
  · exact if_pos h
  case hit =>
    rw [act_high]
    simp only [Bool.and_eq_true, decide_eq_true_eq, and_assoc]
  case level =>
    rw [act_duties]
  case on =>
    rw [act_duties]
  · rw [act_duty _ _ _ _ h]
  case timers =>
    intro x
    refine ⟨fun h ht => ?_, fun h => ?_, fun h ht => ?_, fun h => ?_, fun f hh hf hl ht => ?_, fun h => ?_⟩
    · exact (live_next hup fun s => hitEnd s ch).trans (congrArg _ (hitEnd_ends ch h ht))
    · exact (live_next hup fun s => hitEnd s ch).trans (congrArg _ (hitEnd_still ch h))
    · exact (live_next hup fun s => periodStart s ch).trans (congrArg _ (periodStart_starts ch h ht))
    · exact (live_next hup fun s => periodStart s ch).trans (congrArg _ (periodStart_still ch h))
    · refine ⟨_, (live_next hup fun s => holdLimit s ch).trans (congrArg _ (holdLimit_expires ch hh hf hl ht)), ?_⟩
      exact congrArg (fun sp => { s with spigot := sp }) (safe_chans s.spigot ch)
    · exact (live_next hup fun s => holdLimit s ch).trans (congrArg _ (holdLimit_still ch h))
  case safe =>
    intro safe v
    have hsafe {c : Instr} {sp : Spigot} (hc : exec c s = .next (onSpigot s fun _ => sp.allSafe)) (hchans : sp.chans = s.spigot.chans)
        (hnodes : sp.nodes = s.spigot.nodes) : safe c sp := by
      obtain ⟨hrest, hbits⟩ := allSafe_spec sp
      rw [hchans] at hrest
      rw [hnodes, hchans] at hbits
      exact ⟨_, hc, congrArg (fun sp => { s with spigot := sp }) hrest, hbits⟩
    refine ⟨fun hv => hsafe ?_ rfl rfl, ?_⟩
    · refine (live_next hup fun s => spigotCtl s v).trans (congrArg _ (onSpigot_congr s (if_pos hv)))
    · obtain ⟨hrest, hbits⟩ := allSafe_spec s.spigot
      have hfall : exec .safePinFall s = .next { s with spigot := { s.spigot.allSafe with safePinLow := true } } :=
        live_next hup fun s => onSpigot s fun sp => { sp.allSafe with safePinLow := true }
      generalize s.spigot.allSafe = u at hfall hrest hbits
      exact ⟨_, hfall, congrArg (fun sp => { s with spigot := { sp with safePinLow := true } }) hrest, hbits⟩
  · exact (live_next hup fun s => spigotCtl s v).trans (congrArg _ (onSpigot_congr s (if_neg (by rw [hv]; decide))))
  case heartbeat =>
    intro n waits
    exact ⟨fun hen hw ht => (live_next hup fun s => heartbeat s k).trans (congrArg _ (heartbeat_queues hen hw ht)),
      fun h => (live_next hup fun s => heartbeat s k).trans (congrArg _ (heartbeat_still h))⟩

end Sys2Proof.Machine
end

section
open Sys2Proof.Laws
namespace Sys2Proof.Machine

/-! ### Gated Ethernet frames and CAN (10 R239 to R248) -/

theorem onMac_onMac (s : State) (m : MacId) (f g : Mac → Mac) : onMac (onMac s m f) m g = onMac s m fun x => g (f x) :=
  congrArg (fun v => onSpigot s fun _ => { s.spigot with macs := v }) (vmod_vmod s.spigot.macs m f g)

theorem onMac_mac (s : State) (m : MacId) (f : Mac → Mac) : (onMac s m f).spigot.macs[m.val] = f s.spigot.macs[m.val] := vmod_self ..

theorem onMac_congr (s : State) {m : MacId} {f g : Mac → Mac} (h : f s.spigot.macs[m.val] = g s.spigot.macs[m.val]) : onMac s m f = onMac s m g :=
  onSpigot_congr s (congrArg (fun v => { s.spigot with macs := v }) (vmod_congr _ m h))

theorem onMac_same (s : State) {m : MacId} {f : Mac → Mac} (h : f s.spigot.macs[m.val] = s.spigot.macs[m.val]) : onMac s m f = s := by
  have hv : vmod s.spigot.macs m f = s.spigot.macs := (vmod_congr _ m (g := fun x => x) h).trans (vmod_id ..)
  unfold onMac onSpigot
  dsimp only
  rw [hv]

theorem onCan_congr (s : State) {n : CanId} {f g : Can → Can} (h : f s.spigot.cans[n.val] = g s.spigot.cans[n.val]) : onCan s n f = onCan s n g :=
  onSpigot_congr s (congrArg (fun v => { s.spigot with cans := v }) (vmod_congr _ n h))

theorem onCan_same (s : State) {n : CanId} {f : Can → Can} (h : f s.spigot.cans[n.val] = s.spigot.cans[n.val]) : onCan s n f = s := by
  have hv : vmod s.spigot.cans n f = s.spigot.cans := (vmod_congr _ n (g := fun x => x) h).trans (vmod_id ..)
  unfold onCan onSpigot
  dsimp only
  rw [hv]

/-! Descriptors. -/

theorem rows_ok_iff (s : State) (a len : Nat) : ((rowsOf a len).all fun r => rowStatus s none r = .ok) = true ↔ rowsOk s none a len := by
  rw [List.all_eq_true]
  exact forall₂_congr fun r _ => decide_eq_true_iff

theorem ethDesc_ok {s : State} {a : Nat} (h : rowsOk s none a 32) : ethDesc s a = some
    { buf := readLe s.mem a 6, len := readLe s.mem (a + 6) 2, vlan := readLe s.mem (a + 8) 2, own := (readByte s.mem (a + 10)).getLsbD 0 } :=
  if_pos ((rows_ok_iff ..).mpr h)

theorem ethDesc_none {s : State} {a : Nat} (h : ¬ rowsOk s none a 32) : ethDesc s a = none := if_neg (mt (rows_ok_iff ..).mp h)

/-- A range whose rows answer is written, and its rows answer still. -/
theorem writeRange_place {s : State} {a : Nat} {bs : List Byte} (h : rowsOk s none a bs.length) :
    ∃ g : Granary, (writeRange s none a bs).2 = { s with mem := writeBytes s.mem a bs, granary := g } ∧
      g = { s.granary with poison := g.poison, banks := g.banks } ∧
      ∀ b len, rowsOk s none b len → rowsOk { s with mem := writeBytes s.mem a bs, granary := g } none b len := by
  obtain ⟨g, hw, hg, _⟩ := writeRange_ok h
  refine ⟨g, by rw [hw], hg, fun b len hb => ?_⟩
  have hk := writeRange_keeps h hb
  rw [hw] at hk
  exact hk

/-- A descriptor whose row answers is written back. -/
theorem ethBack_ok {s : State} {a : Nat} (len vlan : Nat) (t : Word64) (h : rowsOk s none a 32) :
    ∃ g : Granary, ethBack s a len vlan t = { s with
        free := s.free + 1
        granary := g
        mem := writeBytes (writeBytes s.mem (a + 16) (leBytes 8 t.toNat)) (a + 6)
          (leBytes 2 len ++ leBytes 2 vlan ++ [0, Config.fresh 8 s.free]) } ∧
      g = { s.granary with poison := g.poison, banks := g.banks } := by
  have hfree : rowsOk { s with free := s.free + 1 } none a 32 := rowsOk_congr rfl rfl h
  obtain ⟨g, hw, hg, hkeep⟩ := writeRange_place (s := { s with free := s.free + 1 }) (a := a + 16) (bs := leBytes 8 t.toNat)
    (hfree.part (by omega) (by rw [length_leBytes]; omega) (by rw [length_leBytes]; omega))
  obtain ⟨g', hw', hg', _⟩ := writeRange_place (s := { s with free := s.free + 1, mem := writeBytes s.mem (a + 16) (leBytes 8 t.toNat), granary := g })
    (a := a + 6) (bs := leBytes 2 len ++ leBytes 2 vlan ++ [0, Config.fresh 8 s.free])
    ((hkeep _ _ hfree).part (by omega) (by simp [length_leBytes]) (by simp [length_leBytes]))
  refine ⟨g', ?_, by rw [hg', hg]⟩
  unfold ethBack draw
  dsimp only
  rw [hw, hw']

/-! Ethernet. -/

section
variable {s : State} {m : MacId}

theorem gateStart_off (h : bitOf (s.spigot.macs[m.val]).ctl 31 = false) : gateStart s m = s := by
  simp only [gateStart, h, Bool.not_false, if_true]

theorem rxFrame_off (f : EthFrame) (h : bitOf (s.spigot.macs[m.val]).ctl 31 = false) : rxFrame s m f = s := by
  simp only [rxFrame, h, Bool.not_false, if_true]

/-- The receive ring of a frame. -/
def Mac.rxRing (x : Mac) (f : EthFrame) : Fin 12 := fin 12 (8 + (x.classOf f.pcp).val / 2)

/-- The next descriptor of a receive ring. -/
def Mac.rxDesc (x : Mac) (f : EthFrame) : Nat := (x.rings[(x.rxRing f).val]).descAt (x.rings[(x.rxRing f).val]).head

theorem rxFrame_noSpace {f : EthFrame} (hon : bitOf (s.spigot.macs[m.val]).ctl 31 = true)
    (h : (readByte s.mem ((s.spigot.macs[m.val]).rxDesc f + 10)).getLsbD 0 = false ∨ ¬ rowsOk s none ((s.spigot.macs[m.val]).rxDesc f) 32) :
    rxFrame s m f = onMac s m fun x => { x with rxNospace := bump x.rxNospace } := by
  unfold rxFrame
  refine (if_neg (by rw [hon]; decide)).trans ?_
  show (match ethDesc s ((s.spigot.macs[m.val]).rxDesc f) with | some d => _ | none => _) = _
  by_cases hrows : rowsOk s none ((s.spigot.macs[m.val]).rxDesc f) 32
  · rw [ethDesc_ok hrows]
    exact if_neg (by rw [h.resolve_right (not_not_intro hrows)]; exact Bool.false_ne_true)
  · rw [ethDesc_none hrows]

theorem rxFrame_stores {f : EthFrame} (hon : bitOf (s.spigot.macs[m.val]).ctl 31 = true)
    (hown : (readByte s.mem ((s.spigot.macs[m.val]).rxDesc f + 10)).getLsbD 0 = true)
    (hrows : rowsOk s none ((s.spigot.macs[m.val]).rxDesc f) 32) (hbuf : rowsOk s none (readLe s.mem ((s.spigot.macs[m.val]).rxDesc f) 6) f.bytes.length) :
    ∃ g : Granary, rxFrame s m f = onMac { s with
        free := s.free + 1
        granary := g
        mem := writeBytes (writeBytes (writeBytes s.mem (readLe s.mem ((s.spigot.macs[m.val]).rxDesc f) 6) f.bytes)
            ((s.spigot.macs[m.val]).rxDesc f + 16) (leBytes 8 (now s).toNat)) ((s.spigot.macs[m.val]).rxDesc f + 6)
          (leBytes 2 f.bytes.length ++ leBytes 2 f.vlan.toNat ++ [0, Config.fresh 8 s.free]) } m
        (fun x => { x with rings := vmod x.rings ((s.spigot.macs[m.val]).rxRing f) fun q => { q with head := (q.head + 1) % q.size } }) ∧
      g = { s.granary with poison := g.poison, banks := g.banks } := by
  obtain ⟨g, hw, hg, hkeep⟩ := writeRange_place hbuf
  obtain ⟨g', hb, hg'⟩ := ethBack_ok (s := onMac { s with
      mem := writeBytes s.mem (readLe s.mem ((s.spigot.macs[m.val]).rxDesc f) 6) f.bytes, granary := g } m fun x =>
        { x with rings := vmod x.rings ((s.spigot.macs[m.val]).rxRing f) fun q => { q with head := (q.head + 1) % q.size } })
    f.bytes.length f.vlan.toNat (now s) (rowsOk_congr rfl rfl (hkeep _ _ hrows))
  refine ⟨g', ?_, by rw [hg']; exact congrArg (fun g : Granary => { g with poison := g'.poison, banks := g'.banks }) hg⟩
  unfold rxFrame
  refine (if_neg (by rw [hon]; decide)).trans ?_
  show (match ethDesc s ((s.spigot.macs[m.val]).rxDesc f) with | some d => _ | none => _) = _
  rw [ethDesc_ok hrows]
  refine (if_pos hown).trans ?_
  rw [hw]
  exact hb
theorem gateChange_asks (v : Word) : gateChange s m v = onMac s m fun x => { x with changePend := x.changePend || bitOf v 0 } := by
  refine onMac_congr s ?_
  cases bitOf v 0 with
  | false => simp
  | true => simp

theorem adminSwitch_takes (hp : (s.spigot.macs[m.val]).changePend = true) (ht : (s.spigot.macs[m.val]).adminBase ≤ now s) :
    adminSwitch s m = onMac s m fun x => { x with
      changePend := false, operList := !x.operList, oper := x.admin, operLen := x.adminLen.toNat, operBase := x.adminBase,
      operCycle := x.cycleNs, entry := 0 } :=
  onMac_congr s (if_pos (by rw [hp, decide_eq_true ht]; rfl))

theorem adminSwitch_still (h : (s.spigot.macs[m.val]).changePend = false ∨ now s < (s.spigot.macs[m.val]).adminBase) : adminSwitch s m = s := by
  refine onMac_same s (if_neg ?_)
  rw [Bool.and_eq_true, decide_eq_true_eq]
  rintro ⟨hp, ht⟩
  rcases h with h | h
  · rw [h] at hp; cases hp
  · exact absurd ht (BitVec.not_le.mpr h)

theorem txDone_none {r : Fin 8} (h : (s.spigot.macs[m.val]).sending.find? (TxFrame.ofRing r) = none) : txDone s m r = s := by
  simp only [txDone, h]

theorem txDone_back {r : Fin 8} {i : Nat} {held : Bool} (h : (s.spigot.macs[m.val]).sending.find? (TxFrame.ofRing r) = some (.ring r i held))
    (hrows : rowsOk s none (((s.spigot.macs[m.val]).rings[(fin 12 r.val).val]).descAt i) 32) :
    ∃ g : Granary, txDone s m r = onMac { s with
        free := s.free + 1
        granary := g
        mem := writeBytes (writeBytes s.mem (((s.spigot.macs[m.val]).rings[(fin 12 r.val).val]).descAt i + 16) (leBytes 8 (now s).toNat))
          (((s.spigot.macs[m.val]).rings[(fin 12 r.val).val]).descAt i + 6)
          (leBytes 2 (readLe s.mem (((s.spigot.macs[m.val]).rings[(fin 12 r.val).val]).descAt i + 6) 2) ++
            leBytes 2 (readLe s.mem (((s.spigot.macs[m.val]).rings[(fin 12 r.val).val]).descAt i + 8) 2) ++ [0, Config.fresh 8 s.free]) } m
        (fun x => { x with
          sending := x.sending.erase (.ring r i held)
          rings := vmod x.rings (fin 12 r.val) fun q => { q with head := (i + 1) % q.size } }) ∧
      g = { s.granary with poison := g.poison, banks := g.banks } := by
  have hrows' : rowsOk (onMac s m fun x => { x with
      sending := x.sending.erase (.ring r i held)
      rings := vmod x.rings (fin 12 r.val) fun q => { q with head := (i + 1) % q.size } }) none
      (((s.spigot.macs[m.val]).rings[(fin 12 r.val).val]).descAt i) 32 := rowsOk_congr rfl rfl hrows
  obtain ⟨g, hb, hg⟩ := ethBack_ok (readLe s.mem (((s.spigot.macs[m.val]).rings[(fin 12 r.val).val]).descAt i + 6) 2)
    (readLe s.mem (((s.spigot.macs[m.val]).rings[(fin 12 r.val).val]).descAt i + 8) 2) (now s) hrows'
  refine ⟨g, ?_, hg⟩
  unfold txDone
  dsimp only
  rw [h]
  dsimp only
  rw [ethDesc_ok hrows']
  exact hb
end

/-! Gates. -/

theorem sendClass_empty {s : State} {m : MacId} {tc : Fin 8} (h : (s.spigot.macs[m.val]).queues[tc.val] = []) (n t : Nat) :
    sendClass s m tc n t = (t, s) := by
  cases n with
  | zero => rfl
  | succ n => simp only [sendClass, h]

/-- Classes without frames send nothing. -/
theorem sendAll_empty {s : State} {m : MacId} {l : List (Fin 8)} (h : ∀ c ∈ l, (s.spigot.macs[m.val]).queues[c.val] = []) (n : Fin 8 → Nat) (t : Nat) :
    l.foldl (fun (p : Nat × State) c => sendClass p.2 m c (n c) p.1) (t, s) = (t, s) := by
  induction l with
  | nil => rfl
  | cons c l ih =>
    rw [List.foldl_cons, sendClass_empty (h c List.mem_cons_self)]
    exact ih fun c hc => h c (List.mem_cons_of_mem _ hc)

/-- When one class alone has frames, a MAC sends what that class sends. -/
theorem sendAll_one {s u : State} {m : MacId} {tc : Fin 8} {t' : Nat} (h : ∀ c : Fin 8, c ≠ tc → (s.spigot.macs[m.val]).queues[c.val] = [])
    (hs : sendClass s m tc (2 * ((s.spigot.macs[m.val]).queues[tc.val]).length + 8) (now s).toNat = (t', u))
    (hu : ∀ c : Fin 8, c ≠ tc → (u.spigot.macs[m.val]).queues[c.val] = []) : sendAll s m = u := by
  have hmem : ∀ c : Fin 8, c ∈ ([7, 6, 5, 4, 3, 2, 1, 0] : List (Fin 8)) := by decide
  have hnodup : ([7, 6, 5, 4, 3, 2, 1, 0] : List (Fin 8)).Nodup := by decide
  unfold sendAll
  obtain ⟨before, after, hl⟩ := List.append_of_mem (hmem tc)
  rw [hl] at hnodup ⊢
  obtain ⟨_, hafter, hdis⟩ := List.nodup_append.mp hnodup
  have hb (c) (hc : c ∈ before) : c ≠ tc := hdis c hc tc List.mem_cons_self
  have ha (c) (hc : c ∈ after) : c ≠ tc := fun e => (List.nodup_cons.mp hafter).1 (e ▸ hc)
  dsimp only
  rw [List.foldl_append, sendAll_empty (fun c hc => h c (hb c hc)) fun c => 2 * ((s.spigot.macs[m.val]).queues[c.val]).length + 8, List.foldl_cons]
  dsimp only
  rw [hs, sendAll_empty (fun c hc => hu c (ha c hc)) fun c => 2 * ((s.spigot.macs[m.val]).queues[c.val]).length + 8]

theorem staysOpen_entry (x : Mac) (e : Nat) (tc : Fin 8) (k : Nat) : ∀ t n, ({ x with entry := e } : Mac).staysOpen tc k t n = x.staysOpen tc k t n := by
  induction k with
  | zero => exact fun _ _ => rfl
  | succ k ih =>
    intro t n
    unfold Mac.staysOpen
    have he : ({ x with entry := e } : Mac).entryAt t = x.entryAt t := rfl
    rw [he]
    cases x.entryAt t with
    | none => rfl
    | some p => dsimp only; rw [ih]

/-- A MAC of another frame queue sends a boom frame of the same bytes. -/
theorem boomBytes_onMac (sp : Spigot) (m : MacId) (f : Mac → Mac) (hf : ∀ x, (f x).addr = x.addr) (k : BoomId)
    (es : List (ChanId × Fin 4 × BitVec 10 × Word64)) (seq : BitVec 16) (drop : BitVec 24) :
    boomBytes { sp with macs := vmod sp.macs m f } k es seq drop = boomBytes sp k es seq drop := by
  have haddr (i : Fin 2) : ((vmod sp.macs m f)[i.val]).addr = (sp.macs[i.val]).addr := by
    by_cases h : i.val = m.val
    · obtain rfl : i = m := Fin.ext h
      rw [vmod_self]; exact hf _
    · rw [vmod_other _ _ _ _ _ h]
  unfold boomBytes
  dsimp only
  rw [haddr]

section
variable {s : State} {m : MacId} {tc : Fin 8} {k : BoomId} {es : List (ChanId × Fin 4 × BitVec 10 × Word64)}
  (hq : (s.spigot.macs[m.val]).queues[tc.val] = [.boom k es false]) (t n : Nat)
include hq

theorem sendClass_closed (ho : (s.spigot.macs[m.val]).opens tc t = false) : sendClass s m tc (n + 1) t = (t, s) := by
  simp only [sendClass, hq, ho, Bool.not_false, if_true]

variable (ho : (s.spigot.macs[m.val]).opens tc t = true)
include ho

theorem sendClass_held (hf : (s.spigot.macs[m.val]).tasEn = true)
    (hs : (s.spigot.macs[m.val]).staysOpen tc 512 t ((s.spigot.macs[m.val]).bytesNs (max 64 (26 + 8 * es.length + 4) + 20)) = false) :
    sendClass s m tc (n + 1) t = (t, onMac s m fun x => { x with queues := vmod x.queues tc fun _ => [.boom k es true], tasHeld := bump x.tasHeld }) := by
  simp only [sendClass, hq, ho, frameLen, hf, hs, Bool.not_false, Bool.not_true, Bool.false_and, Bool.and_self, Bool.false_eq_true, if_false, if_true]
  rfl

theorem sendClass_fits (hf : (s.spigot.macs[m.val]).tasEn = false ∨
      (s.spigot.macs[m.val]).staysOpen tc 512 t ((s.spigot.macs[m.val]).bytesNs (max 64 (26 + 8 * es.length + 4) + 20)) = true) :
    sendClass s m tc (n + 1) t = sendClass (sendFrame (onMac s m fun x => { x with queues := vmod x.queues tc fun _ => [] }) m (.boom k es false)) m tc n
      (t + (s.spigot.macs[m.val]).bytesNs (max 64 (26 + 8 * es.length + 4) + 20)) := by
  have hfit : ((s.spigot.macs[m.val]).tasEn && !(s.spigot.macs[m.val]).staysOpen tc 512 t
      ((s.spigot.macs[m.val]).bytesNs (max 64 (26 + 8 * es.length + 4) + 20))) = false := by
    rcases hf with h | h
    · rw [h]; rfl
    · rw [h]; exact Bool.and_false _
  simp only [sendClass, hq, ho, frameLen, hfit, Bool.not_true, Bool.false_and, Bool.false_eq_true, if_false]
end

/-- A MAC with the entry of the moment in force. -/
def Mac.atEntry (x : Mac) (t : Nat) : Mac := { x with entry := match x.entryAt t with | some (i, _) => i | none => x.entry }

theorem gateStart_on {s : State} {m : MacId} (h : bitOf (s.spigot.macs[m.val]).ctl 31 = true) :
    gateStart s m = sendAll (onMac s m fun x => x.atEntry (now s).toNat) m := by
  unfold gateStart
  exact if_neg (by rw [h]; decide)

/-- A Spigot that has put the boom frame of a class's queue on the wire. -/
def Spigot.sent (sp : Spigot) (m : MacId) (tc : Fin 8) (k : BoomId) (es : List (ChanId × Fin 4 × BitVec 10 × Word64)) (y : Mac) (t : Word64) : Spigot :=
  let n := sp.nodes[k.val]
  { sp with
    nodes := vmod sp.nodes k fun n => { n with seq := n.seq + 1, dropPend := 0, lastSent := t }
    macs := vmod sp.macs m fun _ =>
      { y with
        queues := vmod y.queues tc fun _ => []
        wire := boomBytes sp k es (n.seq + 1) n.dropPend :: y.wire } }

theorem sendFrame_sent (s : State) (m : MacId) (tc : Fin 8) (k : BoomId) (es : List (ChanId × Fin 4 × BitVec 10 × Word64)) (held : Bool) (t : Nat) :
    sendFrame (onMac (onMac s m fun x => x.atEntry t) m fun x => { x with queues := vmod x.queues tc fun _ => [] }) m (.boom k es held) =
      onSpigot s fun sp => sp.sent m tc k es ((s.spigot.macs[m.val]).atEntry t) (now s) := by
  rw [onMac_onMac]
  unfold sendFrame onMac
  refine congrArg (fun sp => { s with spigot := sp }) ?_
  dsimp only [onSpigot_spigot]
  rw [boomBytes_onMac, vmod_vmod]
  · exact congrArg (fun v => { s.spigot with
      nodes := vmod s.spigot.nodes k fun n => { n with seq := n.seq + 1, dropPend := 0, lastSent := now s }, macs := v }) (vmod_congr _ m rfl)
  · exact fun _ => rfl

section
variable {s : State} {m : MacId} {tc : Fin 8} {k : BoomId} {es : List (ChanId × Fin 4 × BitVec 10 × Word64)}
  (hon : bitOf (s.spigot.macs[m.val]).ctl 31 = true) (hother : ∀ c : Fin 8, c ≠ tc → (s.spigot.macs[m.val]).queues[c.val] = [])
  (hq : (s.spigot.macs[m.val]).queues[tc.val] = [.boom k es false])
include hon hother hq

theorem gateStart_ends {v : State}
    (hs : ∃ t', sendClass (onMac s m fun x => x.atEntry (now s).toNat) m tc 10 (now s).toNat = (t', v))
    (hv : ∀ c : Fin 8, c ≠ tc → (v.spigot.macs[m.val]).queues[c.val] = []) : gateStart s m = v := by
  obtain ⟨t', hs⟩ := hs
  refine (gateStart_on hon).trans (sendAll_one (tc := tc) (t' := t') (fun c hc => by rw [onMac_mac]; exact hother c hc) ?_ hv)
  have hlen : 2 * (((onMac s m fun x => x.atEntry (now s).toNat).spigot.macs[m.val]).queues[tc.val]).length + 8 = 10 := by
    rw [onMac_mac]; exact congrArg (fun q => 2 * List.length q + 8) hq
  rw [hlen]
  exact hs

theorem gateStart_closed (ho : (s.spigot.macs[m.val]).opens tc (now s).toNat = false) :
    gateStart s m = onMac s m fun x => x.atEntry (now s).toNat :=
  gateStart_ends hon hother hq ⟨_, sendClass_closed (by rw [onMac_mac]; exact hq) _ 9 (by rw [onMac_mac]; exact ho)⟩
    fun c hc => by rw [onMac_mac]; exact hother c hc

theorem gateStart_held (ho : (s.spigot.macs[m.val]).opens tc (now s).toNat = true) (hf : (s.spigot.macs[m.val]).tasEn = true)
    (hs : (s.spigot.macs[m.val]).staysOpen tc 512 (now s).toNat ((s.spigot.macs[m.val]).bytesNs (max 64 (26 + 8 * es.length + 4) + 20)) = false) :
    gateStart s m = onMac s m fun x => { x.atEntry (now s).toNat with
      queues := vmod x.queues tc fun _ => [.boom k es true], tasHeld := bump x.tasHeld } := by
  refine (gateStart_ends hon hother hq ⟨_, sendClass_held (by rw [onMac_mac]; exact hq) _ 9 (by rw [onMac_mac]; exact ho) (by rw [onMac_mac]; exact hf) ?_⟩ ?_).trans
    (onMac_onMac ..)
  · rw [onMac_mac]; exact (staysOpen_entry ..).trans hs
  · intro c hc
    rw [onMac_mac, onMac_mac]
    exact (vmod_other _ _ _ _ _ fun e => hc (Fin.ext e)).trans (hother c hc)

theorem gateStart_sends (ho : (s.spigot.macs[m.val]).opens tc (now s).toNat = true) (hf : (s.spigot.macs[m.val]).tasEn = false ∨
      (s.spigot.macs[m.val]).staysOpen tc 512 (now s).toNat ((s.spigot.macs[m.val]).bytesNs (max 64 (26 + 8 * es.length + 4) + 20)) = true) :
    gateStart s m = onSpigot s fun sp => sp.sent m tc k es ((s.spigot.macs[m.val]).atEntry (now s).toNat) (now s) := by
  have hmac : (onSpigot s fun sp => sp.sent m tc k es ((s.spigot.macs[m.val]).atEntry (now s).toNat) (now s)).spigot.macs[m.val] =
      { (s.spigot.macs[m.val]).atEntry (now s).toNat with
        queues := vmod (s.spigot.macs[m.val]).queues tc fun _ => []
        wire := boomBytes s.spigot k es ((s.spigot.nodes[k.val]).seq + 1) (s.spigot.nodes[k.val]).dropPend :: (s.spigot.macs[m.val]).wire } := vmod_self ..
  have hsent (t : Nat) : sendClass (sendFrame (onMac (onMac s m fun x => x.atEntry (now s).toNat) m fun x =>
      { x with queues := vmod x.queues tc fun _ => [] }) m (.boom k es false)) m tc 9 t =
        (t, onSpigot s fun sp => sp.sent m tc k es ((s.spigot.macs[m.val]).atEntry (now s).toNat) (now s)) := by
    rw [sendFrame_sent]
    exact sendClass_empty (by rw [hmac]; exact vmod_self ..) 9 t
  refine gateStart_ends hon hother hq ⟨_, (sendClass_fits (by rw [onMac_mac]; exact hq) _ 9 (by rw [onMac_mac]; exact ho) ?_).trans (hsent _)⟩ ?_
  · rw [onMac_mac]; exact hf.imp id fun h => (staysOpen_entry ..).trans h
  · intro c hc
    rw [hmac]
    exact (vmod_other _ _ _ _ _ fun e => hc (Fin.ext e)).trans (hother c hc)
end

/-! CAN FD. -/

section
variable {s : State} {n : CanId}

theorem canRx_off (f : CanFrame) (h : bitOf (s.spigot.cans[n.val]).ctl 31 = false) : canRx s n f = s := by
  simp only [canRx, h, Bool.not_false, if_true]

theorem canRx_filtered {f : CanFrame} (hon : bitOf (s.spigot.cans[n.val]).ctl 31 = true)
    (h : (s.spigot.cans[n.val]).filters.toList.find? (fun w => filterTakes w f) = none) :
    canRx s n f = onCan s n fun x => { x with filtered := bump x.filtered } := by
  simp only [canRx, hon, h, Bool.not_true, Bool.false_eq_true, if_false]

theorem length_canEntry (t : Word64) (f : CanFrame) : (canEntry t f).length = 80 := by
  unfold canEntry
  simp only [List.length_append, List.length_take, List.length_replicate, length_leBytes]
  omega

section
variable {f : CanFrame} {w : Word × Word} (hon : bitOf (s.spigot.cans[n.val]).ctl 31 = true)
  (h : (s.spigot.cans[n.val]).filters.toList.find? (fun w => filterTakes w f) = some w) {r : Fin 4} (hr : (if bitOf w.1 30 then 3 else 2 : Fin 4) = r)
include hon h hr

theorem canRx_full (hfull : ((s.spigot.cans[n.val]).rings[r.val]).canSize ≤ ((s.spigot.cans[n.val]).rings[r.val]).head - ((s.spigot.cans[n.val]).rings[r.val]).tail) :
    canRx s n f = onCan s n fun x => { x with rxNospace := bump x.rxNospace } := by
  simp only [canRx, hon, h, hr, hfull, Bool.not_true, Bool.false_eq_true, if_false, if_true]

theorem canRx_stores (hroom : ((s.spigot.cans[n.val]).rings[r.val]).head - ((s.spigot.cans[n.val]).rings[r.val]).tail < ((s.spigot.cans[n.val]).rings[r.val]).canSize)
    (hrows : rowsOk s none (((s.spigot.cans[n.val]).rings[r.val]).entryAt ((s.spigot.cans[n.val]).rings[r.val]).head) 80) :
    ∃ g : Granary, canRx s n f = onCan { s with
        mem := writeBytes s.mem (((s.spigot.cans[n.val]).rings[r.val]).entryAt ((s.spigot.cans[n.val]).rings[r.val]).head) (canEntry (now s) f)
        granary := g } n (fun x => { x with rings := vmod x.rings r fun q => { q with head := q.head + 1 } }) ∧
      g = { s.granary with poison := g.poison, banks := g.banks } := by
  obtain ⟨g, hw, hg, _⟩ := writeRange_place (bs := canEntry (now s) f) (by rw [length_canEntry]; exact hrows)
  refine ⟨g, ?_, hg⟩
  simp only [canRx, hon, h, hr, Nat.not_le.mpr hroom, hw, Bool.not_true, Bool.false_eq_true, if_false]
end

theorem canTxDone_still {r : Fin 4}
    (hr : (if ((s.spigot.cans[n.val]).rings[0]).head < ((s.spigot.cans[n.val]).rings[0]).tail then 0 else 1 : Fin 4) = r)
    (h : bitOf (s.spigot.cans[n.val]).ctl 31 = false ∨ bitOf (s.spigot.cans[n.val]).ctl 29 = true ∨ (s.spigot.cans[n.val]).busOff = true ∨
      ((s.spigot.cans[n.val]).rings[r.val]).tail ≤ ((s.spigot.cans[n.val]).rings[r.val]).head) : canTxDone s n = s := by
  unfold canTxDone
  dsimp only
  split
  · rfl
  · next hon =>
    simp only [Bool.or_eq_true, Bool.not_eq_true', not_or] at hon
    obtain ⟨⟨hon, hlisten⟩, hbus⟩ := hon
    subst hr
    exact if_neg <| Nat.not_lt.mpr (((h.resolve_left hon).resolve_left hlisten).resolve_left hbus)

theorem canTxDone_stamps {r : Fin 4}
    (hr : (if ((s.spigot.cans[n.val]).rings[0]).head < ((s.spigot.cans[n.val]).rings[0]).tail then 0 else 1 : Fin 4) = r)
    (hon : bitOf (s.spigot.cans[n.val]).ctl 31 = true) (hl : bitOf (s.spigot.cans[n.val]).ctl 29 = false) (hb : (s.spigot.cans[n.val]).busOff = false)
    (hq : ((s.spigot.cans[n.val]).rings[r.val]).head < ((s.spigot.cans[n.val]).rings[r.val]).tail)
    (hrows : rowsOk s none (((s.spigot.cans[n.val]).rings[r.val]).entryAt ((s.spigot.cans[n.val]).rings[r.val]).head) 80) :
    ∃ g : Granary, canTxDone s n = onCan { s with
        mem := writeBytes s.mem (((s.spigot.cans[n.val]).rings[r.val]).entryAt ((s.spigot.cans[n.val]).rings[r.val]).head) (leBytes 8 (now s).toNat)
        granary := g } n (fun x => { x with
          rings := vmod x.rings r fun q => { q with head := q.head + 1 }
          wire := readBytes (writeBytes s.mem (((s.spigot.cans[n.val]).rings[r.val]).entryAt ((s.spigot.cans[n.val]).rings[r.val]).head)
            (leBytes 8 (now s).toNat)) (((s.spigot.cans[n.val]).rings[r.val]).entryAt ((s.spigot.cans[n.val]).rings[r.val]).head) 80 :: x.wire }) ∧
      g = { s.granary with poison := g.poison, banks := g.banks } := by
  obtain ⟨g, hw, hg, hkeep⟩ := writeRange_place (bs := leBytes 8 (now s).toNat) (hrows.part (Nat.le_refl _) (by rw [length_leBytes]; omega) (by rw [length_leBytes]; omega))
  refine ⟨g, ?_, hg⟩
  simp only [canTxDone, hon, hl, hb, hr, hq, hw, readRange_ok (hkeep _ _ hrows), Bool.not_true, Bool.or_self, Bool.false_eq_true, if_false, if_true]
end

/-- Settles O39: gates, lists, doorbells, rings, filters and bus-off follow the rules above. -/
theorem gatedFramesAndCan : Obligations.GatedFramesAndCan := by
  unfold Obligations.GatedFramesAndCan
  intro s hup hquiet
  refine ⟨fun mac => ?mac, fun n => ?can⟩
  case mac =>
    intro x y
    refine ⟨fun hoff => ⟨?_, fun f => ?_⟩, fun tc k es hon hother hq => ?gate, fun v => ?_, fun hp ht => ?_, fun h => ?_, fun r tail => ?ring, fun f hon => ?rx⟩
    · exact (liveRows_next hup fun s => gateStart s mac).trans (next_of_quiet (gateStart_off hoff) hquiet)
    · exact (liveRows_next hup fun s => rxFrame s mac f).trans (next_of_quiet (rxFrame_off f hoff) hquiet)
    case gate =>
      intro fits
      have hgate {t : State} (h : gateStart s mac = t) (ht : t.granary.errPend = s.granary.errPend) : exec (.gateEntryStart mac) s = .next t :=
        (liveRows_next hup fun s => gateStart s mac).trans (next_of_quiet h (ht.trans hquiet))
      refine ⟨fun ho => ?_, fun ho hf => hgate (gateStart_sends hon hother hq ho hf) rfl, fun ho hf => ?_⟩
      · exact hgate ((gateStart_closed hon hother hq ho).trans (onMac_congr s rfl)) rfl
      · rw [not_or, Bool.not_eq_false, Bool.not_eq_true] at hf
        exact hgate ((gateStart_held hon hother hq ho hf.1 hf.2).trans (onMac_congr s rfl)) rfl
    · exact (live_next hup fun s => gateChange s mac v).trans (congrArg _ (gateChange_asks v))
    · exact (live_next hup fun s => adminSwitch s mac).trans (congrArg _ (adminSwitch_takes hp ht))
    · exact (live_next hup fun s => adminSwitch s mac).trans (congrArg _ (adminSwitch_still h))
    case ring =>
      intro q
      refine ⟨live_next hup fun s => txDoorbell s mac r tail, fun h => ?_, fun i held h hrows _ => ?_⟩
      · exact (liveRows_next hup fun s => txDone s mac r).trans (next_of_quiet (txDone_none h) hquiet)
      · obtain ⟨g, hd, hg⟩ := txDone_back h hrows
        exact ⟨g, _, (liveRows_next hup fun s => txDone s mac r).trans (next_of_quiet hd (by rw [hg]; exact hquiet)), hg, rfl⟩
    case rx =>
      intro r q a buf
      refine ⟨fun h => ?_, fun hown _ hrows hbuf => ?_⟩
      · exact (liveRows_next hup fun s => rxFrame s mac f).trans (next_of_quiet (rxFrame_noSpace hon h) hquiet)
      · obtain ⟨g, hd, hg⟩ := rxFrame_stores hon hown hrows hbuf
        exact ⟨g, _, (liveRows_next hup fun s => rxFrame s mac f).trans (next_of_quiet hd (by rw [hg]; exact hquiet)), hg, rfl⟩
  case can =>
    intro x
    refine ⟨fun f => ⟨fun hoff => ?_, fun hon h => ?_, fun w hon h => ?rx⟩, fun r tail => live_next hup fun s => canDoorbell s n (fin 4 r.val) tail, ?tx,
      live_next hup fun s => canOff s n, fun v => live_next hup fun s => canCtl s n v, fun h => ?_, fun h => ?_⟩
    · exact (liveRows_next hup fun s => canRx s n f).trans (next_of_quiet (canRx_off f hoff) hquiet)
    · exact (liveRows_next hup fun s => canRx s n f).trans (next_of_quiet (canRx_filtered hon h) hquiet)
    case rx =>
      intro r q
      refine ⟨fun hfull => ?_, fun hroom hrows => ?_⟩
      · exact (liveRows_next hup fun s => canRx s n f).trans (next_of_quiet (canRx_full hon h (r := r) rfl hfull) hquiet)
      · obtain ⟨g, hd, hg⟩ := canRx_stores hon h (r := r) rfl hroom hrows
        exact ⟨g, (liveRows_next hup fun s => canRx s n f).trans (next_of_quiet hd (by rw [hg]; exact hquiet)), hg⟩
    case tx =>
      intro r q a
      refine ⟨fun h => ?_, fun hon hl hb hq hrows => ?_⟩
      · exact (liveRows_next hup fun s => canTxDone s n).trans (next_of_quiet (canTxDone_still (r := r) rfl h) hquiet)
      · obtain ⟨g, hd, hg⟩ := canTxDone_stamps (r := r) rfl hon hl hb hq hrows
        exact ⟨g, (liveRows_next hup fun s => canTxDone s n).trans (next_of_quiet hd (by rw [hg]; exact hquiet)), hg⟩
    · exact (live_next hup fun s => canRecovered s n).trans (congrArg _ (onCan_congr s (if_pos h)))
    · exact (live_next hup fun s => canRecovered s n).trans (congrArg _ (onCan_same s (if_neg (by rw [h]; decide))))

end Sys2Proof.Machine
end

section
open Sys2Proof.Laws
namespace Sys2Proof.Machine

/-! ### Packets: routers, responses, timeouts, epochs and routes (11 R256 to R271) -/

/-- A packet whose slot stands at its source, or whose tag has gone. -/
def slotStands (s : State) (p : Packet) : Prop :=
  (s.net.nis[p.src.val]).slotOf p.slot p.gen ≠ none ∨ (s.net.nis[p.src.val]).gens[p.slot.val] ≠ p.gen

/-- The address of a row request that has no row. -/
def unmappedRow (p : Packet) : Prop := (p.kind.toNat ≤ 1 ∧ p.addr.toNat < 2 ^ 47) ∧ mappedRow p.addr.toNat = false

section
variable {s : State} {p : Packet}

theorem standing_iff : ((s.net.nis[p.src.val]).slotOf p.slot p.gen).isSome = true ∨ decide ((s.net.nis[p.src.val]).gens[p.slot.val] ≠ p.gen) = true ↔ slotStands s p := by
  unfold slotStands
  rw [Option.isSome_iff_ne_none, decide_eq_true_eq]

theorem issue_standing (h : slotStands s p) : issue s p = (true, s) :=
  if_pos (by rw [Bool.or_eq_true]; exact standing_iff.mpr h)

theorem issue_rest (h : ¬ slotStands s p) : issue s p =
    if p.kind.toNat ≤ 1 && p.addr.toNat < 2 ^ 47 && !mappedRow p.addr.toNat then (false, selfAnswer s p .bound)
    else if !routeValid (s.net.nis[p.src.val]).routes[p.dst.val] then (false, selfAnswer s p .offline)
    else if ((s.net.nis[p.src.val]).routePend[p.dst.val]).isSome then (false, onNi s p.src fun x => { x with waiting := x.waiting ++ [p] })
    else (true, onNi s p.src fun x =>
      { x with out := x.out ++ [{ slot := p.slot, dst := p.dst, kind := p.kind, vn := p.vn, addr := p.addr, since := now s, origin := none }] }) :=
  if_neg (by rw [Bool.or_eq_true]; exact mt standing_iff.mp h)

theorem unmapped_iff : (p.kind.toNat ≤ 1 && p.addr.toNat < 2 ^ 47 && !mappedRow p.addr.toNat) = true ↔ unmappedRow p := by
  unfold unmappedRow
  simp only [Bool.and_eq_true, decide_eq_true_eq, Bool.not_eq_true']

theorem issue_bound (h : ¬ slotStands s p) (hm : unmappedRow p) : issue s p = (false, selfAnswer s p .bound) :=
  (issue_rest h).trans (if_pos (unmapped_iff.mpr hm))

variable (h : ¬ slotStands s p) (hm : ¬ unmappedRow p)
include h hm

theorem issue_offline (hr : routeValid (s.net.nis[p.src.val]).routes[p.dst.val] = false) : issue s p = (false, selfAnswer s p .offline) :=
  (issue_rest h).trans ((if_neg (mt unmapped_iff.mp hm)).trans (if_pos (by rw [hr]; rfl)))

variable (hr : routeValid (s.net.nis[p.src.val]).routes[p.dst.val] = true)
include hr

theorem issue_routed : issue s p =
    if ((s.net.nis[p.src.val]).routePend[p.dst.val]).isSome then (false, onNi s p.src fun x => { x with waiting := x.waiting ++ [p] })
    else (true, onNi s p.src fun x =>
      { x with out := x.out ++ [{ slot := p.slot, dst := p.dst, kind := p.kind, vn := p.vn, addr := p.addr, since := now s, origin := none }] }) :=
  (issue_rest h).trans ((if_neg (mt unmapped_iff.mp hm)).trans (if_neg (by rw [hr]; decide)))

theorem issue_waits (hp : (s.net.nis[p.src.val]).routePend[p.dst.val] ≠ none) :
    issue s p = (false, onNi s p.src fun x => { x with waiting := x.waiting ++ [p] }) :=
  (issue_routed h hm hr).trans (if_pos (Option.isSome_iff_ne_none.mpr hp))

theorem issue_sends (hp : (s.net.nis[p.src.val]).routePend[p.dst.val] = none) :
    issue s p = (true, onNi s p.src fun x =>
      { x with out := x.out ++ [{ slot := p.slot, dst := p.dst, kind := p.kind, vn := p.vn, addr := p.addr, since := now s, origin := none }] }) :=
  (issue_routed h hm hr).trans (if_neg (by rw [hp]; decide))
end

/-! A router. -/

/-- A packet that needs no slot of its source. -/
def needsNoSlot (p : Packet) : Prop := p.sub = true ∨ p.kind = 2 ∨ p.kind = 3 ∨ p.kind = 5

/-- What a router does with a packet that has come to it. -/
def hop (s : State) (q : QuadId) (p : Packet) (side : Ecc) : State :=
  let s := takePacket s p
  if side = .bad then onRouter s q fun r => { r with ue := bump r.ue }
  else
    let s := if side = .corrected then onRouter s q fun r => { r with ce := bump r.ce } else s
    if misrouted q p then onRouter s q fun r => { r with misroute := bump r.misroute }
    else onNet s fun n => { n with wires := n.wires ++ [(q, fin 16 (pktNibble p),
      { p with rptr := p.rptr + 1, lane := p.lane || (8 ≤ pktNibble p && pktNibble p ≤ 10) })] }

section
variable {s : State} {q : QuadId} {p : Packet} {side : Ecc}

theorem needsNoSlot_iff : (p.sub || p.kind = 2 || p.kind = 3 || p.kind = 5) = true ↔ needsNoSlot p := by
  unfold needsNoSlot
  simp only [Bool.or_eq_true, decide_eq_true_eq, or_assoc]

theorem routerPacket_answer (h : needsNoSlot p) : routerPacket s q p side = hop s q p side := by
  unfold routerPacket
  rw [if_pos (needsNoSlot_iff.mpr h)]
  rfl

theorem routerPacket_sends {u : State} (h : ¬ needsNoSlot p) (hi : issue s p = (true, u)) : routerPacket s q p side = hop u q p side := by
  unfold routerPacket
  rw [if_neg (mt needsNoSlot_iff.mp h), hi]
  rfl

theorem routerPacket_kept {u : State} (h : ¬ needsNoSlot p) (hi : issue s p = (false, u)) : routerPacket s q p side = u := by
  unfold routerPacket
  rw [if_neg (mt needsNoSlot_iff.mp h), hi]
  rfl

theorem misrouted_iff : misrouted q p = true ↔ p.rptr = p.rlen ∨ (p.rptr + 1 = p.rlen ∧ portServes q (pktNibble p) p.dst = false) := by
  unfold misrouted
  simp only [Bool.or_eq_true, decide_eq_true_eq, Bool.and_eq_true, Bool.not_eq_true']
end

/-! Responses. -/

section
variable {s : State} {p : Packet} {ecc : Ecc}

/-- A response off the wires, its check counted at its initiator. -/
def checked (s : State) (p : Packet) (ecc : Ecc) : State :=
  if ecc = .bad then onNi (takePacket s p) p.dst fun x => { x with e2eUe := bump x.e2eUe } else takePacket s p

theorem checked_views : ((checked s p ecc).net.nis[p.dst.val]).epv = (s.net.nis[p.dst.val]).epv ∧
    ((checked s p ecc).net.nis[p.dst.val]).slotOf p.slot p.gen = (s.net.nis[p.dst.val]).slotOf p.slot p.gen := by
  unfold checked
  split
  · have hni : (onNi (takePacket s p) p.dst fun x => { x with e2eUe := bump x.e2eUe }).net.nis[p.dst.val] =
        { s.net.nis[p.dst.val] with e2eUe := bump (s.net.nis[p.dst.val]).e2eUe } := vmod_self ..
    rw [hni]
    exact ⟨rfl, rfl⟩
  · exact ⟨rfl, rfl⟩

theorem takeResponse_eq : takeResponse s p ecc =
    if (s.net.nis[p.dst.val]).epv[p.src.val] ≠ p.epoch then onNi (checked s p ecc) p.dst fun x => { x with staleEpoch := bump x.staleEpoch }
    else match (s.net.nis[p.dst.val]).slotOf p.slot p.gen with
      | some o => deliver (checked s p ecc) p.dst o p (if ecc = .bad then .uncorr else p.status)
      | none => onNi (checked s p ecc) p.dst fun x => { x with lateResp := bump x.lateResp } := by
  obtain ⟨hepv, hslot⟩ := checked_views (s := s) (p := p) (ecc := ecc)
  rw [← hslot]
  simp only [← hepv]
  rfl
end

section
variable {s : State} {p : Packet} {ecc : Ecc}

theorem takeResponse_stale (h : (s.net.nis[p.dst.val]).epv[p.src.val] ≠ p.epoch) :
    takeResponse s p ecc = onNi (checked s p ecc) p.dst fun x => { x with staleEpoch := bump x.staleEpoch } :=
  takeResponse_eq.trans (if_pos h)

variable (he : (s.net.nis[p.dst.val]).epv[p.src.val] = p.epoch)
include he

theorem takeResponse_late (h : (s.net.nis[p.dst.val]).slotOf p.slot p.gen = none) :
    takeResponse s p ecc = onNi (checked s p ecc) p.dst fun x => { x with lateResp := bump x.lateResp } := by
  refine takeResponse_eq.trans ((if_neg (not_not_intro he)).trans ?_)
  rw [h]

theorem takeResponse_delivers {o : OutSlot} (h : (s.net.nis[p.dst.val]).slotOf p.slot p.gen = some o) :
    takeResponse s p ecc = deliver (checked s p ecc) p.dst o p (if ecc = .bad then .uncorr else p.status) := by
  refine takeResponse_eq.trans ((if_neg (not_not_intro he)).trans ?_)
  rw [h]
end

/-! Timeouts. -/

section
variable {s : State} {n : NiId} {slot : Fin 256}

theorem niTimeout_free (h : (s.net.nis[n.val]).out.find? (·.slot = slot) = none) : niTimeout s n slot = s := by
  simp only [niTimeout, h]

variable {o : OutSlot} (h : (s.net.nis[n.val]).out.find? (·.slot = slot) = some o)
include h

theorem niTimeout_early (ht : (now s).toNat / 1000 ≤ o.since.toNat / 1000 + clampNat 1 1000000 (s.net.nis[n.val]).timeoutUs.toNat) :
    niTimeout s n slot = s := by
  have he : usElapsed s o.since (s.net.nis[n.val]).timeout = false := by
    rw [Bool.eq_false_iff]
    exact fun hel => absurd ((usElapsed_iff ..).mp hel) (Nat.not_le.mpr (Nat.lt_succ_of_le ht))
  simp only [niTimeout, h, he, Bool.false_eq_true, if_false]

/-- The response of a slot whose timer has expired. -/
def timeoutResponse (ni : Ni) (n : NiId) (slot : Fin 256) (o : OutSlot) : Packet :=
  { route := 0, rptr := 0, rlen := 0, vn := o.vn, sub := true, lane := false, kind := o.kind, src := o.dst, dst := n,
    gen := ni.gens[slot.val], slot := slot, epoch := ni.epv[o.dst.val], status := .timeout, addr := 0, xinfo := 0,
    payload := [] }

theorem niTimeout_expires (ho : o.origin = none)
    (ht : o.since.toNat / 1000 + clampNat 1 1000000 (s.net.nis[n.val]).timeoutUs.toNat < (now s).toNat / 1000) :
    niTimeout s n slot = onNi (if o.kind = 1 then looseRow s o.addr.toNat else s) n fun x =>
      { x with
        timeouts := bump x.timeouts, gens := vmod x.gens slot fun g => g + 1, out := x.out.filter (·.slot ≠ o.slot)
        delivered := timeoutResponse s.net.nis[n.val] n slot o :: x.delivered } := by
  have he : usElapsed s o.since (s.net.nis[n.val]).timeout = true := (usElapsed_iff ..).mpr ht
  simp only [niTimeout, h, he, if_true, deliver, ho]
  exact onNi_onNi ..
end

theorem looseRow_mapped {s : State} {a : Nat} (h : mappedRow a = true) :
    looseRow s a = { s with mem := writeBytes s.mem (a / 512 * 512) (leBytes 512 (Config.fresh 4096 s.free).toNat), free := s.free + 1 } := by
  simp only [looseRow, h, if_true, draw]

/-! Routes. -/

section
variable {s : State} {n d : NiId}

theorem clearTo_iff (x : Ni) (d : NiId) : x.clearTo d = true ↔ ∀ o ∈ x.out, o.dst ≠ d := by
  simp only [Ni.clearTo, Bool.not_eq_true', List.any_eq_false, decide_eq_true_eq, ne_eq]

theorem clearTo_false_iff (x : Ni) (d : NiId) : x.clearTo d = false ↔ ∃ o ∈ x.out, o.dst = d := by
  simp only [Ni.clearTo, Bool.not_eq_false', List.any_eq_true, decide_eq_true_eq]

/-- A route entry takes effect, and what waited for it is issued. -/
def routeTaken (s : State) (n d : NiId) (v : Word) : State :=
  ((s.net.nis[n.val]).waiting.filter (·.dst = d)).foldl
    (fun s p => let (sent, s) := issue s p; if sent then onNet s fun x => { x with sent := x.sent ++ [p] } else s)
    (onNi s n fun x => { x with routes := vmod x.routes d fun _ => v, routePend := vmod x.routePend d fun _ => none,
                                waiting := x.waiting.filter (·.dst ≠ d) })

theorem applyRoute_none (h : (s.net.nis[n.val]).routePend[d.val] = none) : applyRoute s n d = s := by
  simp only [applyRoute, h]

theorem applyRoute_waits {v : Word} (h : (s.net.nis[n.val]).routePend[d.val] = some v) (ho : ∃ o ∈ (s.net.nis[n.val]).out, o.dst = d) :
    applyRoute s n d = s := by
  simp only [applyRoute, h, (clearTo_false_iff ..).mpr ho, Bool.not_false, if_true]

theorem applyRoute_takes {v : Word} (h : (s.net.nis[n.val]).routePend[d.val] = some v) (ho : ∀ o ∈ (s.net.nis[n.val]).out, o.dst ≠ d) :
    applyRoute s n d = routeTaken s n d v := by
  simp only [applyRoute, h, (clearTo_iff ..).mpr ho, Bool.not_true, Bool.false_eq_true, if_false]
  rfl

theorem routeBad_iff (v : Word) : routeBad v = true ↔
    2 < (((List.range (routeLen v)).map (routeNib v)).filter fun x => decide (8 ≤ x) && decide (x ≤ 10)).length ∨
      ∃ x, ((List.range (routeLen v)).map (routeNib v)).getLast? = some x ∧ 8 ≤ x ∧ x ≤ 10 := by
  unfold routeBad
  dsimp only
  rw [Bool.or_eq_true, decide_eq_true_eq]
  refine or_congr Iff.rfl ?_
  cases ((List.range (routeLen v)).map (routeNib v)).getLast? with
  | none => simp
  | some x => simp

theorem routeWrite_refused {v : Word} (hv : routeValid v = true) (hb : routeBad v = true) :
    routeWrite s n d v = onNi s n fun x => { x with routeRej := true } :=
  if_pos (by rw [hv, hb]; rfl)

theorem routeWrite_taken {v : Word} (h : ¬ (routeValid v = true ∧ routeBad v = true)) : routeWrite s n d v =
    if (s.net.nis[n.val]).clearTo d then applyRoute (onNi s n fun x => { x with routePend := vmod x.routePend d fun _ => some (routeMask v) }) n d
    else onNi s n fun x => { x with routePend := vmod x.routePend d fun _ => some (routeMask v) } := by
  refine (if_neg (by rw [Bool.and_eq_true]; exact h)).trans ?_
  have hc : ((onNi s n fun x => { x with routePend := vmod x.routePend d fun _ => some (routeMask v) }).net.nis[n.val]).clearTo d =
      (s.net.nis[n.val]).clearTo d := by
    have hni : (onNi s n fun x => { x with routePend := vmod x.routePend d fun _ => some (routeMask v) }).net.nis[n.val] =
        { s.net.nis[n.val] with routePend := vmod (s.net.nis[n.val]).routePend d fun _ => some (routeMask v) } := vmod_self ..
    rw [hni]
    rfl
  dsimp only
  rw [hc]

/-- An entry that is pending already takes effect as one that is written. -/
theorem routeTaken_pending (v w : Word) :
    routeTaken (onNi s n fun x => { x with routePend := vmod x.routePend d fun _ => some w }) n d v = routeTaken s n d v := by
  have hni : (onNi s n fun x => { x with routePend := vmod x.routePend d fun _ => some w }).net.nis[n.val] =
      { s.net.nis[n.val] with routePend := vmod (s.net.nis[n.val]).routePend d fun _ => some w } := vmod_self ..
  unfold routeTaken
  rw [hni, onNi_onNi]
  simp only [vmod_vmod]
end

/-- Settles O40: packets, responses, timeouts, FLUSH, REJOIN and route writes follow the rules above. -/
theorem packetsRouteAnswerAndTimeOut : Obligations.PacketsRouteAnswerAndTimeOut := by
  unfold Obligations.PacketsRouteAnswerAndTimeOut
  intro s hup
  refine ⟨fun q p side => ?router, fun p ecc c hc => ?response, fun n => ?interface⟩
  case router =>
    intro ni response stands row known sends
    have hexec {t : State} (h : routerPacket s q p side = t) : exec (.routerPacket q p side) s = .next t :=
      (live_next hup fun s => routerPacket s q p side).trans (congrArg _ h)
    have hsends {u : State} (h : routerPacket s q p side = hop u q p side) : sends u := by
      refine ⟨fun hs => hexec (h.trans (if_pos hs)), fun hs hl => ?_, fun hs hl => ?_⟩
      · exact hexec (h.trans ((if_neg hs).trans (if_pos (misrouted_iff.mpr hl))))
      · exact hexec (h.trans ((if_neg hs).trans (if_neg (mt misrouted_iff.mp hl))))
    have hrow (hk : known) : ¬ unmappedRow p := fun ⟨hr, hm⟩ => by rw [hk hr] at hm; cases hm
    refine ⟨fun h => ?_, fun hr hs hrow hm => ?_, fun hr hs hk hv => ?_, fun hr hs hk hv hp => ?_, fun hr hs hk hv hp => ?_⟩
    · by_cases hr : response
      · exact hsends (routerPacket_answer hr)
      · exact hsends (routerPacket_sends hr (issue_standing (h.resolve_left hr)))
    · exact hexec (routerPacket_kept hr (issue_bound hs ⟨hrow, hm⟩))
    · exact hexec (routerPacket_kept hr (issue_offline hs (hrow hk) hv))
    · exact hexec (routerPacket_kept hr (issue_waits hs (hrow hk) hv hp))
    · exact hsends (routerPacket_sends hr (issue_sends hs (hrow hk) hv hp))
  case response =>
    intro n u v ni
    have hexec {t : State} (h : takeResponse s p ecc = t) : exec c s = .next t := by
      subst h
      rcases hc with rfl | ⟨rfl, rfl | rfl⟩
      · exact live_next hup fun s => takeResponse s p ecc
      · exact live_next hup fun s => takeResponse s p .good
      · exact live_next hup fun s => takeResponse s p .good
    refine ⟨fun h => hexec (takeResponse_stale h), fun he h => hexec (takeResponse_late he h), fun o he h => ?_⟩
    intro st w
    have hd := takeResponse_delivers (ecc := ecc) he h
    refine ⟨fun ho => hexec (hd.trans ?_), fun g ho => hexec (hd.trans ?_)⟩
    · unfold deliver
      rw [ho]
      rfl
    · unfold deliver
      rw [ho]
      rfl
  case interface =>
    intro ni
    refine ⟨fun slot => ⟨fun h => ?_, fun o h ho => ⟨fun ht => ?_, fun ht => ?expires⟩⟩, ?flush, live_next hup fun s => rejoinNi s n, fun d v => ?route⟩
    · exact (live_next hup fun s => niTimeout s n slot).trans (congrArg _ (niTimeout_free h))
    · exact (live_next hup fun s => niTimeout s n slot).trans (congrArg _ (niTimeout_early h ht))
    case expires =>
      refine ⟨timeoutResponse ni n slot o, leBytes 512 (Config.fresh 4096 s.free).toNat, rfl, rfl, rfl, rfl, rfl, rfl, length_leBytes .., ?_⟩
      intro loose
      refine (live_next hup fun s => niTimeout s n slot).trans (congrArg _ ((niTimeout_expires h ho ht).trans ?_))
      refine congrArg (fun t => onNi t n _) ?_
      by_cases hk : o.kind = 1
      · by_cases hm : mappedRow o.addr.toNat = true
        · rw [if_pos hk, if_pos ⟨hk, hm⟩]; exact looseRow_mapped hm
        · rw [if_pos hk, if_neg fun hh => hm hh.2]; exact if_neg hm
      · rw [if_neg hk, if_neg fun hh => hk hh.1]
    case flush =>
      intro reqs hans hsup
      exact (live_next hup fun s => flushNi s n).trans (congrArg _ (flushNi_eq hsup hans))
    case route =>
      intro bad take
      refine ⟨fun hv hb => ?_, fun h => ?_, fun h => ?_, fun z h => ⟨fun ho => ?_, fun ho => ?_⟩⟩
      · exact (live_next hup fun s => routeWrite s n d v).trans (congrArg _ (routeWrite_refused hv ((routeBad_iff v).mpr hb)))
      · have hw := routeWrite_taken (s := s) (n := n) (d := d) fun hh => h ⟨hh.1, (routeBad_iff v).mp hh.2⟩
        refine ⟨fun ho => ?_, fun ho => ?_⟩
        · rw [(clearTo_false_iff ..).mpr ho] at hw
          exact (live_next hup fun s => routeWrite s n d v).trans (congrArg _ hw)
        · rw [(clearTo_iff ..).mpr ho] at hw
          have hni : (onNi s n fun x => { x with routePend := vmod x.routePend d fun _ => some (routeMask v) }).net.nis[n.val] =
              { s.net.nis[n.val] with routePend := vmod (s.net.nis[n.val]).routePend d fun _ => some (routeMask v) } := vmod_self ..
          have ht := applyRoute_takes (s := onNi s n fun x => { x with routePend := vmod x.routePend d fun _ => some (routeMask v) }) (n := n) (d := d)
            (v := routeMask v) (by rw [hni]; exact vmod_self ..) (by rw [hni]; exact ho)
          exact (live_next hup fun s => routeWrite s n d v).trans (congrArg _ (hw.trans (ht.trans (routeTaken_pending ..))))
      · exact (live_next hup fun s => applyRoute s n d).trans (congrArg _ (applyRoute_none h))
      · exact (live_next hup fun s => applyRoute s n d).trans (congrArg _ (applyRoute_waits h ho))
      · exact (live_next hup fun s => applyRoute s n d).trans (congrArg _ (applyRoute_takes h ho))

end Sys2Proof.Machine
end

section
open Sys2Proof.Laws
namespace Sys2Proof.Machine

/-! ### Transactions of the Tally tree (11 R272 to R274) -/

/-- With no BAR0 access waiting and nothing to grant the tree rests. -/
theorem serveTree_rests {s : State} (hp : s.net.posted = []) (hg : nextGrant s.net = none) (k : Nat) : serveTree k s = s := by
  cases k with
  | zero => rfl
  | succ k => simp only [serveTree, feedBar0, hp, hg]

theorem serveTree_grants {s : State} {m : Fin 3} {t : TreeTxn} (hp : s.net.posted = []) (hg : nextGrant s.net = some (m, t)) (k : Nat) :
    serveTree (k + 1) s = serveTree k (grantTxn (onNet s fun n => { n with treeNext := m + 1 }) m t) := by
  simp only [serveTree, feedBar0, hp, hg]

theorem nextGrant_idle {n : Net} (h : ∀ k : Fin 3, n.txns[k.val] = none) : nextGrant n = none := by
  have hnone : (n.txns.any fun t => (t.map (·.granted)).getD false) = false :=
    Vector.any_eq_false.mpr fun i hi => by rw [h ⟨i, hi⟩]; decide
  unfold nextGrant
  rw [hnone]
  simp only [h, Option.map_none, List.findSome?_cons, List.findSome?_nil, Bool.false_eq_true, if_false]

theorem nextGrant_busy {n : Net} {m : Fin 3} {t : TreeTxn} (h : n.txns[m.val] = some t) (hg : t.granted = true) : nextGrant n = none := by
  have hany : (n.txns.any fun t => (t.map (·.granted)).getD false) = true :=
    Vector.any_eq_true.mpr ⟨m.val, m.isLt, by rw [h]; exact hg⟩
  unfold nextGrant
  rw [hany]
  rfl

/-- What a search finds when every hit is the same. -/
theorem findSome_only {α β : Type} {f : α → Option β} {l : List α} {b : β} (hex : ∃ a ∈ l, f a = some b) (h : ∀ a, f a = some b ∨ f a = none) :
    l.findSome? f = some b := by
  obtain ⟨a, ha, hab⟩ := hex
  cases hl : l.findSome? f with
  | none => rw [List.findSome?_eq_none_iff.mp hl a ha] at hab; cases hab
  | some c =>
    obtain ⟨k, _, hk⟩ := List.exists_of_findSome?_eq_some hl
    rcases h k with h | h
    · exact hk.symm.trans h
    · rw [h] at hk; cases hk

/-- The only transaction that waits is granted. -/
theorem nextGrant_alone {n : Net} {m : Fin 3} {t : TreeTxn} (h : n.txns[m.val] = some t) (hg : t.granted = false)
    (ho : ∀ k : Fin 3, k ≠ m → n.txns[k.val] = none) : nextGrant n = some (m, t) := by
  have hnone : (n.txns.any fun t => (t.map (·.granted)).getD false) = false := by
    refine Vector.any_eq_false.mpr fun i hi => ?_
    by_cases he : (⟨i, hi⟩ : Fin 3) = m
    · subst he
      rw [show n.txns[i] = some t from h]
      exact (Bool.eq_false_iff.mp hg)
    · rw [ho ⟨i, hi⟩ he]; decide
  have hround : ∀ k m : Fin 3, m ∈ [k, k + 1, k + 2] := by decide
  unfold nextGrant
  rw [hnone]
  refine findSome_only ⟨m, hround _ _, by rw [h]; rfl⟩ fun k => ?_
  by_cases he : k = m
  · subst he; exact .inl (by rw [h]; rfl)
  · exact .inr (by rw [ho k he]; rfl)

/-! A transaction alone. -/

/-- No other transaction and no BAR0 access waits. -/
def TreeAlone (s : State) (m : Fin 3) : Prop := (∀ k : Fin 3, k ≠ m → s.net.txns[k.val] = none) ∧ s.net.posted = []

/-- A transaction of a master has ended with an answer. -/
def txnEnded (s : State) (m : Fin 3) (err : Bool) (data : Word) : State :=
  onNet s fun n => { n with txns := vmod n.txns m fun _ => none, answers := vmod n.answers m fun _ => { err := err, data := data } }

section
variable {s : State} {m : Fin 3}

theorem endTxn_ended {t t' : TreeTxn} (h : s.net.txns[m.val] = some t') (hh : t.host = false) (err : Bool) (data : Word) :
    endTxn s m t err data = txnEnded s m err data := by
  simp only [endTxn, h, hh, Option.isNone_some, Bool.false_and, Bool.false_eq_true, if_false]
  rfl

/-- An ended transaction that was alone leaves the tree at rest. -/
theorem serveTree_ended (ha : TreeAlone s m) (err : Bool) (data : Word) (k : Nat) : serveTree k (txnEnded s m err data) = txnEnded s m err data := by
  refine serveTree_rests (s := txnEnded s m err data) ha.2 (nextGrant_idle fun k => ?_) k
  by_cases hk : k = m
  · subst hk; exact vmod_self ..
  · exact (vmod_other _ _ _ _ _ fun e => hk (Fin.ext e)).trans (ha.1 k hk)

/-- A transaction sent and not yet granted. -/
def newTxn (addr : Word) (write : Bool) (v : Word) (prompt : Bool) : TreeTxn :=
  { addr := addr, write := write, data := v, prompt := prompt, granted := false, since := 0, acted := false, dead := false, host := false }

/-- The tree with a master's transaction about to be granted. -/
def granting (s : State) (m : Fin 3) (t : TreeTxn) : State :=
  onNet s fun n => { n with treeNext := m + 1, txns := vmod n.txns m fun _ => some t }

theorem granting_txn (t : TreeTxn) : (granting s m t).net.txns[m.val] = some t := vmod_self ..

theorem sendTxn_busy {master : TreeMaster} (addr : Word) (write : Bool) (v : Word) (prompt : Bool) (h : s.net.txns[(masterNo master).val] ≠ none) :
    sendTxn s master addr write v prompt = s :=
  if_pos (Option.isSome_iff_ne_none.mpr h)

theorem sendTxn_grants {master : TreeMaster} (addr : Word) (write : Bool) (v : Word) (prompt : Bool) (ha : TreeAlone s (masterNo master))
    (h : s.net.txns[(masterNo master).val] = none) :
    sendTxn s master addr write v prompt =
      serveTree 3 (grantTxn (granting s (masterNo master) (newTxn addr write v prompt)) (masterNo master) (newTxn addr write v prompt)) := by
  unfold sendTxn
  refine (if_neg (by rw [h]; decide)).trans ?_
  obtain ⟨u, hu⟩ : ∃ u, u = onNet s fun n => { n with txns := vmod n.txns (masterNo master) fun _ => some (newTxn addr write v prompt) } := ⟨_, rfl⟩
  have hposted : u.net.posted = [] := by rw [hu]; exact ha.2
  have hg : nextGrant u.net = some (masterNo master, newTxn addr write v prompt) := by
    refine nextGrant_alone (by rw [hu]; exact vmod_self ..) rfl fun k hk => ?_
    rw [hu]
    exact (vmod_other _ _ _ _ _ fun e => hk (Fin.ext e)).trans (ha.1 k hk)
  have hserve : serveAll u = serveTree 3 (grantTxn (onNet u fun n => { n with treeNext := masterNo master + 1 }) (masterNo master) (newTxn addr write v prompt)) := by
    unfold serveAll
    rw [hposted]
    exact serveTree_grants hposted hg 3
  rw [hu] at hserve
  exact hserve

/-- A granted transaction waits for its leaf. -/
theorem serveTree_granted {t : TreeTxn} (hp : s.net.posted = []) (h : s.net.txns[m.val] = some t) (hg : t.granted = true) (k : Nat) :
    serveTree k s = s := serveTree_rests hp (nextGrant_busy h hg) k
end

section
variable {s : State} {m : Fin 3} {t t' : TreeTxn} (ht : s.net.txns[m.val] = some t')
include ht

theorem grantTxn_unmapped (hb : blockOf t.addr = none) (hh : t.host = false) :
    grantTxn s m t = txnEnded (decodeErr s) m true (if t.write then 0 else 0xFFFFFFFF) := by
  refine (if_pos (by rw [hb]; rfl)).trans (endTxn_ended (s := decodeErr s) (t' := t') ht hh _ _)

/-- A transaction that its leaf has taken, or ignores (19 R441). -/
def TreeTxn.forwarded (t : TreeTxn) (s : State) (takes : Bool) : TreeTxn := { t with granted := true, since := now s, dead := !takes }

theorem grantTxn_forwards {b : Block × Nat} {takes : Bool} {u : State} (hb : blockOf t.addr = some b) (hp : portTakes s t = (takes, u))
    (hl : (takes && t.prompt) = false) (hnow : now u = now s) (hnet : u.net = s.net) :
    grantTxn s m t = onNet u fun n => { n with txns := vmod n.txns m fun _ => some (t.forwarded s takes) } := by
  have hg : grantTxn s m t = onNet u fun n => { n with txns := vmod n.txns m fun x => x.map fun _ => t.forwarded u takes } := by
    unfold grantTxn
    refine (if_neg (by rw [hb]; exact Bool.false_ne_true)).trans ?_
    rw [hp]
    simp only [hl, Bool.false_eq_true, if_false]
    rfl
  have hsince : t.forwarded u takes = t.forwarded s takes := by unfold TreeTxn.forwarded; rw [hnow]
  rw [hg, hsince]
  unfold onNet
  dsimp only
  rw [vmod_congr u.net.txns m (g := fun _ => some (t.forwarded s takes)) (by rw [hnet, ht]; rfl)]
end

section
variable {s : State} {t : TreeTxn} {off : Nat}

theorem portTakes_other {b : Block} (hb : blockOf t.addr = some (b, off)) (hm : ∀ k, b ≠ .mill k) : portTakes s t = (true, s) := by
  unfold portTakes
  rw [hb]
  cases b with
  | mill k => exact absurd rfl (hm k)
  | _ => rfl

theorem portFree_other (h : ∀ k off, blockOf t.addr ≠ some (.mill k, off)) : portFree s t = s := by
  unfold portFree
  split
  · next k off hb => exact absurd hb (h k off)
  · rfl

variable {k : MillId} (hb : blockOf t.addr = some (.mill k, off))
include hb

theorem portTakes_busy (h : (s.mills[k.val]).mb.tallyBusy = true) :
    portTakes s t = (false, onMill s k fun x => { x with mb := { x.mb with protoErr := bump x.mb.protoErr } }) := by
  simp only [portTakes, hb, h, if_true]

theorem portTakes_free (h : (s.mills[k.val]).mb.tallyBusy = false) :
    portTakes s t = (true, onMill s k fun x => { x with mb := { x.mb with tallyBusy := true } }) := by
  simp only [portTakes, hb, h, Bool.false_eq_true, if_false]
end

section
variable {s : State} {master : TreeMaster} (ha : TreeAlone s (masterNo master)) (h : s.net.txns[(masterNo master).val] = none)
  {addr v : Word} {write prompt : Bool}
include ha h

theorem sendTxn_unmapped (hb : blockOf addr = none) : sendTxn s master addr write v prompt =
    txnEnded (decodeErr (onNet s fun n => { n with treeNext := masterNo master + 1 })) (masterNo master) true (if write then 0 else 0xFFFFFFFF) := by
  rw [sendTxn_grants addr write v prompt ha h, grantTxn_unmapped (granting_txn _) hb rfl]
  have halone : TreeAlone (decodeErr (granting s (masterNo master) (newTxn addr write v prompt))) (masterNo master) :=
    ⟨fun k hk => (vmod_other _ _ _ _ _ fun e => hk (Fin.ext e)).trans (ha.1 k hk), ha.2⟩
  rw [serveTree_ended halone]
  unfold txnEnded decodeErr granting onNet
  dsimp only
  rw [vmod_vmod]
  rfl

theorem sendTxn_forwards {b : Block × Nat} {takes : Bool} {u : State} (hb : blockOf addr = some b)
    (hp : portTakes (granting s (masterNo master) (newTxn addr write v prompt)) (newTxn addr write v prompt) = (takes, u))
    (hl : (takes && prompt) = false) (hnow : now u = now s) (hnet : u.net = (granting s (masterNo master) (newTxn addr write v prompt)).net) :
    sendTxn s master addr write v prompt =
      { u with net := { s.net with
          treeNext := masterNo master + 1
          txns := vmod s.net.txns (masterNo master) fun _ => some ((newTxn addr write v prompt).forwarded s takes) } } := by
  rw [sendTxn_grants addr write v prompt ha h, grantTxn_forwards (granting_txn _) hb hp hl hnow hnet]
  rw [serveTree_granted (s := onNet u fun n => { n with txns := vmod n.txns (masterNo master) fun _ => some ((newTxn addr write v prompt).forwarded (granting s (masterNo master) (newTxn addr write v prompt)) takes) })
    (m := masterNo master) (show u.net.posted = [] by rw [hnet]; exact ha.2) (vmod_self ..) rfl]
  unfold onNet
  rw [hnet]
  unfold granting onNet
  dsimp only
  rw [vmod_vmod]
  rfl
end

/-! Timeouts and answers. -/

section
variable {s : State} {m : Fin 3}

theorem txnTimeout_none (h : s.net.txns[m.val] = none) : txnTimeout s m = s := by simp only [txnTimeout, h]
theorem txnAnswer_none (h : s.net.txns[m.val] = none) : txnAnswer s m = s := by simp only [txnAnswer, h]

theorem txnLate_none (h : ∀ p ∈ s.net.abandoned, p.1 ≠ m) : txnLate s m = s := by
  have hf : s.net.abandoned.find? (fun p => p.1 = m) = none := List.find?_eq_none.mpr fun p hp => by
    rw [decide_eq_true_eq]; exact h p hp
  simp only [txnLate, hf]

theorem txnLate_discards {p : Fin 3 × TreeTxn} (h : s.net.abandoned.find? (fun p => p.1 = m) = some p) (ha : p.2.acted = true)
    (hb : ∀ k off, blockOf p.2.addr ≠ some (.mill k, off)) :
    txnLate s m = onNet s fun n => { n with abandoned := n.abandoned.erase p, treeLate := bump n.treeLate } := by
  simp only [txnLate, h, answered, ha, if_true, portFree_other hb]
  rfl

variable {t : TreeTxn} (h : s.net.txns[m.val] = some t)
include h

theorem txnTimeout_early (ht : t.granted = false ∨ (now s).toNat / 1000 ≤ t.since.toNat / 1000 + clampNat 10 100000 s.net.treeTimeoutUs.toNat) :
    txnTimeout s m = s := by
  have hw : (t.granted && usElapsed s t.since (treeTimeout s.net)) = false := by
    rw [Bool.eq_false_iff, ne_eq, Bool.and_eq_true, usElapsed_iff]
    rintro ⟨hg, he⟩
    rcases ht with ht | ht
    · rw [ht] at hg; cases hg
    · exact absurd he (Nat.not_le.mpr (Nat.lt_succ_of_le ht))
  simp only [txnTimeout, h, hw, Bool.false_eq_true, if_false]

/-- The tree's record of a timeout. -/
def timeoutLogged (s : State) (m : Fin 3) (t : TreeTxn) : State :=
  onNet s fun n =>
    { n with
      treeTimeouts := bump n.treeTimeouts
      treeLog := true
      treeMaster := if n.treeLog then n.treeMaster else BitVec.ofNat 2 m.val
      treeWrite := if n.treeLog then n.treeWrite else t.write
      treeErrAddr := if n.treeLog then n.treeErrAddr else t.addr
      abandoned := if t.dead then n.abandoned else n.abandoned ++ [(m, t)] }

theorem txnTimeout_expires (ha : TreeAlone s m) (hg : t.granted = true)
    (ht : t.since.toNat / 1000 + clampNat 10 100000 s.net.treeTimeoutUs.toNat < (now s).toNat / 1000) (hh : t.host = false) :
    txnTimeout s m = txnEnded (timeoutLogged s m t) m true 0xFFFFFFFF := by
  have hw : (t.granted && usElapsed s t.since (treeTimeout s.net)) = true := by
    rw [hg, Bool.true_and]; exact (usElapsed_iff ..).mpr ht
  have hserve : txnTimeout s m = serveAll (endTxn (timeoutLogged s m t) m t true 0xFFFFFFFF) := by
    simp only [txnTimeout, h, hw, if_true]
    rfl
  rw [hserve, endTxn_ended (s := timeoutLogged s m t) (t' := t) h hh]
  exact serveTree_ended (s := timeoutLogged s m t) ha _ _ _

theorem txnAnswer_none_yet (hg : t.granted = false ∨ t.dead = true) : txnAnswer s m = s := by
  have hw : (t.granted && !t.dead) = false := by
    rcases hg with h | h
    · rw [h]; rfl
    · rw [h]; exact Bool.and_false _
  simp only [txnAnswer, h, hw, Bool.false_eq_true, if_false]

theorem txnAnswer_ends (ha : TreeAlone s m) (hg : t.granted = true) (hd : t.dead = false) (hact : t.acted = true) (hh : t.host = false)
    (hb : ∀ k off, blockOf t.addr ≠ some (.mill k, off)) : txnAnswer s m = txnEnded s m false (if t.write then 0 else t.data) := by
  have hserve : txnAnswer s m = serveAll (endTxn s m t false (if t.write then 0 else t.data)) := by
    simp only [txnAnswer, h, hg, hd, answered, hact, portFree_other hb, Bool.not_false, Bool.and_self, if_true]
  rw [hserve, endTxn_ended h hh]
  exact serveTree_ended ha _ _ _
end

/-- Settles O41: transactions are granted, answered and timed out by the rules above. -/
theorem treeTransactionsAreGrantedAndAnswered : Obligations.TreeTransactionsAreGrantedAndAnswered := by
  unfold Obligations.TreeTransactionsAreGrantedAndAnswered
  intro s master hup hquiet m n alone ended
  have hanswer {t : State} (h : txnAnswer s m = t) (hq : t.granary.errPend = false) : exec (.treeAnswer master false) s = .next t :=
    (liveRows_next hup fun s => txnAnswer s m).trans (next_of_quiet h hq)
  have hlate {t : State} (h : txnLate s m = t) (hq : t.granary.errPend = false) : exec (.treeAnswer master true) s = .next t :=
    (liveRows_next hup fun s => txnLate s m).trans (next_of_quiet h hq)
  have htimeout {t : State} (h : txnTimeout s m = t) (hq : t.granary.errPend = false) : exec (.treeTimeout master) s = .next t :=
    (liveRows_next hup fun s => txnTimeout s m).trans (next_of_quiet h hq)
  refine ⟨fun c addr v write prompt hc hv => ?sends, fun h => ⟨htimeout (txnTimeout_none h) hquiet, hanswer (txnAnswer_none h) hquiet⟩,
    fun t h => ⟨fun ht => htimeout (txnTimeout_early h ht) hquiet, fun ha hg ht hh => htimeout (txnTimeout_expires h ha hg ht hh) hquiet,
      fun hg => hanswer (txnAnswer_none_yet h hg) hquiet, fun ha hg hd hact hh hb => hanswer (txnAnswer_ends h ha hg hd hact hh hb) hquiet⟩,
    fun h => hlate (txnLate_none h) hquiet, fun p h ha hb => hlate (txnLate_discards h ha hb) hquiet⟩
  case sends =>
    intro t u
    have hexec {x : State} (h : sendTxn s master addr write v prompt = x) (hq : x.granary.errPend = false) : exec c s = .next x := by
      subst hc
      cases write with
      | true => exact (liveRows_next hup fun s => sendTxn s master addr true v prompt).trans (next_of_quiet h hq)
      | false =>
        rw [hv rfl] at h
        exact (liveRows_next hup fun s => sendTxn s master addr false 0 prompt).trans (next_of_quiet h hq)
    refine ⟨fun h => hexec (sendTxn_busy _ _ _ _ h) hquiet, fun ha h => ⟨fun hb => ?unmapped, fun b off hb hp hm => ?other, fun k off hb => ⟨fun hbusy => ?busy, fun hfree hp => ?free⟩⟩⟩
    case unmapped =>
      exact hexec (sendTxn_unmapped ha h hb) hquiet
    case other =>
      subst hp
      exact hexec (sendTxn_forwards ha h hb (portTakes_other hb hm) rfl rfl rfl) hquiet
    case busy =>
      exact hexec (sendTxn_forwards ha h hb (portTakes_busy (s := granting s m (newTxn addr write v prompt)) hb hbusy) rfl rfl rfl) hquiet
    case free =>
      subst hp
      exact hexec (sendTxn_forwards ha h hb (portTakes_free (s := granting s m (newTxn addr write v false)) hb hfree) rfl rfl rfl) hquiet

end Sys2Proof.Machine
end

section
open Sys2Proof.Laws
namespace Sys2Proof.Machine

/-! ### Flume ports: training, recovery and lane swaps (12 R277 to R287, R300) -/

/-- Nothing but the Flume ports and the packets sent may have changed, and the port named has not. -/
structure PortKept (p : FlumeId) (s u : State) : Prop where
  rest : u = { s with flume := { s.flume with ports := u.flume.ports }, net := { s.net with sent := u.net.sent } }
  port : u.flume.ports[p.val] = s.flume.ports[p.val]

theorem PortKept.refl (p : FlumeId) (s : State) : PortKept p s s := ⟨rfl, rfl⟩

theorem PortKept.trans {p : FlumeId} {s t u : State} (h : PortKept p s t) (k : PortKept p t u) : PortKept p s u where
  rest := by rw [k.rest, h.rest]
  port := k.port.trans h.port

/-- A port takes a packet at its egress only while it is ACTIVE or recovers. -/
theorem toEgress_kept {p : FlumeId} {s : State} (ha : (s.flume.ports[p.val]).state ≠ .active) (hr : (s.flume.ports[p.val]).state ≠ .recover)
    (q : FlumeId) (x : FlumePacket) : PortKept p s (toEgress s q x) := by
  refine ⟨rfl, ?_⟩
  by_cases h : p = q
  · subst h
    refine (vmod_self ..).trans (if_neg ?_)
    rw [Bool.or_eq_true, decide_eq_true_eq, decide_eq_true_eq, not_or]
    exact ⟨ha, hr⟩
  · exact vmod_other _ _ _ _ _ fun e => h (Fin.ext e)

theorem linkDown_kept {p : FlumeId} {s : State} (ha : (s.flume.ports[p.val]).state ≠ .active) (hr : (s.flume.ports[p.val]).state ≠ .recover)
    (x : FlumePacket) : PortKept p s (linkDown p s x) := by
  unfold linkDown
  split
  · exact .refl p s
  · split
    · exact ⟨rfl, rfl⟩
    · unfold answerBack
      split
      · exact .refl p s
      · exact toEgress_kept ha hr _ _

theorem linkDowns_kept {p : FlumeId} (l : List FlumePacket) : ∀ {s : State}, (s.flume.ports[p.val]).state ≠ .active →
    (s.flume.ports[p.val]).state ≠ .recover → PortKept p s (l.foldl (linkDown p) s) := by
  induction l with
  | nil => exact fun _ _ => .refl p _
  | cons x l ih =>
    intro s ha hr
    have h := linkDown_kept ha hr x
    exact h.trans (ih (by rw [h.port]; exact ha) (by rw [h.port]; exact hr))

section
variable {s : State} {p : FlumeId}

theorem onPort_port (f : FlumePort → FlumePort) : (onPort s p f).flume.ports[p.val] = f s.flume.ports[p.val] := vmod_self ..

/-- A port that was in no link goes down alone. -/
theorem portDown_training (st : TrainState) (fail : BitVec 4) (ha : (s.flume.ports[p.val]).state ≠ .active) (hr : (s.flume.ports[p.val]).state ≠ .recover) :
    portDown s p st fail = onPort s p fun f => { f with state := st, fail := fail, downAt := now s } := by
  refine if_neg ?_
  rw [Bool.or_eq_true, decide_eq_true_eq, decide_eq_true_eq, not_or]
  exact ⟨ha, hr⟩

/-- A port that has left its link for good. -/
def FlumePort.unlinked (f : FlumePort) (st : TrainState) (fail : BitVec 4) (t : Word64) : FlumePort :=
  { f.count 5 with
    state := st, fail := fail, downAt := t, retry := [], egress := .replicate 5 [], headSent := .replicate 5 0,
    waits := .replicate 5 0, routed := [], swap := none, nakSent := false }

/-- A port that leaves its link keeps no packet (R300). -/
theorem portDown_linked {st : TrainState} (fail : BitVec 4) (h : (s.flume.ports[p.val]).state = .active ∨ (s.flume.ports[p.val]).state = .recover)
    (ha : st ≠ .active) (hr : st ≠ .recover) :
    portDown s p st fail = { s with
        flume := { s.flume with ports := (portDown s p st fail).flume.ports }, net := { s.net with sent := (portDown s p st fail).net.sent } } ∧
      (portDown s p st fail).flume.ports[p.val] = (s.flume.ports[p.val]).unlinked st fail (now s) := by
  have hl : ((s.flume.ports[p.val]).state = .active || (s.flume.ports[p.val]).state = .recover) = true := by
    rw [Bool.or_eq_true, decide_eq_true_eq, decide_eq_true_eq]; exact h
  obtain ⟨l, hd⟩ : ∃ l : List FlumePacket, portDown s p st fail = l.foldl (linkDown p) (onPort s p fun f => f.unlinked st fail (now s)) :=
    ⟨_, if_pos hl⟩
  have hport : (onPort s p fun f => f.unlinked st fail (now s)).flume.ports[p.val] = (s.flume.ports[p.val]).unlinked st fail (now s) := onPort_port _
  obtain ⟨hrest, hkept⟩ := linkDowns_kept l (p := p) (s := onPort s p fun f => f.unlinked st fail (now s)) (by rw [hport]; exact ha) (by rw [hport]; exact hr)
  rw [← hd] at hrest hkept
  exact ⟨hrest, hkept.trans hport⟩
end

/-! The commands of a port. -/

/-- What taking a port down leads to, for a command that acts on the port as it is then. -/
def Downs (s : State) (p : FlumeId) (c : Instr) (g : FlumePort) (st : TrainState) (fail : BitVec 4) : Prop :=
  (g.state ≠ .active → g.state ≠ .recover → exec c s = .next (onPort s p fun _ => { g with state := st, fail := fail, downAt := now s })) ∧
  (g.state = .active ∨ g.state = .recover → ∃ t, exec c s = .next t ∧
    t = { s with flume := { s.flume with ports := t.flume.ports }, net := { s.net with sent := t.net.sent } } ∧
    t.flume.ports[p.val] = g.unlinked st fail (now s))

theorem downs_of_portDown {s : State} {p : FlumeId} {c : Instr} {g : FlumePort} {st : TrainState} {fail : BitVec 4} (ha : st ≠ .active) (hr : st ≠ .recover)
    (hc : ∀ t, portDown (onPort s p fun _ => g) p st fail = t → t.granary = s.granary → exec c s = .next t) : Downs s p c g st fail := by
  have hport : (onPort s p fun _ => g).flume.ports[p.val] = g := onPort_port _
  refine ⟨fun h1 h2 => hc _ ?_ rfl, fun h => ?_⟩
  · exact (portDown_training st fail (by rw [hport]; exact h1) (by rw [hport]; exact h2)).trans (onPort_onPort ..)
  · obtain ⟨hrest, hdown⟩ := portDown_linked (s := onPort s p fun _ => g) fail (by rw [hport]; exact h) ha hr
    rw [hport] at hdown
    exact ⟨_, hc _ rfl (by rw [hrest]; rfl), hrest, hdown⟩

section
variable {s : State} {p : FlumeId}

theorem portCtl_enables {v : Word} (hv : bitOf v 31 = true) (he : (s.flume.ports[p.val]).en = false) :
    portCtl s p v = onPort s p fun f => { f with
      ctl := v &&& 0xFF1FFFFF, attempts112 := 0, state := .detect, fail := 0, widthNow := false
      rateNow := decide (({ f with ctl := v &&& 0xFF1FFFFF } : FlumePort).rate = 1) } := by
  unfold portCtl
  refine (if_pos (by rw [hv, he]; rfl)).trans ((onPort_onPort ..).trans (onPort_congr s p ?_))
  have hnone (b : Bool) : (b || decide (({ s.flume.ports[p.val] with ctl := v &&& 0xFF1FFFFF, attempts112 := 0 } : FlumePort).rate = 2) && decide (2 ≤ 0)) = b := by
    rw [decide_eq_false (by decide : ¬ 2 ≤ 0), Bool.and_false, Bool.or_false]
  exact congrArg (fun b => { s.flume.ports[p.val] with
    ctl := v &&& 0xFF1FFFFF, attempts112 := 0, state := .detect, fail := 0, widthNow := false, rateNow := b }) (hnone _)

theorem portCtl_disables {v : Word} (hv : bitOf v 31 = false) (he : (s.flume.ports[p.val]).en = true) :
    portCtl s p v = portDown (onPort s p fun f => { f with ctl := v &&& 0xFF1FFFFF }.control 4) p .off 0 := by
  unfold portCtl
  refine (if_neg (by rw [hv]; exact Bool.false_ne_true)).trans ((if_pos (by rw [hv, he]; rfl)).trans ?_)
  exact congrArg (portDown · p .off 0) (onPort_onPort ..)

theorem portCtl_same {v : Word} (hv : bitOf v 31 = (s.flume.ports[p.val]).en) :
    portCtl s p v = if bitOf v 23 && ({ s.flume.ports[p.val] with ctl := v &&& 0xFF1FFFFF } : FlumePort).canSwap then
      beginSwap (onPort s p fun f => { f with ctl := v &&& 0xFF1FFFFF }) p (fin 16 (bitsOf v 20 16)) false
      else onPort s p fun f => { f with ctl := v &&& 0xFF1FFFFF } := by
  have hport : (onPort s p fun f => { f with ctl := v &&& 0xFF1FFFFF }).flume.ports[p.val] = { s.flume.ports[p.val] with ctl := v &&& 0xFF1FFFFF } :=
    onPort_port _
  rw [← hport]
  unfold portCtl
  refine (if_neg ?_).trans (if_neg ?_)
  · rw [hv, Bool.and_not_self]; decide
  · rw [hv, Bool.not_and_self]; decide

theorem train_next {at_ : TrainState} {f : FlumePort → FlumePort} (h : (s.flume.ports[p.val]).state = at_) : train s p at_ f = onPort s p f :=
  onPort_congr s p (if_pos h)

theorem train_same {at_ : TrainState} {f : FlumePort → FlumePort} (h : (s.flume.ports[p.val]).state ≠ at_) : train s p at_ f = s :=
  onPort_same s p (if_neg h)

/-- A port with the node and port its peer has named. -/
def FlumePort.peered (f : FlumePort) (node : NodeId) (port : Fin 8) : FlumePort :=
  { f with peerNode := BitVec.ofNat 5 node.val, peerPort := BitVec.ofNat 3 port.val }

section
variable {group : BitVec 16} {node : NodeId} {port : Fin 8}

theorem paramDone_other (h : (s.flume.ports[p.val]).state ≠ .param) : paramDone s p group node port = s := if_pos h

variable (h : (s.flume.ports[p.val]).state = .param)
include h

theorem paramDone_group (hg : group ≠ s.flume.groupId) :
    paramDone s p group node port = portDown (onPort s p fun f => f.peered node port) p .down failGroup :=
  (if_neg (not_not_intro h)).trans (if_pos hg)

theorem paramDone_node (hg : group = s.flume.groupId) (hn : node = s.flume.nodeId) :
    paramDone s p group node port = portDown (onPort s p fun f => f.peered node port) p .down failNode :=
  (if_neg (not_not_intro h)).trans ((if_neg (not_not_intro hg)).trans (if_pos hn))

theorem paramDone_active (hg : group = s.flume.groupId) (hn : node ≠ s.flume.nodeId) :
    paramDone s p group node port = onPort s p fun f => { f.peered node port with
      state := .active, fail := 0, attempts112 := 0, credits := #v[64, 64, 32, 32, 8], crSeen := .replicate 5 0,
      freed := .replicate 5 0, txSeq := 0, rxNext := 0, retry := [], nakSent := false, spareUsed := false, spareFor := 0, arrived := [] } :=
  (if_neg (not_not_intro h)).trans ((if_neg (not_not_intro hg)).trans ((if_neg hn).trans (onPort_onPort ..)))
end
theorem trainExpired_training (h : (s.flume.ports[p.val]).state = .adapt ∨ (s.flume.ports[p.val]).state = .align ∨ (s.flume.ports[p.val]).state = .param) :
    trainExpired s p = portDown (onPort s p fun f => if f.rateNow then f else { f with attempts112 := f.attempts112 + 1 }) p .down failTrain := by
  rcases h with h | h | h <;> simp only [trainExpired, h]

theorem trainExpired_recover (h : (s.flume.ports[p.val]).state = .recover) : trainExpired s p = portDown s p .down failRecover := by
  simp only [trainExpired, h]

theorem trainExpired_still (h : (s.flume.ports[p.val]).state = .off ∨ (s.flume.ports[p.val]).state = .detect ∨
    (s.flume.ports[p.val]).state = .active ∨ (s.flume.ports[p.val]).state = .down) : trainExpired s p = s := by
  rcases h with h | h | h | h <;> simp only [trainExpired, h]

/-- A port trains again (R278). -/
def FlumePort.again (f : FlumePort) (t : Word64) : Prop :=
  f.state = .down ∧ f.en = true ∧ f.autoRetrain = true ∧ f.fail ≠ failGroup ∧ f.fail ≠ failNode ∧ f.downAt.toNat + 1000000 ≤ t.toNat

theorem again_iff : ((s.flume.ports[p.val]).state = .down && (s.flume.ports[p.val]).en && (s.flume.ports[p.val]).autoRetrain &&
    (s.flume.ports[p.val]).fail ≠ failGroup && (s.flume.ports[p.val]).fail ≠ failNode && elapsed s (s.flume.ports[p.val]).downAt 1000000) = true ↔
    (s.flume.ports[p.val]).again (now s) := by
  unfold FlumePort.again
  simp only [Bool.and_eq_true, decide_eq_true_eq, elapsed_iff, and_assoc]

theorem retrain_again (h : (s.flume.ports[p.val]).again (now s)) : retrain s p = onPort s p FlumePort.detect :=
  onPort_congr s p (if_pos (again_iff.mpr h))

theorem retrain_still (h : ¬ (s.flume.ports[p.val]).again (now s)) : retrain s p = s :=
  onPort_same s p (if_neg (mt again_iff.mp h))

section
variable {width8 ok : Bool}

theorem recovered_other (h : (s.flume.ports[p.val]).state ≠ .recover) : recovered s p width8 ok = s := if_pos h

variable (h : (s.flume.ports[p.val]).state = .recover)
include h

theorem recovered_active (ho : ok = true) (hw : width8 = false ∨ (s.flume.ports[p.val]).width8En = true) :
    recovered s p width8 ok = onPort s p fun f =>
      { f with
        state := .active, widthNow := width8, fail := 0, swap := none
        retry := f.retry.map fun (t : TxFlit) => { t with replays := 0 } }.pump := by
  refine (if_neg (not_not_intro h)).trans (if_pos ?_)
  rw [ho, Bool.true_and, Bool.or_eq_true, Bool.not_eq_true']
  exact hw

theorem recovered_down (ho : ok = false ∨ (width8 = true ∧ (s.flume.ports[p.val]).width8En = false)) :
    recovered s p width8 ok = portDown s p .down failRecover := by
  refine (if_neg (not_not_intro h)).trans (if_neg ?_)
  rw [Bool.and_eq_true, Bool.or_eq_true, Bool.not_eq_true']
  rintro ⟨hok, hw⟩
  rcases ho with ho | ⟨h8, he⟩
  · rw [ho] at hok; cases hok
  · rcases hw with hw | hw
    · rw [h8] at hw; cases hw
    · rw [he] at hw; cases hw
end

section
variable {lane : Fin 16} {imm : Bool} {seq : BitVec 16} {errors : Nat}

theorem swapAsked_other (h : (s.flume.ports[p.val]).state ≠ .active) : swapAsked s p lane imm seq = s := if_pos h

theorem swapAsked_active (h : (s.flume.ports[p.val]).state = .active) :
    swapAsked s p lane imm seq = onPort (abortPrbs s p) p fun f =>
      { f with swap := some { lane := lane, immediate := imm, acked := true, seq := seq, fromPeer := true } }.control 2 lane imm seq :=
  if_neg (not_not_intro h)

theorem swapAcked_taken {w : Swap} (h : (s.flume.ports[p.val]).swap = some w) (hl : w.lane = lane) (hi : w.immediate = imm) :
    swapAcked s p lane imm seq = onPort s p fun f => { f with swap := some { w with acked := true, seq := seq } } := by
  refine onPort_congr s p ?_
  rw [h]
  exact if_pos (by rw [hl, hi]; simp)

theorem swapAcked_other (h : ∀ w, (s.flume.ports[p.val]).swap = some w → ¬ (w.lane = lane ∧ w.immediate = imm)) : swapAcked s p lane imm seq = s := by
  refine onPort_same s p ?_
  split
  · next w hw =>
    refine if_neg ?_
    rw [Bool.and_eq_true, decide_eq_true_eq, decide_eq_true_eq]
    exact h w hw
  · rfl

/-- A port whose lane has counted symbol errors. -/
def FlumePort.symErrs (f : FlumePort) (lane : Fin 16) (errors : Nat) : FlumePort :=
  { f with lanes := f.lanes.map fun l => if l.logical.val = lane.val && !l.idle then { l with symErr := bump l.symErr errors } else l }

theorem swapThresh_eq : swapThresh s p lane errors =
    if bitsOf (s.flume.ports[p.val]).ctl 15 0 < errors && (s.flume.ports[p.val]).canSwap then beginSwap (onPort s p fun f => f.symErrs lane errors) p lane false
    else onPort s p fun f => f.symErrs lane errors := by
  have hport : (onPort s p fun f => f.symErrs lane errors).flume.ports[p.val] = (s.flume.ports[p.val]).symErrs lane errors := onPort_port _
  have hctl : (s.flume.ports[p.val]).ctl = ((onPort s p fun f => f.symErrs lane errors).flume.ports[p.val]).ctl := by rw [hport]; rfl
  have hswap : (s.flume.ports[p.val]).canSwap = ((onPort s p fun f => f.symErrs lane errors).flume.ports[p.val]).canSwap := by rw [hport]; rfl
  rw [hctl, hswap]
  rfl

theorem swapThresh_swaps (hlt : bitsOf (s.flume.ports[p.val]).ctl 15 0 < errors) (hc : (s.flume.ports[p.val]).canSwap = true) :
    swapThresh s p lane errors = beginSwap (onPort s p fun f => f.symErrs lane errors) p lane false :=
  swapThresh_eq.trans (if_pos (by rw [hc, decide_eq_true hlt]; rfl))

theorem swapThresh_counts (h : errors ≤ bitsOf (s.flume.ports[p.val]).ctl 15 0 ∨ (s.flume.ports[p.val]).canSwap = false) :
    swapThresh s p lane errors = onPort s p fun f => f.symErrs lane errors := by
  refine swapThresh_eq.trans (if_neg ?_)
  rw [Bool.and_eq_true, decide_eq_true_eq]
  rintro ⟨hlt, hc⟩
  rcases h with h | h
  · exact absurd hlt (Nat.not_lt.mpr h)
  · rw [h] at hc; cases hc

theorem swapNow_other (h : (s.flume.ports[p.val]).state ≠ .active) : swapNow s p lane = s := if_pos h

theorem swapNow_swaps (h : (s.flume.ports[p.val]).state = .active) (he : (s.flume.ports[p.val]).spareEn = true) (hu : (s.flume.ports[p.val]).spareUsed = false) :
    swapNow s p lane = beginSwap s p lane true :=
  (if_neg (not_not_intro h)).trans (if_pos (by rw [he, hu]; rfl))

theorem swapNow_recovers (h : (s.flume.ports[p.val]).state = .active) (hs : (s.flume.ports[p.val]).spareEn = false ∨ (s.flume.ports[p.val]).spareUsed = true) :
    swapNow s p lane = onPort s p fun f => { f with state := .recover, swap := none } := by
  refine (if_neg (not_not_intro h)).trans (if_neg ?_)
  rw [Bool.and_eq_true, Bool.not_eq_true']
  rintro ⟨he, hu⟩
  rcases hs with h | h
  · rw [h] at he; cases he
  · rw [h] at hu; cases hu
end

/-- A port whose swap of a lane has been switched. -/
def FlumePort.switched (f : FlumePort) (w : Swap) : FlumePort :=
  { f.count 4 with
    swap := none, spareUsed := true, spareFor := w.lane
    lanes := if w.fromPeer then f.lanes
      else f.lanes.map fun l =>
        if l.logical.val = w.lane.val then { l with idle := true }
        else if l.logical = 16 then { l with idle := false, logical := fin 17 w.lane.val } else l }

theorem swapDone_switches {w : Swap} (h : (s.flume.ports[p.val]).swap = some w) (ha : w.acked = true ∨ w.immediate = true) :
    swapDone s p = onPort s p fun f => f.switched w := by
  refine onPort_congr s p ?_
  rw [h]
  exact if_pos (by rw [Bool.or_eq_true]; exact ha)

theorem swapDone_waits (h : ∀ w, (s.flume.ports[p.val]).swap = some w → w.acked = false ∧ w.immediate = false) : swapDone s p = s := by
  refine onPort_same s p ?_
  split
  · next w hw =>
    obtain ⟨ha, hi⟩ := h w hw
    exact if_neg (by rw [ha, hi]; decide)
  · rfl
end

/-- Settles O42: training, recovery, loss and lane swaps of a port follow the rules above. -/
theorem portsTrainRecoverAndSwapLanes : Obligations.PortsTrainRecoverAndSwapLanes := by
  unfold Obligations.PortsTrainRecoverAndSwapLanes
  intro s p hup hquiet f put swaps downs
  have hdowns {c : Instr} {g : FlumePort} {st : TrainState} {fail : BitVec 4} {u : State} (hc : exec c s = .next u ∨ exec c s = .next (settleErr u))
      (hu : u = portDown (put g) p st fail) (ha : st ≠ .active) (hr : st ≠ .recover) : downs c g st fail := by
    refine downs_of_portDown ha hr fun t ht hg => ?_
    rw [hu, show portDown (put g) p st fail = t from ht] at hc
    exact hc.elim id fun h => h.trans (congrArg _ (settleErr_quiet (by rw [hg]; exact hquiet)))
  refine ⟨fun v c hc => ?ctl, ⟨fun h => ?_, fun h => ?_⟩, ⟨fun h => ?_, fun h => ?_⟩, fun map => ⟨fun h => ?_, fun h => ?_⟩, fun group node port => ?param,
    ⟨fun h => ?_, fun h => ?_, fun h => ?_⟩, ⟨fun h => ?_, fun h => ?_⟩, fun width8 ok => ⟨fun h => ?_, fun h ho hw => ?_, fun h ho => ?_⟩,
    ⟨fun h => ?_, fun h => ?_⟩, fun lane imm seq => ⟨fun h => ?_, fun h => ?_, fun w h hl hi => ?_, fun h => ?_⟩, fun lane errors => ?thresh,
    fun w h ha => ?_, fun h => ?_⟩
  case ctl =>
    intro g
    have hexec {t : State} (h : portCtl s p v = t) : exec c s = .next (settleErr t) := by
      subst h
      rcases hc with rfl | rfl | rfl <;> exact liveRows_next hup fun s => portCtl s p v
    have hquietly {t : State} (h : portCtl s p v = t) (hq : t.granary = s.granary) : exec c s = .next t :=
      (hexec h).trans (congrArg _ (settleErr_quiet (by rw [hq]; exact hquiet)))
    refine ⟨fun hv he => hquietly (portCtl_enables hv he) rfl, fun hv he => ?_, fun hv => ⟨fun h23 hcan => ?_, fun hno => ?_⟩⟩
    · exact hdowns (.inr (hexec (portCtl_disables hv he))) rfl (by decide) (by decide)
    · exact hexec ((portCtl_same hv).trans (if_pos (by rw [h23, Bool.true_and]; exact hcan)))
    · refine hquietly ((portCtl_same hv).trans (if_neg ?_)) rfl
      rw [Bool.and_eq_true]
      rintro ⟨h23, hcan⟩
      rcases hno with h | h
      · rw [h] at h23; cases h23
      · rw [show ({ s.flume.ports[p.val] with ctl := v &&& 0xFF1FFFFF } : FlumePort).canSwap = false from h] at hcan; cases hcan
  · exact (live_next hup fun s => train s p .detect fun f => { f with state := .adapt }).trans (congrArg _ (train_next h))
  · exact (live_next hup fun s => train s p .detect fun f => { f with state := .adapt }).trans (congrArg _ (train_same h))
  · exact (live_next hup fun s => train s p .adapt fun f => { f with state := .align }).trans (congrArg _ (train_next h))
  · exact (live_next hup fun s => train s p .adapt fun f => { f with state := .align }).trans (congrArg _ (train_same h))
  · exact (live_next hup fun s => train s p .align fun f =>
      { f with state := .param, lanes := laneMap f.lanes map }.control 3 0 false 0 false (some (s.flume.groupId, s.flume.nodeId, p))).trans
      (congrArg _ (train_next h))
  · exact (live_next hup fun s => train s p .align fun f =>
      { f with state := .param, lanes := laneMap f.lanes map }.control 3 0 false 0 false (some (s.flume.groupId, s.flume.nodeId, p))).trans
      (congrArg _ (train_same h))
  case param =>
    intro g
    have hexec {t : State} (h : paramDone s p group node port = t) : exec (.param p group node port) s = .next t :=
      (live_next hup fun s => paramDone s p group node port).trans (congrArg _ h)
    exact ⟨fun h => hexec (paramDone_other h), fun h hg => hdowns (.inl (hexec (paramDone_group h hg))) rfl (by decide) (by decide),
      fun h hg hn => hdowns (.inl (hexec (paramDone_node h hg hn))) rfl (by decide) (by decide), fun h hg hn => hexec (paramDone_active h hg hn)⟩
  · exact hdowns (.inl ((live_next hup fun s => trainExpired s p).trans (congrArg _ (trainExpired_training h)))) rfl (by decide) (by decide)
  · exact hdowns (.inl ((live_next hup fun s => trainExpired s p).trans (congrArg _ (trainExpired_recover h))))
      (congrArg (portDown · p .down failRecover) (onPort_same s p rfl).symm) (by decide) (by decide)
  · exact (live_next hup fun s => trainExpired s p).trans (congrArg _ (trainExpired_still h))
  · exact (live_next hup fun s => retrain s p).trans (congrArg _ (retrain_again h))
  · exact (live_next hup fun s => retrain s p).trans (congrArg _ (retrain_still h))
  · exact (live_next hup fun s => recovered s p width8 ok).trans (congrArg _ (recovered_other h))
  · exact (live_next hup fun s => recovered s p width8 ok).trans (congrArg _ (recovered_active h ho hw))
  · exact hdowns (.inl ((live_next hup fun s => recovered s p width8 ok).trans (congrArg _ (recovered_down h ho))))
      (congrArg (portDown · p .down failRecover) (onPort_same s p rfl).symm) (by decide) (by decide)
  · exact hdowns (.inl ((live_next hup fun s => if (s.flume.ports[p.val]).en then portDown s p .down failPeer else s).trans (congrArg _ (if_pos h))))
      (congrArg (portDown · p .down failPeer) (onPort_same s p rfl).symm) (by decide) (by decide)
  · exact (live_next hup fun s => if (s.flume.ports[p.val]).en then portDown s p .down failPeer else s).trans (congrArg _ (if_neg (by rw [h]; decide)))
  · exact (liveRows_next hup fun s => swapAsked s p lane imm seq).trans (next_of_quiet (swapAsked_other h) hquiet)
  · exact (liveRows_next hup fun s => swapAsked s p lane imm seq).trans (congrArg _ (congrArg settleErr (swapAsked_active h)))
  · exact (live_next hup fun s => swapAcked s p lane imm seq).trans (congrArg _ (swapAcked_taken h hl hi))
  · exact (live_next hup fun s => swapAcked s p lane imm seq).trans (congrArg _ (swapAcked_other h))
  case thresh =>
    intro g
    refine ⟨fun hlt hc => ?_, fun h => ?_, fun h => ?_, fun h he hu => ?_, fun h hs => ?_⟩
    · exact (liveRows_next hup fun s => swapThresh s p lane errors).trans (congrArg _ (congrArg settleErr (swapThresh_swaps hlt hc)))
    · exact (liveRows_next hup fun s => swapThresh s p lane errors).trans (next_of_quiet (swapThresh_counts h) hquiet)
    · exact (liveRows_next hup fun s => swapNow s p lane).trans (next_of_quiet (swapNow_other h) hquiet)
    · exact (liveRows_next hup fun s => swapNow s p lane).trans (congrArg _ (congrArg settleErr ((swapNow_swaps h he hu).trans
        (congrArg (beginSwap · p lane true) (onPort_same s p rfl).symm))))
    · exact (liveRows_next hup fun s => swapNow s p lane).trans (next_of_quiet (swapNow_recovers h hs) hquiet)
  · exact (live_next hup fun s => swapDone s p).trans (congrArg _ (swapDone_switches h ha))
  · exact (live_next hup fun s => swapDone s p).trans (congrArg _ (swapDone_waits h))

end Sys2Proof.Machine
end

section
open Sys2Proof.Laws
namespace Sys2Proof.Machine

/-! ### The ledger home: directory and store (13 R304, R307, R309) -/

theorem entry_line (l : Ledger) (k : LineId) : (l.entry k).line = k := by
  unfold Ledger.entry
  cases h : l.dir.find? (·.line = k) with
  | none => rfl
  | some e => exact of_decide_eq_true (List.find?_some (p := fun d : DirEntry => d.line = k) h : decide (e.line = k) = true)

theorem insertDir_filter {e : DirEntry} {p : DirEntry → Bool} (hp : p e = false) (l : List DirEntry) : (insertDir e l).filter p = l.filter p := by
  induction l with
  | nil => rw [insertDir, List.filter_cons_of_neg (by rw [hp]; decide)]
  | cons d l ih =>
    unfold insertDir
    split
    · rw [List.filter_cons_of_neg (by rw [hp]; decide)]
    · rw [List.filter_cons, ih, List.filter_cons]

theorem insertDir_find_other {e : DirEntry} {p : DirEntry → Bool} (hp : p e = false) (l : List DirEntry) : (insertDir e l).find? p = l.find? p := by
  rw [← List.head?_filter, ← List.head?_filter, insertDir_filter hp]

/-- The entry entered is the one of its line, when no other of that line is listed. -/
theorem insertDir_find_same {e : DirEntry} {p : DirEntry → Bool} (hp : p e = true) {l : List DirEntry} (hl : ∀ d ∈ l, p d = false) :
    (insertDir e l).find? p = some e := by
  induction l with
  | nil => rw [insertDir, List.find?_cons_of_pos hp]
  | cons d l ih =>
    unfold insertDir
    split
    · rw [List.find?_cons_of_pos hp]
    · rw [List.find?_cons_of_neg (by rw [hl d List.mem_cons_self]; decide)]
      exact ih fun d hd => hl d (List.mem_cons_of_mem _ hd)

/-- An entry that the directory does not list. -/
def DirEntry.plain (e : DirEntry) : Bool := e.state = .unowned && !e.lost

theorem plain_eq {e : DirEntry} (h : e.plain = true) : e = { line := e.line, state := .unowned, lost := false } := by
  obtain ⟨line, state, lost⟩ := e
  simp only [DirEntry.plain, Bool.and_eq_true, decide_eq_true_eq, Bool.not_eq_true'] at h
  obtain ⟨rfl, rfl⟩ := h
  rfl

theorem setEntry_dir (l : Ledger) (e : DirEntry) :
    (l.setEntry e).dir = if e.plain then l.dir.filter (·.line ≠ e.line) else insertDir e (l.dir.filter (·.line ≠ e.line)) := rfl

theorem entry_setEntry_same (l : Ledger) (e : DirEntry) : (l.setEntry e).entry e.line = e := by
  have hrest : ∀ d ∈ l.dir.filter (·.line ≠ e.line), decide (d.line = e.line) = false := fun d hd =>
    decide_eq_false (of_decide_eq_true (List.mem_filter.mp hd).2)
  unfold Ledger.entry
  rw [setEntry_dir]
  split
  · next h =>
    have hnone : (l.dir.filter (·.line ≠ e.line)).find? (·.line = e.line) = none :=
      List.find?_eq_none.mpr fun d hd => by rw [hrest d hd]; decide
    rw [hnone, Option.getD_none]
    exact (plain_eq h).symm
  · rw [insertDir_find_same (decide_eq_true rfl) hrest, Option.getD_some]

theorem entry_setEntry_other (l : Ledger) (e : DirEntry) {k : LineId} (hk : k ≠ e.line) : (l.setEntry e).entry k = l.entry k := by
  have hrest : (l.dir.filter (·.line ≠ e.line)).find? (·.line = k) = l.dir.find? (·.line = k) := by
    rw [List.find?_filter]
    congr 1
    funext d
    by_cases hd : d.line = k
    · simp [hd, hk]
    · simp [hd]
  unfold Ledger.entry
  rw [setEntry_dir]
  split
  · rw [hrest]
  · rw [insertDir_find_other (decide_eq_false (Ne.symm hk)), hrest]

/-- The later of two entries of a line stands. -/
theorem setEntry_setEntry (l : Ledger) {e f : DirEntry} (h : e.line = f.line) : (l.setEntry e).setEntry f = l.setEntry f := by
  have hrest : (l.setEntry e).dir.filter (·.line ≠ f.line) = l.dir.filter (·.line ≠ f.line) := by
    rw [setEntry_dir]
    split
    · rw [List.filter_filter, h]
      congr 1
      funext d
      rw [Bool.and_self]
    · rw [insertDir_filter (by rw [h]; simp), List.filter_filter, h]
      congr 1
      funext d
      rw [Bool.and_self]
  unfold Ledger.setEntry at *
  dsimp only at *
  rw [hrest]

/-! The store. -/

/-- A word of the store replaced, when it changes. -/
def wordStored (m : SMem 64) (k : Nat) (v : Word64) : SMem 64 := if sGet m k = v then m else sSet m k v

/-- No watch of a word is on. -/
def WatchesOff (l : Ledger) : Prop := ∀ i : Fin 8, bitOf (l.watches[i.val]).2 31 = false
/-- No chute's TAIL word is on. -/
def ChuteWordsOff (l : Ledger) : Prop := ∀ i : ChuteId, bitOf (l.chuteWords[i.val]).1 31 = false

theorem watchWord_off {s : State} (h : WatchesOff s.ledger) (idx : Nat) : watchWord s idx = s := by
  have hall : ∀ w ∈ s.ledger.watches.toList, bitOf w.2 31 = false := by
    intro w hw
    obtain ⟨i, hi, rfl⟩ := List.getElem_of_mem hw
    rw [Vector.length_toList] at hi
    rw [Vector.getElem_toList]
    exact h ⟨i, hi⟩
  unfold watchWord
  generalize s.ledger.watches.toList = l at hall
  induction l with
  | nil => rfl
  | cons w l ih =>
    rw [List.foldl_cons, hall w List.mem_cons_self, Bool.false_and, if_neg Bool.false_ne_true]
    exact ih fun w hw => hall w (List.mem_cons_of_mem _ hw)

theorem tailWord_off {s : State} (h : ChuteWordsOff s.ledger) (idx : Nat) (v : Word64) : tailWord s idx v = s := by
  refine foldl_still fun c => if_neg ?_
  rw [h c, Bool.false_and]
  exact Bool.false_ne_true

theorem setWord_off {s : State} (h : WatchesOff s.ledger) (line : LineId) (w : Nat) (v : Word64) :
    setWord s line w v = onLedger s fun l => { l with store := wordStored l.store (wordKey line w) v } := by
  unfold setWord wordStored
  dsimp only
  split
  · next hv => exact (onLedger_same s (f := fun l => { l with store := if sGet l.store (wordKey line w) = v then l.store else _ }) (by rw [if_pos hv])).symm
  · next hv =>
    refine (watchWord_off (s := onLedger s fun l => { l with store := sSet l.store (wordKey line w) v }) h _).trans (onLedger_congr s ?_)
    rw [if_neg hv]

/-- A store that takes the words of a line, in order. -/
def wordsStored (line : LineId) (d : Vector Word64 8) (ws : List (Fin 8)) (m : SMem 64) : SMem 64 :=
  ws.foldl (fun m w => wordStored m (wordKey line w.val) d[w.val]) m

theorem setLine_off (line : LineId) (d : Vector Word64 8) {s : State} (h : WatchesOff s.ledger) :
    setLine s line d = onLedger s fun l => { l with store := wordsStored line d (List.finRange 8) l.store } := by
  unfold setLine
  generalize List.finRange 8 = ws
  induction ws generalizing s with
  | nil => rfl
  | cons w ws ih =>
    rw [List.foldl_cons, setWord_off h, ih (s := onLedger s fun l => { l with store := wordStored l.store (wordKey line w.val) d[w.val] }) h]
    rfl

theorem wordKey_inj {l k : LineId} {u v : Fin 8} (h : wordKey l u.val = wordKey k v.val) : l = k ∧ u = v := by
  have hu := u.isLt
  have hv := v.isLt
  unfold wordKey at h
  exact ⟨Fin.ext (by omega), Fin.ext (by omega)⟩

theorem wordStored_wf {m : SMem 64} (k : Nat) (v : Word64) (h : sWf m = true) : sWf (wordStored m k v) = true := by
  unfold wordStored
  split
  · exact h
  · exact sSet_wf _ _ h

theorem wordStored_same {m : SMem 64} (k : Nat) (v : Word64) (h : sWf m = true) : sGet (wordStored m k v) k = v := by
  unfold wordStored
  split
  · assumption
  · exact sGet_sSet_same v h

theorem wordStored_other (m : SMem 64) {k j : Nat} (v : Word64) (hj : j ≠ k) : sGet (wordStored m k v) j = sGet m j := by
  unfold wordStored
  split
  · rfl
  · exact sGet_sSet_other v hj

theorem wordsStored_other (line : LineId) (d : Vector Word64 8) {j : Nat} (ws : List (Fin 8)) : ∀ (m : SMem 64), (∀ w ∈ ws, j ≠ wordKey line w.val) →
    sGet (wordsStored line d ws m) j = sGet m j := by
  induction ws with
  | nil => exact fun _ _ => rfl
  | cons w ws ih =>
    intro m h
    exact (ih _ fun u hu => h u (List.mem_cons_of_mem _ hu)).trans (wordStored_other m _ (h w List.mem_cons_self))

theorem wordsStored_word (line : LineId) (d : Vector Word64 8) {v : Fin 8} (ws : List (Fin 8)) : ∀ (m : SMem 64), sWf m = true → ws.Nodup → v ∈ ws →
    sGet (wordsStored line d ws m) (wordKey line v.val) = d[v.val] := by
  induction ws with
  | nil => exact fun _ _ _ h => (nomatch h)
  | cons w ws ih =>
    intro m hm hn hv
    obtain ⟨hw, hn⟩ := List.nodup_cons.mp hn
    rcases List.mem_cons.mp hv with rfl | hv
    · refine (wordsStored_other line d ws _ fun u hu he => hw ?_).trans (wordStored_same _ _ hm)
      rw [(wordKey_inj he).2]; exact hu
    · exact ih _ (wordStored_wf _ _ hm) hn hv

theorem lineData_word (l : Ledger) (line : LineId) (v : Fin 8) : (l.lineData line)[v.val] = sGet l.store (wordKey line v.val) :=
  Vector.getElem_ofFn ..

/-- The data taken is the line's, and no other line changes (R309). -/
theorem setLine_data (line : LineId) (d : Vector Word64 8) {s : State} (hw : WatchesOff s.ledger) :
    (sWf s.ledger.store = true → (setLine s line d).ledger.lineData line = d) ∧
    ∀ k : LineId, k ≠ line → (setLine s line d).ledger.lineData k = s.ledger.lineData k := by
  have hstore : (setLine s line d).ledger.store = wordsStored line d (List.finRange 8) s.ledger.store := by
    rw [setLine_off line d hw, onLedger_ledger]
  refine ⟨fun hm => Vector.ext fun i hi => ?_, fun k hk => Vector.ext fun i hi => ?_⟩
  · rw [lineData_word _ line ⟨i, hi⟩, hstore]
    exact wordsStored_word line d (v := ⟨i, hi⟩) _ _ hm (List.nodup_finRange 8) (List.mem_finRange _)
  · rw [lineData_word _ k ⟨i, hi⟩, lineData_word _ k ⟨i, hi⟩, hstore]
    exact wordsStored_other line d _ _ fun w _ he => hk (wordKey_inj (u := ⟨i, hi⟩) he).1

end Sys2Proof.Machine
end

section
open Sys2Proof.Laws
namespace Sys2Proof.Machine

/-! ### The ledger home: operations, grants and transactions (13 R309 to R318, Tables 13.4 and 13.5) -/

/-- A line that takes its own words but one changes in that word alone. -/
theorem wordsStored_one {line : LineId} {d : Vector Word64 8} {w : Fin 8} {m : SMem 64} (h : ∀ u : Fin 8, u ≠ w → sGet m (wordKey line u.val) = d[u.val]) :
    wordsStored line d (List.finRange 8) m = wordStored m (wordKey line w.val) d[w.val] := by
  refine foldl_once (P := fun m => ∀ u : Fin 8, u ≠ w → sGet m (wordKey line u.val) = d[u.val]) (fun m hm u hu => if_pos (hm u hu))
    (List.nodup_finRange 8) (List.mem_finRange w) m h fun u hu => ?_
  exact (wordStored_other _ _ fun he => hu (wordKey_inj he).2).trans (h u hu)

theorem setLine_one {s : State} (hw : WatchesOff s.ledger) (line : LineId) (w : Fin 8) (v : Word64) :
    setLine s line (vmod (s.ledger.lineData line) w fun _ => v) =
      onLedger s fun l => { l with store := wordStored l.store (wordKey line w.val) v } := by
  have hv : (vmod (s.ledger.lineData line) w fun _ => v)[w.val] = v := vmod_self ..
  have hother (u : Fin 8) (hu : u ≠ w) : sGet s.ledger.store (wordKey line u.val) = (vmod (s.ledger.lineData line) w fun _ => v)[u.val] := by
    rw [vmod_other _ _ _ _ _ fun e => hu (Fin.ext e), lineData_word]
  rw [setLine_off _ _ hw]
  refine onLedger_congr s ?_
  rw [wordsStored_one hother, hv]

theorem setLine_chuteWordsOff {s : State} (hw : WatchesOff s.ledger) (hc : ChuteWordsOff s.ledger) (line : LineId) (d : Vector Word64 8) :
    ChuteWordsOff (setLine s line d).ledger := by
  rw [setLine_off line d hw, onLedger_ledger]
  generalize wordsStored line d (List.finRange 8) s.ledger.store = m
  exact hc

/-- With no chute's TAIL word on a changed line reaches no doorbell. -/
theorem tailWords_off {s : State} (h : ChuteWordsOff s.ledger) (line : LineId) (a b : Vector Word64 8) :
    (List.finRange 8).foldl (fun s u => if a[u.val] = b[u.val] then s else tailWord s (wordKey line u.val) a[u.val]) s = s := by
  refine foldl_still fun u => ?_
  split
  · rfl
  · exact tailWord_off h _ _

section
variable {s : State} {line : LineId} {op : Fin 16} {w : Fin 8} {operand compare : Word64}

theorem homeExec_format (h : op.val < 8 ∨ 12 < op.val) : homeExec s line op w operand compare = (0, stFormat, s) := by
  refine if_pos ?_
  rw [Bool.or_eq_true, decide_eq_true_eq]
  rcases h with h | h
  · exact .inl h
  · refine .inr ?_
    unfold opListed
    rw [decide_eq_false (by omega), decide_eq_false (by omega : ¬ op.val ≤ 12), Bool.and_false]
    rfl

theorem listed_home (h8 : 8 ≤ op.val) (h12 : op.val ≤ 12) : (decide (op.val < 8) || !opListed op.val) = false := by
  unfold opListed
  rw [decide_eq_false (Nat.not_lt.mpr h8), decide_eq_true h8, decide_eq_true h12, Bool.and_self, Bool.or_true]
  rfl

theorem homeExec_uncorr (h8 : 8 ≤ op.val) (h12 : op.val ≤ 12) (h9 : op.val ≠ 9) (hl : (s.ledger.entry line).lost = true) :
    homeExec s line op w operand compare = (0, stUncorr, s) := by
  unfold homeExec
  simp only [listed_home h8 h12, hl, decide_eq_true h9, Bool.and_self, Bool.false_eq_true, if_false, if_true]

/-- What a home operation makes of a word. -/
def homeNew (op : Fin 16) (old operand compare : Word64) : Word64 :=
  if op.val = 9 then operand else if op.val = 10 then old + operand else if op.val = 11 then operand
  else if op.val = 12 ∧ old = compare then operand else old

theorem wordOp_home (h8 : 8 ≤ op.val) (h12 : op.val ≤ 12) (old : Word64) :
    wordOp (op.val - 8) old operand compare = (homeNew op old operand compare, if op.val = 9 then 0 else old) := by
  obtain ⟨n, hn⟩ := op
  dsimp only at h8 h12
  unfold homeNew wordOp
  have hcases : n = 8 ∨ n = 9 ∨ n = 10 ∨ n = 11 ∨ n = 12 := by omega
  rcases hcases with rfl | rfl | rfl | rfl | rfl <;> simp

variable (hw : WatchesOff s.ledger) (hc : ChuteWordsOff s.ledger)
include hw hc

theorem homeExec_plain (h8 : 8 ≤ op.val) (h12 : op.val ≤ 12) (hl : (s.ledger.entry line).lost = false) :
    homeExec s line op w operand compare = (if op.val = 9 then 0 else s.ledger.word line w.val, stOk,
      onLedger s fun l => { l with store := wordStored l.store (wordKey line w.val) (homeNew op (s.ledger.word line w.val) operand compare) }) := by
  have hold : (s.ledger.lineData line)[w.val] = s.ledger.word line w.val := lineData_word ..
  unfold homeExec
  simp only [listed_home h8 h12, hl, Bool.false_and, Bool.false_eq_true, if_false, hold, wordOp_home h8 h12, setLine_one hw]
  rw [tailWords_off (s := onLedger s fun l => { l with store := wordStored l.store (wordKey line w.val) (homeNew op (s.ledger.word line w.val) operand compare) }) hc]

theorem homeExec_fresh (h9 : op.val = 9) (hl : (s.ledger.entry line).lost = true) :
    homeExec s line op w operand compare = (0, stOk,
      setLine (onLedger s fun l => l.setEntry { s.ledger.entry line with lost := false }) line (vmod (.replicate 8 0) w fun _ => operand)) := by
  have hwr : wordOp (op.val - 8) (Vector.replicate 8 (0 : Word64))[w.val] operand compare = (operand, 0) := by rw [h9]; rfl
  have hlist := listed_home (op := op) (by omega) (by omega)
  rw [h9] at hlist hwr
  unfold homeExec
  simp only [h9, hlist, hl, hwr, ne_eq, not_true_eq_false, decide_false, Bool.and_false, Bool.false_eq_true, if_false, if_true]
  rw [tailWords_off (setLine_chuteWordsOff (s := onLedger s fun l => l.setEntry { s.ledger.entry line with lost := false }) hw hc _ _)]
end

/-! Grants (Table 13.4). -/

/-- A line whose transaction has ended. -/
def lineFree (u : State) (line : LineId) : State := onLedger u fun l => { l with txns := l.txns.filter (·.line ≠ line) }

section
variable {u : State} {t : Txn} (hn : u.ledger.nodeGone.getLsbD t.node.val = false)
include hn

theorem finishTxn_getS (hr : t.req = .getS) (hl : (u.ledger.entry t.line).lost = false) :
    finishTxn u t = onLedger (lineFree u t.line) fun l =>
      (l.setEntry { u.ledger.entry t.line with
        state := .shared ((match (u.ledger.entry t.line).state with | .unowned => 0 | .shared v => v | .owned o => nodeBit o) ||| nodeBit t.node) }).send
        { lmsg t.node 0xB 0 t.line with data := some (u.ledger.lineData t.line) } := by
  unfold finishTxn
  refine (if_neg (by rw [show (onLedger u _).ledger.nodeGone = u.ledger.nodeGone from rfl, hn]; decide)).trans ?_
  rw [hr]
  exact if_neg (by rw [show ((onLedger u _).ledger.entry t.line) = u.ledger.entry t.line from rfl, hl]; decide)

theorem finishTxn_getS_lost (hr : t.req = .getS) (hl : (u.ledger.entry t.line).lost = true) :
    finishTxn u t = onLedger (lineFree u t.line) fun l => l.send { lmsg t.node 0xB 3 t.line with status := stUncorr } := by
  unfold finishTxn
  refine (if_neg (by rw [show (onLedger u _).ledger.nodeGone = u.ledger.nodeGone from rfl, hn]; decide)).trans ?_
  rw [hr]
  exact if_pos hl

theorem finishTxn_getM (hr : t.req = .getM) (hl : (u.ledger.entry t.line).lost = false) :
    finishTxn u t = onLedger (lineFree u t.line) fun l =>
      (l.setEntry { u.ledger.entry t.line with state := .owned t.node }).send { lmsg t.node 0xB 1 t.line with data := some (u.ledger.lineData t.line) } := by
  unfold finishTxn
  refine (if_neg (by rw [show (onLedger u _).ledger.nodeGone = u.ledger.nodeGone from rfl, hn]; decide)).trans ?_
  rw [hr]
  exact if_neg (by rw [show ((onLedger u _).ledger.entry t.line) = u.ledger.entry t.line from rfl, hl]; decide)

theorem finishTxn_getM_lost (hr : t.req = .getM) (hl : (u.ledger.entry t.line).lost = true) :
    finishTxn u t = onLedger (lineFree u t.line) fun l =>
      (l.setEntry { u.ledger.entry t.line with state := .unowned }).send { lmsg t.node 0xB 3 t.line with status := stUncorr } := by
  unfold finishTxn
  refine (if_neg (by rw [show (onLedger u _).ledger.nodeGone = u.ledger.nodeGone from rfl, hn]; decide)).trans ?_
  rw [hr]
  exact if_pos hl

/-- A line UNOWNED for a home operation. -/
def lineUnowned (u : State) (line : LineId) : State :=
  onLedger (lineFree u line) fun l => l.setEntry { u.ledger.entry line with state := .unowned }

theorem finishTxn_op {op : Fin 16} {w : Fin 8} {operand compare old : Word64} {st : Byte} {v : State} (hr : t.req = .op op w operand compare)
    (he : homeExec (lineUnowned u t.line) t.line op w operand compare = (old, st, v)) :
    finishTxn u t = onLedger v fun l => l.send { lmsg t.node 0xB 3 t.line with value := old, status := st } := by
  unfold finishTxn
  refine (if_neg (by rw [show (onLedger u _).ledger.nodeGone = u.ledger.nodeGone from rfl, hn]; decide)).trans ?_
  rw [hr]
  show (match homeExec (lineUnowned u t.line) t.line op w operand compare with
    | (old, st, s) => onLedger s fun l => l.send { lmsg t.node 0xB 3 t.line with value := old, status := st }) = _
  rw [he]
end

theorem lineUnowned_entry (u : State) (line : LineId) :
    (lineUnowned u line).ledger.entry line = { u.ledger.entry line with state := .unowned } := by
  have h := entry_setEntry_same (lineFree u line).ledger { u.ledger.entry line with state := .unowned }
  rw [show ({ u.ledger.entry line with state := .unowned } : DirEntry).line = line from entry_line ..] at h
  exact h

/-- The grant of a request by a command, from a state in which every snoop has been answered. -/
def Grants (s : State) (line : LineId) (c : Instr) (u : State) (n : NodeId) (req : HomeReq) : Prop :=
  let e := u.ledger.entry line
  let done := lineFree u line
  let sends := fun (d : DirState) (m : LedgerMsg) => exec c s = .next (onLedger done fun l => (l.setEntry { e with state := d }).send m)
  (req = .getS → e.lost = false →
    let v := match e.state with | .unowned => 0 | .shared v => v | .owned o => nodeBit o
    sends (.shared (v ||| nodeBit n)) { lmsg n 0xB 0 line with data := some (u.ledger.lineData line) }) ∧
  (req = .getM → e.lost = false → sends (.owned n) { lmsg n 0xB 1 line with data := some (u.ledger.lineData line) }) ∧
  (req = .getS → e.lost = true → exec c s = .next (onLedger done fun l => l.send { lmsg n 0xB 3 line with status := stUncorr })) ∧
  (req = .getM → e.lost = true → sends .unowned { lmsg n 0xB 3 line with status := stUncorr }) ∧
  (∀ op w operand compare, req = .op op w operand compare →
    (op.val < 8 ∨ 12 < op.val → sends .unowned { lmsg n 0xB 3 line with status := stFormat }) ∧
    (8 ≤ op.val → op.val ≤ 12 → op.val ≠ 9 → e.lost = true → sends .unowned { lmsg n 0xB 3 line with status := stUncorr }) ∧
    (op.val = 9 → e.lost = true → sWf u.ledger.store = true → WatchesOff u.ledger → ChuteWordsOff u.ledger →
      ∃ t, exec c s = .next t ∧ t.ledger.lineData line = vmod (.replicate 8 0) w (fun _ => operand) ∧
        (∀ k : LineId, k ≠ line → t.ledger.lineData k = u.ledger.lineData k) ∧
        t = onLedger done fun l =>
          ({ l.setEntry { line := line, state := .unowned, lost := false } with store := t.ledger.store } : Ledger).send (lmsg n 0xB 3 line)) ∧
    (8 ≤ op.val → op.val ≤ 12 → e.lost = false → WatchesOff u.ledger → ChuteWordsOff u.ledger →
      let old := u.ledger.word line w.val
      let new := homeNew op old operand compare
      exec c s = .next (onLedger done fun l =>
        ({ l.setEntry { e with state := .unowned } with store := wordStored l.store (8 * line.val + w.val) new } : Ledger).send
          { lmsg n 0xB 3 line with value := if op.val = 9 then 0 else old })))

theorem lineData_store {a b : Ledger} (h : a.store = b.store) (k : LineId) : a.lineData k = b.lineData k := by
  unfold Ledger.lineData Ledger.word
  rw [h]

/-- Taking a line changes the store alone. -/
theorem setLine_store {s : State} (line : LineId) (d : Vector Word64 8) (h : WatchesOff s.ledger) :
    setLine s line d = onLedger s fun l => { l with store := (setLine s line d).ledger.store } := by
  have hoff := setLine_off line d h
  generalize wordsStored line d (List.finRange 8) = f at hoff
  rw [hoff]
  rfl

/-- A line UNOWNED and no longer LOST. -/
def linePlain (u : State) (line : LineId) : State := onLedger (lineFree u line) fun l => l.setEntry { line := line, state := .unowned, lost := false }

theorem linePlain_of_unowned (u : State) (line : LineId) :
    (onLedger (lineUnowned u line) fun l => l.setEntry { (lineUnowned u line).ledger.entry line with lost := false }) = linePlain u line := by
  have hline : ({ u.ledger.entry line with state := .unowned } : DirEntry).line = line := entry_line ..
  have hplain : ({ (lineUnowned u line).ledger.entry line with lost := false } : DirEntry) = { line := line, state := .unowned, lost := false } := by
    rw [lineUnowned_entry]
    show ({ line := (u.ledger.entry line).line, state := .unowned, lost := false } : DirEntry) = _
    rw [entry_line]
  rw [hplain]
  exact onLedger_congr (lineFree u line) (f := fun l => (l.setEntry { u.ledger.entry line with state := .unowned }).setEntry { line := line, state := .unowned, lost := false })
    (setEntry_setEntry _ hline)

/-- A whole line that a LOST entry takes. -/
theorem finishTxn_fresh {u : State} {t : Txn} {op : Fin 16} {w : Fin 8} {operand compare : Word64} (hn : u.ledger.nodeGone.getLsbD t.node.val = false)
    (hr : t.req = .op op w operand compare) (h9 : op.val = 9) (hl : (u.ledger.entry t.line).lost = true) (hwf : sWf u.ledger.store = true)
    (hw : WatchesOff u.ledger) (hc : ChuteWordsOff u.ledger) :
    ∃ m : SMem 64, finishTxn u t = onLedger (lineFree u t.line) (fun l =>
        ({ l.setEntry { line := t.line, state := .unowned, lost := false } with store := m } : Ledger).send (lmsg t.node 0xB 3 t.line)) ∧
      (∀ l : Ledger, l.store = m → l.lineData t.line = vmod (.replicate 8 0) w (fun _ => operand) ∧
        ∀ k : LineId, k ≠ t.line → l.lineData k = u.ledger.lineData k) := by
  have hex := homeExec_fresh (s := lineUnowned u t.line) (line := t.line) (op := op) (w := w) (operand := operand) (compare := compare) hw hc h9
    (by rw [lineUnowned_entry]; exact hl)
  rw [linePlain_of_unowned] at hex
  have hdata := setLine_data (s := linePlain u t.line) t.line (vmod (.replicate 8 0) w fun _ => operand) hw
  have hfin := finishTxn_op hn hr hex
  rw [setLine_store (s := linePlain u t.line) t.line (vmod (.replicate 8 0) w fun _ => operand) hw] at hfin
  generalize hv : setLine (linePlain u t.line) t.line (vmod (.replicate 8 0) w fun _ => operand) = v at hdata hfin
  exact ⟨v.ledger.store, hfin, fun l hlst => ⟨(lineData_store hlst _).trans (hdata.1 hwf), fun k hk => (lineData_store hlst k).trans (hdata.2 k hk)⟩⟩

theorem grants_of_finish {s u : State} {c : Instr} {t : Txn} (hn : u.ledger.nodeGone.getLsbD t.node.val = false) (hg : u.granary = s.granary)
    (hexec : ∀ x, finishTxn u t = x → x.granary = s.granary → exec c s = .next x) : Grants s t.line c u t.node t.req := by
  have hline := entry_line u.ledger t.line
  refine ⟨fun hr hl => hexec _ (finishTxn_getS hn hr hl) hg, fun hr hl => hexec _ (finishTxn_getM hn hr hl) hg,
    fun hr hl => hexec _ (finishTxn_getS_lost hn hr hl) hg, fun hr hl => hexec _ (finishTxn_getM_lost hn hr hl) hg,
    fun op w operand compare hr => ⟨fun hf => ?_, fun h8 h12 h9 hl => ?_, fun h9 hl hwf hw hc => ?_, fun h8 h12 hl hw hc => ?_⟩⟩
  · exact hexec _ (finishTxn_op hn hr (homeExec_format hf)) hg
  · exact hexec _ (finishTxn_op hn hr (homeExec_uncorr h8 h12 h9 (by rw [lineUnowned_entry]; exact hl))) hg
  · obtain ⟨m, hfin, hdata⟩ := finishTxn_fresh hn hr h9 hl hwf hw hc
    refine ⟨_, hexec _ hfin hg, (hdata _ rfl).1, (hdata _ rfl).2, rfl⟩
  · exact hexec _ (finishTxn_op hn hr (homeExec_plain (s := lineUnowned u t.line) hw hc h8 h12 (by rw [lineUnowned_entry]; exact hl))) hg

/-! The start of a transaction (R309, R316). -/

/-- The snoops that a transaction sends when it starts. -/
def snoopsSent (u : State) (line : LineId) (n : NodeId) (req : HomeReq) (asked : List NodeId) (inv : Bool) (owner : Option NodeId) : State :=
  onLedger u fun l => asked.foldl (fun l o => l.send (lmsg o 0x9 (if inv then 1 else 0) line))
    ({ l with txns := l.txns ++ [({ line := line, node := n, req := req, snooped := asked, awaiting := asked, owner := owner } : Txn)] }.count 0 asked.length)

/-- The start of a transaction by a command, on the state `u`. -/
def Starts (s : State) (line : LineId) (c : Instr) (u : State) (n : NodeId) (req : HomeReq) : Prop :=
  let e := u.ledger.entry line
  let snoops := fun (asked : List NodeId) (inv : Bool) (owner : Option NodeId) => exec c s = .next (snoopsSent u line n req asked inv owner)
  (∀ o, e.state = .owned o → (req = .getS → snoops [o] false (some o)) ∧ (req ≠ .getS → snoops [o] true (some o))) ∧
  (∀ v, e.state = .shared v →
    let asked := if req = .getM then nodesOf (v &&& ~~~nodeBit n) else nodesOf v
    (req ≠ .getS → asked ≠ [] → snoops asked true none) ∧
    (req = .getS ∨ asked = [] → u.ledger.nodeGone.getLsbD n.val = false → Grants s line c u n req)) ∧
  (e.state = .unowned → u.ledger.nodeGone.getLsbD n.val = false → Grants s line c u n req)

/-- The rest of a start: the snoops, or the grant when no node is asked. -/
def startWith (u : State) (line : LineId) (n : NodeId) (req : HomeReq) (asked : List NodeId) (inv : Bool) (owner : Option NodeId) : State :=
  if asked.isEmpty then finishTxn (snoopsSent u line n req asked inv owner) { line := line, node := n, req := req, snooped := asked, awaiting := asked, owner := owner }
  else snoopsSent u line n req asked inv owner

theorem startWith_asked {u : State} {line : LineId} {n : NodeId} {req : HomeReq} {asked : List NodeId} {inv : Bool} {owner : Option NodeId}
    (h : asked ≠ []) : startWith u line n req asked inv owner = snoopsSent u line n req asked inv owner :=
  if_neg (by rw [List.isEmpty_iff]; exact h)

/-- A transaction that asks no node ends as it starts. -/
theorem startWith_none (u : State) (line : LineId) (n : NodeId) (req : HomeReq) (inv : Bool) :
    startWith u line n req [] inv none = finishTxn u { line := line, node := n, req := req, snooped := [], awaiting := [], owner := none } := by
  have hfree : lineFree (snoopsSent u line n req [] inv none) line = lineFree u line := by
    have hcount : vmod u.ledger.counters 0 (fun x => bump x 0) = u.ledger.counters := by
      rw [(funext bump_zero : (fun x : Word => bump x 0) = fun x => x), vmod_id]
    refine onLedger_congr u (f := fun l => { l with
      txns := (l.txns ++ [({ line := line, node := n, req := req, snooped := [], awaiting := [], owner := none } : Txn)]).filter (·.line ≠ line)
      counters := vmod l.counters 0 fun x => bump x 0 }) (g := fun l => { l with txns := l.txns.filter (·.line ≠ line) }) ?_
    rw [List.filter_append, List.filter_cons_of_neg (by simp), List.filter_nil, List.append_nil, hcount]
  refine (if_pos rfl).trans ?_
  show finishTxn _ _ = _
  unfold finishTxn
  dsimp only
  rw [show (onLedger (snoopsSent u line n req [] inv none) fun l => { l with txns := l.txns.filter (·.line ≠ line) }) = lineFree u line from hfree]
  rfl

theorem startTxn_unowned {u : State} {line : LineId} (n : NodeId) (req : HomeReq) (h : (u.ledger.entry line).state = .unowned) :
    startTxn u line n req = startWith u line n req [] true none := by
  unfold startTxn
  rw [h]
  rfl

theorem startTxn_owned_getS {u : State} {line : LineId} {o : NodeId} (n : NodeId) (h : (u.ledger.entry line).state = .owned o) :
    startTxn u line n .getS = startWith u line n .getS [o] false (some o) := by
  unfold startTxn
  rw [h]
  rfl

theorem startTxn_owned {u : State} {line : LineId} {o : NodeId} (n : NodeId) {req : HomeReq} (h : (u.ledger.entry line).state = .owned o)
    (hr : req ≠ .getS) : startTxn u line n req = startWith u line n req [o] true (some o) := by
  unfold startTxn
  rw [h]
  cases req with
  | getS => exact absurd rfl hr
  | getM => rfl
  | op => rfl

theorem startTxn_shared_getS {u : State} {line : LineId} {v : BitVec 32} (n : NodeId) (h : (u.ledger.entry line).state = .shared v) :
    startTxn u line n .getS = startWith u line n .getS [] true none := by
  unfold startTxn
  rw [h]
  rfl

theorem startTxn_shared {u : State} {line : LineId} {v : BitVec 32} (n : NodeId) {req : HomeReq} (h : (u.ledger.entry line).state = .shared v)
    (hr : req ≠ .getS) : startTxn u line n req = startWith u line n req (if req = .getM then nodesOf (v &&& ~~~nodeBit n) else nodesOf v) true none := by
  unfold startTxn
  rw [h]
  cases req with
  | getS => exact absurd rfl hr
  | getM => rfl
  | op => rfl

theorem starts_of_start {s u : State} {line : LineId} {c : Instr} {n : NodeId} {req : HomeReq} (hg : u.granary = s.granary)
    (hexec : ∀ x, startTxn u line n req = x → x.granary = s.granary → exec c s = .next x) : Starts s line c u n req := by
  have hsnoop {asked : List NodeId} {inv : Bool} {owner : Option NodeId} (ha : asked ≠ [])
      (h : startTxn u line n req = startWith u line n req asked inv owner) : exec c s = .next (snoopsSent u line n req asked inv owner) :=
    hexec _ (h.trans (startWith_asked ha)) hg
  have hgrant (hn : u.ledger.nodeGone.getLsbD n.val = false) (h : startTxn u line n req = startWith u line n req [] true none) :
      Grants s line c u n req :=
    grants_of_finish (t := { line := line, node := n, req := req, snooped := [], awaiting := [], owner := none }) hn hg fun x hx =>
      hexec x ((h.trans (startWith_none ..)).trans hx)
  refine ⟨fun o he => ⟨?getS, fun hr => hsnoop (List.cons_ne_nil _ _) (startTxn_owned n he hr)⟩, fun v he => ⟨fun hr ha => hsnoop ha (startTxn_shared n he hr), ?shared⟩,
    fun he hn => hgrant hn (startTxn_unowned n req he)⟩
  case getS =>
    rintro rfl
    exact hsnoop (List.cons_ne_nil _ _) (startTxn_owned_getS n he)
  case shared =>
    intro h hn
    refine hgrant hn ?_
    by_cases hr : req = .getS
    · subst hr
      exact startTxn_shared_getS n he
    · rw [startTxn_shared n he hr, h.resolve_left hr]

/-! Messages that arrive (R308, R322). -/

/-- The state once a message of this node has arrived. -/
def tookFrom (s : State) (n : NodeId) (kind lm : Nat) (line : LineId) : State :=
  onLedger s fun l => if n = s.flume.nodeId then l.take n kind lm line else l

theorem tookFrom_kept (s : State) (n : NodeId) (kind lm : Nat) (line : LineId) :
    ∃ sent, tookFrom s n kind lm line = onLedger s fun l => { l with sent := sent } := by
  have htake : ∃ sent, s.ledger.take n kind lm line = { s.ledger with sent := sent } := by
    unfold Ledger.take
    split
    · exact ⟨_, rfl⟩
    · exact ⟨s.ledger.sent, rfl⟩
  obtain ⟨sent, htake⟩ := htake
  by_cases hn : n = s.flume.nodeId
  · exact ⟨sent, onLedger_congr s ((if_pos hn).trans htake)⟩
  · exact ⟨s.ledger.sent, onLedger_congr s (if_neg hn)⟩

section
variable {s : State} {n : NodeId} {kind lm : Nat} {line : LineId} {f : State → State}

theorem tookFrom_gone : (tookFrom s n kind lm line).ledger.nodeGone = s.ledger.nodeGone := by
  obtain ⟨sent, h⟩ := tookFrom_kept s n kind lm line
  rw [h]; rfl

theorem fromNode_gone (h : s.ledger.nodeGone.getLsbD n.val = true) :
    fromNode s n kind lm line f = onLedger (tookFrom s n kind lm line) fun l => { l with goneDiscarded := bump l.goneDiscarded } :=
  if_pos ((congrArg (fun g : BitVec 32 => g.getLsbD n.val) tookFrom_gone).trans h)

theorem fromNode_here (h : ¬ s.ledger.nodeGone.getLsbD n.val = true) : fromNode s n kind lm line f = f (tookFrom s n kind lm line) :=
  if_neg fun hg => h ((congrArg (fun g : BitVec 32 => g.getLsbD n.val) tookFrom_gone).symm.trans hg)
end

section
variable {s : State} {n : NodeId} {line : LineId} {req : HomeReq}

theorem homeRequest_waits (h : s.ledger.busy line = true ∨ s.ledger.waiting.any (·.line = line) = true ∨ 64 ≤ s.ledger.txns.length) :
    homeRequest s line n req = onLedger s fun l => { l with waiting := l.waiting ++ [{ line := line, node := n, req := req }] } :=
  if_pos (by rw [Bool.or_eq_true, Bool.or_eq_true, decide_eq_true_eq, or_assoc]; exact h)

theorem homeRequest_starts (hb : ¬ s.ledger.busy line = true) (hq : ¬ s.ledger.waiting.any (·.line = line) = true) (hl : s.ledger.txns.length < 64) :
    homeRequest s line n req = startTxn s line n req :=
  if_neg (by rw [Bool.or_eq_true, Bool.or_eq_true, decide_eq_true_eq, or_assoc]; exact fun h => h.elim hb fun h => h.elim hq fun h => absurd hl (Nat.not_lt.mpr h))

theorem nextTxn_idle (h : s.ledger.busy line = true ∨ 64 ≤ s.ledger.txns.length ∨ ¬ s.ledger.waiting.any (·.line = line) = true) :
    nextTxn s line = s := by
  unfold nextTxn
  by_cases hb : (s.ledger.busy line || decide (64 ≤ s.ledger.txns.length)) = true
  · exact if_pos hb
  have hnone : s.ledger.waiting.find? (·.line = line) = none := by
    rw [Bool.or_eq_true, decide_eq_true_eq, not_or] at hb
    rcases h with h | h | h
    · exact absurd h hb.1
    · exact absurd h hb.2
    · rw [List.any_eq_true] at h
      exact List.find?_eq_none.mpr fun w hw hl => h ⟨w, hw, hl⟩
  refine (if_neg hb).trans ?_
  rw [hnone]

theorem nextTxn_starts {w : Waiting} (hb : ¬ s.ledger.busy line = true) (hl : s.ledger.txns.length < 64)
    (hw : s.ledger.waiting.find? (·.line = line) = some w) :
    nextTxn s line = startTxn (onLedger s fun l => { l with waiting := l.waiting.erase w }) line w.node w.req := by
  unfold nextTxn
  refine (if_neg ?_).trans ?_
  · rw [Bool.or_eq_true, decide_eq_true_eq]
    exact not_or.mpr ⟨hb, Nat.not_le.mpr hl⟩
  · rw [hw]
end

/-! Snoop responses and evictions. -/

/-- The state once a snoop response's data and CROSSED have been taken. -/
def snoopTaken (s : State) (n : NodeId) (line : LineId) (crossed : Bool) (data : Option (Vector Word64 8)) : State :=
  let w := match data with | some d => setLine s line d | none => s
  if crossed then onLedger w fun l => (l.dropNode line n).count 1 else w

section
variable {s : State} {n : NodeId} {line : LineId} {crossed : Bool} {data : Option (Vector Word64 8)}

theorem snoopAnswer_none (h : (s.ledger.txns.find? fun t => t.line = line && t.awaiting.contains n) = none) :
    snoopAnswer s n line crossed data = s := by
  unfold snoopAnswer
  rw [h]

variable {t : Txn} (h : (s.ledger.txns.find? fun t => t.line = line && t.awaiting.contains n) = some t)
include h

theorem snoopAnswer_more (ha : t.awaiting.filter (· ≠ n) ≠ []) :
    snoopAnswer s n line crossed data = onLedger (snoopTaken s n line crossed data) fun l =>
      { l with txns := l.txns.map fun x => if x.line = line then { t with awaiting := t.awaiting.filter (· ≠ n) } else x } := by
  unfold snoopAnswer
  rw [h]
  exact if_neg (by rw [List.isEmpty_iff]; exact ha)

theorem snoopAnswer_last (ha : t.awaiting.filter (· ≠ n) = []) :
    snoopAnswer s n line crossed data = finishTxn (snoopTaken s n line crossed data) { t with awaiting := t.awaiting.filter (· ≠ n) } := by
  unfold snoopAnswer
  rw [h]
  exact if_pos (by rw [List.isEmpty_iff]; exact ha)

theorem answering_line : t.line = line := by
  have hp := List.find?_some h
  rw [Bool.and_eq_true] at hp
  exact of_decide_eq_true hp.1
end

section
variable {s : State} {n : NodeId} {line : LineId} {data : Option (Vector Word64 8)}

theorem evictIn_snooped (h : (s.ledger.txns.any fun t => t.line = line && t.snooped.contains n) = true) :
    evictIn s n line data = onLedger s fun l => (l.count 2).send (lmsg n 0xB 2 line) := if_pos h

theorem evictIn_taken (h : ¬ (s.ledger.txns.any fun t => t.line = line && t.snooped.contains n) = true) :
    evictIn s n line data = onLedger (match data with | some d => setLine s line d | none => s) fun l =>
      (l.dropNode line n).send (lmsg n 0xB 2 line) := (if_neg h).trans (by cases data <;> rfl)
end

/-! A node leaves the group (R322). -/

/-- An entry without a node that left: a sharer goes, an owner leaves the line LOST. -/
def DirEntry.left (e : DirEntry) (n : NodeId) : DirEntry :=
  { e with state := e.state.without n, lost := e.lost || decide (e.state = .owned n) }

theorem without_without (d : DirState) (n : NodeId) : (d.without n).without n = d.without n := by
  cases d with
  | unowned => rfl
  | shared v =>
    unfold DirState.without sharers
    dsimp only
    by_cases h : v &&& ~~~nodeBit n = 0
    · rw [if_pos h]
    · rw [if_neg h]
      dsimp only
      rw [BitVec.and_assoc, BitVec.and_self, if_neg h]
  | owned o =>
    unfold DirState.without
    dsimp only
    by_cases h : o = n
    · rw [if_pos h]
    · rw [if_neg h]
      exact if_neg h

theorem without_not_owned (d : DirState) (n : NodeId) : d.without n ≠ .owned n := by
  cases d with
  | unowned => exact fun h => (nomatch h)
  | shared v =>
    unfold DirState.without sharers
    dsimp only
    split <;> exact fun h => (nomatch h)
  | owned o =>
    unfold DirState.without
    dsimp only
    split
    · exact fun h => (nomatch h)
    · next hne => exact fun h => hne (DirState.owned.inj h)

theorem left_left (e : DirEntry) (n : NodeId) : (e.left n).left n = e.left n := by
  unfold DirEntry.left
  dsimp only
  rw [without_without, decide_eq_false (without_not_owned _ _), Bool.or_false]

theorem left_same {e : DirEntry} {n : NodeId} (hw : e.state.without n = e.state) (ho : e.state ≠ .owned n) : e.left n = e := by
  unfold DirEntry.left
  rw [hw, decide_eq_false ho, Bool.or_false]

/-- What taking a node out of the directory may change: entries, and the count of lost lines. -/
def DirChanged (l l' : Ledger) : Prop :=
  l' = { l with dir := l'.dir, counters := l'.counters } ∧ ∀ i : Fin 6, i.val ≠ 4 → l'.counters[i.val] = l.counters[i.val]

theorem DirChanged.refl (l : Ledger) : DirChanged l l := ⟨rfl, fun _ _ => rfl⟩

theorem DirChanged.trans {a b c : Ledger} (hab : DirChanged a b) (hbc : DirChanged b c) : DirChanged a c := by
  refine ⟨?_, fun i hi => (hbc.2 i hi).trans (hab.2 i hi)⟩
  rw [hbc.1, hab.1]

theorem setEntry_changed (l : Ledger) (e : DirEntry) : DirChanged l (l.setEntry e) := ⟨rfl, fun _ _ => rfl⟩

theorem goneLine_owned {l : Ledger} {n : NodeId} {line : LineId} (h : (l.entry line).state = .owned n) :
    goneLine n l line = (l.setEntry ((l.entry line).left n)).count 4 := by
  unfold goneLine
  dsimp only
  rw [h]
  refine (if_pos rfl).trans ?_
  unfold DirEntry.left DirState.without
  rw [h, decide_eq_true rfl, Bool.or_true]
  dsimp only
  rw [if_pos rfl]

theorem goneLine_shared {l : Ledger} {n : NodeId} {line : LineId} {v : BitVec 32} (h : (l.entry line).state = .shared v) :
    goneLine n l line = l.setEntry ((l.entry line).left n) := by
  unfold goneLine DirEntry.left
  dsimp only
  rw [h, decide_eq_false (fun h => nomatch h), Bool.or_false]

theorem goneLine_still {l : Ledger} {n : NodeId} {line : LineId} (hs : ∀ v, (l.entry line).state ≠ .shared v) (ho : (l.entry line).state ≠ .owned n) :
    goneLine n l line = l ∧ (l.entry line).left n = l.entry line := by
  unfold goneLine
  dsimp only
  cases h : (l.entry line).state with
  | unowned => exact ⟨rfl, left_same (by rw [h]; rfl) ho⟩
  | shared v => exact absurd h (hs v)
  | owned o =>
    have hon : o ≠ n := fun e => ho (by rw [h, e])
    exact ⟨if_neg hon, left_same (by rw [h]; exact if_neg hon) ho⟩

theorem count_entry (l : Ledger) (i : Fin 6) (k : LineId) : (l.count i).entry k = l.entry k := rfl

/-- One line's entry without a node that left; the others stand. -/
theorem goneLine_spec (l : Ledger) (n : NodeId) (line : LineId) :
    DirChanged l (goneLine n l line) ∧ (goneLine n l line).entry line = (l.entry line).left n ∧
      ∀ k, k ≠ line → (goneLine n l line).entry k = l.entry k := by
  have hline : ((l.entry line).left n).line = line := entry_line ..
  have hsame : (l.setEntry ((l.entry line).left n)).entry line = (l.entry line).left n := by
    have h := entry_setEntry_same l ((l.entry line).left n)
    rwa [hline] at h
  have hother (k : LineId) (hk : k ≠ line) : (l.setEntry ((l.entry line).left n)).entry k = l.entry k :=
    entry_setEntry_other l _ (by rw [hline]; exact hk)
  by_cases ho : (l.entry line).state = .owned n
  · rw [goneLine_owned ho]
    refine ⟨⟨rfl, fun i hi => vmod_other _ _ _ _ _ fun e => hi e⟩, ?_, fun k hk => ?_⟩
    · rw [count_entry]; exact hsame
    · rw [count_entry]; exact hother k hk
  by_cases hs : ∃ v, (l.entry line).state = .shared v
  · obtain ⟨v, hs⟩ := hs
    rw [goneLine_shared hs]
    exact ⟨setEntry_changed l _, hsame, hother⟩
  · obtain ⟨hstill, hleft⟩ := goneLine_still (fun v hv => hs ⟨v, hv⟩) ho
    rw [hstill, hleft]
    exact ⟨.refl l, rfl, fun _ _ => rfl⟩

theorem goneLines_spec (n : NodeId) (ks : List LineId) : ∀ l : Ledger,
    DirChanged l (ks.foldl (goneLine n) l) ∧ ∀ k, (ks.foldl (goneLine n) l).entry k = if k ∈ ks then (l.entry k).left n else l.entry k := by
  induction ks with
  | nil => exact fun l => ⟨.refl l, fun k => (if_neg (List.not_mem_nil)).symm⟩
  | cons j ks ih =>
    intro l
    obtain ⟨hchg, hj, hother⟩ := goneLine_spec l n j
    obtain ⟨hrest, hentry⟩ := ih (goneLine n l j)
    refine ⟨hchg.trans hrest, fun k => ?_⟩
    rw [List.foldl_cons, hentry k]
    by_cases hkj : k = j
    · subst hkj
      rw [hj, left_left, ite_self, if_pos List.mem_cons_self]
    · rw [hother k hkj]
      exact ite_congr (propext (by rw [List.mem_cons, or_iff_right hkj])) (fun _ => rfl) fun _ => rfl

theorem goneDir_spec (l : Ledger) (n : NodeId) : DirChanged l (goneDir l n) ∧ ∀ k, (goneDir l n).entry k = (l.entry k).left n := by
  obtain ⟨hchg, hentry⟩ := goneLines_spec n (l.dir.map (·.line)) l
  refine ⟨hchg, fun k => (hentry k).trans ?_⟩
  split
  · rfl
  · next hk =>
    have hnone : l.dir.find? (·.line = k) = none :=
      List.find?_eq_none.mpr fun d hd hl => hk (List.mem_map.mpr ⟨d, hd, of_decide_eq_true hl⟩)
    have hplain : l.entry k = { line := k, state := .unowned, lost := false } := by
      unfold Ledger.entry
      rw [hnone]; rfl
    rw [hplain]
    exact (left_same rfl fun h : DirState.unowned = .owned n => nomatch h).symm

/-- The ledger without a home that left, when nothing is asked of a home. -/
theorem goneCache_launch {l : Ledger} (n : NodeId) (hr : l.reqs = []) :
    (goneCache l n).launch = { l.count 5 (l.cache.filter fun c => c.home = n && c.state = .m && c.dirty).length with
      cache := l.cache.filter (·.home ≠ n), evicts := l.evicts.filter (·.home ≠ n) } := by
  unfold Ledger.launch goneCache
  dsimp only
  show List.foldl _ _ _ = _
  simp only [Ledger.count, hr, List.foldl_nil, List.filter_nil]

/-- The directory and the waiting requests without a node that left. -/
def goneFirst (l : Ledger) (n : NodeId) : Ledger :=
  { goneDir l n with
    waiting := (goneDir l n).waiting.filter (·.node ≠ n)
    goneDiscarded := bump (goneDir l n).goneDiscarded (l.waiting.filter (·.node = n)).length }

theorem goneNode_alone {s : State} {n : NodeId} (hr : s.ledger.reqs = []) (ha : ∀ t ∈ s.ledger.txns, n ∉ t.awaiting) :
    goneNode s n = onLedger s fun l =>
      { (goneDir l n).count 5 (l.cache.filter fun c => c.home = n && c.state = .m && c.dirty).length with
        waiting := l.waiting.filter (·.node ≠ n)
        goneDiscarded := bump l.goneDiscarded (l.waiting.filter (·.node = n)).length
        cache := l.cache.filter (·.home ≠ n)
        evicts := l.evicts.filter (·.home ≠ n) } := by
  obtain ⟨hchg, -⟩ := (goneDir_spec s.ledger n).1
  have hnone : s.ledger.txns.filter (fun t => t.awaiting.contains n) = [] :=
    List.filter_eq_nil_iff.mpr fun t ht h => ha t ht (List.contains_iff_mem.mp h)
  have htxns : (goneFirst s.ledger n).txns = s.ledger.txns := by unfold goneFirst; rw [hchg]
  have hreqs : (goneFirst s.ledger n).reqs = [] := by unfold goneFirst; rw [hchg]; exact hr
  have hunfold : goneNode s n = onLedger
      (((goneFirst s.ledger n).txns.filter fun t => t.awaiting.contains n).foldl (fun s t => snoopAnswer s n t.line false none)
        (onLedger s fun l => goneFirst l n)) fun l => (goneCache l n).launch := rfl
  rw [hunfold, htxns, hnone, List.foldl_nil]
  refine onLedger_congr s (f := fun l => (goneCache (goneFirst l n) n).launch) ((goneCache_launch n hreqs).trans ?_)
  unfold goneFirst
  rw [hchg]
  rfl

theorem nodesOf_nodeBit (n : NodeId) : nodesOf (nodeBit n) = [n] := by
  unfold nodesOf nodeBit
  revert n
  decide

theorem goneFinish_alone {s : State} {n : NodeId} (hb : s.ledger.goneBusy = true) (hg : s.ledger.nodeGone = nodeBit n) (hr : s.ledger.reqs = [])
    (ha : ∀ t ∈ s.ledger.txns, n ∉ t.awaiting) :
    goneFinish s = onLedger s fun l =>
      { (goneDir l n).count 5 (l.cache.filter fun c => c.home = n && c.state = .m && c.dirty).length with
        goneBusy := false
        waiting := l.waiting.filter (·.node ≠ n)
        goneDiscarded := bump l.goneDiscarded (l.waiting.filter (·.node = n)).length
        cache := l.cache.filter (·.home ≠ n)
        evicts := l.evicts.filter (·.home ≠ n) } := by
  unfold goneFinish
  rw [if_pos hb, hg, nodesOf_nodeBit, List.foldl_cons, List.foldl_nil, goneNode_alone hr ha]
  rfl

/-- Settles O44: what the home does with a message and with its waiting requests, each by the rule of the operation it runs. -/
theorem homesSerialiseLinesAndGrant : Obligations.HomesSerialiseLinesAndGrant := by
  intro s n line hup hq
  have hto {op : State → State} {x : State} (h : op s = x) (hg : x.granary = s.granary) : settleErr (op s) = x := by
    rw [h]
    exact settleErr_quiet (by rw [hg]; exact hq)
  have hfrom {c : Instr} {kind lm : Nat} {f : State → State} (hc : exec c s = .next (settleErr (fromNode s n kind lm line f))) :
      (s.ledger.nodeGone.getLsbD n.val = true →
        exec c s = .next (onLedger (tookFrom s n kind lm line) fun l => { l with goneDiscarded := bump l.goneDiscarded })) ∧
      (¬ s.ledger.nodeGone.getLsbD n.val = true → exec c s = .next (settleErr (f (tookFrom s n kind lm line)))) := by
    refine ⟨fun hl => hc.trans (congrArg _ ?_), fun hl => hc.trans (congrArg _ (congrArg settleErr (fromNode_here hl)))⟩
    exact hto (op := fun s => fromNode s n kind lm line f) (fromNode_gone hl) rfl
  refine ⟨fun c lm req hreq => ?requests, ⟨?idle, ?next⟩, fun c lm crossed data hc => ?answers, fun c lm data hc => ?evictions, fun d _ hw => ?taken,
    fun e => ⟨entry_setEntry_same _ e, fun k hk => entry_setEntry_other _ e hk⟩, fun v => ?goneSet, fun hb => ?still, fun hb hg hr ha => ?gone⟩
  case requests =>
    have hexec : exec c s = .next (settleErr (fromNode s n 8 lm line fun s => homeRequest s line n req)) := by
      rcases hreq with ⟨rfl, rfl, rfl⟩ | ⟨rfl, rfl, rfl⟩ | ⟨op, w, x, y, rfl, rfl, rfl⟩
      · exact liveRows_next hup fun s => fromNode s n 8 0 line fun s => homeRequest s line n .getS
      · exact liveRows_next hup fun s => fromNode s n 8 1 line fun s => homeRequest s line n .getM
      · exact liveRows_next hup fun s => fromNode s n 8 4 line fun s => homeRequest s line n (.op op w x y)
    obtain ⟨hgone, hhere⟩ := hfrom hexec
    obtain ⟨sent, htook⟩ := tookFrom_kept s n 8 lm line
    refine ⟨hgone, fun hl hb => (hhere hl).trans (congrArg _ ?_), fun hl hb hqd hlen => ?_⟩
    · exact hto (op := fun s => homeRequest (tookFrom s n 8 lm line) line n req) (homeRequest_waits (by rw [htook]; exact hb)) rfl
    · exact starts_of_start (s := s) (u := tookFrom s n 8 lm line) rfl fun x hx hg => (hhere hl).trans (congrArg _
        (hto (op := fun s => homeRequest (tookFrom s n 8 lm line) line n req)
          ((homeRequest_starts (by rw [htook]; exact hb) (by rw [htook]; exact hqd) (by rw [htook]; exact hlen)).trans hx) hg))
  case idle => exact fun h => (liveRows_next hup fun s => nextTxn s line).trans (congrArg _ (hto (op := fun s => nextTxn s line) (nextTxn_idle h) rfl))
  case next =>
    intro w hb hl hw
    exact starts_of_start (s := s) (u := onLedger s fun l => { l with waiting := l.waiting.erase w }) rfl fun x hx hg =>
      (liveRows_next hup fun s => nextTxn s line).trans (congrArg _ (hto (op := fun s => nextTxn s line) ((nextTxn_starts hb hl hw).trans hx) hg))
  case answers =>
    have hexec : exec c s = .next (settleErr (fromNode s n 0xA lm line fun s => snoopAnswer s n line crossed data)) := by
      rcases hc with ⟨rfl, rfl, rfl⟩ | ⟨d, rfl, rfl, rfl⟩
      · exact liveRows_next hup fun s => fromNode s n 0xA 0 line fun s => snoopAnswer s n line crossed none
      · exact liveRows_next hup fun s => fromNode s n 0xA 1 line fun s => snoopAnswer s n line crossed (some d)
    obtain ⟨hgone, hhere⟩ := hfrom hexec
    obtain ⟨sent, htook⟩ := tookFrom_kept s n 0xA lm line
    refine ⟨hgone, fun hl hf => (hhere hl).trans (congrArg _ ?_), fun t hl hf => ?_⟩
    · exact hto (op := fun s => snoopAnswer (tookFrom s n 0xA lm line) n line crossed data) (snoopAnswer_none (by rw [htook]; exact hf)) rfl
    · have hf' : ((tookFrom s n 0xA lm line).ledger.txns.find? fun t => t.line = line && t.awaiting.contains n) = some t := by rw [htook]; exact hf
      refine ⟨fun ha => (hhere hl).trans (congrArg _ (congrArg settleErr (snoopAnswer_more hf' ha))), fun ha hd hn => ?_,
        fun ha _ => (hhere hl).trans (congrArg _ (congrArg settleErr (snoopAnswer_last hf' ha)))⟩
      have hline := answering_line hf'
      subst hd
      subst hline
      have hgran : (snoopTaken (tookFrom s n 0xA lm t.line) n t.line crossed none).granary = s.granary := by
        unfold snoopTaken
        cases crossed <;> rfl
      exact grants_of_finish (t := { t with awaiting := t.awaiting.filter (· ≠ n) }) hn hgran fun x hx hg => (hhere hl).trans (congrArg _
        (hto (op := fun s => snoopAnswer (tookFrom s n 0xA lm t.line) n t.line crossed none) ((snoopAnswer_last hf' ha).trans hx) hg))
  case evictions =>
    have hexec : exec c s = .next (settleErr (fromNode s n 8 lm line fun s => evictIn s n line data)) := by
      rcases hc with ⟨rfl, rfl, rfl⟩ | ⟨d, rfl, rfl, rfl⟩
      · exact liveRows_next hup fun s => fromNode s n 8 2 line fun s => evictIn s n line none
      · exact liveRows_next hup fun s => fromNode s n 8 3 line fun s => evictIn s n line (some d)
    obtain ⟨hgone, hhere⟩ := hfrom hexec
    obtain ⟨sent, htook⟩ := tookFrom_kept s n 8 lm line
    refine ⟨hgone, fun hl hs => (hhere hl).trans (congrArg _ ?_), fun hl hs => (hhere hl).trans (congrArg _ (congrArg settleErr (evictIn_taken ?_)))⟩
    · exact hto (op := fun s => evictIn (tookFrom s n 8 lm line) n line data) (evictIn_snooped (by rw [htook]; exact hs)) rfl
    · rw [htook]; exact hs
  case taken =>
    obtain ⟨hsame, hother⟩ := setLine_data line d hw
    exact ⟨setLine_store line d hw, hsame ‹_›, hother⟩
  case goneSet =>
    refine (live_next hup fun s => goneSet s v).trans (congrArg _ (onLedger_congr s ?_))
    by_cases hv : v = 0
    · subst hv
      rw [if_pos rfl, decide_eq_false (not_not_intro rfl), Bool.or_false, show s.ledger.nodeGone ||| 0 = s.ledger.nodeGone from BitVec.or_zero]
    · rw [if_neg hv, decide_eq_true hv, Bool.or_true]
  case still => exact (liveRows_next hup goneFinish).trans (congrArg _ (hto (if_neg (by rw [hb]; exact Bool.false_ne_true)) rfl))
  case gone =>
    obtain ⟨⟨hchg, hcount⟩, hentry⟩ := goneDir_spec s.ledger n
    refine ⟨_, (liveRows_next hup goneFinish).trans (congrArg _ (hto (goneFinish_alone hb hg hr ha) rfl)), ?_, fun i hi => ?_, ?_, hentry⟩
    · refine onLedger_congr s ?_
      rw [hchg]
      rfl
    · exact (vmod_other _ _ _ _ _ fun e : i.val = 5 => by omega).trans (hcount i (by omega))
    · refine (vmod_self _ (5 : Fin 6) _ (by decide)).trans ?_
      rw [hcount 5 (by decide)]
      rfl

end Sys2Proof.Machine
end

section
open Sys2Proof.Laws
namespace Sys2Proof.Machine

/-! ### The ledger cache and its operation slots (13 R306, R311, R314, R317 to R320) -/

section
variable {s : State} {home : NodeId} {line : LineId} {inv : Bool}

/-- The answer to a snoop, with the cache that it leaves. -/
def snoopReply (s : State) (home : NodeId) (line : LineId) (cache : List CacheLine) (crossed : Bool) (data : Option (Vector Word64 8)) : State :=
  onLedger s fun l => { l with cache := cache }.send
    { lmsg home 0xA (if data.isSome then 1 else 0) line with crossed := crossed, data := data }

theorem snoopIn_owned {x : CacheLine} (hx : s.ledger.cached home line = some x) (hm : x.state = .m) :
    snoopIn s home line inv = snoopReply s home line (if inv then s.ledger.cache.erase x
      else s.ledger.cache.map fun y => if y = x then { x with state := .s, dirty := false } else y) false (some x.data) := by
  refine onLedger_congr s ?_
  simp only [hx, hm, if_true]
  rfl

theorem snoopIn_shared {x : CacheLine} (hx : s.ledger.cached home line = some x) (hm : x.state ≠ .m) :
    snoopIn s home line inv = snoopReply s home line (if inv then s.ledger.cache.erase x else s.ledger.cache) false none := by
  refine onLedger_congr s ?_
  simp only [hx, if_neg hm]
  rfl

theorem snoopIn_absent (hx : s.ledger.cached home line = none) (he : (s.ledger.evicts.find? fun e => e.home = home && e.line = line) = none) :
    snoopIn s home line inv = snoopReply s home line s.ledger.cache false none := by
  refine onLedger_congr s ?_
  simp only [hx, he]
  rfl

theorem snoopIn_crossed {e : EvictPend} (hx : s.ledger.cached home line = none)
    (he : (s.ledger.evicts.find? fun e => e.home = home && e.line = line) = some e) :
    snoopIn s home line inv = snoopReply s home line s.ledger.cache true (if e.dirty then some e.data else none) := by
  refine onLedger_congr s ?_
  simp only [hx, he]
  cases e.dirty <;> rfl
end

section
variable {s : State} {home : NodeId} {line : LineId} {st : CacheState} {d : Vector Word64 8}

/-- A line installed in answer to a request. -/
def installed (l : Ledger) (home : NodeId) (line : LineId) (st : CacheState) (d : Vector Word64 8) (r : ReqEntry) : Ledger :=
  { l with
    reqs := l.reqs.erase r
    cache := { home := home, line := line, state := st, dirty := false, data := d } :: l.cache.filter fun y => !y.is home line }

theorem grantIn_none (h : (s.ledger.reqs.find? fun r => r.home = home && r.line = line && r.req = (if st = .s then HomeReq.getS else .getM) && !r.blocked) = none) :
    grantIn s home line st d = s := by
  refine onLedger_same s ?_
  simp only [h]

variable {r : ReqEntry}
  (h : (s.ledger.reqs.find? fun r => r.home = home && r.line = line && r.req = (if st = .s then HomeReq.getS else .getM) && !r.blocked) = some r)
include h

theorem grantIn_alone (hr : r.slot = none) : grantIn s home line st d = onLedger s fun l => (installed l home line st d r).launch := by
  refine onLedger_congr s ?_
  simp only [h, hr]
  rfl

theorem grantIn_performs {k : Fin 4} (hr : r.slot = some k) : grantIn s home line st d = onLedger s fun l =>
    ((installed l home line st d r).perform { home := home, line := line, state := st, dirty := false, data := d } k).launch := by
  refine onLedger_congr s ?_
  simp only [h, hr]
  rfl
end

section
variable {s : State} {home : NodeId} {line : LineId} {old : Word64} {st : Byte}

theorem resultIn_none (h : (s.ledger.reqs.find? fun r => r.home = home && r.line = line && !r.blocked) = none) :
    resultIn s home line old st = s := by
  refine onLedger_same s ?_
  simp only [h]

variable {r : ReqEntry} (h : (s.ledger.reqs.find? fun r => r.home = home && r.line = line && !r.blocked) = some r)
include h

theorem resultIn_alone (hr : r.slot = none) : resultIn s home line old st = onLedger s fun l => { l with reqs := l.reqs.erase r }.launch := by
  refine onLedger_congr s ?_
  simp only [h, hr]

theorem resultIn_slot {k : Fin 4} (hr : r.slot = some k) : resultIn s home line old st = onLedger s fun l =>
    { l with
      reqs := l.reqs.erase r
      slots := vmod l.slots k fun x => { x with busy := false, status := st, result := old } }.launch := by
  refine onLedger_congr s ?_
  simp only [h, hr]
  rfl
end

/-! The slots. -/

theorem opListed_iff (op : Nat) : opListed op = true ↔ op ≤ 4 ∨ (8 ≤ op ∧ op ≤ 12) := by
  unfold opListed
  rw [Bool.or_eq_true, Bool.and_eq_true, decide_eq_true_eq, decide_eq_true_eq, decide_eq_true_eq]

theorem ledgerAddr_iff (a : Addr) : ledgerAddr a = true ↔
    a.toNat % 8 = 0 ∧ 0x2000000000 ≤ a.toNat % 2 ^ 42 ∧ a.toNat % 2 ^ 42 < 0x2000100000 ∧ (2 ^ 47 ≤ a.toNat ∨ a.toNat < 2 ^ 42) := by
  unfold ledgerAddr
  rw [Bool.and_eq_true, Bool.or_eq_true, decide_eq_true_eq, decide_eq_true_eq, decide_eq_true_eq, and_assoc, and_assoc]
  rfl

/-- A home that requests of this node reach. -/
def homeReached (s : State) (home : NodeId) : Prop :=
  home = s.flume.nodeId ∨ (bitOf s.flume.routes[home.val] 31 = true ∧ s.ledger.nodeGone.getLsbD home.val = false)

theorem homeReached_iff (s : State) (home : NodeId) :
    (!decide (home = s.flume.nodeId) && (!bitOf (s.flume.routes[home.val]) 31 || s.ledger.nodeGone.getLsbD home.val)) = false ↔ homeReached s home := by
  unfold homeReached
  rw [Bool.and_eq_false_iff, Bool.or_eq_false_iff, Bool.not_eq_false', Bool.not_eq_false', decide_eq_true_eq]

section
variable (s : State) (k : Fin 4) (v : Word)

/-- The slot with the operation that a write of SLOT_CTL names. -/
def slotOp : LedgerSlot := { s.ledger.slots[k.val] with op := BitVec.ofNat 4 (bitsOf v 3 0) }
/-- The state with another value of the slot. -/
def slotPut (x : LedgerSlot) : State := onLedger s fun l => { l with slots := vmod l.slots k fun _ => x }
/-- The slot's operation, running, and what it asks its home. -/
def slotAsks (req : HomeReq) : State :=
  onLedger (slotPut s k { slotOp s k v with busy := true, since := now s }) fun l =>
    { l with reqs := l.reqs ++ [({ home := homeNode s (s.ledger.slots[k.val]).addr, line := (s.ledger.slots[k.val]).line, req := req, slot := some k, blocked := true } : ReqEntry)] }.launch

variable {s k v}
theorem slotPut_put (x y : LedgerSlot) : slotPut (slotPut s k x) k y = slotPut s k y :=
  onLedger_congr s (f := fun l => { l with slots := vmod (vmod l.slots k fun _ => x) k fun _ => y }) (g := fun l => { l with slots := vmod l.slots k fun _ => y })
    (by rw [vmod_vmod])

theorem slotPut_mod (x : LedgerSlot) (f : LedgerSlot → LedgerSlot) :
    (onLedger (slotPut s k x) fun l => { l with slots := vmod l.slots k f }) = slotPut s k (f x) :=
  onLedger_congr s (f := fun l => { l with slots := vmod (vmod l.slots k fun _ => x) k f }) (g := fun l => { l with slots := vmod l.slots k fun _ => f x })
    (by rw [vmod_vmod])

variable (hb : (s.ledger.slots[k.val]).busy = false)
include hb

theorem slotGo_idle : slotGo s k v =
    let x := s.ledger.slots[k.val]
    let op := bitsOf v 3 0
    let home := homeNode s x.addr
    let u := slotPut s k (slotOp s k v)
    if !bitOf v 31 then u
    else if !opListed op then onLedger u fun l => l.slotDone k stFormat 0
    else if !ledgerAddr x.addr then onLedger u fun l => l.slotDone k stBound 0
    else if !decide (home = s.flume.nodeId) && (!bitOf (s.flume.routes[home.val]) 31 || s.ledger.nodeGone.getLsbD home.val) then
      onLedger u fun l => l.slotDone k stLinkDown 0
    else
      onLedger u fun l =>
        let l := { l with slots := vmod l.slots k fun x => { x with busy := true, since := now s } }
        let ask := fun req => ({ l with reqs := l.reqs ++ [{ home := home, line := x.line, req := req, slot := some k, blocked := true }] } : Ledger).launch
        if 8 ≤ op then ask (.op (fin 16 op) x.word x.operand x.compare)
        else
          match l.cached home x.line with
          | some c => if op = 0 || c.state = .m then l.perform c k else ask .getM
          | none => ask (if op = 0 then .getS else .getM) := by
  have hput : (onLedger s fun l => { l with slots := vmod l.slots k fun x => { x with op := BitVec.ofNat 4 (bitsOf v 3 0) } }) = slotPut s k (slotOp s k v) :=
    onLedger_congr s (f := fun l => { l with slots := vmod l.slots k fun x => { x with op := BitVec.ofNat 4 (bitsOf v 3 0) } })
      (g := fun l => { l with slots := vmod l.slots k fun _ => slotOp s k v })
      (congrArg (fun x => { s.ledger with slots := x }) (vmod_congr _ _ rfl))
  unfold slotGo
  dsimp only
  rw [hb, if_neg Bool.false_ne_true]
  simp only [hput]
  rfl

theorem slotGo_named (hg : bitOf v 31 = false) : slotGo s k v = slotPut s k (slotOp s k v) := by
  rw [slotGo_idle hb]
  exact if_pos (by rw [hg]; rfl)

variable (hg : bitOf v 31 = true)
include hg

omit hb hg in
theorem slotGo_ends {st : Byte} (h : slotGo s k v = onLedger (slotPut s k (slotOp s k v)) fun l => l.slotDone k st 0) :
    slotGo s k v = slotPut s k { slotOp s k v with busy := false, status := st, result := 0 } :=
  h.trans (slotPut_mod (slotOp s k v) fun x => { x with busy := false, status := st, result := 0 })

theorem slotGo_format (hl : ¬ opListed (bitsOf v 3 0) = true) :
    slotGo s k v = slotPut s k { slotOp s k v with busy := false, status := stFormat, result := 0 } := by
  refine slotGo_ends ?_
  rw [slotGo_idle hb]
  dsimp only
  rw [hg, if_neg (by decide), if_pos (by rw [Bool.not_eq_true']; exact Bool.eq_false_iff.mpr hl)]

variable (hl : opListed (bitsOf v 3 0) = true)
include hl

theorem slotGo_bound (ha : ¬ ledgerAddr (s.ledger.slots[k.val]).addr = true) :
    slotGo s k v = slotPut s k { slotOp s k v with busy := false, status := stBound, result := 0 } := by
  refine slotGo_ends ?_
  rw [slotGo_idle hb]
  dsimp only
  rw [hg, if_neg (by decide), hl, if_neg (by decide), if_pos (by rw [Bool.not_eq_true']; exact Bool.eq_false_iff.mpr ha)]

variable (ha : ledgerAddr (s.ledger.slots[k.val]).addr = true)
include ha

theorem slotGo_down (hr : ¬ homeReached s (homeNode s (s.ledger.slots[k.val]).addr)) :
    slotGo s k v = slotPut s k { slotOp s k v with busy := false, status := stLinkDown, result := 0 } := by
  refine slotGo_ends ?_
  rw [slotGo_idle hb]
  dsimp only
  rw [hg, if_neg (by decide), hl, if_neg (by decide), ha, if_neg (by decide), if_pos]
  rw [← homeReached_iff] at hr
  exact Bool.of_not_eq_false hr

variable (hr : homeReached s (homeNode s (s.ledger.slots[k.val]).addr))
include hr

theorem slotGo_starts : slotGo s k v =
    onLedger (slotPut s k { slotOp s k v with busy := true, since := now s }) fun l =>
      let x := s.ledger.slots[k.val]
      let op := bitsOf v 3 0
      let home := homeNode s x.addr
      let ask := fun req => ({ l with reqs := l.reqs ++ [{ home := home, line := x.line, req := req, slot := some k, blocked := true }] } : Ledger).launch
      if 8 ≤ op then ask (.op (fin 16 op) x.word x.operand x.compare)
      else
        match l.cached home x.line with
        | some c => if op = 0 || c.state = .m then l.perform c k else ask .getM
        | none => ask (if op = 0 then .getS else .getM) := by
  rw [slotGo_idle hb]
  dsimp only
  rw [hg, if_neg (by decide), hl, if_neg (by decide), ha, if_neg (by decide), if_neg]
  · rw [← slotPut_mod (slotOp s k v) fun x => { x with busy := true, since := now s }]
    rfl
  · rw [(homeReached_iff ..).mpr hr]; decide

theorem slotGo_home (h8 : 8 ≤ bitsOf v 3 0) :
    slotGo s k v = slotAsks s k v (.op (fin 16 (bitsOf v 3 0)) (s.ledger.slots[k.val]).word (s.ledger.slots[k.val]).operand (s.ledger.slots[k.val]).compare) := by
  rw [slotGo_starts hb hg hl ha hr]
  exact onLedger_congr _ (if_pos h8)

theorem slotGo_absent (h4 : bitsOf v 3 0 ≤ 4) (hc : s.ledger.cached (homeNode s (s.ledger.slots[k.val]).addr) (s.ledger.slots[k.val]).line = none) :
    slotGo s k v = slotAsks s k v (if bitsOf v 3 0 = 0 then .getS else .getM) := by
  rw [slotGo_starts hb hg hl ha hr]
  refine onLedger_congr _ ((if_neg (by omega)).trans ?_)
  have hc' : (slotPut s k { slotOp s k v with busy := true, since := now s }).ledger.cached (homeNode s (s.ledger.slots[k.val]).addr) (s.ledger.slots[k.val]).line = none := hc
  rw [hc']

variable {c : CacheLine} (hc : s.ledger.cached (homeNode s (s.ledger.slots[k.val]).addr) (s.ledger.slots[k.val]).line = some c) (h4 : bitsOf v 3 0 ≤ 4)
include hc h4

theorem slotGo_upgrades (h0 : bitsOf v 3 0 ≠ 0) (hs : c.state = .s) : slotGo s k v = slotAsks s k v .getM := by
  rw [slotGo_starts hb hg hl ha hr]
  refine onLedger_congr _ ((if_neg (by omega)).trans ?_)
  have hc' : (slotPut s k { slotOp s k v with busy := true, since := now s }).ledger.cached (homeNode s (s.ledger.slots[k.val]).addr) (s.ledger.slots[k.val]).line = some c := hc
  rw [hc']
  dsimp only
  rw [if_neg]
  rw [decide_eq_false h0, hs]
  decide

theorem slotGo_performs (h : bitsOf v 3 0 = 0 ∨ c.state = .m) :
    slotGo s k v = onLedger (slotPut s k { slotOp s k v with busy := true, since := now s }) fun l => l.perform c k := by
  rw [slotGo_starts hb hg hl ha hr]
  refine onLedger_congr _ ((if_neg (by omega)).trans ?_)
  have hc' : (slotPut s k { slotOp s k v with busy := true, since := now s }).ledger.cached (homeNode s (s.ledger.slots[k.val]).addr) (s.ledger.slots[k.val]).line = some c := hc
  rw [hc']
  dsimp only
  rw [if_pos]
  rw [Bool.or_eq_true, decide_eq_true_eq, decide_eq_true_eq]
  exact h
end

/-! Operations on a cached word, and timeouts (R317, R320). -/

/-- What a cached operation makes of a word. -/
def cachedNew (op : Nat) (old operand compare : Word64) : Word64 :=
  if op = 1 ∨ op = 3 then operand else if op = 2 then old + operand else if op = 4 ∧ old = compare then operand else old

theorem wordOp_cached {op : Nat} (h : op ≤ 4) (old operand compare : Word64) :
    wordOp op old operand compare = (cachedNew op old operand compare, if op = 1 then 0 else old) := by
  unfold cachedNew wordOp
  have hcases : op = 0 ∨ op = 1 ∨ op = 2 ∨ op = 3 ∨ op = 4 := by omega
  rcases hcases with rfl | rfl | rfl | rfl | rfl <;> simp

theorem perform_cached {l : Ledger} (c : CacheLine) {k : Fin 4} {x : LedgerSlot} {op : Nat} (hx : l.slots[k.val] = x) (hop : bitsOf x.op 3 0 = op) (h : op ≤ 4) :
    l.perform c k = { l with
      cache := { c with
        data := vmod c.data x.word fun _ => cachedNew op c.data[x.word.val] x.operand x.compare
        dirty := c.dirty || decide (op ≠ 0) } :: l.cache.erase c
      slots := vmod l.slots k fun x' => { x' with busy := false, status := 0, result := if op = 1 then 0 else c.data[x.word.val] } } := by
  subst hx hop
  unfold Ledger.perform
  dsimp only
  rw [wordOp_cached h]
  rfl

theorem bitsOf_named (v : Word) : bitsOf (BitVec.ofNat 4 (bitsOf v 3 0)) 3 0 = bitsOf v 3 0 := by
  have h : bitsOf v 3 0 < 2 ^ 4 := bitsOf_lt ..
  unfold bitsOf at *
  rw [BitVec.toNat_ofNat]
  omega

theorem perform_running {s : State} {k : Fin 4} {v : Word} (c : CacheLine) (h : bitsOf v 3 0 ≤ 4) :
    (onLedger (slotPut s k { slotOp s k v with busy := true, since := now s }) fun l => l.perform c k) =
      onLedger s fun l => { l with
        cache := { c with
          data := vmod c.data (s.ledger.slots[k.val]).word fun _ =>
            cachedNew (bitsOf v 3 0) c.data[(s.ledger.slots[k.val]).word.val] (s.ledger.slots[k.val]).operand (s.ledger.slots[k.val]).compare
          dirty := c.dirty || decide (bitsOf v 3 0 ≠ 0) } :: l.cache.erase c
        slots := vmod l.slots k fun _ => { slotOp s k v with
          busy := false
          since := now s
          status := 0
          result := if bitsOf v 3 0 = 1 then 0 else c.data[(s.ledger.slots[k.val]).word.val] } } := by
  have hslot : (slotPut s k { slotOp s k v with busy := true, since := now s }).ledger.slots[k.val] = { slotOp s k v with busy := true, since := now s } :=
    vmod_self ..
  refine onLedger_congr s (f := fun l => ({ l with slots := vmod l.slots k fun _ => { slotOp s k v with busy := true, since := now s } } : Ledger).perform c k) ?_
  refine (perform_cached c hslot (bitsOf_named v) h).trans ?_
  refine congrArg (fun x => ({ s.ledger with cache := _, slots := x } : Ledger)) ?_
  refine (vmod_vmod s.ledger.slots k (fun _ => { slotOp s k v with busy := true, since := now s }) _).trans ?_
  rfl

theorem slotTimeout_running {s : State} {k : Fin 4}
    (h : ¬ ((s.ledger.slots[k.val]).busy = true ∧ (s.ledger.slots[k.val]).since.toNat / 1000 + (atLeast1 (bitsOf s.ledger.cfg 15 0)) + 1 ≤ (now s).toNat / 1000)) :
    slotTimeout s k = s := by
  refine if_neg ?_
  rw [Bool.and_eq_true, usElapsed_iff]
  exact h

theorem slotTimeout_ends {s : State} {k : Fin 4} (hb : (s.ledger.slots[k.val]).busy = true)
    (h : (s.ledger.slots[k.val]).since.toNat / 1000 + (atLeast1 (bitsOf s.ledger.cfg 15 0)) + 1 ≤ (now s).toNat / 1000) :
    slotTimeout s k = raiseBell (onLedger s fun l =>
      { (l.count 3 : Ledger) with
        slots := vmod l.slots k fun x => { x with busy := false, status := stTimeout }
        reqs := (l.reqs.filter fun r => !(r.slot = some k && r.blocked)).map fun r => if r.slot = some k then { r with slot := none } else r })
      (fin 256 (bitsOf s.ledger.cfg 23 16)) := by
  refine (if_pos ?_).trans (congrArg (fun u => raiseBell u (fin 256 (bitsOf s.ledger.cfg 23 16))) (onLedger_congr s ?_))
  · rw [Bool.and_eq_true, usElapsed_iff]
    exact ⟨hb, h⟩
  · refine congrArg (fun x => ({ (s.ledger.count 3 : Ledger) with slots := x, reqs := _ } : Ledger)) ?_
    exact vmod_congr s.ledger.slots k (f := fun x => { x with busy := false, status := stTimeout, result := (s.ledger.slots[k.val]).result }) rfl

/-- Settles O45: what the cache and the slots do with each message and write, by the rule of the operation it runs. -/
theorem cachesAnswerSnoopsAndPerformOperations : Obligations.CachesAnswerSnoopsAndPerformOperations := by
  intro s home line hup hq
  have hfrom {c : Instr} {kind lm : Nat} {f : State → State} (hc : exec c s = .next (fromNode s home kind lm line f)) :
      (s.ledger.nodeGone.getLsbD home.val = true →
        exec c s = .next (onLedger (tookFrom s home kind lm line) fun l => { l with goneDiscarded := bump l.goneDiscarded })) ∧
      (∀ {x}, ¬ s.ledger.nodeGone.getLsbD home.val = true → f (tookFrom s home kind lm line) = x → exec c s = .next x) :=
    ⟨fun hl => hc.trans (congrArg _ (fromNode_gone hl)), fun hl hx => hc.trans (congrArg _ ((fromNode_here hl).trans hx))⟩
  refine ⟨fun c inv hc => ?snoops, fun c st d hc => ?grants, ?acks, fun old st => ?results, fun k v => ?slots, fun k => ?timeouts⟩
  case snoops =>
    have hexec : exec c s = .next (fromNode s home 9 (if inv then 1 else 0) line fun s => snoopIn s home line inv) := by
      rcases hc with ⟨rfl, rfl⟩ | ⟨rfl, rfl⟩
      · exact live_next hup fun s => fromNode s home 9 0 line fun s => snoopIn s home line false
      · exact live_next hup fun s => fromNode s home 9 1 line fun s => snoopIn s home line true
    obtain ⟨hgone, hhere⟩ := hfrom hexec
    obtain ⟨sent, htook⟩ := tookFrom_kept s home 9 (if inv then 1 else 0) line
    rw [htook] at hgone hhere
    dsimp only [tookFrom] at htook
    dsimp only
    rw [htook]
    refine ⟨hgone, fun x hl hx => ⟨fun hi => ?_, fun hi hm => ?_, fun hi hs => ?_⟩, fun hl hx he => ?_, fun e hl hx he => ?_⟩
    · subst hi
      by_cases hm : x.state = .m
      · rw [if_pos hm]
        exact hhere hl (snoopIn_owned hx hm)
      · rw [if_neg hm]
        exact hhere hl (snoopIn_shared hx hm)
    · subst hi
      exact hhere hl (snoopIn_owned hx hm)
    · subst hi
      exact hhere hl (snoopIn_shared hx (by rw [hs]; decide))
    · exact hhere hl (snoopIn_absent hx he)
    · exact hhere hl (snoopIn_crossed hx he)
  case grants =>
    have hexec : exec c s = .next (fromNode s home 0xB (if st = .s then 0 else 1) line fun s => grantIn s home line st d) := by
      rcases hc with ⟨rfl, rfl⟩ | ⟨rfl, rfl⟩
      · exact live_next hup fun s => fromNode s home 0xB 0 line fun s => grantIn s home line .s d
      · exact live_next hup fun s => fromNode s home 0xB 1 line fun s => grantIn s home line .m d
    obtain ⟨hgone, hhere⟩ := hfrom hexec
    obtain ⟨sent, htook⟩ := tookFrom_kept s home 0xB (if st = .s then 0 else 1) line
    rw [htook] at hgone hhere
    dsimp only [tookFrom] at htook
    dsimp only
    rw [htook]
    exact ⟨hgone, fun hl hn => hhere hl (grantIn_none hn),
      fun r hl hr => ⟨fun hk => hhere hl (grantIn_alone hr hk), fun k hk => hhere hl (grantIn_performs (s := onLedger s fun l => { l with sent := sent }) (d := d) hr hk)⟩⟩
  case acks =>
    have hexec : exec (.evictAck home line) s = .next (fromNode s home 0xB 2 line fun s => evictAcked s home line) :=
      live_next hup fun s => fromNode s home 0xB 2 line fun s => evictAcked s home line
    obtain ⟨hgone, hhere⟩ := hfrom hexec
    exact ⟨hgone, fun hl => hhere hl rfl⟩
  case results =>
    have hexec : exec (.homeResult home line old st) s = .next (fromNode s home 0xB 3 line fun s => resultIn s home line old st) :=
      live_next hup fun s => fromNode s home 0xB 3 line fun s => resultIn s home line old st
    obtain ⟨hgone, hhere⟩ := hfrom hexec
    obtain ⟨sent, htook⟩ := tookFrom_kept s home 0xB 3 line
    rw [htook] at hgone hhere
    dsimp only [tookFrom] at htook
    dsimp only
    rw [htook]
    exact ⟨hgone, fun hl hn => hhere hl (resultIn_none hn), fun r k hl hr hk => hhere hl (resultIn_slot (s := onLedger s fun l => { l with sent := sent }) (old := old) (st := st) hr hk),
      fun r hl hr hk => hhere hl (resultIn_alone hr hk)⟩
  case slots =>
    have hexec {t : State} (h : slotGo s k v = t) : exec (.ledgerOpGo k v) s = .next t := (live_next hup fun s => slotGo s k v).trans (congrArg _ h)
    refine ⟨fun hb => hexec (if_pos hb), fun hb hg => hexec (slotGo_named hb hg), fun hb hg hl => hexec (slotGo_format hb hg ?_),
      fun hb hg hl ha => hexec (slotGo_bound hb hg ((opListed_iff _).mpr hl) ?_),
      fun hb hg hl ha hr => hexec (slotGo_down hb hg ((opListed_iff _).mpr hl) ((ledgerAddr_iff _).mpr ha) hr),
      fun ⟨hb, hg, hl, ha, hr⟩ h8 => hexec (slotGo_home hb hg ((opListed_iff _).mpr hl) ((ledgerAddr_iff _).mpr ha) hr h8),
      fun ⟨hb, hg, hl, ha, hr⟩ h4 hc => hexec (slotGo_absent hb hg ((opListed_iff _).mpr hl) ((ledgerAddr_iff _).mpr ha) hr h4 hc),
      fun c ⟨hb, hg, hl, ha, hr⟩ h4 hc => ⟨fun h0 hs => hexec (slotGo_upgrades hb hg ((opListed_iff _).mpr hl) ((ledgerAddr_iff _).mpr ha) hr hc h4 h0 hs),
        fun h => hexec ((slotGo_performs hb hg ((opListed_iff _).mpr hl) ((ledgerAddr_iff _).mpr ha) hr hc h4 h).trans (perform_running c h4))⟩⟩
    · rw [opListed_iff]; exact hl
    · rw [ledgerAddr_iff]; exact ha
  case timeouts =>
    refine ⟨fun h => ?_, fun h => (liveRows_next hup fun s => slotTimeout s k).trans (congrArg _ (congrArg settleErr (slotTimeout_ends h.1 h.2)))⟩
    exact (liveRows_next hup fun s => slotTimeout s k).trans (next_of_quiet (slotTimeout_running h) hq)

end Sys2Proof.Machine
end

section
open Sys2Proof.Laws
namespace Sys2Proof.Machine

/-! ### Units of the Vault read and written (14 R331 to R333, R337) -/

/-- What reading correctable units changes of the Vault: read counts, and CW_READ, retries, soft decodes and MAX_BITS. -/
def VaultRead (v w : Vault) : Prop :=
  w = { v with blocks := w.blocks, counters := w.counters, maxBits := w.maxBits } ∧ ∀ i : Fin 10, 3 ≤ i.val → w.counters[i.val] = v.counters[i.val]

theorem VaultRead.refl (v : Vault) : VaultRead v v := ⟨rfl, fun _ _ => rfl⟩

theorem VaultRead.trans {u v w : Vault} (h : VaultRead u v) (k : VaultRead v w) : VaultRead u w := by
  refine ⟨?_, fun i hi => (k.2 i hi).trans (h.2 i hi)⟩
  rw [k.1, h.1]

theorem VaultRead.unitBytes {v w : Vault} (h : VaultRead v w) (boot : Bool) (u : Nat) : w.unitBytes boot u = v.unitBytes boot u := by
  rw [h.1]; rfl

theorem count_read (v : Vault) {j : Fin 10} (hj : j.val < 3) : VaultRead v (v.count j) :=
  ⟨rfl, fun i hi => vmod_other _ _ _ _ _ fun e : i.val = j.val => by omega⟩

theorem maxBits_read (v : Vault) (b : BitVec 16) : VaultRead v { v with maxBits := b } := ⟨rfl, fun _ _ => rfl⟩

theorem decode_read (v : Vault) {c : Codeword} (h : c ≠ .uncorr) : VaultRead v (v.decode c) := by
  cases c with
  | hard b => exact (count_read v (j := 0) (by decide)).trans (maxBits_read _ _)
  | retry b => exact ((count_read v (j := 0) (by decide)).trans (count_read _ (j := 1) (by decide))).trans (maxBits_read _ _)
  | soft b => exact ((count_read v (j := 0) (by decide)).trans (count_read _ (j := 2) (by decide))).trans (maxBits_read _ _)
  | uncorr => exact absurd rfl h

/-- An uncorrectable codeword counts a read and a failure. -/
theorem decode_uncorr (v : Vault) :
    v.decode .uncorr = { v with counters := (v.decode .uncorr).counters } ∧ (v.decode .uncorr).counters[3] = bump v.counters[3] := by
  refine ⟨rfl, ?_⟩
  show (vmod (vmod v.counters 0 fun x => bump x 1) (3 : Fin 10) fun x => bump x 1)[3] = _
  refine (vmod_self _ (3 : Fin 10) _ (by decide)).trans ?_
  exact congrArg (fun x => bump x 1) (vmod_other v.counters (0 : Fin 10) _ 3 (by decide) (by decide))

/-- The bytes of a partition. -/
def vaultBytes (v : Vault) (part : Nat) : Memory := if part = 0 then v.boot else if part = 1 then v.dataPart else v.anchors[0]

/-- A unit read at the head of the codewords. -/
def unitRead (v : Vault) (part u : Nat) (c : Codeword) : Option (List Byte) × Vault :=
  if part = 2 then (if c = .uncorr then none else some (readBytes v.anchors[0] (4096 * u) 4096), v.decode c) else v.readUnit (part = 0) u c

theorem unitRead_ok (v : Vault) {part : Nat} (u : Nat) {c : Codeword} (hp : part ≤ 2) (hc : c ≠ .uncorr) :
    ∃ w, unitRead v part u c = (some (readBytes (vaultBytes v part) (4096 * u) 4096), w) ∧ VaultRead v w := by
  unfold unitRead vaultBytes
  by_cases h2 : part = 2
  · subst h2
    refine ⟨v.decode c, ?_, decode_read v hc⟩
    rw [if_pos rfl, if_neg hc]
    rfl
  · have hbytes : v.unitBytes (part = 0) u = readBytes (if part = 0 then v.boot else if part = 1 then v.dataPart else v.anchors[0]) (4096 * u) 4096 := by
      unfold Vault.unitBytes
      by_cases h0 : part = 0
      · rw [decide_eq_true h0, if_pos rfl, if_pos h0]
      · rw [decide_eq_false h0, if_neg Bool.false_ne_true, if_neg h0, if_pos (by omega)]
    rw [if_neg h2, ← hbytes]
    unfold Vault.readUnit
    split
    · exact ⟨_, rfl, .refl v⟩
    · next i _ =>
      dsimp only
      have hw := VaultRead.trans (u := v) (v := v.onBlock i fun b => { b with reads := b.reads + 1 }) ⟨rfl, fun _ _ => rfl⟩ (decode_read _ hc)
      rw [if_neg hc, hw.unitBytes]
      exact ⟨_, rfl, hw⟩

theorem unitRead_uncorr (v : Vault) {part u : Nat} (h : part = 2 ∨ ∃ i, v.holder (decide (part = 0)) u = some i) :
    ∃ w, unitRead v part u .uncorr = (none, w) ∧ w = { v with blocks := w.blocks, counters := w.counters } ∧ w.counters[3] = bump v.counters[3] := by
  unfold unitRead
  by_cases h2 : part = 2
  · subst h2
    exact ⟨v.decode .uncorr, rfl, (decode_uncorr v).1, (decode_uncorr v).2⟩
  · obtain ⟨i, hi⟩ := h.resolve_left h2
    rw [if_neg h2]
    unfold Vault.readUnit
    rw [hi]
    have hdec := decode_uncorr (v.onBlock i fun b => { b with reads := b.reads + 1 })
    exact ⟨_, rfl, hdec.1, hdec.2⟩

theorem readUnits_succ (s : State) (op : VaultOp) (a : Nat) (cws : List Codeword) (n k : Nat) :
    readUnits s op a cws (n + 1) k =
      match unitRead s.vault op.part (op.unit + k) (cws.head?.getD (.hard 0)) with
      | (none, v) => (some (stUncorr, 0x85), k, { s with vault := v })
      | (some bs, v) =>
        match writeRange { s with vault := v } none (a + 4096 * k) bs with
        | (st, s) => if st ≠ .ok then (some (netReceipt st), k, s) else readUnits s op a (cws.drop 1) n (k + 1) := by
  rw [readUnits]
  unfold unitRead
  by_cases h2 : op.part = 2
  · by_cases hc : cws.head?.getD (.hard 0) = .uncorr
    · simp only [h2, hc, if_true, decide_true, Bool.and_self]
    · simp only [h2, hc, if_true, if_false, decide_true, decide_false, Bool.and_false, Bool.false_eq_true]
  · simp only [h2, if_false, decide_false, Bool.false_and, Bool.false_eq_true]
    rcases s.vault.readUnit (decide (op.part = 0)) (op.unit + k) (cws.head?.getD (.hard 0)) with ⟨_ | bs, v⟩ <;> rfl

/-- Units copied from the Vault to the rows at `a`. -/
structure UnitsRead (s w : State) (part from_ a n : Nat) : Prop where
  rest : w = { s with mem := w.mem, granary := { s.granary with poison := w.granary.poison, banks := w.granary.banks }, vault := w.vault }
  vault : VaultRead s.vault w.vault
  canonical : Memory.wf s.mem = true → Memory.wf w.mem = true
  bytes : Memory.wf s.mem = true → ∀ i, i < n → readByte w.mem (a + i) = readByte (vaultBytes s.vault part) (from_ + i)
  outside : ∀ b, (b < a ∨ a + n ≤ b) → readByte w.mem b = readByte s.mem b

theorem UnitsRead.nil (s : State) (part from_ a : Nat) : UnitsRead s s part from_ a 0 :=
  ⟨rfl, .refl _, id, fun _ _ h => absurd h (Nat.not_lt_zero _), fun _ _ => rfl⟩

theorem VaultRead.bytes {v w : Vault} (h : VaultRead v w) (part : Nat) : vaultBytes w part = vaultBytes v part := by
  rw [h.1]; rfl

theorem UnitsRead.trans {s t w : State} {part from_ a n m : Nat} (h : UnitsRead s t part from_ a n) (k : UnitsRead t w part (from_ + n) (a + n) m) :
    UnitsRead s w part from_ a (n + m) where
  rest := by rw [k.rest, h.rest]
  vault := h.vault.trans k.vault
  canonical hw := k.canonical (h.canonical hw)
  bytes hw i hi := by
    by_cases hn : i < n
    · rw [k.outside _ (.inl (by omega)), h.bytes hw i hn]
    · have hb := k.bytes (h.canonical hw) (i - n) (by omega)
      rw [h.vault.bytes, show a + n + (i - n) = a + i by omega, show from_ + n + (i - n) = from_ + i by omega] at hb
      exact hb
  outside b hb := by
    rw [k.outside b (by omega), h.outside b (by omega)]

theorem readByte_readBytes (m : Memory) (a n i : Nat) (h : i < (readBytes m a n).length) : (readBytes m a n)[i] = readByte m (a + i) := by
  have heq : (readBytes m a n)[i] = ((List.range n).map fun i => readByte m (a + i))[i]'(by rw [← readBytes_eq]; exact h) := by
    congr 1
    exact readBytes_eq m a n
  rw [heq, List.getElem_map, List.getElem_range]

/-- One unit copied to rows that answer. -/
theorem writeRange_unit {s : State} {v : Vault} {part from_ a n : Nat} (hv : VaultRead s.vault v) (h : rowsOk s none a n) :
    ∃ t, writeRange { s with vault := v } none a (readBytes (vaultBytes s.vault part) from_ n) = (.ok, t) ∧ UnitsRead s t part from_ a n ∧
      ∀ b l, rowsOk s none b l → rowsOk t none b l := by
  have hlen : (readBytes (vaultBytes s.vault part) from_ n).length = n := length_readBytes ..
  have hrows : rowsOk { s with vault := v } none a (readBytes (vaultBytes s.vault part) from_ n).length := by rw [hlen]; exact h
  have hkeeps {b l : Nat} (hb : rowsOk s none b l) := writeRange_keeps (s := { s with vault := v }) (by_ := none) hrows (b := b) (len := l) hb
  obtain ⟨g, hwrite, hg, -⟩ := writeRange_ok hrows
  rw [hwrite] at hkeeps
  refine ⟨_, hwrite, ⟨?_, hv, writeBytes_wf a _, fun hw i hi => ?_, fun b hb => ?_⟩, fun b l => hkeeps⟩
  · dsimp only
    rw [← hg]
  · refine (readByte_writeBytes hw i (by rw [hlen]; exact hi)).trans (readByte_readBytes ..)
  · exact readByte_writeBytes_other (by rw [hlen]; exact hb)

theorem readUnits_ok {op : VaultOp} (hp : op.part ≤ 2) (a : Nat) (n : Nat) : ∀ (s : State) (cws : List Codeword) (k : Nat),
    (∀ w ∈ cws, w ≠ .uncorr) → (∀ i, k ≤ i → i < k + n → rowsOk s none (a + 4096 * i) 4096) →
    ∃ w, readUnits s op a cws n k = (none, k + n, w) ∧ UnitsRead s w op.part (4096 * (op.unit + k)) (a + 4096 * k) (4096 * n) := by
  induction n with
  | zero => exact fun s _ k _ _ => ⟨s, rfl, .nil ..⟩
  | succ n ih =>
    intro s cws k hc hrows
    have hhead : cws.head?.getD (.hard 0) ≠ .uncorr := by
      cases cws with
      | nil => exact fun h => nomatch h
      | cons c cs => exact hc c List.mem_cons_self
    obtain ⟨v, hread, hv⟩ := unitRead_ok s.vault (op.unit + k) hp hhead
    obtain ⟨t, hwrite, hunit, hkeeps⟩ := writeRange_unit (part := op.part) (from_ := 4096 * (op.unit + k)) hv (hrows k (Nat.le_refl k) (by omega))
    obtain ⟨w, hrest, hunits⟩ := ih t (cws.drop 1) (k + 1) (fun w hw => hc w (List.mem_of_mem_drop hw))
      fun i h1 h2 => hkeeps _ _ (hrows i (by omega) (by omega))
    refine ⟨w, ?_, ?_⟩
    · rw [readUnits_succ, hread]
      dsimp only
      rw [hwrite]
      dsimp only
      rw [if_neg (by decide), hrest, show k + 1 + n = k + (n + 1) by omega]
    · rw [show 4096 * (n + 1) = 4096 + 4096 * n by omega]
      rw [show 4096 * (op.unit + (k + 1)) = 4096 * (op.unit + k) + 4096 by omega, show a + 4096 * (k + 1) = a + 4096 * k + 4096 by omega] at hunits
      exact hunit.trans hunits

theorem readUnits_uncorr {s : State} {op : VaultOp} (a : Nat) {cws : List Codeword} {n : Nat} (hn : 1 ≤ n) (hc : cws.head? = some .uncorr)
    (h : op.part = 2 ∨ ∃ i, s.vault.holder (decide (op.part = 0)) op.unit = some i) :
    ∃ v, readUnits s op a cws n 0 = (some (stUncorr, 0x85), 0, { s with vault := v }) ∧
      v = { s.vault with blocks := v.blocks, counters := v.counters } ∧ v.counters[3] = bump s.vault.counters[3] := by
  obtain ⟨v, hread, hv, hcount⟩ := unitRead_uncorr s.vault (u := op.unit + 0) h
  obtain ⟨m, rfl⟩ := Nat.exists_eq_add_of_le' hn
  refine ⟨v, ?_, hv, hcount⟩
  rw [readUnits_succ, hc]
  dsimp only [Option.getD]
  rw [hread]

/-! Units written. -/

theorem block_onBlock (v : Vault) (i j : Nat) (f : NandBlock → NandBlock) :
    (v.onBlock j f).block i = if j = i ∧ i < v.blocks.length then f (v.block i) else v.block i := by
  unfold Vault.onBlock Vault.block listSet
  rw [List.getD_eq_getElem?_getD, List.getD_eq_getElem?_getD, List.getElem?_modify]
  by_cases hi : i < v.blocks.length
  · rw [List.getElem?_eq_getElem hi]
    by_cases hj : j = i
    · rw [if_pos ⟨hj, hi⟩]; simp [hj]
    · rw [if_neg (fun h => hj h.1)]; simp [hj]
  · rw [List.getElem?_eq_none (Nat.le_of_not_lt hi), if_neg (fun h => hi h.2)]
    rfl

theorem onBlock_length (v : Vault) (j : Nat) (f : NandBlock → NandBlock) : (v.onBlock j f).blocks.length = v.blocks.length := List.length_modify ..

/-- The bytes of BOOT or of DATA. -/
def vaultMem (v : Vault) (boot : Bool) : Memory := if boot then v.boot else v.dataPart

/-- The Vault with one live unit less in the block that holds a unit. -/
def unitDropped (v : Vault) (boot : Bool) (u : Nat) : Vault :=
  match v.holder boot u with
  | some old => v.onBlock old fun b => { b with live := b.live - 1 }
  | none => v

/-- The Vault with a unit made durable in a block. -/
def unitPut (v : Vault) (boot : Bool) (i u : Nat) (bs : List Byte) : Vault :=
  let w := (unitDropped v boot u).onBlock i fun b => { b with used := b.used + 1, live := b.live + 1 }
  Vault.stats { w with
    map := sSet v.map (mapKey boot u) (BitVec.ofNat 32 (i + 1))
    boot := if boot then writeBytes v.boot (4096 * u) bs else v.boot
    dataPart := if boot then v.dataPart else writeBytes v.dataPart (4096 * u) bs }

theorem unitDropped_rest (v : Vault) (boot : Bool) (u : Nat) : unitDropped v boot u = { v with blocks := (unitDropped v boot u).blocks } := by
  unfold unitDropped
  split <;> rfl

theorem unitDropped_block (v : Vault) (boot : Bool) (u i : Nat) :
    ((unitDropped v boot u).block i).bad = (v.block i).bad ∧ ((unitDropped v boot u).block i).used = (v.block i).used ∧
      (unitDropped v boot u).blocks.length = v.blocks.length := by
  unfold unitDropped
  split
  · next old _ =>
    rw [onBlock_length, block_onBlock]
    split <;> exact ⟨rfl, rfl, rfl⟩
  · exact ⟨rfl, rfl, rfl⟩

/-- The block being filled has room for `n` units, and the stores are canonical. -/
structure RoomFor (v : Vault) (boot : Bool) (i n : Nat) : Prop where
  opened : v.openOf boot = some i
  good : (v.block i).bad = false
  room : (v.block i).used + n ≤ v.unitsOf boot
  index : i < v.blocks.length ∧ i + 1 < 2 ^ 32
  canonical : Memory.wf (vaultMem v boot) = true ∧ sWf v.map = true

theorem writeUnit_room {s : State} {boot : Bool} {i n u : Nat} (h : RoomFor s.vault boot i (n + 1)) (bs : List Byte) {c : Codeword} (hc : c ≠ .uncorr) :
    writeUnit s boot u bs c = some { s with vault := unitPut s.vault boot i u bs } := by
  have hroom := h.room
  have htarget : s.vault.target boot = some (i, s.vault) := by
    unfold Vault.target
    rw [h.opened]
    refine if_pos ?_
    rw [h.good, decide_eq_true (by omega)]
    rfl
  unfold writeUnit unitPut unitDropped
  rw [htarget]
  dsimp only
  rw [if_pos hc]
  rcases s.vault.holder boot u with _ | old <;> cases boot <;> rfl

theorem unitPut_room {v : Vault} {boot : Bool} {i n u : Nat} (h : RoomFor v boot i (n + 1)) (bs : List Byte) : RoomFor (unitPut v boot i u bs) boot i n := by
  have hrest := unitDropped_rest v boot u
  obtain ⟨hbad, hused, hlen⟩ := unitDropped_block v boot u i
  have hblock : (unitPut v boot i u bs).block i = { (unitDropped v boot u).block i with
      used := ((unitDropped v boot u).block i).used + 1, live := ((unitDropped v boot u).block i).live + 1 } := by
    refine (block_onBlock (unitDropped v boot u) i i _).trans (if_pos ⟨rfl, ?_⟩)
    rw [hlen]
    exact h.index.1
  obtain ⟨hmem, hmap⟩ := h.canonical
  refine ⟨?_, ?_, ?_, ⟨?_, h.index.2⟩, ?_, sSet_wf _ _ hmap⟩
  · have hopen : (unitPut v boot i u bs).openOf boot = (unitDropped v boot u).openOf boot := rfl
    rw [hopen, hrest]
    exact h.opened
  · rw [hblock]
    exact hbad.trans h.good
  · have hunits : (unitPut v boot i u bs).unitsOf boot = (unitDropped v boot u).unitsOf boot := rfl
    rw [hblock, hunits, hrest]
    have hroom := h.room
    show ((unitDropped v boot u).block i).used + 1 + n ≤ v.unitsOf boot
    omega
  · have hlen' : (unitPut v boot i u bs).blocks.length = (unitDropped v boot u).blocks.length := onBlock_length ..
    rw [hlen', hlen]
    exact h.index.1
  · cases boot <;> exact writeBytes_wf _ _ hmem

/-- Units of the rows at `a` made durable in the block `i`. -/
structure UnitsStored (m : Memory) (boot : Bool) (i u a n : Nat) (v w : Vault) : Prop where
  other : vaultMem w (!boot) = vaultMem v (!boot)
  bytes : ∀ k, k < 4096 * n → readByte (vaultMem w boot) (4096 * u + k) = readByte m (a + k)
  outside : ∀ b, (b < 4096 * u ∨ 4096 * (u + n) ≤ b) → readByte (vaultMem w boot) b = readByte (vaultMem v boot) b
  held : ∀ k, k < n → w.holder boot (u + k) = some i
  kept : ∀ k, (k < u ∨ u + n ≤ k) → w.holder boot k = v.holder boot k

theorem UnitsStored.nil (m : Memory) (boot : Bool) (i u a : Nat) (v : Vault) : UnitsStored m boot i u a 0 v v :=
  ⟨rfl, fun _ h => absurd h (Nat.not_lt_zero _), fun _ _ => rfl, fun _ h => absurd h (Nat.not_lt_zero _), fun _ _ => rfl⟩

theorem UnitsStored.trans {m : Memory} {boot : Bool} {i u a n k : Nat} {v w x : Vault} (h : UnitsStored m boot i u a n v w)
    (h' : UnitsStored m boot i (u + n) (a + 4096 * n) k w x) : UnitsStored m boot i u a (n + k) v x where
  other := h'.other.trans h.other
  bytes b hb := by
    by_cases hn : b < 4096 * n
    · rw [h'.outside _ (.inl (by omega)), h.bytes b hn]
    · have hbyte := h'.bytes (b - 4096 * n) (by omega)
      rwa [show 4096 * (u + n) + (b - 4096 * n) = 4096 * u + b by omega, show a + 4096 * n + (b - 4096 * n) = a + b by omega] at hbyte
  outside b hb := by rw [h'.outside b (by omega), h.outside b (by omega)]
  held j hj := by
    by_cases hn : j < n
    · rw [h'.kept _ (.inl (by omega)), h.held j hn]
    · have hheld := h'.held (j - n) (by omega)
      rwa [show u + n + (j - n) = u + j by omega] at hheld
  kept j hj := by rw [h'.kept j (by omega), h.kept j (by omega)]

theorem mapKey_inj {boot : Bool} {u v : Nat} (h : mapKey boot u = mapKey boot v) : u = v := by
  unfold mapKey at h
  cases boot <;> simp only [Bool.false_eq_true, if_false, if_true] at h <;> omega

theorem unitPut_mem (v : Vault) (boot : Bool) (i u : Nat) (bs : List Byte) :
    vaultMem (unitPut v boot i u bs) boot = writeBytes (vaultMem v boot) (4096 * u) bs ∧ vaultMem (unitPut v boot i u bs) (!boot) = vaultMem v (!boot) := by
  cases boot
  · exact ⟨rfl, rfl⟩
  · exact ⟨rfl, rfl⟩

theorem unitPut_stored {m : Memory} {v : Vault} {boot : Bool} {i n u a : Nat} (h : RoomFor v boot i n) :
    UnitsStored m boot i u a 1 v (unitPut v boot i u (readBytes m a 4096)) := by
  obtain ⟨hmem, hmap⟩ := h.canonical
  obtain ⟨hbytes, hother⟩ := unitPut_mem v boot i u (readBytes m a 4096)
  have hlen : (readBytes m a 4096).length = 4096 := length_readBytes ..
  refine ⟨hother, fun k hk => ?_, fun b hb => ?_, fun k hk => ?_, fun k hk => ?_⟩
  · rw [hbytes, readByte_writeBytes hmem k (by rw [hlen]; omega), readByte_readBytes]
  · rw [hbytes, readByte_writeBytes_other (by rw [hlen]; omega)]
  · obtain rfl : k = 0 := by omega
    have hget : sGet (unitPut v boot i u (readBytes m a 4096)).map (mapKey boot (u + 0)) = BitVec.ofNat 32 (i + 1) := sGet_sSet_same _ hmap
    have hnat : (BitVec.ofNat 32 (i + 1)).toNat = i + 1 := by
      rw [BitVec.toNat_ofNat]
      exact Nat.mod_eq_of_lt h.index.2
    unfold Vault.holder
    dsimp only
    rw [hget, if_neg (fun h0 => by rw [h0] at hnat; cases hnat), hnat]
    rfl
  · have hget : sGet (unitPut v boot i u (readBytes m a 4096)).map (mapKey boot k) = sGet v.map (mapKey boot k) :=
      sGet_sSet_other _ fun e => by have := mapKey_inj e; omega
    unfold Vault.holder
    rw [hget]

theorem writeUnits_ok {op : VaultOp} (a : Nat) {i : Nat} (n : Nat) : ∀ (s : State) (cws : List Codeword) (k : Nat),
    (∀ w ∈ cws, w ≠ .uncorr) → (∀ i, k ≤ i → i < k + n → rowsOk s none (a + 4096 * i) 4096) → RoomFor s.vault (decide (op.part = 0)) i n →
    ∃ w, writeUnits s op a cws n k = (none, k + n, { s with vault := w }) ∧
      UnitsStored s.mem (decide (op.part = 0)) i (op.unit + k) (a + 4096 * k) n s.vault w := by
  induction n with
  | zero => exact fun s _ k _ _ _ => ⟨s.vault, rfl, .nil ..⟩
  | succ n ih =>
    intro s cws k hc hrows hroom
    have hhead : cws.head?.getD (.hard 0) ≠ .uncorr := by
      cases cws with
      | nil => exact fun h => nomatch h
      | cons c cs => exact hc c List.mem_cons_self
    obtain ⟨w, hrest, hunits⟩ := ih { s with vault := unitPut s.vault (decide (op.part = 0)) i (op.unit + k) (readBytes s.mem (a + 4096 * k) 4096) }
      (cws.drop 1) (k + 1) (fun w hw => hc w (List.mem_of_mem_drop hw)) (fun i h1 h2 => hrows i (by omega) (by omega)) (unitPut_room hroom _)
    refine ⟨w, ?_, ?_⟩
    · rw [writeUnits, readRange_ok (hrows k (Nat.le_refl k) (by omega))]
      dsimp only
      rw [if_neg (by decide), writeUnit_room hroom _ hhead]
      dsimp only
      rw [hrest, show k + 1 + n = k + (n + 1) by omega]
    · rw [show n + 1 = 1 + n by omega]
      rw [show op.unit + (k + 1) = op.unit + k + 1 by omega, show a + 4096 * (k + 1) = a + 4096 * k + 4096 * 1 by omega] at hunits
      exact (unitPut_stored hroom).trans hunits

/-! Dockets (14 R345, Table 14.5). -/

/-- The Vault serves a docket. -/
def VaultServes (s : State) : Prop := s.vault.en = true ∧ s.vault.mounted = true ∧ s.vault.formatting = false ∧ unitTakes s 28 = true

/-- The units of a partition. -/
def partUnits (v : Vault) (part : Nat) : Nat :=
  if part = 0 then 2 * (v.slotSize.toNat * 256) else if part = 1 then v.dataUnits else if part = 2 then v.anchorUnits else 0

/-- The range of a docket lies in its partition. -/
def VaultInside (v : Vault) (va n : Nat) : Prop := 1 ≤ n ∧ n ≤ 65536 ∧ va / 2 ^ 44 ≤ 2 ∧ va % 2 ^ 44 / 4096 + n ≤ partUnits v (va / 2 ^ 44)

/-- The operand that a docket names. -/
def vaultOp (va n : Nat) : VaultOp := { part := va / 2 ^ 44, unit := va % 2 ^ 44 / 4096, units := n }

section
variable {s : State} {j : Job} {wr : Bool} {va loc : Nat} {cws : List Codeword}

theorem vaultCheck_offline {len : Word} (h : ¬ VaultServes s) : vaultCheck s va len loc = .error (stOffline, 0x84) := by
  refine if_pos ?_
  unfold VaultServes at h
  cases hen : s.vault.en <;> cases hm : s.vault.mounted <;> cases hf : s.vault.formatting <;> cases ht : unitTakes s 28 <;> simp_all

theorem vaultServes_taken (h : VaultServes s) : (!s.vault.en || !s.vault.mounted || s.vault.formatting || !unitTakes s 28) = false := by
  obtain ⟨hen, hm, hf, ht⟩ := h
  rw [hen, hm, hf, ht]
  rfl

theorem vaultCheck_format {len : Word} (h : VaultServes s) (ha : ¬ (va % 4096 = 0 ∧ loc % 512 = 0)) : vaultCheck s va len loc = .error (stFormat, 0x80) := by
  unfold vaultCheck
  dsimp only
  rw [vaultServes_taken h, if_neg Bool.false_ne_true, if_pos]
  rw [Bool.or_eq_true, decide_eq_true_eq, decide_eq_true_eq]
  omega

theorem vaultCheck_bound {len : Word} (h : VaultServes s) (ha : va % 4096 = 0 ∧ loc % 512 = 0) (hi : ¬ VaultInside s.vault va len.toNat) :
    vaultCheck s va len loc = .error (stBound, 0x81) := by
  unfold vaultCheck
  dsimp only
  rw [vaultServes_taken h, if_neg Bool.false_ne_true, if_neg, if_pos]
  · simp only [Bool.or_eq_true, decide_eq_true_eq]
    refine Classical.byContradiction fun hn => ?_
    simp only [not_or] at hn
    obtain ⟨⟨⟨h1, h2⟩, h3⟩, h4⟩ := hn
    exact hi ⟨Nat.one_le_iff_ne_zero.mpr h1, Nat.not_lt.mp h2, Nat.not_lt.mp h3, Nat.not_lt.mp h4⟩
  · rw [Bool.or_eq_true, decide_eq_true_eq, decide_eq_true_eq]
    omega

theorem vaultCheck_ok {len : Word} (h : VaultServes s) (ha : va % 4096 = 0 ∧ loc % 512 = 0) (hi : VaultInside s.vault va len.toNat) :
    vaultCheck s va len loc = .ok (vaultOp va len.toNat) := by
  obtain ⟨h1, h2, h3, h4⟩ := hi
  unfold vaultCheck
  dsimp only
  rw [vaultServes_taken h, if_neg Bool.false_ne_true, if_neg, if_neg]
  · rfl
  · simp only [Bool.or_eq_true, decide_eq_true_eq, not_or]
    exact ⟨⟨⟨Nat.one_le_iff_ne_zero.mp h1, Nat.not_lt.mpr h2⟩, Nat.not_lt.mpr h3⟩, Nat.not_lt.mpr h4⟩
  · rw [Bool.or_eq_true, decide_eq_true_eq, decide_eq_true_eq]
    omega

theorem vaultRun_error {st : Byte} {sub : Nat} (h : vaultCheck s va j.words[8] loc = .error (st, sub))
    (hi : ¬ (wr = true ∧ va / 2 ^ 44 = 2 ∧ sub = 0x81)) : vaultRun s j wr va loc cws = fwDone s j st sub := by
  unfold vaultRun
  rw [h]
  refine if_neg ?_
  rw [Bool.and_eq_true, Bool.and_eq_true, decide_eq_true_eq, decide_eq_true_eq, and_assoc]
  exact hi

theorem vaultRun_image {st : Byte} (h : vaultCheck s va j.words[8] loc = .error (st, 0x81)) (hi : wr = true ∧ va / 2 ^ 44 = 2) :
    vaultRun s j wr va loc cws = fwDone s j stUncorr 0x86 := by
  unfold vaultRun
  rw [h]
  refine if_pos ?_
  rw [Bool.and_eq_true, Bool.and_eq_true, decide_eq_true_eq, decide_eq_true_eq, and_assoc]
  exact ⟨hi.1, hi.2, rfl⟩

/-- A write touches the booted slot. -/
def WritesBooted (v : Vault) (wr : Bool) (va n : Nat) : Prop :=
  wr = true ∧ va / 2 ^ 44 = 0 ∧ v.booted = true ∧ va % 2 ^ 44 / 4096 < (if v.bootedB then v.slotSize.toNat * 256 else 0) + v.slotSize.toNat * 256 ∧
    (if v.bootedB then v.slotSize.toNat * 256 else 0) < va % 2 ^ 44 / 4096 + n

theorem writesBooted_iff (v : Vault) (n : Nat) : (wr && v.activeSlot (vaultOp va n)) = true ↔ WritesBooted v wr va n := by
  unfold Vault.activeSlot WritesBooted vaultOp
  simp only [Bool.and_eq_true, decide_eq_true_eq, and_assoc]
  rfl

variable (h : VaultServes s) (ha : va % 4096 = 0 ∧ loc % 512 = 0) (hi : VaultInside s.vault va (j.words[8]).toNat)
include h ha hi

theorem vaultRun_active (hb : WritesBooted s.vault wr va (j.words[8]).toNat) : vaultRun s j wr va loc cws = fwDone s j stBound 0x82 := by
  unfold vaultRun
  rw [vaultCheck_ok h ha hi]
  exact if_pos ((writesBooted_iff _ _).mpr hb)

variable (hb : ¬ WritesBooted s.vault wr va (j.words[8]).toNat)
include hb

theorem vaultRun_readOnly (hw : wr = true) (hr : s.vault.readOnly = true) : vaultRun s j wr va loc cws = fwDone s j stOffline 0x83 := by
  unfold vaultRun
  rw [vaultCheck_ok h ha hi]
  refine (if_neg fun hb' => hb ((writesBooted_iff _ _).mp hb')).trans (if_pos ?_)
  rw [hw, hr]
  rfl

variable (hr : ¬ (wr = true ∧ s.vault.readOnly = true))
include hr

theorem vaultRun_checked : vaultRun s j wr va loc cws =
    match vaultLocal s j loc (j.words[8]).toNat with
    | none => fwDone s j stBound 0x08
    | some a =>
      if wr then (if va / 2 ^ 44 = 2 then anchorWrite s j (vaultOp va (j.words[8]).toNat) a
        else vaultEnd j (now s) (writeUnits s (vaultOp va (j.words[8]).toNat) a cws (j.words[8]).toNat 0))
      else vaultEnd j (now s) (readUnits s (vaultOp va (j.words[8]).toNat) a cws (j.words[8]).toNat 0) := by
  unfold vaultRun
  rw [vaultCheck_ok h ha hi]
  refine (if_neg fun hb' => hb ((writesBooted_iff _ _).mp hb')).trans ((if_neg fun h => hr ?_).trans ?_)
  · rwa [Bool.and_eq_true] at h
  · rfl

theorem vaultRun_noPlace (hp : vaultLocal s j loc (j.words[8]).toNat = none) : vaultRun s j wr va loc cws = fwDone s j stBound 0x08 := by
  rw [vaultRun_checked h ha hi hb hr, hp]

variable {a : Nat} (hp : vaultLocal s j loc (j.words[8]).toNat = some a)
include hp

theorem vaultRun_reads (hw : wr = false) :
    vaultRun s j wr va loc cws = vaultEnd j (now s) (readUnits s (vaultOp va (j.words[8]).toNat) a cws (j.words[8]).toNat 0) := by
  rw [vaultRun_checked h ha hi hb hr, hp]
  exact if_neg (by rw [hw]; exact Bool.false_ne_true)

theorem vaultRun_writes (hw : wr = true) (h2 : va / 2 ^ 44 ≠ 2) :
    vaultRun s j wr va loc cws = vaultEnd j (now s) (writeUnits s (vaultOp va (j.words[8]).toNat) a cws (j.words[8]).toNat 0) := by
  rw [vaultRun_checked h ha hi hb hr, hp]
  exact (if_pos hw).trans (if_neg h2)

theorem vaultRun_anchors (hw : wr = true) (h2 : va / 2 ^ 44 = 2) :
    vaultRun s j wr va loc cws = anchorWrite s j (vaultOp va (j.words[8]).toNat) a := by
  rw [vaultRun_checked h ha hi hb hr, hp]
  exact (if_pos hw).trans (if_pos h2)
end

/-- An image for the anchors fits them. -/
def AnchorFits (s : State) (op : VaultOp) (image : List Byte) : Prop :=
  op.unit = 0 ∧ imageLen image ≤ s.vault.anchorUnits * 4096 ∧ imageLen image ≤ 4096 * op.units ∧ (imageSlot s.assay.fuses image).isSome = true

section
variable {s : State} {j : Job} {op : VaultOp} {a : Nat} (hrows : rowsOk s none a (4096 * op.units))
include hrows

theorem anchorWrite_refused (h : ¬ AnchorFits s op (readBytes s.mem a (4096 * op.units))) : anchorWrite s j op a = fwDone s j stUncorr 0x86 := by
  unfold anchorWrite
  rw [readRange_ok hrows]
  refine (if_neg (by decide)).trans (if_pos ?_)
  have hlen := length_readBytes s.mem a (4096 * op.units)
  generalize readBytes s.mem a (4096 * op.units) = image at h hlen
  simp only [Bool.or_eq_true, decide_eq_true_eq]
  refine Classical.byContradiction fun hn => ?_
  simp only [not_or] at hn
  obtain ⟨⟨⟨h1, h2⟩, h3⟩, h4⟩ := hn
  refine h ⟨Classical.not_not.mp h1, Nat.not_lt.mp h2, hlen ▸ Nat.not_lt.mp h3, ?_⟩
  rw [Bool.not_eq_true, Option.isNone_eq_false_iff] at h4
  exact h4

theorem anchorWrite_fits (h : AnchorFits s op (readBytes s.mem a (4096 * op.units))) :
    anchorWrite s j op a = finishJob (onVault s fun v =>
      { v with anchors := .replicate 16 (writeBytes [] 0 ((readBytes s.mem a (4096 * op.units)).take (imageLen (readBytes s.mem a (4096 * op.units))))) })
      j stOk 0 0 0 (now s) op.units 0 := by
  unfold anchorWrite
  rw [readRange_ok hrows]
  refine (if_neg (by decide)).trans (if_neg ?_)
  have hlen := length_readBytes s.mem a (4096 * op.units)
  generalize readBytes s.mem a (4096 * op.units) = image at h hlen
  obtain ⟨h1, h2, h3, h4⟩ := h
  simp only [Bool.or_eq_true, decide_eq_true_eq, not_or]
  refine ⟨⟨⟨not_not_intro h1, Nat.not_lt.mpr h2⟩, Nat.not_lt.mpr (by rw [hlen]; exact h3)⟩, ?_⟩
  rw [Bool.not_eq_true, Option.isNone_eq_false_iff]
  exact h4
end

theorem rowsOk_units {s : State} {a n : Nat} (h : rowsOk s none a (4096 * n)) : ∀ i, 0 ≤ i → i < 0 + n → rowsOk s none (a + 4096 * i) 4096 :=
  fun i _ hi => h.part (by omega) (by omega) (by omega)

/-- A Vault docket runs, its operands by its direction. -/
theorem vaultDocket_runs {s : State} (hup : s.up) (wr : Bool) (cws : List Codeword) {j : Job} {rest : List Job}
    (h : headJob s.control.fwQueue (if wr then .vaultWrite else .vaultRead) = some (j, rest)) :
    exec (if wr then .vaultWrite cws else .vaultRead cws) s = .next (settleErr (vaultRun (onControl s fun k => { k with fwQueue := rest }) j wr
      (if wr then wideOperand j.words[6] j.words[7] else wideOperand j.words[4] j.words[5])
      (if wr then wideOperand j.words[4] j.words[5] else wideOperand j.words[6] j.words[7]) cws)) := by
  cases wr
  · refine (liveRows_next hup fun s => vaultRead s cws).trans (congrArg _ (congrArg settleErr ?_))
    rw [if_neg Bool.false_ne_true] at h
    unfold vaultRead fwJob
    rw [h]
    rfl
  · refine (liveRows_next hup fun s => vaultWrite s cws).trans (congrArg _ (congrArg settleErr ?_))
    rw [if_pos rfl] at h
    unfold vaultWrite fwJob
    rw [h]
    rfl

theorem vaultDocket_none {s : State} (hup : s.up) (hq : s.granary.errPend = false) (wr : Bool) (cws : List Codeword)
    (h : headJob s.control.fwQueue (if wr then .vaultWrite else .vaultRead) = none) :
    exec (if wr then .vaultWrite cws else .vaultRead cws) s = .next s := by
  cases wr
  · refine (liveRows_next hup fun s => vaultRead s cws).trans (next_of_quiet ?_ hq)
    rw [if_neg Bool.false_ne_true] at h
    unfold vaultRead fwJob
    rw [h]
  · refine (liveRows_next hup fun s => vaultWrite s cws).trans (next_of_quiet ?_ hq)
    rw [if_pos rfl] at h
    unfold vaultWrite fwJob
    rw [h]

/-- The store that a docket fills, by its partition. -/
theorem vaultMem_part (v : Vault) (part : Nat) : vaultMem v (decide (part = 0)) = (if part = 0 then v.boot else v.dataPart) ∧
    vaultMem v (!decide (part = 0)) = if part = 0 then v.dataPart else v.boot := by
  unfold vaultMem
  by_cases h : part = 0
  · rw [decide_eq_true h, if_pos h, if_pos h]
    exact ⟨rfl, rfl⟩
  · rw [decide_eq_false h, if_neg h, if_neg h]
    exact ⟨rfl, rfl⟩

theorem vaultEnd_done (j : Job) (t : Word64) {n : Nat} {w : State} {r : Option (Byte × Nat) × Nat × State} (h : r = (none, 0 + n, w)) :
    vaultEnd j t r = finishJob w j stOk 0 0 0 t n 0 := by
  rw [h, Nat.zero_add]
  rfl

theorem vaultEnd_fault (j : Job) (t : Word64) {st : Byte} {sub : Nat} {w : State} {r : Option (Byte × Nat) × Nat × State}
    (h : r = (some (st, sub), 0, w)) : vaultEnd j t r = finishJob w j st sub 0 0 t 0 0 := by
  rw [h]
  rfl

/-- Settles O46: the checks of Table 14.5 in their order, and the copies by induction over the units. -/
theorem vaultDocketsFollowTheirOutcomes : Obligations.VaultDocketsFollowTheirOutcomes := by
  intro s wr cws hup hq
  refine ⟨vaultDocket_none hup hq wr cws, fun j rest hhead => ?_⟩
  have hrun := vaultDocket_runs hup wr cws hhead
  intro u v wide x loc n part unit slot size served aligned inside lo active ends checked place
  have hrun : exec (if wr then .vaultWrite cws else .vaultRead cws) s = .next (settleErr (vaultRun u j wr x loc cws)) := hrun
  clear_value x loc
  have hnext {t : State} (h : vaultRun u j wr x loc cws = t) : exec (if wr then .vaultWrite cws else .vaultRead cws) s = .next (settleErr t) := by
    rw [hrun, h]
  have hends {st : Byte} {sub : Nat} (h : vaultRun u j wr x loc cws = fwDone u j st sub) : ends st sub :=
    ⟨_, hnext h, (fwDone_reported ..).trans (settleErr_reported _), rfl⟩
  refine ⟨fun h => ?offline, fun h ha => ?format, fun h ha hi => ?range, fun h ha hi hb => ?active, fun h ha hi hb hw hr => ?readOnly, fun ⟨h, ha, hi, hb, hr⟩ hp => ?window,
    fun a ⟨h, ha, hi, hb, hr⟩ hw hp => ⟨fun hrows hc hwf => ?read, fun hc hheld => ?uncorr⟩,
    fun a i ⟨h, ha, hi, hb, hr⟩ hw hp h2 hrows hc ho hg hroom hi32 hlen hwb hwd hwm => ?write, fun a ⟨h, ha, hi, hb, hr⟩ hw hp h2 hrows => ⟨fun hf => ?image, fun hf => ?fits⟩⟩
  case offline => exact hends (vaultRun_error (vaultCheck_offline (s := u) h) (by rintro ⟨-, -, h⟩; cases h))
  case format => exact hends (vaultRun_error (vaultCheck_format (s := u) h ha) (by rintro ⟨-, -, h⟩; cases h))
  case range =>
    have hcheck := vaultCheck_bound (s := u) h ha hi
    by_cases hi2 : wr = true ∧ part = 2
    · rw [if_pos hi2]
      exact hends (vaultRun_image hcheck hi2)
    · rw [if_neg hi2]
      exact hends (vaultRun_error hcheck fun ⟨h1, h2, _⟩ => hi2 ⟨h1, h2⟩)
  case active => exact hends (vaultRun_active (s := u) h ha hi hb)
  case readOnly => exact hends (vaultRun_readOnly (s := u) h ha hi hb hw hr)
  case window => exact hends (vaultRun_noPlace (s := u) h ha hi hb hr hp)
  case read =>
    obtain ⟨w, hread, hunits⟩ := readUnits_ok (op := vaultOp x n) hi.2.2.1 a n u cws 0 hc (rowsOk_units hrows)
    refine ⟨w, hnext ((vaultRun_reads (s := u) h ha hi hb hr hp hw).trans ?_), hunits.rest, hunits.bytes hwf, hunits.outside, hunits.vault.1, hunits.vault.2⟩
    exact vaultEnd_done j (now u) hread
  case uncorr =>
    obtain ⟨w, hread, hw', hcount⟩ := readUnits_uncorr (s := u) (op := vaultOp x n) a hi.1 hc hheld
    have hend := (vaultRun_reads (cws := cws) (s := u) h ha hi hb hr hp hw).trans (vaultEnd_fault j (now u) hread)
    exact ⟨{ u with vault := w }, hnext hend, rfl, hw', hcount⟩
  case write =>
    have hp2 : part ≤ 2 := hi.2.2.1
    obtain ⟨hmem, hother⟩ := vaultMem_part v part
    have hroom' : RoomFor u.vault (decide (part = 0)) i n := by
      refine ⟨ho, hg, hroom, ⟨hlen, hi32⟩, ?_, hwm⟩
      show Memory.wf (vaultMem v (decide (part = 0))) = true
      rw [hmem]
      split
      · exact hwb
      · exact hwd
    obtain ⟨w, hwrite, hunits⟩ := writeUnits_ok (op := vaultOp x n) a n u cws 0 hc (rowsOk_units hrows) hroom'
    obtain ⟨hmem', hother'⟩ := vaultMem_part w part
    have hend := (vaultRun_writes (cws := cws) (s := u) h ha hi hb hr hp hw h2).trans (vaultEnd_done j (now u) hwrite)
    refine ⟨{ u with vault := w }, hnext hend, rfl, fun b => ?_, fun k hk => ?_, fun b hb' => ?_, hunits.held⟩
    · exact congrArg (fun m => readByte m b) (hother'.symm.trans (hunits.other.trans hother))
    · exact (congrArg (fun m => readByte m (4096 * unit + k)) hmem'.symm).trans (hunits.bytes k hk)
    · exact (congrArg (fun m => readByte m b) hmem'.symm).trans ((hunits.outside b hb').trans (congrArg (fun m => readByte m b) hmem))
  case image =>
    exact hends ((vaultRun_anchors (s := u) h ha hi hb hr hp hw h2).trans (anchorWrite_refused (s := u) (op := vaultOp x n) hrows hf))
  case fits =>
    exact hnext ((vaultRun_anchors (s := u) h ha hi hb hr hp hw h2).trans (anchorWrite_fits (s := u) (op := vaultOp x n) hrows hf))

end Sys2Proof.Machine
end

section
open Sys2Proof.Laws
namespace Sys2Proof.Machine

/-! ### The Clapper's channels (15 R352, R354 to R356, R358) -/

section
variable {s : State} {c : Fin 2}

/-- The state with another value of a channel. -/
def clapPut (s : State) (c : Fin 2) (f : ClapChannel → ClapChannel) : State := onClapper s fun x => { x with chans := vmod x.chans c f }

/-- A channel that brakes from a device time on. -/
def ClapChannel.brakes (ch : ClapChannel) (t : Word64) : ClapChannel :=
  { ch with state := .braking, since := t, emf := none, quiet := 0, drive := 0, endAt := none }

/-- A channel that plays an effect from a device time on. -/
def ClapChannel.plays (ch : ClapChannel) (fx : Fin 64) (negate : Bool) (t : Word64) : ClapChannel :=
  { ch with state := .attack, latched := none, fx := fx, negate := negate, since := t, emf := none, quiet := 0, drive := 0, endAt := none }

theorem clapPut_put (f g : ClapChannel → ClapChannel) : clapPut (clapPut s c f) c g = clapPut s c fun ch => g (f ch) :=
  onClapper_congr s (f := fun x => { x with chans := vmod (vmod x.chans c f) c g }) (g := fun x => { x with chans := vmod x.chans c fun ch => g (f ch) })
    (by rw [vmod_vmod])

theorem attackEnd_waits (h : (s.clapper.chans[c.val]).state ≠ .attack ∨ now s < segEnd s.clapper.chans[c.val] (s.clapper.effect c).attLen) :
    attackEnd s c = s := onClapper_same s (if_pos (by rwa [Bool.or_eq_true, decide_eq_true_eq, decide_eq_true_eq]))

theorem attackEnd_over (h : (s.clapper.chans[c.val]).state = .attack) (ht : segEnd s.clapper.chans[c.val] (s.clapper.effect c).attLen ≤ now s) :
    attackEnd s c = if (s.clapper.effect c).susRepeat = 0 then clapPut s c fun ch => ch.brakes (segEnd s.clapper.chans[c.val] (s.clapper.effect c).attLen)
      else clapPut s c fun ch => { ch with state := .sustain, since := segEnd s.clapper.chans[c.val] (s.clapper.effect c).attLen } := by
  have hgo : ¬ (decide ((s.clapper.chans[c.val]).state ≠ .attack) || decide (now s < segEnd s.clapper.chans[c.val] (s.clapper.effect c).attLen)) = true := by
    rw [Bool.or_eq_true, decide_eq_true_eq, decide_eq_true_eq, not_or]
    exact ⟨not_not_intro h, BitVec.not_lt.mpr ht⟩
  split
  · next h0 => exact onClapper_congr s ((if_neg hgo).trans (if_pos h0))
  · next h0 => exact onClapper_congr s ((if_neg hgo).trans (if_neg h0))

theorem sustainEnd_waits (h : (s.clapper.chans[c.val]).state ≠ .sustain ∨
    now s < segEnd s.clapper.chans[c.val] ((s.clapper.effect c).susRepeat * (s.clapper.effect c).susLen)) :
    sustainEnd s c = s := onClapper_same s (if_pos (by rwa [Bool.or_eq_true, decide_eq_true_eq, decide_eq_true_eq]))

theorem sustainEnd_over (h : (s.clapper.chans[c.val]).state = .sustain)
    (ht : segEnd s.clapper.chans[c.val] ((s.clapper.effect c).susRepeat * (s.clapper.effect c).susLen) ≤ now s) :
    sustainEnd s c = clapPut s c fun ch => ch.brakes (segEnd s.clapper.chans[c.val] ((s.clapper.effect c).susRepeat * (s.clapper.effect c).susLen)) := by
  refine onClapper_congr s (if_neg ?_)
  rw [Bool.or_eq_true, decide_eq_true_eq, decide_eq_true_eq, not_or]
  exact ⟨not_not_intro h, BitVec.not_lt.mpr ht⟩

/-! STOP. -/

theorem stop_playing (h : (s.clapper.chans[c.val]).state = .attack ∨ (s.clapper.chans[c.val]).state = .sustain) :
    (onClapper s fun x => x.stop c (now s)) = clapPut s c fun ch =>
      { ch with latched := none }.brakes (segEnd s.clapper.chans[c.val] (segSample (now s) s.clapper.chans[c.val] + 1)) := by
  have hgo : (decide ((s.clapper.chans[c.val]).state = .attack) || decide ((s.clapper.chans[c.val]).state = .sustain)) = true := by
    rwa [Bool.or_eq_true, decide_eq_true_eq, decide_eq_true_eq]
  refine (onClapper_congr s (f := fun x => x.stop c (now s)) (g := fun x => (x.onChan c fun ch => { ch with latched := none }).brakeFrom c
    (segEnd s.clapper.chans[c.val] (segSample (now s) s.clapper.chans[c.val] + 1))) (if_pos hgo)).trans ?_
  exact clapPut_put (s := s) (fun ch => { ch with latched := none }) fun ch =>
    ch.brakes (segEnd s.clapper.chans[c.val] (segSample (now s) s.clapper.chans[c.val] + 1))

theorem stop_quiet (h : (s.clapper.chans[c.val]).state = .idle ∨ (s.clapper.chans[c.val]).state = .braking) :
    (onClapper s fun x => x.stop c (now s)) = clapPut s c fun ch => { ch with latched := none } := by
  refine onClapper_congr s (if_neg ?_)
  rw [Bool.or_eq_true, decide_eq_true_eq, decide_eq_true_eq]
  rcases h with h | h <;> rw [h] <;> decide

/-! The end of braking. -/

/-- Braking that is over: the channel goes idle, or plays its latched effect. -/
def brakeEnds (s : State) (c : Fin 2) (negate : Bool) (t : Word64) : State := onClapper s fun x => x.brakeOver c negate t

theorem brakeEnds_idle {negate : Bool} {t : Word64} (h : (s.clapper.chans[c.val]).latched = none) :
    brakeEnds s c negate t = clapPut s c fun ch => { ch with state := .idle, drive := 0 } := by
  refine onClapper_congr s ?_
  unfold Clapper.brakeOver
  rw [h]
  rfl

theorem brakeEnds_plays {negate : Bool} {t : Word64} {fx : Fin 64} {z : Nat} (h : (s.clapper.chans[c.val]).latched = some (fx, z)) :
    brakeEnds s c negate t = clapPut s c fun ch => ch.plays fx negate t := by
  refine onClapper_congr s ?_
  unfold Clapper.brakeOver
  rw [h]
  rfl

theorem crossing_rise {a b : Int} (h : a < 0 ∧ 0 ≤ b) : crossing a b = some false := if_pos (by rw [decide_eq_true h.1, decide_eq_true h.2]; rfl)

theorem crossing_fall {a b : Int} (h : 0 ≤ a ∧ b < 0) : crossing a b = some true := by
  unfold crossing
  rw [decide_eq_false (by omega : ¬ a < 0), decide_eq_true h.1, decide_eq_true h.2]
  rfl

theorem crossing_none {a b : Int} (hr : ¬ (a < 0 ∧ 0 ≤ b)) (hf : ¬ (0 ≤ a ∧ b < 0)) : crossing a b = none := by
  unfold crossing
  rw [if_neg (by rw [Bool.and_eq_true, decide_eq_true_eq, decide_eq_true_eq]; exact hr), if_neg (by rw [Bool.and_eq_true, decide_eq_true_eq, decide_eq_true_eq]; exact hf)]

/-- A braking sample of the piezo. -/
def brakeSample (x : Clapper) (c : Fin 2) (i : Nat) : Int :=
  (if (x.chans[c.val]).negate then -1 else 1) * libSample x.library ((x.effect c).brkOff + i)

/-- The signal rises, or falls, through zero at a sample. -/
def brakeRises (x : Clapper) (c : Fin 2) (i : Nat) : Prop := brakeSample x c (i - 1) < 0 ∧ 0 ≤ brakeSample x c i
def brakeFalls (x : Clapper) (c : Fin 2) (i : Nat) : Prop := 0 ≤ brakeSample x c (i - 1) ∧ brakeSample x c i < 0

/-- The search of the sign change that a spliced trigger waits for. -/
def brakeSearch (x : Clapper) (c : Fin 2) (k n : Nat) : Option (Nat × Bool) :=
  signChange x.library (x.effect c) (if (x.chans[c.val]).negate then -1 else 1) k n

theorem brakeSearch_start (x : Clapper) (c : Fin 2) (n : Nat) : brakeSearch x c 0 (n + 1) = brakeSearch x c 1 n := rfl

theorem brakeSearch_step (x : Clapper) (c : Fin 2) {k : Nat} (hk : 1 ≤ k) (n : Nat) : brakeSearch x c k (n + 1) =
    match crossing (brakeSample x c (k - 1)) (brakeSample x c k) with
    | some fell => some (k, fell)
    | none => brakeSearch x c (k + 1) n := if_neg (by omega : k ≠ 0)

theorem brakeSearch_none (x : Clapper) (c : Fin 2) (n : Nat) : ∀ k, 1 ≤ k → (∀ i, k ≤ i → i < k + n → ¬ brakeRises x c i ∧ ¬ brakeFalls x c i) →
    brakeSearch x c k n = none := by
  induction n with
  | zero => exact fun _ _ _ => rfl
  | succ n ih =>
    intro k hk h
    obtain ⟨hr, hf⟩ := h k (Nat.le_refl k) (by omega)
    rw [brakeSearch_step x c hk, crossing_none hr hf]
    exact ih (k + 1) (by omega) fun i h1 h2 => h i (by omega) (by omega)

theorem brakeSearch_first (x : Clapper) (c : Fin 2) {i : Nat} {fell : Bool} (hi : crossing (brakeSample x c (i - 1)) (brakeSample x c i) = some fell) (n : Nat) :
    ∀ k, 1 ≤ k → k ≤ i → i < k + n → (∀ j, k ≤ j → j < i → ¬ brakeRises x c j ∧ ¬ brakeFalls x c j) → brakeSearch x c k n = some (i, fell) := by
  induction n with
  | zero => exact fun k _ h1 h2 _ => absurd h2 (by omega)
  | succ n ih =>
    intro k hk h1 h2 h
    rw [brakeSearch_step x c hk]
    by_cases hki : k = i
    · subst hki
      rw [hi]
    · obtain ⟨hr, hf⟩ := h k (Nat.le_refl k) (by omega)
      rw [crossing_none hr hf]
      exact ih (k + 1) (by omega) (by omega) (by omega) fun j h3 h4 => h j (by omega) h4

/-- The search from the sample at which the trigger was latched. -/
theorem brakeSearch_from_none (x : Clapper) (c : Fin 2) {len z : Nat} (h : ∀ i, 1 ≤ i → z ≤ i → i < len → ¬ brakeRises x c i ∧ ¬ brakeFalls x c i) :
    brakeSearch x c z (len - z) = none := by
  by_cases hz : z = 0
  · subst hz
    cases len with
    | zero => rfl
    | succ len => exact brakeSearch_none x c len 1 (Nat.le_refl 1) fun i h1 h2 => h i h1 (by omega) (by omega)
  · exact brakeSearch_none x c _ z (by omega) fun i h1 h2 => h i (by omega) h1 (by omega)

theorem brakeSearch_from_first (x : Clapper) (c : Fin 2) {len z i : Nat} {fell : Bool}
    (hi : crossing (brakeSample x c (i - 1)) (brakeSample x c i) = some fell) (h1 : 1 ≤ i) (h2 : z ≤ i) (h3 : i < len)
    (h : ∀ j, 1 ≤ j → z ≤ j → j < i → ¬ brakeRises x c j ∧ ¬ brakeFalls x c j) : brakeSearch x c z (len - z) = some (i, fell) := by
  by_cases hz : z = 0
  · subst hz
    cases len with
    | zero => exact absurd h3 (by omega)
    | succ len => exact brakeSearch_first x c hi len 1 (Nat.le_refl 1) h1 (by omega) fun j h4 h5 => h j h4 (by omega) h5
  · exact brakeSearch_first x c hi _ z (by omega) h2 (by omega) fun j h4 h5 => h j (by omega) h4 h5

/-- A latched effect that is spliced, from the sample at which it was latched. -/
def splicedFrom (x : Clapper) (c : Fin 2) (z : Nat) : Prop := ∃ fx, (x.chans[c.val]).latched = some (fx, z) ∧ (effectOf x.library fx).splice = true

theorem spliced_iff (x : Clapper) (c : Fin 2) : x.spliced c = true ↔ ∃ z, splicedFrom x c z := by
  unfold Clapper.spliced splicedFrom
  rcases (x.chans[c.val]).latched with _ | ⟨fx, z⟩
  · exact ⟨fun h => (nomatch h), fun ⟨_, _, h, _⟩ => (nomatch h)⟩
  · refine ⟨fun h => ⟨z, fx, rfl, h⟩, ?_⟩
    rintro ⟨z, fx, h, hs⟩
    cases h
    exact hs

/-- The sign change that ends braking of the piezo early. -/
def brakeCut (x : Clapper) (c : Fin 2) : Option (Nat × Bool) :=
  match (x.chans[c.val]).latched with
  | some (_, k) => if x.spliced c then brakeSearch x c k ((x.effect c).brkLen - k) else none
  | none => none

theorem brakeCut_plain {x : Clapper} (h : ∀ z, ¬ splicedFrom x c z) : brakeCut x c = none := by
  unfold brakeCut
  split
  · exact if_neg fun hs => ((spliced_iff x c).mp hs).elim h
  · rfl

theorem brakeCut_spliced {x : Clapper} {z : Nat} (h : splicedFrom x c z) : brakeCut x c = brakeSearch x c z ((x.effect c).brkLen - z) := by
  have hs := (spliced_iff x c).mpr ⟨z, h⟩
  obtain ⟨fx, hl, -⟩ := h
  unfold brakeCut
  rw [hl]
  exact if_pos hs

/-- A change at a device time, or nothing before it. -/
theorem timed_cases {t : Word64} {f : Clapper → Clapper} :
    (now s < t → (onClapper s fun x => if now s < t then x else f x) = s) ∧ (t ≤ now s → (onClapper s fun x => if now s < t then x else f x) = onClapper s f) :=
  ⟨fun h => onClapper_same s (if_pos h), fun h => onClapper_congr s (if_neg (BitVec.not_lt.mpr h))⟩

theorem brakingEnd_other (h : (s.clapper.chans[c.val]).state ≠ .braking) : brakingEnd s c = s := onClapper_same s (if_pos h)

/-- An end of braking at a device time: nothing before it. -/
def BrakingEnds (s : State) (c : Fin 2) (negate : Bool) (t : Word64) : Prop :=
  (now s < t → brakingEnd s c = s) ∧ (t ≤ now s → brakingEnd s c = brakeEnds s c negate t)

theorem brakingEnds_of {negate : Bool} {t : Word64} (h : brakingEnd s c = onClapper s fun x => if now s < t then x else x.brakeOver c negate t) :
    BrakingEnds s c negate t := ⟨fun ht => h.trans (timed_cases.1 ht), fun ht => h.trans (timed_cases.2 ht)⟩

theorem brakingEnd_coil (h : (s.clapper.chans[c.val]).state = .braking) (hc : c = 1) :
    BrakingEnds s c false ((s.clapper.chans[c.val]).endAt.getD (segEnd s.clapper.chans[c.val] (s.clapper.chans[c.val]).brakeMax)) :=
  brakingEnds_of (onClapper_congr s ((if_neg (not_not_intro h)).trans (if_pos hc)))

theorem brakingEnd_whole (h : (s.clapper.chans[c.val]).state = .braking) (hc : c ≠ 1) (hcut : brakeCut s.clapper c = none) :
    BrakingEnds s c false (segEnd s.clapper.chans[c.val] (s.clapper.effect c).brkLen) := by
  refine brakingEnds_of (onClapper_congr s ((if_neg (not_not_intro h)).trans ((if_neg hc).trans ?_)))
  show (match brakeCut s.clapper c with
    | some (k, fell) => _
    | none => _) = _
  rw [hcut]

theorem brakingEnd_cut (h : (s.clapper.chans[c.val]).state = .braking) (hc : c ≠ 1) {k : Nat} {fell : Bool} (hcut : brakeCut s.clapper c = some (k, fell)) :
    BrakingEnds s c fell (segEnd s.clapper.chans[c.val] (k + 1)) := by
  refine brakingEnds_of (onClapper_congr s ((if_neg (not_not_intro h)).trans ((if_neg hc).trans ?_)))
  show (match brakeCut s.clapper c with
    | some (k, fell) => _
    | none => _) = _
  rw [hcut]

end

/-! Back-EMF on the voice coil. -/

section
variable {s : State} {v : BitVec 16}

theorem brakeEmf_other (h : (s.clapper.chans[1]).state ≠ .braking) : brakeEmf s v = s := onClapper_same s (if_pos h)

/-- How the back-EMF has crossed zero since the last sample. -/
def emfCross (ch : ClapChannel) (v : BitVec 16) : Option Bool := match ch.emf with | some a => crossing a.toInt v.toInt | none => none

theorem emfCross_some {ch : ClapChannel} {a : BitVec 16} (h : ch.emf = some a) : emfCross ch v = crossing a.toInt v.toInt := by
  unfold emfCross
  rw [h]

theorem emfCross_none {ch : ClapChannel} (hr : ¬ ∃ a, ch.emf = some a ∧ a.toInt < 0 ∧ 0 ≤ v.toInt) (hf : ¬ ∃ a, ch.emf = some a ∧ 0 ≤ a.toInt ∧ v.toInt < 0) :
    emfCross ch v = none := by
  unfold emfCross
  split
  · next a h => exact crossing_none (fun hc => hr ⟨a, h, hc⟩) fun hc => hf ⟨a, h, hc⟩
  · rfl

/-- The channel after a sample of the back-EMF that ends nothing. -/
def emfTaken (v : BitVec 16) (next : Word64) (ch : ClapChannel) : ClapChannel :=
  let quiet := if v.toInt.natAbs < ch.brakeStop.toNat then ch.quiet + 1 else 0
  let d := (-(ch.brakeGain * v.toInt)) / 16
  { ch with
    emf := some v
    quiet := quiet
    endAt := if quiet = 2 then some (if next < segEnd ch ch.brakeMax then next else segEnd ch ch.brakeMax) else ch.endAt
    drive := if d < -32767 then -32767 else if 32767 < d then 32767 else d }

theorem brakeEmf_splices (h : (s.clapper.chans[1]).state = .braking) (hs : s.clapper.spliced 1 = true) {fell : Bool}
    (hc : emfCross s.clapper.chans[1] v = some fell) :
    brakeEmf s v = brakeEnds s 1 fell (segEnd s.clapper.chans[1] (segSample (now s) s.clapper.chans[1] + 1)) := by
  refine onClapper_congr s ((if_neg (not_not_intro h)).trans ?_)
  show (match s.clapper.spliced 1, emfCross s.clapper.chans[1] v with
    | true, some fell => _
    | _, _ => _) = _
  rw [hs, hc]

theorem brakeEmf_taken (h : (s.clapper.chans[1]).state = .braking) (hn : s.clapper.spliced 1 = false ∨ emfCross s.clapper.chans[1] v = none) :
    brakeEmf s v = clapPut s 1 (emfTaken v (segEnd s.clapper.chans[1] (segSample (now s) s.clapper.chans[1] + 1))) := by
  have hput : brakeEmf s v = onClapper s fun x => x.onChan 1 fun ch =>
      { ch with
        emf := some v
        quiet := (emfTaken v (segEnd s.clapper.chans[1] (segSample (now s) s.clapper.chans[1] + 1)) s.clapper.chans[1]).quiet
        endAt := if (emfTaken v (segEnd s.clapper.chans[1] (segSample (now s) s.clapper.chans[1] + 1)) s.clapper.chans[1]).quiet = 2 then
          some (if segEnd s.clapper.chans[1] (segSample (now s) s.clapper.chans[1] + 1) < segEnd ch ch.brakeMax then
            segEnd s.clapper.chans[1] (segSample (now s) s.clapper.chans[1] + 1) else segEnd ch ch.brakeMax) else ch.endAt
        drive := (emfTaken v 0 s.clapper.chans[1]).drive } := by
    refine onClapper_congr s ((if_neg (not_not_intro h)).trans ?_)
    show (match s.clapper.spliced 1, emfCross s.clapper.chans[1] v with
      | true, some fell => _
      | _, _ => _) = _
    rcases hn with hn | hn
    · rw [hn]; rfl
    · rw [hn]
      cases s.clapper.spliced 1 <;> rfl
  exact hput.trans (onClapper_congr s (congrArg (fun c => { s.clapper with chans := c }) (vmod_congr s.clapper.chans (1 : Fin 2) rfl)))
end

/-! Triggers. -/

section
variable {s : State} {fx : Fin 64} {rank delay : Nat}

/-- A trigger at a device time. -/
def triggered (s : State) (fx : Fin 64) (rank delay : Nat) : State := onClapper s fun x => x.trigger fx rank delay (now s)

/-- A trigger that is dropped or refused. -/
def clapCounted (s : State) (i : Fin 3) : State := onClapper s fun x => { x with counters := vmod x.counters i (bump ·) }

theorem triggered_refused (h : s.clapper.loading = true ∨ s.clapper.libValid = false ∨ (effectOf s.clapper.library fx).valid = false) :
    triggered s fx rank delay = clapCounted s 1 := by
  refine onClapper_congr s (if_pos ?_)
  rcases h with h | h | h <;> rw [h]
  · rfl
  · rw [Bool.not_false, Bool.or_true, Bool.true_or]
  · rw [Bool.not_false, Bool.or_true]

variable (hl : s.clapper.loading = false) (hv : s.clapper.libValid = true) (he : (effectOf s.clapper.library fx).valid = true)
include hl hv he

theorem trigger_takes : (s.clapper.loading || !s.clapper.libValid || !(effectOf s.clapper.library fx).valid) = false := by rw [hl, hv, he]; rfl

/-- The channel of an effect. -/
def fxChan (s : State) (fx : Fin 64) : ClapChannel := s.clapper.chans[(effectOf s.clapper.library fx).chan.val]

/-- The source of a channel's last trigger, when it was at this device time. -/
def sameCycle (ch : ClapChannel) (t : Word64) : Option Nat := match ch.trigAt with | some (u, r) => if u = t then some r else none | none => none

omit hl hv he in
theorem sameCycle_fresh {ch : ClapChannel} {t : Word64} (h : ∀ u r, ch.trigAt = some (u, r) → u ≠ t) : sameCycle ch t = none := by
  unfold sameCycle
  split
  · next u r hu => exact if_neg (h u r hu)
  · rfl

theorem triggered_fresh (hf : ∀ u r, (fxChan s fx).trigAt = some (u, r) → u ≠ now s) :
    triggered s fx rank delay = onClapper s fun x =>
      if (fxChan s fx).state = .braking && (fxChan s fx).latched.isSome then x.count 0
      else if (fxChan s fx).state = .braking then
        (x.onChan (effectOf s.clapper.library fx).chan fun ch => { ch with latched := some (fx, segSample (now s) (fxChan s fx)) }).onChan
          (effectOf s.clapper.library fx).chan fun ch => { ch with trigAt := some (now s, rank) }
      else (x.play (effectOf s.clapper.library fx).chan fx false (BitVec.ofNat 64 ((now s).toNat + delay))).onChan
        (effectOf s.clapper.library fx).chan fun ch => { ch with trigAt := some (now s, rank) } := by
  refine onClapper_congr s ((if_neg (by rw [trigger_takes hl hv he]; exact Bool.false_ne_true)).trans ?_)
  show (match sameCycle (fxChan s fx) (now s) with
    | some r => _
    | none => _) = _
  rw [sameCycle_fresh hf]
  rfl

theorem triggered_plays (hf : ∀ u r, (fxChan s fx).trigAt = some (u, r) → u ≠ now s) (hb : (fxChan s fx).state ≠ .braking) :
    triggered s fx rank delay = clapPut s (effectOf s.clapper.library fx).chan fun ch =>
      { ch.plays fx false (BitVec.ofNat 64 ((now s).toNat + delay)) with trigAt := some (now s, rank) } := by
  rw [triggered_fresh hl hv he hf]
  refine Eq.trans (onClapper_congr s (g := fun x => (x.play (effectOf s.clapper.library fx).chan fx false (BitVec.ofNat 64 ((now s).toNat + delay))).onChan
    (effectOf s.clapper.library fx).chan fun ch => { ch with trigAt := some (now s, rank) }) ((if_neg ?_).trans (if_neg hb))) (clapPut_put (s := s) (fun ch => ch.plays fx false (BitVec.ofNat 64 ((now s).toNat + delay)))
    fun ch => { ch with trigAt := some (now s, rank) })
  rw [decide_eq_false hb, Bool.false_and]
  exact Bool.false_ne_true

theorem triggered_latches (hf : ∀ u r, (fxChan s fx).trigAt = some (u, r) → u ≠ now s) (hb : (fxChan s fx).state = .braking) (hn : (fxChan s fx).latched = none) :
    triggered s fx rank delay = clapPut s (effectOf s.clapper.library fx).chan fun ch =>
      { ch with latched := some (fx, segSample (now s) (fxChan s fx)), trigAt := some (now s, rank) } := by
  rw [triggered_fresh hl hv he hf]
  refine Eq.trans (onClapper_congr s (g := fun x => (x.onChan (effectOf s.clapper.library fx).chan fun ch =>
    { ch with latched := some (fx, segSample (now s) (fxChan s fx)) }).onChan (effectOf s.clapper.library fx).chan fun ch =>
      { ch with trigAt := some (now s, rank) }) ((if_neg ?_).trans (if_pos hb))) (clapPut_put (s := s)
    (fun ch => { ch with latched := some (fx, segSample (now s) (fxChan s fx)) }) fun ch => { ch with trigAt := some (now s, rank) })
  rw [hn, Option.isSome_none, Bool.and_false]
  exact Bool.false_ne_true

theorem triggered_full (hf : ∀ u r, (fxChan s fx).trigAt = some (u, r) → u ≠ now s) (hb : (fxChan s fx).state = .braking) (hn : (fxChan s fx).latched ≠ none) :
    triggered s fx rank delay = clapCounted s 0 := by
  rw [triggered_fresh hl hv he hf]
  refine onClapper_congr s (if_pos ?_)
  rw [decide_eq_true hb, Bool.true_and]
  exact Option.isSome_iff_ne_none.mpr hn

theorem triggered_later {r : Nat} (hr : (fxChan s fx).trigAt = some (now s, r)) (hle : r ≤ rank) : triggered s fx rank delay = clapCounted s 0 := by
  refine onClapper_congr s ((if_neg (by rw [trigger_takes hl hv he]; exact Bool.false_ne_true)).trans ?_)
  unfold fxChan at hr
  dsimp only
  rw [hr]
  dsimp only
  rw [if_pos rfl]
  exact if_neg (Nat.not_lt.mpr hle)
end

theorem fin_val {n : Nat} [NeZero n] (x : Fin n) : fin n x.val = x := by
  unfold fin
  exact Fin.ofNat_val_eq_self x

/-- Settles O48: the playing, braking, splicing and triggers of a channel, each by the rule of its command. -/
theorem clapperPlaysBrakesAndSplices : Obligations.ClapperPlaysBrakesAndSplices := by
  intro s c hup
  have hover {i : Instr} {negate : Bool} {t : Word64} (h : exec i s = .next (brakeEnds s c negate t)) :
      ((s.clapper.chans[c.val]).latched = none → exec i s = .next (clapPut s c fun ch => { ch with state := .idle, drive := 0 })) ∧
      (∀ fx z, (s.clapper.chans[c.val]).latched = some (fx, z) → exec i s = .next (clapPut s c fun ch => ch.plays fx negate t)) :=
    ⟨fun hl => h.trans (congrArg _ (brakeEnds_idle hl)), fun fx z hl => h.trans (congrArg _ (brakeEnds_plays hl))⟩
  have hattack {t : State} (h : attackEnd s c = t) : exec (.attackEnd c) s = .next t := (live_next hup fun s => attackEnd s c).trans (congrArg _ h)
  have hsustain {t : State} (h : sustainEnd s c = t) : exec (.sustainEnd c) s = .next t := (live_next hup fun s => sustainEnd s c).trans (congrArg _ h)
  have hstop {t : State} (h : (onClapper s fun x => x.stop c (now s)) = t) : exec (.stop c) s = .next t :=
    (live_next hup fun s => onClapper s fun x => x.stop c (now s)).trans (congrArg _ h)
  have hbrake {t : State} (h : brakingEnd s c = t) : exec (.brakingEnd c) s = .next t := (live_next hup fun s => brakingEnd s c).trans (congrArg _ h)
  refine ⟨fun h => hattack (attackEnd_waits h), fun h ht h0 => hattack ((attackEnd_over h ht).trans (if_pos h0)),
    fun h ht h0 => hattack ((attackEnd_over h ht).trans (if_neg h0)), fun h => hsustain (sustainEnd_waits h), fun h ht => hsustain (sustainEnd_over h ht),
    fun h => hstop (stop_playing h), fun h => hstop (stop_quiet h), fun v hc => ?emf, fun h => hbrake (brakingEnd_other h), fun h hc => ?coil,
    fun h hc => ?piezo, fun i fx rank delay hi => ?triggers, fun p hp => ?pin⟩
  case emf =>
    subst hc
    have hexec {t : State} (h : brakeEmf s v = t) : exec (.brakeEmfSample v) s = .next t := (live_next hup fun s => brakeEmf s v).trans (congrArg _ h)
    have hspliced (h : ∃ fx z, (s.clapper.chans[1]).latched = some (fx, z) ∧ (effectOf s.clapper.library fx).splice = true) : s.clapper.spliced 1 = true := by
      obtain ⟨fx, z, hl, hs⟩ := h
      exact (spliced_iff ..).mpr ⟨z, fx, hl, hs⟩
    refine ⟨fun h => hexec (brakeEmf_other h), fun h hs ⟨a, ha, hr⟩ => hover (hexec (brakeEmf_splices h (hspliced hs) ((emfCross_some ha).trans (crossing_rise hr)))),
      fun h hs ⟨a, ha, hf⟩ => hover (hexec (brakeEmf_splices h (hspliced hs) ((emfCross_some ha).trans (crossing_fall hf)))), fun h hn => ?_⟩
    have htaken : s.clapper.spliced 1 = false ∨ emfCross s.clapper.chans[1] v = none := by
      by_cases hs : s.clapper.spliced 1 = true
      · obtain ⟨z, fx, hl, hsp⟩ := (spliced_iff ..).mp hs
        refine .inr (emfCross_none (fun hr => hn ⟨⟨fx, z, hl, hsp⟩, .inl hr⟩) fun hf => hn ⟨⟨fx, z, hl, hsp⟩, .inr hf⟩)
      · exact .inl (Bool.eq_false_iff.mpr hs)
    refine (hexec (brakeEmf_taken h htaken)).trans (congrArg _ (onClapper_congr s (congrArg (fun c => { s.clapper with chans := c })
      (vmod_congr s.clapper.chans (1 : Fin 2) ?_))))
    unfold emfTaken ClapChannel.brakeMax
    rw [stopAt_eq_min]
    rfl
  case coil =>
    obtain ⟨hbefore, hafter⟩ := brakingEnd_coil h hc
    unfold ClapChannel.brakeMax at hbefore hafter
    rw [stopAt_eq_min] at hbefore hafter
    exact ⟨fun ht => hbrake (hbefore ht), fun ht => hover (hbrake (hafter ht))⟩
  case piezo =>
    have hc1 : c ≠ 1 := by rw [hc]; decide
    have hwhole (hcut : brakeCut s.clapper c = none) := brakingEnd_whole h hc1 hcut
    refine ⟨fun hz => ?_, fun z hz hno => ?_, fun z i hz hfirst hcross => ?_⟩
    · obtain ⟨hbefore, hafter⟩ := hwhole (brakeCut_plain hz)
      exact ⟨fun ht => hbrake (hbefore ht), fun ht => hover (hbrake (hafter ht))⟩
    · obtain ⟨hbefore, hafter⟩ := hwhole ((brakeCut_spliced hz).trans (brakeSearch_from_none _ _ hno))
      exact ⟨fun ht => hbrake (hbefore ht), fun ht => hover (hbrake (hafter ht))⟩
    · obtain ⟨h1, h2, h3, hno⟩ := hfirst
      have hcut {fell : Bool} (hi : crossing (brakeSample s.clapper c (i - 1)) (brakeSample s.clapper c i) = some fell) :=
        brakingEnd_cut h hc1 ((brakeCut_spliced hz).trans (brakeSearch_from_first _ _ hi h1 h2 h3 hno))
      refine ⟨fun ht => ?_, fun ht hr => hover (hbrake ((hcut (crossing_rise hr)).2 ht)), fun ht hf => hover (hbrake ((hcut (crossing_fall hf)).2 ht))⟩
      rcases hcross with hr | hf
      · exact hbrake ((hcut (crossing_rise hr)).1 ht)
      · exact hbrake ((hcut (crossing_fall hf)).1 ht)
  case triggers =>
    have hexec {t : State} (h : triggered s fx rank delay = t) : exec i s = .next t := by
      rcases hi with ⟨p, rfl, hp, hfx, rfl, rfl⟩ | ⟨rfl, rfl, rfl, rfl⟩
      · refine (live_next hup fun s => pinEdge s p).trans (congrArg _ (Eq.trans ?_ h))
        refine onClapper_congr s ((if_pos hp).trans ?_)
        rw [← hfx, fin_val]
      · exact (live_next hup fun s => trigWrite s c).trans (congrArg _ h)
    exact ⟨fun h => hexec (triggered_refused h), fun hl hv he => ⟨fun hf hb => hexec (triggered_plays hl hv he hf hb),
      fun hf hb hn => hexec (triggered_latches hl hv he hf hb hn), fun hf hb hn => hexec (triggered_full hl hv he hf hb hn),
      fun r hr hle => hexec (triggered_later hl hv he hr hle)⟩⟩
  case pin =>
    exact (live_next hup fun s => pinEdge s p).trans (congrArg _ (onClapper_same s (if_neg (by rw [hp]; exact Bool.false_ne_true))))

end Sys2Proof.Machine
end

section
open Sys2Proof.Laws
namespace Sys2Proof.Machine

/-! ### CLAP_LOAD (15 R353) -/

section
variable {s : State} {j : Job} {rest : List Job} {a : Nat}

theorem quietBoth_iff (x : Clapper) : x.quietBoth = true ↔ (x.chans[0]).state = .idle ∧ (x.chans[1]).state = .idle := by
  unfold Clapper.quietBoth
  rw [Vector.all_eq_true]
  refine ⟨fun h => ⟨of_decide_eq_true (h 0 (by decide)), of_decide_eq_true (h 1 (by decide))⟩, fun ⟨h0, h1⟩ i hi => ?_⟩
  obtain rfl | rfl : i = 0 ∨ i = 1 := by omega
  · exact decide_eq_true h0
  · exact decide_eq_true h1

/-- STOP on a channel: its latch is gone, and what is not idle brakes; the other channel stands. -/
theorem stop_chans (x : Clapper) (c : Fin 2) (t : Word64) :
    (((x.stop c t).chans[c.val]).latched = none ∧ ((x.chans[c.val]).state = .idle → ((x.stop c t).chans[c.val]).state = .idle) ∧
      ((x.chans[c.val]).state ≠ .idle → ((x.stop c t).chans[c.val]).state = .braking)) ∧
    ∀ d : Fin 2, d ≠ c → (x.stop c t).chans[d.val] = x.chans[d.val] := by
  by_cases hp : (decide ((x.chans[c.val]).state = .attack) || decide ((x.chans[c.val]).state = .sustain)) = true
  · have hstop : x.stop c t = { x with chans := vmod x.chans c fun ch =>
        { ch with latched := none }.brakes (segEnd x.chans[c.val] (segSample t x.chans[c.val] + 1)) } := by
      refine (if_pos hp).trans (congrArg (fun v => { x with chans := v }) ?_)
      exact vmod_vmod x.chans c (fun ch => { ch with latched := none }) fun ch => ch.brakes (segEnd x.chans[c.val] (segSample t x.chans[c.val] + 1))
    rw [hstop]
    dsimp only
    rw [vmod_self]
    refine ⟨⟨rfl, fun h => ?_, fun _ => rfl⟩, fun d hd => vmod_other _ _ _ _ _ fun e => hd (Fin.ext e)⟩
    rw [h] at hp
    cases hp
  · have hstop : x.stop c t = { x with chans := vmod x.chans c fun ch => { ch with latched := none } } := if_neg hp
    rw [hstop]
    dsimp only
    rw [vmod_self]
    refine ⟨⟨rfl, id, fun h => ?_⟩, fun d hd => vmod_other _ _ _ _ _ fun e => hd (Fin.ext e)⟩
    rw [Bool.or_eq_true, decide_eq_true_eq, decide_eq_true_eq, not_or] at hp
    show (x.chans[c.val]).state = .braking
    cases hst : (x.chans[c.val]).state with
    | idle => exact absurd hst h
    | attack => exact absurd hst hp.1
    | sustain => exact absurd hst hp.2
    | braking => rfl

/-- The Clapper when a load begins. -/
def loadStarts (x : Clapper) (t : Word64) : Clapper := ({ x with loading := true }.stop 0 t).stop 1 t

theorem loadStarts_loading (x : Clapper) (t : Word64) : (loadStarts x t).loading = true := by
  have hstop (x : Clapper) (c : Fin 2) : (x.stop c t).loading = x.loading := by
    unfold Clapper.stop
    dsimp only
    split <;> rfl
  unfold loadStarts
  rw [hstop, hstop]

theorem loadStarts_chans (x : Clapper) (t : Word64) (c : Fin 2) :
    ((loadStarts x t).chans[c.val]).latched = none ∧ ((x.chans[c.val]).state = .idle → ((loadStarts x t).chans[c.val]).state = .idle) ∧
      ((x.chans[c.val]).state ≠ .idle → ((loadStarts x t).chans[c.val]).state = .braking) := by
  have h0 := stop_chans { x with loading := true } 0 t
  have h1 := stop_chans ({ x with loading := true }.stop 0 t) 1 t
  obtain rfl | rfl : c = 0 ∨ c = 1 := by omega
  · have hsame : (loadStarts x t).chans[(0 : Fin 2).val] = ({ x with loading := true }.stop 0 t).chans[(0 : Fin 2).val] := h1.2 0 (by decide)
    rw [hsame]
    exact h0.1
  · have hsame := h0.2 1 (by decide)
    rw [hsame] at h1
    exact h1.1

theorem clapGo_busy (hl : s.clapper.loading = true) (hq : s.clapper.quietBoth = false) : clapGo s j rest a = s := by
  unfold clapGo
  dsimp only
  rw [if_pos hl, hq]
  rfl

theorem clapGo_begins (hl : s.clapper.loading = false) (hq : s.clapper.quietBoth = false) :
    clapGo s j rest a = onClapper s fun _ => loadStarts s.clapper (now s) := by
  have hbusy : (loadStarts s.clapper (now s)).quietBoth = false := by
    rw [Bool.eq_false_iff] at hq ⊢
    intro h
    refine hq ((quietBoth_iff _).mpr ?_)
    obtain ⟨h0, h1⟩ := (quietBoth_iff _).mp h
    have hidle (c : Fin 2) (hc : ((loadStarts s.clapper (now s)).chans[c.val]).state = .idle) : (s.clapper.chans[c.val]).state = .idle := by
      refine Classical.byContradiction fun hne => ?_
      rw [(loadStarts_chans ..).2.2 hne] at hc
      cases hc
    exact ⟨hidle 0 h0, hidle 1 h1⟩
  unfold clapGo
  dsimp only
  rw [hl, if_neg Bool.false_ne_true]
  show (if (loadStarts s.clapper (now s)).quietBoth = true then _ else _) = _
  rw [hbusy]
  rfl

/-- The checks of a library's entry, as a condition. -/
theorem effect_ok_iff (f : Effect) : f.ok = true ↔
    1 ≤ f.attLen ∧ f.attOff + f.attLen ≤ 130560 ∧ (f.susRepeat = 0 ∨ f.susOff + f.susLen ≤ 130560) ∧
      (f.chan = 1 ∨ (f.brkLen ≤ 1600 ∧ f.brkOff + f.brkLen ≤ 130560)) := by
  unfold Effect.ok
  simp only [Bool.and_eq_true, Bool.or_eq_true, decide_eq_true_eq, and_assoc]

theorem libraryOk_iff (lib : Memory) : libraryOk lib = true ↔ ∀ e : Fin 64, (effectOf lib e).valid = true →
    1 ≤ (effectOf lib e).attLen ∧ (effectOf lib e).attOff + (effectOf lib e).attLen ≤ 130560 ∧
      ((effectOf lib e).susRepeat = 0 ∨ (effectOf lib e).susOff + (effectOf lib e).susLen ≤ 130560) ∧
      ((effectOf lib e).chan = 1 ∨ ((effectOf lib e).brkLen ≤ 1600 ∧ (effectOf lib e).brkOff + (effectOf lib e).brkLen ≤ 130560)) := by
  unfold libraryOk
  rw [List.all_eq_true]
  refine ⟨fun h e he => ?_, fun h e _ => ?_⟩
  · have hok := h e (List.mem_finRange e)
    rw [he, Bool.not_true, Bool.false_or, effect_ok_iff] at hok
    exact hok
  · rw [Bool.or_eq_true, Bool.not_eq_true', effect_ok_iff]
    by_cases he : (effectOf lib e).valid = true
    · exact .inr (h e he)
    · exact .inl (Bool.eq_false_iff.mpr he)

/-- The copy of a library with the read and its length left open: with their values in it the kernel, comparing the two sides of an unfolding,
would read 262,144 bytes. -/
theorem loadLibrary_open : ∃ G : (State → Option MillId → Nat → Nat → NetStatus × List Byte × State) → Nat → State → Job → List Job → Nat → State,
    (∀ R n, readRange = R → 262144 = n → loadLibrary = G R n) ∧
    ∀ R n s j rest a bs, R (onControl s fun k => { k with fwQueue := rest }) none a n = (.ok, bs, onControl s fun k => { k with fwQueue := rest }) →
      G R n s j rest a = fwDone (onClapper (onControl s fun k => { k with fwQueue := rest }) fun x =>
        { x with loading := false, library := writeBytes [] 0 bs, libValid := libraryOk (writeBytes [] 0 bs) })
        j (if libraryOk (writeBytes [] 0 bs) then stOk else stFormat) (if libraryOk (writeBytes [] 0 bs) then 0 else 0x80) := by
  refine ⟨?G, fun R n hR hn => ?read, fun R n s j rest a bs hr => ?copy⟩
  case read =>
    delta loadLibrary
    rw [hR, hn]
  case copy =>
    dsimp only
    rw [hr]
    generalize libraryOk (writeBytes [] 0 bs) = ok
    exact if_neg fun hne => hne rfl

theorem loadLibrary_reads {bs : List Byte}
    (hr : readRange (onControl s fun k => { k with fwQueue := rest }) none a 262144 = (.ok, bs, onControl s fun k => { k with fwQueue := rest })) :
    loadLibrary s j rest a = fwDone (onClapper (onControl s fun k => { k with fwQueue := rest }) fun x =>
      { x with loading := false, library := writeBytes [] 0 bs, libValid := libraryOk (writeBytes [] 0 bs) })
      j (if libraryOk (writeBytes [] 0 bs) then stOk else stFormat) (if libraryOk (writeBytes [] 0 bs) then 0 else 0x80) := by
  obtain ⟨G, hload, hcopy⟩ := loadLibrary_open
  rw [hload readRange 262144 rfl rfl]
  exact hcopy readRange 262144 s j rest a bs hr

theorem clapGo_idle (hl : s.clapper.loading = true) (hq : s.clapper.quietBoth = true) : clapGo s j rest a = loadLibrary s j rest a := by
  unfold clapGo
  dsimp only
  rw [if_pos hl, if_pos hq]

variable (hh : headJob s.control.fwQueue .clapLoad = some (j, rest)) {ws : List Word} (hd : descWords s j.win j.words[4] = some ws)
  (hs : rowStatus s none ((j.win.base + j.words[4].toNat * 64) / 512 * 512) = .ok)
include hh hd hs

theorem clapLoad_noPlace (hp : effRange s.granary.flat (jobMill j.words) j.win (descOf ws).base 262144 = none) :
    clapLoad s = fwDone (onControl s fun k => { k with fwQueue := rest }) j stBound 0x08 := by
  unfold clapLoad
  rw [hh]
  dsimp only
  rw [hd]
  dsimp only
  rw [hs, if_neg (by decide), hp]

theorem clapLoad_go (hp : effRange s.granary.flat (jobMill j.words) j.win (descOf ws).base 262144 = some a) : clapLoad s = clapGo s j rest a := by
  unfold clapLoad
  rw [hh]
  dsimp only
  rw [hd]
  dsimp only
  rw [hs, if_neg (by decide), hp]
end

/-! ### Touch (15 R359 to R361) -/

/-- Reporting, with the Clapper changed alike before and after. -/
theorem Reported.clapper {s t : State} (h : Reported s t) (f : Clapper → Clapper) : Reported (onClapper s f) (onClapper t f) where
  rest := by rw [h.rest]; rfl
  mills := h.mills
  control := h.control
  chutes := h.chutes
  granary := h.granary
  banks := h.banks
  gauge := h.gauge
  ports := h.ports
  spigot := h.spigot
  mem := h.mem
  canonical := h.canonical

section
variable {s : State} {e : TouchEvent} (f : Clapper → Clapper)

theorem postTouch_full (h : 16 ≤ s.clapper.events.length) :
    onClapper (postTouch s e) f = onClapper s fun x => f { x with counters := vmod x.counters 2 (bump ·) } := by
  unfold postTouch
  rw [if_neg (Nat.not_lt.mpr h)]
  rfl

theorem postTouch_room (h : s.clapper.events.length < 16) :
    Reported { s with clapper := (onClapper (postTouch s e) f).clapper } (onClapper (postTouch s e) f) ∧
      (onClapper (postTouch s e) f).clapper = f { s.clapper with events := s.clapper.events ++ [e] } := by
  unfold postTouch
  rw [if_pos h]
  have hrep := raiseBell_reported (onClapper s fun x => { x with events := x.events ++ [e] }) s.clapper.touchBell
  have hclap : (raiseBell (onClapper s fun x => { x with events := x.events ++ [e] }) s.clapper.touchBell).clapper =
      { s.clapper with events := s.clapper.events ++ [e] } := by rw [hrep.rest]; rfl
  have hf := hrep.clapper f
  refine ⟨?_, congrArg f hclap⟩
  have hsame : ({ s with clapper := (onClapper (raiseBell (onClapper s fun x => { x with events := x.events ++ [e] }) s.clapper.touchBell) f).clapper } : State) =
      onClapper (onClapper s fun x => { x with events := x.events ++ [e] }) f := by
    rw [onClapper_clapper, hclap]
    rfl
  rw [hsame]
  exact hf
end

section
variable {s : State} {r : BitVec 16}

/-- A reading taken. -/
def readingTaken (s : State) (r : BitVec 16) : State := onClapper s fun x => { x with reading := r }

theorem touchReading_off (h : ¬ (bitOf s.clapper.ctl 30 = true ∧ (s.clapper.chans[0]).state = .idle)) : touchReading s r = s := by
  refine if_pos ?_
  rw [Bool.or_eq_true, decide_eq_true_eq, Bool.not_eq_true']
  by_cases hs : bitOf s.clapper.ctl 30 = true
  · exact .inr fun hi => h ⟨hs, hi⟩
  · exact .inl (Bool.eq_false_iff.mpr hs)

theorem untouchedRange_iff (x : Clapper) (n : Nat) : x.untouchedRange n = true ↔ bitsOf x.untouched 15 0 ≤ n ∧ n ≤ bitsOf x.untouched 31 16 := by
  unfold Clapper.untouchedRange
  rw [Bool.and_eq_true, decide_eq_true_eq, decide_eq_true_eq]

variable (h : bitOf s.clapper.ctl 30 = true ∧ (s.clapper.chans[0]).state = .idle)
include h

theorem touchReading_on : touchReading s r =
    match s.clapper.tstate with
    | .boot => onClapper (readingTaken s r) fun x =>
        if s.clapper.untouchedRange r.toNat then { x with baseline := r, tstate := .idle, run := 0 }
        else { x with panelPresent := true, peak := r, t0 := now s, tstate := .deferred }
    | .deferred => onClapper (readingTaken s r) fun x =>
        let p := if x.peak < r then r else x.peak
        let x := { x with peak := p }
        if x.releaseDelta < p.toNat - r.toNat then { x with settle := 8, tstate := .settling }
        else if elapsed s x.t0 30000000000 then { x with baseline := r, relative := true, tstate := .idle, run := 0 }
        else x
    | .settling => onClapper (readingTaken s r) fun x =>
        if 1 < x.settle then { x with settle := x.settle - 1 }
        else { x with settle := 0, baseline := r, tstate := .idle, run := 0, relative := x.relative && !s.clapper.untouchedRange r.toNat }
    | .idle => readIdle (readingTaken s r) r
    | .touched => readTouched (readingTaken s r) r := by
  refine (if_neg ?_).trans ?_
  · rw [Bool.or_eq_true, decide_eq_true_eq, Bool.not_eq_true', not_or]
    exact ⟨(Bool.not_eq_false _).mpr h.1, not_not_intro h.2⟩
  · show (match s.clapper.tstate with | .boot => _ | .deferred => _ | .settling => _ | .idle => _ | .touched => _) = _
    cases s.clapper.tstate <;> rfl

theorem touchReading_boot_calm (ht : s.clapper.tstate = .boot) (hc : s.clapper.untouchedRange r.toNat = true) :
    touchReading s r = onClapper (readingTaken s r) fun x => { x with baseline := r, tstate := .idle, run := 0 } := by
  rw [touchReading_on h, ht]
  exact onClapper_congr _ (if_pos hc)

theorem touchReading_boot_present (ht : s.clapper.tstate = .boot) (hc : ¬ s.clapper.untouchedRange r.toNat = true) :
    touchReading s r = onClapper (readingTaken s r) fun x => { x with panelPresent := true, peak := r, t0 := now s, tstate := .deferred } := by
  rw [touchReading_on h, ht]
  exact onClapper_congr _ (if_neg hc)

/-- The largest reading while the panel is present. -/
def touchPeak (x : Clapper) (r : BitVec 16) : BitVec 16 := if x.peak < r then r else x.peak

theorem touchReading_released (ht : s.clapper.tstate = .deferred) (hr : bitsOf s.clapper.deltas 31 16 < (touchPeak s.clapper r).toNat - r.toNat) :
    touchReading s r = onClapper (readingTaken s r) fun x => { x with peak := touchPeak s.clapper r, settle := 8, tstate := .settling } := by
  rw [touchReading_on h, ht]
  exact onClapper_congr _ (if_pos hr)

theorem touchReading_deferred_over (ht : s.clapper.tstate = .deferred) (hr : (touchPeak s.clapper r).toNat - r.toNat ≤ bitsOf s.clapper.deltas 31 16)
    (he : s.clapper.t0.toNat + 30000000000 ≤ (now s).toNat) : touchReading s r = onClapper (readingTaken s r) fun x =>
      { x with peak := touchPeak s.clapper r, baseline := r, relative := true, tstate := .idle, run := 0 } := by
  rw [touchReading_on h, ht]
  exact onClapper_congr _ ((if_neg (Nat.not_lt.mpr hr)).trans (if_pos ((elapsed_iff ..).mpr he)))

theorem touchReading_deferred (ht : s.clapper.tstate = .deferred) (hr : (touchPeak s.clapper r).toNat - r.toNat ≤ bitsOf s.clapper.deltas 31 16)
    (he : (now s).toNat < s.clapper.t0.toNat + 30000000000) :
    touchReading s r = onClapper (readingTaken s r) fun x => { x with peak := touchPeak s.clapper r } := by
  rw [touchReading_on h, ht]
  exact onClapper_congr _ ((if_neg (Nat.not_lt.mpr hr)).trans (if_neg (by rw [elapsed_iff]; exact Nat.not_le.mpr he)))

theorem touchReading_settles (ht : s.clapper.tstate = .settling) (hs : 1 < s.clapper.settle) :
    touchReading s r = onClapper (readingTaken s r) fun x => { x with settle := x.settle - 1 } := by
  rw [touchReading_on h, ht]
  exact onClapper_congr _ (if_pos hs)

theorem touchReading_settled (ht : s.clapper.tstate = .settling) (hs : s.clapper.settle ≤ 1) :
    touchReading s r = onClapper (readingTaken s r) fun x =>
      { x with settle := 0, baseline := r, tstate := .idle, run := 0, relative := s.clapper.relative && !s.clapper.untouchedRange r.toNat } := by
  rw [touchReading_on h, ht]
  exact onClapper_congr _ (if_neg (Nat.not_lt.mpr hs))
end

/-! Readings while nothing is touched, and while something is. -/

section
variable {s : State} {r : BitVec 16}

/-- The rise of a reading over the baseline. -/
def touchRise (x : Clapper) (r : BitVec 16) : Int := r.toNat - x.baseline.toNat

theorem readIdle_press (h : (bitsOf s.clapper.deltas 15 0 : Int) ≤ touchRise s.clapper r ∧ s.clapper.run = 2) :
    readIdle s r = press s (BitVec.ofInt 16 (touchRise s.clapper r)) := by
  refine if_pos ?_
  rw [Bool.and_eq_true, decide_eq_true_eq, decide_eq_true_eq]
  exact h

variable (h : ¬ ((bitsOf s.clapper.deltas 15 0 : Int) ≤ touchRise s.clapper r ∧ s.clapper.run = 2))
include h

theorem readIdle_drops (hr : s.clapper.relative = true ∧ (bitsOf s.clapper.deltas 31 16 : Int) < -touchRise s.clapper r) :
    readIdle s r = onClapper s fun x => { x with run := 0, settle := 8, tstate := .settling } := by
  refine (if_neg ?_).trans ((if_pos ?_).trans rfl)
  · rw [Bool.and_eq_true, decide_eq_true_eq, decide_eq_true_eq]
    exact h
  · rw [Bool.and_eq_true, decide_eq_true_eq]
    exact hr

theorem readIdle_tracks (hr : ¬ (s.clapper.relative = true ∧ (bitsOf s.clapper.deltas 31 16 : Int) < -touchRise s.clapper r)) :
    readIdle s r = onClapper s fun x => { x with
      run := if (bitsOf s.clapper.deltas 15 0 : Int) ≤ touchRise s.clapper r then x.run + 1 else 0
      baseline := BitVec.ofInt 16 (x.baseline.toNat + touchRise s.clapper r / (2 ^ bitsOf s.clapper.timing 3 0 : Int)) } := by
  refine (if_neg ?_).trans ((if_neg ?_).trans ?_)
  · rw [Bool.and_eq_true, decide_eq_true_eq, decide_eq_true_eq]
    exact h
  · rw [Bool.and_eq_true, decide_eq_true_eq]
    exact hr
  · refine onClapper_congr s (f := fun x => { x with run := if decide ((bitsOf s.clapper.deltas 15 0 : Int) ≤ touchRise s.clapper r) then x.run + 1 else 0
                                                     baseline := BitVec.ofInt 16 (x.baseline.toNat + touchRise s.clapper r / (2 ^ bitsOf s.clapper.timing 3 0 : Int)) }) ?_
    exact congrArg (fun n => ({ s.clapper with run := n, baseline := _ } : Clapper)) (ite_congr (propext decide_eq_true_iff) (fun _ => rfl) fun _ => rfl)
end

/-- The state that a draw leaves. -/
def drawn (s : State) : State := { s with free := s.free + 1 }

theorem postTouch_kept (s : State) (e : TouchEvent) : (postTouch s e).clapper.ctl = s.clapper.ctl ∧ now (postTouch s e) = now s := by
  unfold postTouch
  split
  · have hrep := raiseBell_reported (onClapper s fun x => { x with events := x.events ++ [e] }) s.clapper.touchBell
    refine ⟨?_, ?_⟩
    · rw [hrep.rest]; rfl
    · unfold now
      rw [hrep.gauge]
      rfl
  · exact ⟨rfl, rfl⟩

theorem press_plain {s : State} (d : BitVec 16) (hc : bitOf s.clapper.ctl 27 = false) :
    ∃ e : TouchEvent, (∃ f, e = { time := now s, force := f, rel := s.clapper.relative, type := 0 }) ∧
      press s d = onClapper (postTouch (drawn s) e) fun x => { x with tstate := .touched, t0 := now s, run := 0, force := d } := by
  refine ⟨_, ⟨(draw s 16).1, rfl⟩, ?_⟩
  obtain ⟨hctl, hnow⟩ := postTouch_kept (drawn s) { time := now s, force := (draw s 16).1, rel := s.clapper.relative, type := 0 }
  refine (if_neg ?_).trans ?_
  · show ¬ bitOf (postTouch (drawn s) { time := now s, force := (draw s 16).1, rel := s.clapper.relative, type := 0 }).clapper.ctl 27 = true
    rw [hctl, show (drawn s).clapper = s.clapper from rfl, hc]
    exact Bool.false_ne_true
  · show (onClapper (postTouch (drawn s) { time := now s, force := (draw s 16).1, rel := s.clapper.relative, type := 0 }) fun x =>
      { x with tstate := .touched, t0 := now (postTouch (drawn s) { time := now s, force := (draw s 16).1, rel := s.clapper.relative, type := 0 }), run := 0, force := d }) = _
    rw [hnow]
    rfl

/-- The Clapper with the touch's largest rise over the baseline. -/
def touchForce (x : Clapper) (r : BitVec 16) : BitVec 16 := if (x.force.toNat : Int) < touchRise x r then BitVec.ofInt 16 (touchRise x r) else x.force
/-- The state with that force. -/
def forced (s : State) (r : BitVec 16) : State := onClapper s fun x => { x with force := touchForce x r }

theorem touchOver_event (s : State) (type : BitVec 2) :
    ∃ rel : Bool, touchOver s type = postTouch (drawn s) { time := now s, force := s.clapper.force, rel := rel, type := type } := ⟨_, rfl⟩

section
variable {s : State} {r : BitVec 16}

/-- A reading below half of TOUCH_DELTA. -/
def touchLow (x : Clapper) (r : BitVec 16) : Prop := 2 * touchRise x r < bitsOf x.deltas 15 0

theorem readTouched_ends (hl : touchLow s.clapper r) (hr : s.clapper.run = 2) :
    readTouched s r = onClapper (touchOver (forced s r) 1) fun x => { x with tstate := .idle, run := 0 } := by
  refine if_pos ?_
  rw [Bool.and_eq_true, decide_eq_true_eq, decide_eq_true_eq]
  exact ⟨hl, hr⟩

/-- The state when a touch goes on: its force, and the low readings in a row. -/
def touchedOn (s : State) (r : BitVec 16) : State :=
  onClapper (forced s r) fun x => { x with run := if 2 * touchRise s.clapper r < bitsOf s.clapper.deltas 15 0 then x.run + 1 else 0 }

variable (h : ¬ (touchLow s.clapper r ∧ s.clapper.run = 2))
include h

theorem readTouched_on : readTouched s r =
    if elapsed (touchedOn s r) s.clapper.t0 s.clapper.maxTouchNs then
      onClapper (touchOver (touchedOn s r) 2) fun x => { x with stuck := true, baseline := r, relative := true, tstate := .idle, run := 0 }
    else touchedOn s r := by
  have hrun : (onClapper (forced s r) fun x => { x with run := if decide (2 * touchRise s.clapper r < bitsOf s.clapper.deltas 15 0) then x.run + 1 else 0 }) =
      touchedOn s r :=
    onClapper_congr (forced s r) (f := fun x => { x with run := if decide (2 * touchRise s.clapper r < bitsOf s.clapper.deltas 15 0) then x.run + 1 else 0 })
      (congrArg (fun n => ({ (forced s r).clapper with run := n } : Clapper)) (ite_congr (propext decide_eq_true_iff) (fun _ => rfl) fun _ => rfl))
  rw [← hrun]
  refine (if_neg ?_).trans rfl
  rw [Bool.and_eq_true, decide_eq_true_eq, decide_eq_true_eq]
  exact h

theorem readTouched_stuck (he : s.clapper.t0.toNat + s.clapper.maxTouchNs ≤ (now s).toNat) : readTouched s r =
    onClapper (touchOver (touchedOn s r) 2) fun x => { x with stuck := true, baseline := r, relative := true, tstate := .idle, run := 0 } := by
  rw [readTouched_on h]
  exact if_pos ((elapsed_iff ..).mpr he)

theorem readTouched_goesOn (he : (now s).toNat < s.clapper.t0.toNat + s.clapper.maxTouchNs) : readTouched s r = touchedOn s r := by
  rw [readTouched_on h]
  exact if_neg fun ht => absurd ((elapsed_iff ..).mp ht) (Nat.not_le.mpr he)
end

theorem touchLong_max (x : Clapper) : x.maxTouchNs = max 1 (bitsOf x.timing 31 24) * 1000000000 := by
  unfold Clapper.maxTouchNs atLeast1
  split <;> congr 1 <;> omega

/-- The event that ends a touch, from a state that the reading has left. -/
theorem touchOver_ends {u : State} (type : BitVec 2) (g : Clapper → Clapper) :
    (16 ≤ u.clapper.events.length → onClapper (touchOver u type) g = onClapper (drawn u) fun x => g { x with counters := vmod x.counters 2 (bump ·) }) ∧
    (u.clapper.events.length < 16 → ∃ rel : Bool, Reported { drawn u with clapper := (onClapper (touchOver u type) g).clapper } (onClapper (touchOver u type) g) ∧
      (onClapper (touchOver u type) g).clapper = g { u.clapper with
        events := u.clapper.events ++ [({ time := now u, force := u.clapper.force, rel := rel, type := type } : TouchEvent)] }) := by
  obtain ⟨rel, hover⟩ := touchOver_event u type
  rw [hover]
  exact ⟨fun hf => postTouch_full (s := drawn u) g hf, fun hr => ⟨rel, postTouch_room (s := drawn u) g hr⟩⟩

/-- A reading that ends a touch, from the Clapper `y`, whose other values the end replaces: the event is posted, or counted when the FIFO is full. -/
theorem touch_ended {s : State} {r : BitVec 16} {type : BitVec 2} {g : Clapper → Clapper} {y z : Clapper} (hq : s.granary.errPend = false)
    (h : exec (.touchReading r) s = .next (settleErr (onClapper (touchOver (onClapper s fun _ => z) type) g)))
    (hz : z.events = y.events ∧ z.counters = y.counters ∧ z.force = y.force)
    (hg : ∀ ev co, g { z with events := ev, counters := co } = g { y with events := ev, counters := co }) :
    (16 ≤ y.events.length → exec (.touchReading r) s = .next { s with clapper := g { y with counters := vmod y.counters (2 : Fin 3) (bump ·) }, free := s.free + 1 }) ∧
    (y.events.length < 16 → ∃ (rel : Bool) (t : State), exec (.touchReading r) s = .next (settleErr t) ∧
      Reported { s with clapper := t.clapper, free := s.free + 1 } t ∧
      t.clapper = g { y with events := y.events ++ [({ time := now s, force := y.force, rel := rel, type := type } : TouchEvent)] }) := by
  obtain ⟨hev, hco, hforce⟩ := hz
  obtain ⟨hfull, hroom⟩ := touchOver_ends (u := onClapper s fun _ => z) type g
  have hnew {e f : List TouchEvent} {c d : Vector Word 3} (he : e = f) (hc : c = d) :
      g { z with events := e, counters := c } = g { y with events := f, counters := d } := by
    subst he hc
    exact hg e c
  refine ⟨fun hf => ?_, fun hf => ?_⟩
  · refine (h.trans (congrArg _ (congrArg settleErr (hfull (by rw [onClapper_clapper, hev]; exact hf))))).trans ?_
    refine (congrArg _ (settleErr_quiet (s := onClapper (drawn (onClapper s fun _ => z)) fun x => g { x with counters := vmod x.counters 2 (bump ·) }) hq)).trans ?_
    exact congrArg (fun c => Host.Outcome.next { s with clapper := c, free := s.free + 1 }) (hnew hev (congrArg (fun c => vmod c 2 (bump ·)) hco))
  · obtain ⟨rel, hrep, hclap⟩ := hroom (by rw [onClapper_clapper, hev]; exact hf)
    exact ⟨rel, _, h, hrep, hclap.trans (hnew (by rw [← hev, ← hforce]; rfl) hco)⟩

/-- Settles O49: the load by the state of its channels, and a reading by the state of the touch. -/
theorem clapperLoadsItsLibraryAndSensesTouch : Obligations.ClapperLoadsItsLibraryAndSensesTouch := by
  intro s hup hq
  have hload {t : State} (h : clapLoad s = t) : exec .clapLoad s = .next (settleErr t) := (liveRows_next hup clapLoad).trans (congrArg _ (congrArg settleErr h))
  refine ⟨fun hn => ?none, fun j rest ws hh hd hs => ⟨fun hp => ?noPlace, fun hp hi hl => ?waits, fun hp hi hl => ?begins, fun a hp hi hl hrows => ?loads⟩,
    live_next hup fun s => onClapper s fun x => { x with events := x.events.drop 1 }, fun r => ?readings⟩
  case none =>
    refine (hload ?_).trans (congrArg _ (settleErr_quiet hq))
    unfold clapLoad
    rw [hn]
  case noPlace => exact hload (clapLoad_noPlace hh hd hs hp)
  case waits =>
    obtain ⟨a, hp⟩ := Option.ne_none_iff_exists'.mp hp
    refine (hload ((clapLoad_go hh hd hs hp).trans (clapGo_busy hl (Bool.eq_false_iff.mpr ?_)))).trans (congrArg _ (settleErr_quiet hq))
    rw [ne_eq, quietBoth_iff]
    exact hi
  case begins =>
    obtain ⟨a, hp⟩ := Option.ne_none_iff_exists'.mp hp
    refine ⟨loadStarts s.clapper (now s), (hload ((clapLoad_go hh hd hs hp).trans (clapGo_begins hl (Bool.eq_false_iff.mpr ?_)))).trans (congrArg _ (settleErr_quiet hq)),
      loadStarts_loading .., loadStarts_chans _ _⟩
    rw [ne_eq, quietBoth_iff]
    exact hi
  case loads =>
    have hread : readRange (onControl s fun k => { k with fwQueue := rest }) none a 262144 = (.ok, readBytes s.mem a 262144, onControl s fun k => { k with fwQueue := rest }) :=
      readRange_ok hrows
    generalize readBytes s.mem a 262144 = bs at hread
    have hgo := hload (((clapLoad_go hh hd hs hp).trans (clapGo_idle hl ((quietBoth_iff _).mpr hi))).trans (loadLibrary_reads hread))
    refine ⟨fun hg => ?_, fun hg => ?_⟩
    · rw [(libraryOk_iff _).mpr hg] at hgo
      exact hgo
    · rw [← libraryOk_iff, Bool.not_eq_true] at hg
      rw [hg] at hgo
      exact hgo
  case readings =>
    have hexec {t : State} (h : touchReading s r = t) : exec (.touchReading r) s = .next (settleErr t) :=
      (liveRows_next hup fun s => touchReading s r).trans (congrArg _ (congrArg settleErr h))
    have hturn {f : Clapper → Clapper} (h : touchReading s r = onClapper (readingTaken s r) f) :
        exec (.touchReading r) s = .next (onClapper s fun x => f { x with reading := r }) :=
      (hexec h).trans (congrArg _ (settleErr_quiet hq))
    refine ⟨fun h => (hexec (touchReading_off h)).trans (congrArg _ (settleErr_quiet hq)),
      fun h ht hc => hturn (touchReading_boot_calm h ht ((untouchedRange_iff ..).mpr hc)),
      fun h ht hc => hturn (touchReading_boot_present h ht fun hu => hc ((untouchedRange_iff ..).mp hu)),
      fun h ht => ⟨fun hr => hturn (touchReading_released h ht hr), fun hr he => hturn (touchReading_deferred_over h ht hr he), fun hr he => hturn (touchReading_deferred h ht hr he)⟩,
      fun h ht hs => hturn (touchReading_settles h ht hs),
      fun h ht hs => ⟨_, ?settled, hturn (touchReading_settled h ht hs)⟩, fun h ht => ?idle, fun h ht => ?touched⟩
    case settled =>
      rw [Bool.and_eq_true, Bool.not_eq_true', Bool.eq_false_iff, ne_eq, untouchedRange_iff]
    case idle =>
      have hread : touchReading s r = readIdle (readingTaken s r) r := by rw [touchReading_on h, ht]
      refine ⟨fun hp hr hd => hturn (hread.trans (readIdle_drops (s := readingTaken s r) hp ⟨hr, hd⟩)),
        fun hp hn => hturn (hread.trans (readIdle_tracks (s := readingTaken s r) hp hn)), fun hp hc hf => ?_, fun hp hc hf => ?_⟩
      · obtain ⟨e, -, hpress⟩ := press_plain (s := readingTaken s r) (BitVec.ofInt 16 (touchRise s.clapper r)) hc
        refine (hexec ((hread.trans (readIdle_press (s := readingTaken s r) hp)).trans (hpress.trans (postTouch_full (s := drawn (readingTaken s r)) _ hf)))).trans
          (congrArg _ (settleErr_quiet hq))
      · obtain ⟨e, ⟨f, rfl⟩, hpress⟩ := press_plain (s := readingTaken s r) (BitVec.ofInt 16 (touchRise s.clapper r)) hc
        obtain ⟨hrep, hclap⟩ := postTouch_room (s := drawn (readingTaken s r)) (e := { time := now s, force := f, rel := s.clapper.relative, type := 0 })
          (fun x => { x with tstate := .touched, t0 := now s, run := 0, force := BitVec.ofInt 16 (touchRise s.clapper r) }) hf
        exact ⟨f, _, hexec ((hread.trans (readIdle_press (s := readingTaken s r) hp)).trans hpress), hrep, hclap⟩
    case touched =>
      have hread : touchReading s r = readTouched (readingTaken s r) r := by rw [touchReading_on h, ht]
      refine ⟨fun hl hr => ?_, fun hn he => ?_, fun hn he => ?_⟩
      · exact touch_ended (y := (forced (readingTaken s r) r).clapper) hq (hexec (hread.trans (readTouched_ends (s := readingTaken s r) hl hr)))
          ⟨rfl, rfl, rfl⟩ fun _ _ => rfl
      · exact touch_ended (y := (forced (readingTaken s r) r).clapper) (z := (touchedOn (readingTaken s r) r).clapper) hq
          (hexec (hread.trans (readTouched_stuck (s := readingTaken s r) hn (by rw [touchLong_max]; exact he)))) ⟨rfl, rfl, rfl⟩ fun _ _ => rfl
      · exact hturn (f := fun x => { x with force := touchForce s.clapper r, run := if 2 * touchRise s.clapper r < bitsOf s.clapper.deltas 15 0 then x.run + 1 else 0 })
          (hread.trans (readTouched_goesOn (s := readingTaken s r) hn (by rw [touchLong_max]; exact he)))

end Sys2Proof.Machine
end

section
open Sys2Proof.Laws
namespace Sys2Proof.Machine

/-! ### The field schedule (16 R381, R382, R384) -/

section
variable {s : State}

/-- A field slice is due. -/
def SliceDue (s : State) : Prop :=
  bitOf s.assay.sched 31 = true ∧ (s.assay.lcState = 2 ∨ s.assay.lcState = 3) ∧ 6 ≤ s.service.bootPhase.toNat ∧ s.service.noFirmware = false ∧
    s.assay.sliceFrom.toNat + (if bitsOf s.assay.sched 15 0 = 0 then 1 else bitsOf s.assay.sched 15 0) * 1000000000 ≤ (now s).toNat ∧
    s.assay.test = none ∧ s.assay.reportHeld < s.assay.reportDepth ∧ s.service.sequences.length < 4 ∧ ∀ q ∈ s.service.sequences, q.slice = none

/-- What keeps a field slice from starting. -/
def sliceBlocked (s : State) : Bool :=
  !(bitOf s.assay.sched 31) || !(s.assay.lcState = 2 || s.assay.lcState = 3) || !firmwareRuns s ||
    !elapsed s s.assay.sliceFrom (atLeast1 (bitsOf s.assay.sched 15 0) * 1000000000) || s.assay.test.isSome || s.assay.reportFull ||
    (s.service.sequences.any fun q => q.slice.isSome) || 4 ≤ s.service.sequences.length

theorem sliceBlocked_iff (s : State) : sliceBlocked s = false ↔ SliceDue s := by
  have hslices : (s.service.sequences.any fun q => q.slice.isSome) = false ↔ ∀ q ∈ s.service.sequences, q.slice = none := by
    rw [List.any_eq_false]
    exact forall₂_congr fun q _ => by rw [Bool.not_eq_true, Option.isSome_eq_false_iff, Option.isNone_iff_eq_none]
  have hruns : firmwareRuns s = true ↔ 6 ≤ s.service.bootPhase.toNat ∧ s.service.noFirmware = false := by
    unfold firmwareRuns
    rw [Bool.and_eq_true, decide_eq_true_eq, Bool.not_eq_true']
  have hfull : s.assay.reportFull = false ↔ s.assay.reportHeld < s.assay.reportDepth := by
    unfold Assay.reportFull
    rw [decide_eq_false_iff_not, Nat.not_le]
  unfold sliceBlocked SliceDue
  simp only [Bool.or_eq_false_iff, Bool.not_eq_false', Bool.or_eq_true, decide_eq_true_eq, decide_eq_false_iff_not, Nat.not_le, elapsed_iff, hslices, hruns,
    hfull, Option.isSome_eq_false_iff, Option.isNone_iff_eq_none, atLeast1, and_assoc]
  rw [and_comm (b := s.service.sequences.length < 4)]

theorem fieldSlice_blocked (h : ¬ SliceDue s) : fieldSlice s = s := by
  rw [← sliceBlocked_iff, Bool.not_eq_false] at h
  exact if_pos h

/-- The schedule at the next slice. -/
def sliceNext (s : State) : Option (Nat × Nat) × State := nextSlice (onAssay s fun a => { a with sliceFrom := now s }) 60

theorem fieldSlice_due (h : SliceDue s) : fieldSlice s =
    match sliceNext s with
    | (none, s) => s
    | (some (i, k), s) =>
      match rotUnitOf s i with
      | none => s
      | some u => seqStart s (fin 256 u) none (if i = 28 || i = 27 then [SvcStep.test] else [.drain, .isolate, .test, .reset, .reinit, .rejoin])
          .online none (some (sliceSel s i k)) := by
  rw [← sliceBlocked_iff] at h
  exact (if_neg (ne_true_of_eq_false h)).trans rfl

theorem fieldSlice_none {r : State} (h : SliceDue s) (hn : sliceNext s = (none, r)) : fieldSlice s = r := by
  rw [fieldSlice_due h, hn]

theorem fieldSlice_starts {i k u : Nat} {r : State} (h : SliceDue s) (hn : sliceNext s = (some (i, k), r)) (hu : rotUnitOf r i = some u) :
    fieldSlice s = seqStart r (fin 256 u) none (if i = 27 ∨ i = 28 then [SvcStep.test] else [.drain, .isolate, .test, .reset, .reinit, .rejoin])
      .online none (some (sliceSel r i k)) := by
  rw [fieldSlice_due h, hn]
  dsimp only
  rw [hu]
  refine congrArg (fun todo => seqStart r (fin 256 u) none todo .online none (some (sliceSel r i k))) (ite_congr (propext ?_) (fun _ => rfl) fun _ => rfl)
  rw [Bool.or_eq_true, decide_eq_true_eq, decide_eq_true_eq, or_comm]

/-! The rotation. -/

/-- The slice at which an entry goes on. -/
def rotFrom (skipped : List (Nat × Nat)) (j : Nat) : Nat := match skipped.find? fun x => x.1 = j with | some x => x.2 | none => 0

theorem rotFrom_eq (skipped : List (Nat × Nat)) (j : Nat) : rotFrom skipped j = ((skipped.find? fun y => y.1 = j).map (·.2)).getD 0 := by
  unfold rotFrom
  cases skipped.find? fun x => x.1 = j <;> rfl

/-- The rotation at its next entry. -/
def rotateOn (x : State) : State :=
  onAssay x fun a => { a with
    rotUnit := if 28 ≤ a.rotUnit then 0 else a.rotUnit + 1
    rotSlice := ((a.skipped.find? fun y => y.1 = if 28 ≤ a.rotUnit then 0 else a.rotUnit + 1).map (·.2)).getD 0
    skipped := a.skipped.filter fun y => y.1 ≠ if 28 ≤ a.rotUnit then 0 else a.rotUnit + 1 }

theorem nextSlice_succ (x : State) (n : Nat) : nextSlice x (n + 1) =
    if !inRotation x x.assay.rotUnit || entrySlices x x.assay.rotUnit ≤ x.assay.rotSlice then nextSlice (rotateOn x) n
    else if !entryFree x x.assay.rotUnit then nextSlice (rotateOn (onAssay x fun a => { a with skipped := a.skipped ++ [(a.rotUnit, a.rotSlice)] })) n
    else (some (x.assay.rotUnit, x.assay.rotSlice), onAssay x fun a => { a with rotSlice := a.rotSlice + 1 }) := by
  have hon (x : State) : rotateOn x = onAssay x fun a => { a with
      rotUnit := if 28 ≤ a.rotUnit then 0 else a.rotUnit + 1
      rotSlice := rotFrom a.skipped (if 28 ≤ a.rotUnit then 0 else a.rotUnit + 1)
      skipped := a.skipped.filter fun y => y.1 ≠ if 28 ≤ a.rotUnit then 0 else a.rotUnit + 1 } := by
    unfold rotateOn
    simp only [rotFrom_eq]
  rw [nextSlice, hon, hon]
  rfl

theorem nextSlice_passes {x : State} (n : Nat) (h : ¬ (inRotation x x.assay.rotUnit = true ∧ x.assay.rotSlice < entrySlices x x.assay.rotUnit)) :
    nextSlice x (n + 1) = nextSlice (rotateOn x) n := by
  rw [nextSlice_succ]
  refine if_pos ?_
  rw [Bool.or_eq_true, decide_eq_true_eq, Bool.not_eq_true', Bool.eq_false_iff]
  refine Classical.byContradiction fun hn => ?_
  rw [not_or, Classical.not_not, Nat.not_le] at hn
  exact h hn

variable {x : State} (n : Nat) (h : inRotation x x.assay.rotUnit = true ∧ x.assay.rotSlice < entrySlices x x.assay.rotUnit)
include h

theorem rotation_not_passed : ¬ (!inRotation x x.assay.rotUnit || decide (entrySlices x x.assay.rotUnit ≤ x.assay.rotSlice)) = true := by
  rw [h.1, decide_eq_false (Nat.not_le.mpr h.2)]
  decide

theorem nextSlice_skips (hf : entryFree x x.assay.rotUnit = false) :
    nextSlice x (n + 1) = nextSlice (rotateOn (onAssay x fun a => { a with skipped := a.skipped ++ [(a.rotUnit, a.rotSlice)] })) n := by
  rw [nextSlice_succ, if_neg (rotation_not_passed h)]
  exact if_pos (by rw [hf]; rfl)

theorem nextSlice_takes (hf : entryFree x x.assay.rotUnit = true) :
    nextSlice x (n + 1) = (some (x.assay.rotUnit, x.assay.rotSlice), onAssay x fun a => { a with rotSlice := a.rotSlice + 1 }) := by
  rw [nextSlice_succ, if_neg (rotation_not_passed h)]
  exact if_neg (by rw [hf]; decide)
end

/-- The next slice of a Mill that is free. -/
theorem sliceNext_mill {s : State} {m : MillId} (hr : s.assay.rotUnit = m.val) (hs : s.assay.rotSlice < 12) (hm : s.assay.schedMills.getLsbD m.val = true)
    (ho : unitState s m.val = .online) (hq : ∀ q ∈ s.service.sequences, q.unit.val ≠ m.val) (hu : s.control.urgentMills.getLsbD m.val = false) :
    sliceNext s = (some (m.val, s.assay.rotSlice), onAssay s fun a => { a with sliceFrom := now s, rotSlice := s.assay.rotSlice + 1 }) := by
  have hm16 : m.val < 16 := m.isLt
  have hunit (x : State) : rotUnitOf x m.val = some m.val := if_pos hm16
  have hin (x : State) : inRotation x m.val = x.assay.schedMills.getLsbD m.val := if_pos hm16
  have hslices (x : State) : entrySlices x m.val = 12 := by
    unfold entrySlices partitions
    rw [if_neg (by omega), hunit]
    dsimp only
    rw [if_pos hm16]
  have hfree : entryFree (onAssay s fun a => { a with sliceFrom := now s }) m.val = true := by
    have hnone : seqOf (onAssay s fun a => { a with sliceFrom := now s }) m.val = none :=
      List.find?_eq_none.mpr fun q hmem => by rw [decide_eq_true_eq]; exact hq q hmem
    have hstate : unitState (onAssay s fun a => { a with sliceFrom := now s }) m.val = .online := ho
    have hcalm : (onAssay s fun a => { a with sliceFrom := now s }).control.urgentMills.getLsbD m.val = false := hu
    unfold entryFree
    rw [hunit]
    dsimp only
    rw [hnone, if_neg (by omega), hstate, hcalm, Bool.and_false]
    rfl
  unfold sliceNext
  rw [nextSlice_takes]
  · show (some (s.assay.rotUnit, s.assay.rotSlice), _) = _
    rw [hr]
    rfl
  · show inRotation (onAssay s fun a => { a with sliceFrom := now s }) s.assay.rotUnit = true ∧ s.assay.rotSlice < entrySlices _ s.assay.rotUnit
    rw [hr, hin, hslices]
    exact ⟨hm, hs⟩
  · show entryFree (onAssay s fun a => { a with sliceFrom := now s }) s.assay.rotUnit = true
    rw [hr]
    exact hfree

theorem sliceSel_mill (x : State) (m : MillId) (k : Nat) : sliceSel x m.val k = if k < 11 then (k, 0x00080000) else (0, 0x00000101) := by
  have hm16 : m.val < 16 := m.isLt
  have hunit : rotUnitOf x m.val = some m.val := if_pos hm16
  unfold sliceSel partitions
  rw [if_neg (by omega), hunit]
  dsimp only
  rw [if_pos hm16]

/-! The end of a slice. -/

section
variable {x : State} {t : Test} (h : t.unit.val ≠ otherPair x)
include h

theorem fieldOver_passes (q : Option QuernId) : fieldOver x t false q = stepEnd x t.unit.val := by
  unfold fieldOver
  dsimp only
  rw [if_neg h]

theorem fieldOver_fails : fieldOver x t true none =
    raiseBell (onUnit (onService x fun y => { y with sequences := y.sequences.filter fun q => q.unit ≠ t.unit }) t.unit.val fun r => { r with step := 0 }) x.assay.bell := by
  unfold fieldOver
  dsimp only
  rw [if_neg h]
  unfold onUnit
  rfl

theorem fieldOver_quern {m : MillId} (p : QuernId) (hm : t.unit.val = m.val) : fieldOver x t true (some p) =
    stepEnd (onSeq (raiseBell x x.assay.bell) m.val fun q => { q with qmap := some (spareFor (x.mills[m.val]).regs.qmap p) }) m.val := by
  have hm16 : t.unit.val < 16 := hm ▸ m.isLt
  unfold fieldOver
  dsimp only
  rw [if_neg h, dif_pos hm16]
  simp only [hm]
end

/-! The map that makes a Quern the spare. -/

/-- Six 3-bit fields and what they read as. -/
theorem fields_read {f : Nat → Nat} (h : ∀ l, l < 6 → f l < 8) (l : Nat) (hl : l < 6) :
    qmapAt (BitVec.ofNat 18 ((List.range 6).foldl (fun acc l => acc + f l * 2 ^ (3 * l)) 0)) l = f l := by
  have h0 := h 0 (by decide)
  have h1 := h 1 (by decide)
  have h2 := h 2 (by decide)
  have h3 := h 3 (by decide)
  have h4 := h 4 (by decide)
  have h5 := h 5 (by decide)
  have hsum : (List.range 6).foldl (fun acc l => acc + f l * 2 ^ (3 * l)) 0 = f 0 + f 1 * 8 + f 2 * 64 + f 3 * 512 + f 4 * 4096 + f 5 * 32768 := by
    simp [List.range_succ]
  rw [hsum]
  unfold qmapAt bitsOf
  have hlt : f 0 + f 1 * 8 + f 2 * 64 + f 3 * 512 + f 4 * 4096 + f 5 * 32768 < 2 ^ 18 := by omega
  rw [BitVec.toNat_ofNat, Nat.mod_eq_of_lt hlt, Nat.shiftRight_eq_div_pow]
  clear hsum hlt h
  have hcases : l = 0 ∨ l = 1 ∨ l = 2 ∨ l = 3 ∨ l = 4 ∨ l = 5 := by omega
  rcases hcases with rfl | rfl | rfl | rfl | rfl | rfl <;> simp only [Nat.reduceMul, Nat.reducePow, Nat.div_one] <;> omega

theorem spareFor_spec {q : BitVec 18} (p : QuernId) {spare : QuernId} (hs : ∀ l, l < 6 → qmapAt q l ≠ spare.val)
    (hfirst : ∀ x : QuernId, x < spare → ∃ l, l < 6 ∧ qmapAt q l = x.val) (l : Nat) (hl : l < 6) :
    qmapAt (spareFor q p) l = if qmapAt q l = p.val then spare.val else qmapAt q l := by
  have hfind : (List.finRange 7).find? (fun x => !(List.range 6).any fun l => qmapAt q l = x.val) = some spare := by
    refine find_finRange ?_ fun x hx => ?_
    · rw [Bool.not_eq_true', List.any_eq_false]
      exact fun l hl => by rw [decide_eq_true_eq]; exact hs l (List.mem_range.mp hl)
    · obtain ⟨l, hl, he⟩ := hfirst x hx
      rw [Bool.not_eq_false', List.any_eq_true]
      exact ⟨l, List.mem_range.mpr hl, decide_eq_true he⟩
  have hfield (l : Nat) (_ : l < 6) : (if qmapAt q l = p.val then spare.val else qmapAt q l) < 8 := by
    split
    · exact Nat.lt_trans spare.isLt (by decide)
    · have hlt : qmapAt q l < 2 ^ (3 * l + 2 - 3 * l + 1) := bitsOf_lt ..
      rwa [show 3 * l + 2 - 3 * l + 1 = 3 by omega] at hlt
  unfold spareFor
  rw [hfind]
  exact fields_read hfield l hl

/-! A Mill that becomes urgent. -/

/-- What a write of URGENT_MILLS does to one Mill that it gains. -/
def urgentGains (x : State) (m : MillId) : State :=
  match seqOf x m.val with
  | none => x
  | some q =>
    if q.slice.isNone then x
    else match x.assay.test with
      | some t => if t.unit.val = m.val then abortTest x t else onSeq x m.val fun q => { q with todo := q.todo.filter (· ≠ .test) }
      | none => onSeq x m.val fun q => { q with todo := q.todo.filter (· ≠ .test) }

section
variable {x : State} {m : MillId}

theorem urgentGains_free (h : ∀ q, seqOf x m.val = some q → q.slice = none) : urgentGains x m = x := by
  unfold urgentGains
  split
  · rfl
  · next q hq => exact if_pos (by rw [h q hq]; rfl)

variable {q : Sequence} (hq : seqOf x m.val = some q) (hs : q.slice ≠ none)
include hq hs

theorem urgentGains_aborts {t : Test} (ht : x.assay.test = some t) (hm : t.unit.val = m.val) : urgentGains x m = abortTest x t := by
  unfold urgentGains
  rw [hq]
  refine (if_neg (by rw [Option.isNone_iff_eq_none]; exact hs)).trans ?_
  rw [ht]
  exact if_pos hm

theorem urgentGains_drops (ht : ∀ t, x.assay.test = some t → t.unit.val ≠ m.val) :
    urgentGains x m = onSeq x m.val fun q => { q with todo := q.todo.filter (· ≠ .test) } := by
  unfold urgentGains
  rw [hq]
  refine (if_neg (by rw [Option.isNone_iff_eq_none]; exact hs)).trans ?_
  split
  · next t htest => exact if_neg (ht t htest)
  · rfl
end

theorem maskMills_zero : maskMills 0 = [] := by decide

theorem maskMills_one (m : MillId) : maskMills (BitVec.twoPow 16 m.val) = [m] := by
  unfold maskMills
  revert m
  decide

/-- Settles O51: the schedule, a slice that ends, and a Mill that becomes urgent. -/
theorem fieldSlicesRotateFailAndAbort : Obligations.FieldSlicesRotateFailAndAbort := by
  intro s hup hq
  have hexec {t : State} (h : fieldSlice s = t) : exec .fieldSliceTimer s = .next (settleErr t) := (liveRows_next hup fieldSlice).trans (congrArg _ (congrArg settleErr h))
  refine ⟨fun h => (hexec (fieldSlice_blocked h)).trans (congrArg _ (settleErr_quiet hq)), fun r hd hn => hexec (fieldSlice_none hd hn),
    fun i k r u hd hn hu => hexec (fieldSlice_starts hd hn hu), fun m hd hr hs hm ho hseq hu => ?mill, fun x n => ?rotation,
    fun x t h => ⟨fieldOver_passes h, fieldOver_fails h, fun m p hm => fieldOver_quern h p hm⟩, fun q p spare => spareFor_spec p, fun v => ?urgent⟩
  case mill =>
    have hunit (x : State) : rotUnitOf x m.val = some m.val := if_pos m.isLt
    have hsteps := fieldSlice_starts hd (sliceNext_mill hr hs hm ho hseq hu) (hunit _)
    have hm16 : m.val < 16 := m.isLt
    rw [if_neg (by omega), sliceSel_mill] at hsteps
    exact hexec hsteps
  case rotation =>
    have hon (x : State) : rotateOn x = onAssay x fun a => { a with
        rotUnit := if 28 ≤ x.assay.rotUnit then 0 else x.assay.rotUnit + 1
        rotSlice := ((a.skipped.find? fun y => y.1 = if 28 ≤ x.assay.rotUnit then 0 else x.assay.rotUnit + 1).map (·.2)).getD 0
        skipped := a.skipped.filter fun y => y.1 ≠ if 28 ≤ x.assay.rotUnit then 0 else x.assay.rotUnit + 1 } := rfl
    refine ⟨fun h => ?_, fun h hf => ?_, fun h hf => nextSlice_takes n h hf⟩
    · rw [nextSlice_passes n h, hon]
    · rw [nextSlice_skips n h hf, hon]
      rfl
  case urgent =>
    have hwrite {l : List MillId} (hl : maskMills (BitVec.ofNat 16 v.toNat &&& ~~~s.control.urgentMills) = l) :
        exec (.urgentMillsWrite v) s = .next (settleErr (l.foldl urgentGains (onControl s fun k => { k with urgentMills := BitVec.ofNat 16 v.toNat }))) := by
      refine (liveRows_next hup fun s => urgentWrite s v).trans (congrArg _ (congrArg settleErr ?_))
      rw [← hl]
      rfl
    refine ⟨fun hg => (hwrite (l := []) (by rw [hg]; exact maskMills_zero)).trans
      (congrArg _ (settleErr_quiet (s := onControl s fun k => { k with urgentMills := BitVec.ofNat 16 v.toNat }) hq)), fun m hg => ?_⟩
    have hone := hwrite (l := [m]) (by rw [hg]; exact maskMills_one m)
    rw [List.foldl_cons, List.foldl_nil] at hone
    refine ⟨fun h => ?_, fun q hseq hs => ⟨fun t ht hm => ?_, fun ht => ?_⟩⟩
    · rw [urgentGains_free (x := onControl s fun k => { k with urgentMills := BitVec.ofNat 16 v.toNat }) h] at hone
      exact hone.trans (congrArg _ (settleErr_quiet hq))
    · rw [urgentGains_aborts (x := onControl s fun k => { k with urgentMills := BitVec.ofNat 16 v.toNat }) hseq hs ht hm] at hone
      exact hone
    · rw [urgentGains_drops (x := onControl s fun k => { k with urgentMills := BitVec.ofNat 16 v.toNat }) hseq hs ht] at hone
      exact hone.trans (congrArg _ (settleErr_quiet hq))

end Sys2Proof.Machine
end

section
open Sys2Proof.Laws
namespace Sys2Proof.Machine

/-! ### Service sequences (17 R403 to R407) -/

section
variable {s : State} {u : UnitId} {k : SvcStep}

/-- The unit's present step. -/
def AtStep (s : State) (u : UnitId) (k : SvcStep) (q : Sequence) : Prop := seqOf s u.val = some q ∧ q.todo.head? = some k

theorem stepAt_some {q : Sequence} (h : AtStep s u k q) : stepAt s u.val k = some q := by
  unfold stepAt
  rw [h.1]
  exact if_pos h.2

theorem stepAt_none (h : ∀ q, ¬ AtStep s u k q) : stepAt s u.val k = none := by
  unfold stepAt
  split
  · next q hq => exact if_neg fun hk => h q ⟨hq, hk⟩
  · rfl

/-! What follows a step that has ended. -/

/-- A sequence whose present step has been counted. -/
def stepCounted (q : Sequence) : Sequence := { q with todo := q.todo.drop 1, done := q.done + 1, restored := false }

theorem seqOf_onSeq {w : State} {q : Sequence} {f : Sequence → Sequence} (hf : ∀ q, (f q).unit = q.unit) (h : seqOf w u.val = some q) :
    seqOf (onSeq w u.val f) u.val = some (f q) := by
  have hunit (x : Sequence) : (if x.unit.val = u.val then f x else x).unit = x.unit := by
    split
    · exact hf x
    · rfl
  have hq := List.find?_some h
  rw [decide_eq_true_eq] at hq
  unfold seqOf at h ⊢
  show (w.service.sequences.map fun q => if q.unit.val = u.val then f q else q).find? (fun q => q.unit.val = u.val) = _
  rw [List.find?_map]
  have hsame : ((fun q : Sequence => decide (q.unit.val = u.val)) ∘ fun q => if q.unit.val = u.val then f q else q) = fun q : Sequence => decide (q.unit.val = u.val) :=
    funext fun x => by rw [Function.comp, hunit]
  rw [hsame, h, Option.map_some, if_pos hq]

/-- The state with the present step of a unit counted. -/
def stepDone (w : State) (u : UnitId) : State := onSeq w u.val stepCounted

theorem stepDone_seq {w : State} {q : Sequence} (h : seqOf w u.val = some q) : seqOf (stepDone w u) u.val = some (stepCounted q) :=
  seqOf_onSeq (f := stepCounted) (fun _ => rfl) h

variable {v : State} {q : Sequence} {more : List SvcStep} (h : seqOf v u.val = some q)
include h

theorem stepBegin_isolate (ht : q.todo = .isolate :: more) : stepBegin v u.val = onUnit v u.val fun r => { r with step := 2, state := .isolated } := by
  unfold stepBegin
  rw [h]
  dsimp only
  rw [ht]

theorem stepBegin_reset (ht : q.todo = .reset :: more) : stepBegin v u.val = onUnit v u.val fun r => { r with step := 3 } := by
  unfold stepBegin
  rw [h]
  dsimp only
  rw [ht]

theorem stepBegin_reinit (ht : q.todo = .reinit :: more) : stepBegin v u.val = onUnit v u.val fun r => { r with step := 4, state := .standby } := by
  unfold stepBegin
  rw [h]
  dsimp only
  rw [ht]

theorem stepBegin_rejoin (ht : q.todo = .rejoin :: more) : stepBegin v u.val = onUnit v u.val fun r => { r with step := 5 } := by
  unfold stepBegin
  rw [h]
  dsimp only
  rw [ht]

theorem stepBegin_over (ht : q.todo = []) : stepBegin v u.val = seqEnd v q := by
  unfold stepBegin
  rw [h]
  dsimp only
  rw [ht]

omit h in
/-- The state when a unit's sequence is gone. -/
def seqGone (v : State) (u : UnitId) : State :=
  onService (onUnit v u.val fun r => { r with step := 0 }) fun x => { x with sequences := x.sequences.filter fun y => y.unit ≠ u }

omit h in
theorem seqEnd_none (hu : q.unit = u) (hj : q.job = none) : seqEnd v q = seqGone v u := by
  unfold seqEnd
  rw [hj, hu]
  rfl

omit h in
theorem seqEnd_job {j : Job} (hu : q.unit = u) (hj : q.job = some j) : seqEnd v q =
    finishJob (seqGone v u) j (if q.expired then stTimeout else stOk) (if q.expired then 0x82 else 0) (min 255 q.stopped)
      (unitEpoch (seqGone v u) u.val).toNat q.since q.done 0 := by
  unfold seqEnd
  rw [hj, hu, ← stopAt_eq_min]
  cases q.expired <;> rfl

omit h in
theorem onUnit_epoch {f : UnitRec → UnitRec} (hf : ∀ r, (f r).epoch = r.epoch) : unitEpoch (onUnit v u.val f) u.val = unitEpoch v u.val := by
  unfold unitEpoch unitRec onUnit
  by_cases hu : u.val < 43
  · have hrec : (onService v fun x => if h : u.val < 43 then { x with units := vmod x.units ⟨u.val, h⟩ f } else x).service.units =
        vmod v.service.units ⟨u.val, hu⟩ f := by
      rw [onService_service, dif_pos hu]
    rw [hrec, Vector.getElem?_eq_getElem hu, Vector.getElem?_eq_getElem hu, vmod_self v.service.units ⟨u.val, hu⟩ f hu]
    exact hf _
  · rw [show (onService v fun x => if h : u.val < 43 then { x with units := vmod x.units ⟨u.val, h⟩ f } else x) = v from onService_same v (dif_neg hu)]

omit h in
theorem seqGone_epoch : unitEpoch (seqGone v u) u.val = unitEpoch v u.val := onUnit_epoch (v := v) (u := u) (f := fun r => { r with step := 0 }) fun _ => rfl
end

/-! DRAIN and ISOLATE. -/

section
variable {s : State} {u : UnitId} {q : Sequence}

theorem drainDone_idle (h : AtStep s u .drain q) (hi : unitIdle s u.val = true) : drainDone s u = stepEnd s u.val := by
  unfold drainDone
  rw [stepAt_some h]
  exact if_pos hi

theorem drainDone_busy (h : AtStep s u .drain q) (hi : unitIdle s u.val = false) : drainDone s u = s := by
  unfold drainDone
  rw [stepAt_some h]
  exact if_neg (ne_true_of_eq_false hi)

theorem drainExpired_early (h : AtStep s u .drain q)
    (hi : unitIdle s u.val = true ∨ (now s).toNat / 1000 ≤ q.since.toNat / 1000 + drainUs s) : drainExpired s u = s := by
  unfold drainExpired
  rw [stepAt_some h]
  refine if_neg ?_
  rw [Bool.and_eq_true, usElapsed_iff, Bool.not_eq_true']
  rintro ⟨ht, hb⟩
  rcases hi with hi | hi
  · rw [hi] at hb; cases hb
  · omega

theorem drainExpired_stops (h : AtStep s u .drain q) (hi : unitIdle s u.val = false) (ht : q.since.toNat / 1000 + drainUs s < (now s).toNat / 1000) :
    drainExpired s u = stepEnd (onSeq (stopUnit s u.val).2 u.val fun q => { q with stopped := (stopUnit s u.val).1, expired := true }) u.val := by
  unfold drainExpired
  rw [stepAt_some h]
  refine if_pos ?_
  rw [Bool.and_eq_true, usElapsed_iff, Bool.not_eq_true']
  exact ⟨by omega, hi⟩

theorem stopUnit_mill (h : u.val < 16) : stopUnit s u.val =
    ((((s.mills[u.val]).slots.toList.filterMap fun x => x.map (·.msg)).length),
      ((s.mills[u.val]).slots.toList.filterMap fun x => x.map (·.msg)).foldl (fun s x => stopHeld s ⟨u.val, h⟩ .offline x) s) := dif_pos h

theorem weir_unit {i : WeirId} (h : u.val = 20 + i.val) : (u.val = 20 ∨ u.val = 21) ∧ fin 2 u.val = i := by
  have hi := i.isLt
  refine ⟨by omega, Fin.ext ?_⟩
  show u.val % 2 = i.val
  omega

theorem port_unit {p : FlumeId} (h : u.val = 22 + p.val) : (22 ≤ u.val ∧ u.val < 28) ∧ fin 6 (u.val - 22) = p := by
  have hp := p.isLt
  refine ⟨by omega, Fin.ext ?_⟩
  show (u.val - 22) % 6 = p.val
  omega

theorem stopUnit_weir {i : WeirId} (h : u.val = 20 + i.val) : stopUnit s u.val = stopWeir s i := by
  obtain ⟨hu, hi⟩ := weir_unit h
  unfold stopUnit
  rw [dif_neg (by omega), if_pos (by rw [Bool.or_eq_true, decide_eq_true_eq, decide_eq_true_eq]; exact hu), hi]

theorem isolateStep_idle (h : AtStep s u .isolate q) (hi : unitIdle s u.val = true) : isolateStep s u = stepEnd (forceView s u.val) u.val := by
  unfold isolateStep
  rw [stepAt_some h]
  exact if_pos hi

theorem isolateStep_busy (h : AtStep s u .isolate q) (hi : unitIdle s u.val = false) : isolateStep s u = s := by
  unfold isolateStep
  rw [stepAt_some h]
  exact if_neg (ne_true_of_eq_false hi)

/-! RESET. -/

/-- The register values of the unit kept for RE-INIT. -/
def kept (w : State) (u : UnitId) : State := onSeq w u.val fun q => { q with shadow := shadowOf w u.val }

theorem resetStep_other (h : AtStep s u .reset q) (hu : u.val ≠ 29) : resetStep s u = stepEnd (clearLbist (unitReset (kept s u) u.val) u.val) u.val := by
  unfold resetStep
  rw [stepAt_some h]
  dsimp only
  rw [if_neg hu]
  refine if_pos ?_
  unfold resetMayEnd
  rw [decide_eq_true hu, Bool.true_or]

/-- The Clapper stopped. -/
def clapStopped (s : State) : State := onClapper s fun x => (x.stop 0 (now s)).stop 1 (now s)

theorem resetStep_clapper (h : AtStep s u .reset q) (hu : u.val = 29) : resetStep s u =
    if (clapStopped s).clapper.quietBoth then stepEnd (clearLbist (kept (clapStopped s) u) u.val) u.val else clapStopped s := by
  have hreset (x : State) : unitReset x u.val = x := by
    unfold unitReset
    rw [hu]
    rfl
  unfold resetStep
  rw [stepAt_some h]
  dsimp only
  rw [if_pos hu]
  simp only [hreset]
  refine ite_congr (propext ?_) (fun _ => rfl) fun _ => rfl
  unfold resetMayEnd
  rw [hu]
  exact Iff.rfl

theorem unitReset_mill (h : u.val < 16) : unitReset s u.val = resetMill s ⟨u.val, h⟩ (s.assay.fuses.qmap ⟨u.val, h⟩) := dif_pos h

theorem unitReset_weir {i : WeirId} (h : u.val = 20 + i.val) : unitReset s u.val = onWeir s i fun _ => Weir.reset := by
  obtain ⟨hu, hi⟩ := weir_unit h
  unfold unitReset
  rw [dif_neg (by omega), if_pos (by rw [Bool.or_eq_true, decide_eq_true_eq, decide_eq_true_eq]; exact hu), hi]

theorem unitReset_port {p : FlumeId} (h : u.val = 22 + p.val) (ha : (s.flume.ports[p.val]).state ≠ .active) (hr : (s.flume.ports[p.val]).state ≠ .recover) :
    unitReset s u.val = onPort s p fun f => { FlumePort.reset with ctrlOut := f.ctrlOut } := by
  obtain ⟨⟨hlo, hhi⟩, hp⟩ := port_unit h
  unfold unitReset
  rw [dif_neg (by omega), if_neg (by rw [Bool.or_eq_true, decide_eq_true_eq, decide_eq_true_eq]; omega),
    if_pos (by rw [Bool.and_eq_true, decide_eq_true_eq, decide_eq_true_eq]; exact ⟨hlo, hhi⟩), hp]
  dsimp only
  rw [portDown_training _ _ ha hr, onPort_onPort]

theorem unitReset_vault (h : u.val = 28) : unitReset s u.val = onVault s fun v => { v with mounted := false } := by rw [h]; rfl

theorem unitReset_fields (h : u.val = 30) : unitReset s u.val = onSpigot s fun x =>
    { x with macs := x.macs.map fun m => { Mac.reset with wire := m.wire }, cans := x.cans.map fun c => { Can.reset with wire := c.wire } } := by rw [h]; rfl

/-! RE-INIT and REJOIN. -/

/-- The state with the unit's registers written back. -/
def reinited (s : State) (u : UnitId) (q : Sequence) : State :=
  if q.restored then s else onSeq (restoreUnit s u.val q.shadow q.qmap) u.val fun q => { q with restored := true }

theorem reinitMayEnd_iff (w : State) (u : UnitId) : reinitMayEnd w u.val = true ↔
    (∀ (_ : u.val < 16), (w.mills[u.val]).sluice.compDone = true ∧ (w.mills[u.val]).regs.remapBusy = false) ∧
      (∀ p : FlumeId, u.val = 22 + p.val → (w.flume.ports[p.val]).en = false ∨ (w.flume.ports[p.val]).state = .active ∨ (w.flume.ports[p.val]).state = .down) := by
  unfold reinitMayEnd
  by_cases hm : u.val < 16
  · rw [dif_pos hm]
    dsimp only
    rw [Bool.and_eq_true, Bool.not_eq_true']
    exact ⟨fun h => ⟨fun _ => h, fun p hp => absurd hp (by omega)⟩, fun h => h.1 hm⟩
  rw [dif_neg hm]
  by_cases hp : 22 ≤ u.val ∧ u.val < 28
  · rw [if_pos (by rw [Bool.and_eq_true, decide_eq_true_eq, decide_eq_true_eq]; exact hp)]
    dsimp only
    rw [Bool.or_eq_true, Bool.or_eq_true, Bool.not_eq_true', decide_eq_true_eq, decide_eq_true_eq, or_assoc]
    refine ⟨fun h => ⟨fun hm' => absurd hm' hm, fun p hup => ?_⟩, fun h => h.2 (fin 6 (u.val - 22)) ?_⟩
    · obtain rfl := (port_unit hup).2
      exact h
    · show u.val = 22 + (u.val - 22) % 6
      omega
  · rw [if_neg (by rw [Bool.and_eq_true, decide_eq_true_eq, decide_eq_true_eq]; exact hp)]
    exact iff_of_true rfl ⟨fun hm' => absurd hm' hm, fun p hup => absurd (port_unit hup).1 hp⟩

theorem reinitStep_ready (h : AtStep s u .reinit q) (hr : reinitMayEnd (reinited s u q) u.val = true) :
    reinitStep s u = stepEnd (onUnit (reinited s u q) u.val fun r => { r with resetDone := false }) u.val := by
  unfold reinitStep
  rw [stepAt_some h]
  exact if_pos hr

theorem reinitStep_waits (h : AtStep s u .reinit q) (hr : ¬ reinitMayEnd (reinited s u q) u.val = true) : reinitStep s u = reinited s u q := by
  unfold reinitStep
  rw [stepAt_some h]
  exact if_neg hr

theorem rejoinStep_early (h : AtStep s u .rejoin q) {t : Word64} (ht : (unitRec s u.val).bind (·.rejoined) = some t) (he : (now s).toNat < t.toNat + 4000000) :
    rejoinStep s u = s := by
  unfold rejoinStep
  rw [stepAt_some h]
  dsimp only
  rw [ht]
  refine if_pos ?_
  rw [Bool.not_eq_true', Bool.eq_false_iff, ne_eq, elapsed_iff]
  omega

theorem rejoinStep_ends (h : AtStep s u .rejoin q) (ht : ∀ t, (unitRec s u.val).bind (·.rejoined) = some t → t.toNat + 4000000 ≤ (now s).toNat) :
    rejoinStep s u = stepEnd (forceView (onUnit s u.val fun r =>
      { r with epoch := r.epoch + 1, state := q.target, cause := if q.target = .online then 0 else r.cause, rejoined := some (now s) }) u.val) u.val := by
  unfold rejoinStep
  rw [stepAt_some h]
  refine if_neg ?_
  split
  · next t hr =>
    rw [Bool.not_eq_true', Bool.eq_false_iff, ne_eq, elapsed_iff, Classical.not_not]
    exact ht t hr
  · exact Bool.false_ne_true
end

theorem stepCounted_todo {q : Sequence} {k : SvcStep} {todo : List SvcStep} (h : q.todo = k :: todo) : (stepCounted q).todo = todo := by
  unfold stepCounted
  rw [h]
  rfl

/-- Settles O53: what ends each step, and what begins after it. -/
theorem sequencesRunStepByStep : Obligations.SequencesRunStepByStep := by
  intro s u hup hq
  have hdone {t : State} (h : drainDone s u = t) : exec (.drainComplete u) s = .next (settleErr t) := (liveRows_next hup fun s => drainDone s u).trans (congrArg _ (congrArg settleErr h))
  have hexp {t : State} (h : drainExpired s u = t) : exec (.drainTimeout u) s = .next (settleErr t) := (liveRows_next hup fun s => drainExpired s u).trans (congrArg _ (congrArg settleErr h))
  have hiso {t : State} (h : isolateStep s u = t) : exec (.svcIsolate u) s = .next (settleErr t) := (liveRows_next hup fun s => isolateStep s u).trans (congrArg _ (congrArg settleErr h))
  have hres {t : State} (h : resetStep s u = t) : exec (.svcReset u) s = .next (settleErr t) := (liveRows_next hup fun s => resetStep s u).trans (congrArg _ (congrArg settleErr h))
  have hini {t : State} (h : reinitStep s u = t) : exec (.svcReinit u) s = .next (settleErr t) := (liveRows_next hup fun s => reinitStep s u).trans (congrArg _ (congrArg settleErr h))
  have hjoin {t : State} (h : rejoinStep s u = t) : exec (.svcRejoin u) s = .next (settleErr t) := (liveRows_next hup fun s => rejoinStep s u).trans (congrArg _ (congrArg settleErr h))
  have hstill {c : Instr} (h : exec c s = .next (settleErr s)) : exec c s = .next s := h.trans (congrArg _ (settleErr_quiet hq))
  refine ⟨fun k c hc hn => ?absent, fun w q hw => ?follows, fun q h => ⟨fun hi => ⟨hdone (drainDone_idle h hi), hstill (hexp (drainExpired_early h (.inl hi)))⟩, fun hi =>
    ⟨hstill (hdone (drainDone_busy h hi)), fun ht => hstill (hexp (drainExpired_early h (.inr ht))), fun ht => ?stops⟩⟩,
    fun q h => ⟨fun hi => hiso (isolateStep_idle h hi), fun hi => hstill (hiso (isolateStep_busy h hi))⟩, fun q h => ?reset, fun q h => ?reinit,
    fun q h => ⟨fun t ht he => hstill (hjoin (rejoinStep_early h ht he)), fun ht => hjoin (rejoinStep_ends h ht)⟩⟩
  case absent =>
    have hnone : stepAt s u.val k = none := stepAt_none hn
    simp only [List.mem_cons, Prod.mk.injEq, List.not_mem_nil, or_false] at hc
    rcases hc with ⟨rfl, rfl⟩ | ⟨rfl, rfl⟩ | ⟨rfl, rfl⟩ | ⟨rfl, rfl⟩ | ⟨rfl, rfl⟩ | ⟨rfl, rfl⟩
    · exact hstill (hdone (by unfold drainDone; rw [hnone]))
    · exact hstill (hexp (by unfold drainExpired; rw [hnone]))
    · exact hstill (hiso (by unfold isolateStep; rw [hnone]))
    · exact hstill (hres (by unfold resetStep; rw [hnone]))
    · exact hstill (hini (by unfold reinitStep; rw [hnone]))
    · exact hstill (hjoin (by unfold rejoinStep; rw [hnone]))
  case follows =>
    have hseq := stepDone_seq hw
    have hq : q.unit.val = u.val := of_decide_eq_true (List.find?_some (p := fun q : Sequence => decide (q.unit.val = u.val)) hw)
    have hunit : (stepCounted q).unit = u := Fin.ext hq
    refine ⟨fun k more ht => stepBegin_isolate hseq (stepCounted_todo ht), fun k more ht => stepBegin_reset hseq (stepCounted_todo ht),
      fun k more ht => stepBegin_reinit hseq (stepCounted_todo ht), fun k more ht => stepBegin_rejoin hseq (stepCounted_todo ht), fun k ht => ?_⟩
    have hover := stepBegin_over hseq (stepCounted_todo ht)
    refine ⟨fun hj => hover.trans (seqEnd_none hunit hj), fun j hj => hover.trans ((seqEnd_job hunit hj).trans ?_)⟩
    rw [seqGone_epoch]
    rfl
  case stops =>
    refine ⟨_, _, hexp (drainExpired_stops h hi ht), fun hm => ?_, fun i hi => ?_⟩
    · rw [stopUnit_mill hm]
      exact ⟨rfl, rfl⟩
    · rw [stopUnit_weir hi]
      exact ⟨rfl, rfl⟩
  case reset =>
    have hother (hu : u.val ≠ 29) {w : State} (hw : unitReset (kept s u) u.val = w) : exec (.svcReset u) s = .next (settleErr (stepEnd (clearLbist w u.val) u.val)) :=
      hres ((resetStep_other h hu).trans (by rw [hw]))
    refine ⟨fun hm => hother (by omega) (unitReset_mill hm), fun i hi => hother (by omega) (unitReset_weir hi),
      fun p hp ha hr => hother (by omega) (unitReset_port (s := kept s u) hp ha hr), fun h28 => hother (by omega) (unitReset_vault h28), fun h29 => ?_,
      fun h30 => hother (by omega) (unitReset_fields h30)⟩
    have hclap := resetStep_clapper h h29
    refine ⟨fun hb => hres (hclap.trans (if_pos hb)), fun hb => (hres (hclap.trans (if_neg (ne_true_of_eq_false hb)))).trans (congrArg _ (settleErr_quiet hq))⟩
  case reinit =>
    exact ⟨fun hr => hini (reinitStep_ready h ((reinitMayEnd_iff ..).mpr hr)), fun hr => hini (reinitStep_waits h fun hm => hr ((reinitMayEnd_iff ..).mp hm))⟩

end Sys2Proof.Machine
end

section
open Sys2Proof.Laws
namespace Sys2Proof.Machine

/-! ### Reset sources (18 R418, R419, R426) -/

section
variable (s : State) (cause : BitVec 5)

theorem fullReset_mill (m : MillId) :
    (fullReset s cause).mills[m.val] = { Mill.reset m with sluice := (s.mills[m.val]).sluice.afterReset } :=
  Vector.getElem_ofFn _

/-- 04 R80: the reset of a Sluice keeps its fields, a field being programmed as INVALID. -/
theorem afterReset_field (u : Sluice) (f : Fin 128) :
    u.afterReset.fields[f.val] = if (u.fields[f.val]).state = .programming then { u.fields[f.val] with state := .invalid } else u.fields[f.val] :=
  Vector.getElem_map ..

end

section
variable {s : State}

theorem spindleLock_still (h : s.service.porstN = false ∨ s.service.thermTrip = true ∨ s.service.locked = true) : spindleLock s = s := by
  unfold spindleLock
  rw [if_pos]
  rcases h with h | h | h <;> simp [h]

theorem spindleLock_locks (hp : s.service.porstN = true) (ht : s.service.thermTrip = false) (hl : s.service.locked = false) :
    spindleLock s = if s.service.bootPhase = 0 then bootStep (onService s fun x => { x with locked := true, inReset := false }) 0
      else onService s fun x => { x with locked := true, inReset := false } := by
  unfold spindleLock
  rw [if_neg (by simp [hp, ht, hl])]
  rfl

theorem softReset_keyed {v : Word} (hk : bitsOf v 31 16 = 0xD1E5) (hb : bitOf v 0 = true) :
    softReset s v = fullReset s (s.service.rstCause ||| causeSoft) :=
  if_pos (by simp [hk, hb])

theorem softReset_unkeyed {v : Word} (h : ¬ (bitsOf v 31 16 = 0xD1E5 ∧ bitOf v 0 = true)) : softReset s v = s :=
  if_neg (by simpa using h)

variable {tj : Int}

/-- A device after a sensor has reported. -/
def sensed (s : State) (tj : Int) : State :=
  onService s fun x => { x with tj := tj, tempMax := if x.tempMax < tj then tj else x.tempMax }

theorem reportTemp_quiet (h : s.service.warned = true ∨ (sensed s tj).service.tempMax < s.service.warnC.toNat) : reportTemp s tj = sensed s tj := by
  refine if_neg fun hc => ?_
  rw [Bool.and_eq_true, Bool.not_eq_true', decide_eq_true_eq] at hc
  exact h.elim (fun hw => Bool.noConfusion (hw.symm.trans hc.1)) fun hl => absurd hc.2 (Int.not_le.mpr hl)

theorem reportTemp_warns (hw : s.service.warned = false) (ht : (s.service.warnC.toNat : Int) ≤ (sensed s tj).service.tempMax) :
    reportTemp s tj = raiseBell (onService (sensed s tj) fun x => { x with warned := true }) s.service.thermBell := by
  refine if_pos ?_
  rw [Bool.and_eq_true, Bool.not_eq_true', decide_eq_true_eq]
  exact ⟨hw, ht⟩

theorem tripAt_eq_min : tripAt s = min 0x8C s.service.tripC.toNat := stopAt_eq_min ..

theorem thermalTrip_trips (h : (tripAt s : Int) < tj) (hp : s.service.porstN = true) :
    thermalTrip s tj = onService (holdReset (fullReset s (s.service.rstCause ||| causeThermal))) fun x => { x with thermTrip := true } :=
  (if_pos h).trans (if_pos hp)

theorem thermalTrip_held (h : (tripAt s : Int) < tj) (hp : s.service.porstN = false) : thermalTrip s tj = s :=
  (if_pos h).trans (if_neg (by simp [hp]))

theorem thermalTrip_inReset (h : tj ≤ tripAt s) (hr : s.service.inReset = true) : thermalTrip s tj = s :=
  (if_neg (Int.not_lt.mpr h)).trans (if_pos hr)

theorem thermalTrip_reports (h : tj ≤ tripAt s) (hr : s.service.inReset = false) : thermalTrip s tj = settleErr (reportTemp s tj) :=
  (if_neg (Int.not_lt.mpr h)).trans (if_neg (by simp [hr]))

end

/-- Settles O55: a full reset is State.reset with what R426 keeps; each source adds its cause and the supervision pins. -/
theorem resetSourcesResetAndKeep : Obligations.ResetSourcesResetAndKeep := by
  unfold Obligations.ResetSourcesResetAndKeep
  intro s reset held x
  have hreset (cause : BitVec 5) (t : State) (ht : t = { fullReset s cause with service := t.service })
      (hy : t.service = { Service.reset with rstCause := cause, porstN := t.service.porstN, thermTrip := t.service.thermTrip, inReset := t.service.inReset }) :
      reset cause t := by
    have hmills : t.mills = (fullReset s cause).mills := (congrArg State.mills ht).trans rfl
    have hvault : t.vault = (fullReset s cause).vault := (congrArg State.vault ht).trans rfl
    refine ⟨?_, fun m => ?_, hvault.trans rfl⟩
    · rw [hmills, hvault]
      exact ht.trans (congrArg (fun y => { fullReset s cause with service := y }) hy)
    · have hm := fullReset_mill s cause m
      rw [hmills, hm]
      exact ⟨rfl, rfl, fun f => afterReset_field _ f⟩
  refine ⟨⟨porAssert s, rfl, hreset causePor (porAssert s) rfl rfl, rfl, rfl, rfl⟩, fun h => ?_, fun h => ?_, fun hp ht hl => ⟨fun hb => ?_, fun hb => ?_⟩, fun h => ?_, fun v hup => ⟨fun hk hb => ?_, fun h => ?_⟩,
    fun hp => ?_, fun hp => ?_, fun tj => ?temp, rfl, rfl⟩
  · exact congrArg _ (if_pos h)
  · exact congrArg _ (if_neg (ne_true_of_eq_false h))
  · exact congrArg _ ((spindleLock_locks hp ht hl).trans (if_neg hb))
  · exact congrArg _ ((spindleLock_locks hp ht hl).trans (if_pos hb))
  · exact congrArg _ (spindleLock_still h)
  · exact ⟨_, (live_next hup fun s => softReset s v).trans (congrArg _ (softReset_keyed hk hb)), hreset _ (fullReset s _) rfl rfl, rfl, rfl, rfl⟩
  · exact (live_next hup fun s => softReset s v).trans (congrArg _ (softReset_unkeyed h))
  · exact ⟨_, congrArg Host.Outcome.next (if_pos hp), hreset _ (holdReset (fullReset s _)) rfl rfl, rfl, hp, rfl⟩
  · exact congrArg _ (if_neg (ne_true_of_eq_false hp))
  case temp =>
    intro limit warm
    have hlimit : tripAt s = limit := tripAt_eq_min
    have hwarm (c : Instr) (he : s.granary.errPend = false) (hc : exec c s = .next (settleErr (reportTemp s tj))) : warm c := by
      refine ⟨fun h => hc.trans (congrArg _ ?_), fun hw ht => hc.trans (congrArg _ (congrArg settleErr (reportTemp_warns hw ht)))⟩
      rw [reportTemp_quiet h]
      exact settleErr_quiet he
    rw [← hlimit]
    exact ⟨fun h hp => ⟨_, congrArg Host.Outcome.next (thermalTrip_trips h hp), hreset _ (onService (holdReset (fullReset s _)) _) rfl rfl, rfl, hp, rfl⟩, fun h hp => congrArg _ (thermalTrip_held h hp),
      fun h hr => congrArg _ (thermalTrip_inReset h hr), fun h hup he => hwarm _ he (congrArg _ (thermalTrip_reports h hup)),
      fun hup he => hwarm _ he (liveRows_next hup fun s => reportTemp s tj)⟩

end Sys2Proof.Machine
end

section
open Sys2Proof.Laws
namespace Sys2Proof.Machine

/-! ### The boot steps (18 R428 to R431) -/

section
variable {s : State} {k : Nat}

theorem inPhase_iff (hup : s.up) : inPhase s k = true ↔ s.service.bootPhase.toNat = k ∧ s.assay.held = false := by
  rw [inPhase, hup, Bool.not_false, Bool.and_true, Bool.and_eq_true, decide_eq_true_eq, Bool.not_eq_true']

variable (h : inPhase s k = false)
include h

/-- A guard that the phase opens is shut outside its phase. -/
theorem phase_shut {f : State} : (if inPhase s k then f else s) = s := if_neg (by simp [h])

theorem phase_early {f : State} : (if !inPhase s k then s else f) = s := if_pos (by simp [h])

end

section
variable {s : State}

/-! The record of a unit after a change of a unit. -/

theorem unitState_onUnit {u : Nat} (hu : u < 43) {f : UnitRec → UnitRec} {x : UnitState} (hf : ∀ r, (f r).state = x) : unitState (onUnit s u f) u = x := by
  have hrec : (onUnit s u f).service.units = vmod s.service.units ⟨u, hu⟩ f := by
    unfold onUnit
    rw [onService_service, dif_pos hu]
  unfold unitState unitRec
  rw [hrec, Vector.getElem?_eq_getElem hu, vmod_self s.service.units ⟨u, hu⟩ f hu]
  exact hf _

theorem unitState_onUnit_other {u v : Nat} (hv : v ≠ u) {f : UnitRec → UnitRec} : unitState (onUnit s u f) v = unitState s v := by
  by_cases hu : u < 43
  · have hrec : (onUnit s u f).service.units = vmod s.service.units ⟨u, hu⟩ f := by
      unfold onUnit
      rw [onService_service, dif_pos hu]
    unfold unitState unitRec
    rw [hrec]
    by_cases hlt : v < 43
    · rw [Vector.getElem?_eq_getElem hlt, Vector.getElem?_eq_getElem hlt, vmod_other s.service.units ⟨u, hu⟩ f v hlt hv]
    · rw [Vector.getElem?_eq_none (Nat.le_of_not_lt hlt), Vector.getElem?_eq_none (Nat.le_of_not_lt hlt)]
  · have hsame : onUnit s u f = s := onService_same s (dif_neg hu)
    rw [hsame]

/-- What a walk over the first units keeps, step by step. -/
theorem foldl_range_keeps {α : Type} {f : α → Nat → α} {P : Nat → α → Prop} {n : Nat} {a : α} (h0 : P 0 a)
    (hs : ∀ i b, i < n → P i b → P (i + 1) (f b i)) : P n ((List.range n).foldl f a) := by
  induction n with
  | zero => exact h0
  | succ n ih =>
    rw [List.range_succ, List.foldl_append]
    exact hs n _ (Nat.lt_succ_self n) (ih fun i b hi => hs i b (Nat.lt_succ_of_lt hi))

/-- The units below `n` have the state that `g` gives, the others and all else are as in `s`. -/
structure UnitsSet (s : State) (g : Nat → UnitState) (n : Nat) (t : State) : Prop where
  rest : t = { s with service := { s.service with units := t.service.units }, free := t.free }
  set : ∀ u, u < n → unitState t u = g u
  later : ∀ u, n ≤ u → unitState t u = unitState s u

theorem UnitsSet.start {g : Nat → UnitState} : UnitsSet s g 0 s := ⟨rfl, fun _ h => absurd h (Nat.not_lt_zero _), fun _ _ => rfl⟩

theorem UnitsSet.onUnit {g : Nat → UnitState} {n : Nat} {t : State} (h : UnitsSet s g n t) (hn : n < 43) {f : UnitRec → UnitRec}
    (hf : ∀ r, (f r).state = g n) : UnitsSet s g (n + 1) (onUnit t n f) := by
  refine ⟨?_, fun u hu => ?_, fun u hu => ?_⟩
  · have hservice := onUnit_service t n f
    rw [h.rest] at hservice ⊢
    exact congrArg (fun x => { s with service := x, free := t.free }) hservice
  · by_cases he : u = n
    · subst he
      exact unitState_onUnit hn hf
    · exact (unitState_onUnit_other he).trans (h.set u (by omega))
  · exact (unitState_onUnit_other (by omega)).trans (h.later u (by omega))

theorem UnitsSet.skip {g : Nat → UnitState} {n : Nat} {t : State} (h : UnitsSet s g n t) (hg : unitState s n = g n) : UnitsSet s g (n + 1) t := by
  refine ⟨h.rest, fun u hu => ?_, fun u hu => h.later u (by omega)⟩
  by_cases he : u = n
  · subst he
    exact (h.later u (Nat.le_refl u)).trans hg
  · exact h.set u (by omega)

theorem UnitsSet.drawn {g : Nat → UnitState} {n w : Nat} {t : State} (h : UnitsSet s g n t) : UnitsSet s g n (draw t w).2 :=
  ⟨congrArg (fun x : State => { x with free := t.free + 1 }) h.rest, h.set, h.later⟩

end

/-! ### Steps 1 and 2: the fuses and the reset test (16 R371, R385, R386) -/

section
variable {s : State}

/-- The state with the fuses' lifecycle state, repair record and QMAP applied. -/
def fusesLoaded (s : State) : State :=
  onGran { onAssay s fun a => { a with lcState := a.fuses.state, fuseBad := img a.fuses.bad } with
      mills := .ofFn fun m => { s.mills[m.val] with regs := { (s.mills[m.val]).regs with qmap := s.assay.fuses.qmap m } } } fun g =>
    { g with spares := .ofFn fun q =>
        match s.assay.fuses.spare q with
        | some l => { g.spares[q.val] with used := true, lbank := l, progress := 6144 }
        | none => g.spares[q.val] }

theorem fuseLoad_ends (h : inPhase s 1 = true) : fuseLoad s = bootStep (fusesLoaded s) 1 := if_neg (by simp [h])

theorem fusesLoaded_mill (m : MillId) :
    (fusesLoaded s).mills[m.val] = { s.mills[m.val] with regs := { (s.mills[m.val]).regs with qmap := s.assay.fuses.qmap m } } :=
  Vector.getElem_ofFn _

theorem fusesLoaded_spare (q : QuadId) : (fusesLoaded s).granary.spares[q.val] =
    match s.assay.fuses.spare q with
    | some l => { s.granary.spares[q.val] with used := true, lbank := l, progress := 6144 }
    | none => s.granary.spares[q.val] :=
  Vector.getElem_ofFn _

/-- The units that the reset test and the fuses take out. -/
def unitsOut (s : State) (o : ResetTest) : List UnitId :=
  o.unitsOff ++ [] ++ s.assay.fuses.held ++ (if o.millerA then [34] else []) ++ (if o.millerB then [35] else [])

theorem unitsOut_iff {o : ResetTest} {u : Nat} (hu : u < 43) : (unitsOut s o).contains (fin 256 u) = true ↔
    (∃ x ∈ o.unitsOff ++ s.assay.fuses.held, x.val = u) ∨ (u = 34 ∧ o.millerA = true) ∨ (u = 35 ∧ o.millerB = true) := by
  have hval (x : UnitId) : fin 256 u = x ↔ x.val = u := by
    rw [Fin.ext_iff, show (fin 256 u).val = u from Nat.mod_eq_of_lt (by omega), eq_comm]
  have hmem (l : List UnitId) : fin 256 u ∈ l ↔ ∃ x ∈ l, x.val = u :=
    ⟨fun h => ⟨_, h, (hval _).mp rfl⟩, fun ⟨x, hx, he⟩ => (hval x).mpr he ▸ hx⟩
  have hif (b : Bool) (x : UnitId) : fin 256 u ∈ (if b then [x] else []) ↔ u = x.val ∧ b = true := by
    cases b <;> simp [hval, eq_comm]
  rw [List.contains_iff_mem, unitsOut, List.mem_append, List.mem_append, hif, hif, List.append_nil, hmem, or_assoc]
  rfl

/-- The units after the reset test. -/
def unitsTested (s : State) (o : ResetTest) : State :=
  (List.range 43).foldl (fun t u =>
    onUnit t u fun r => { r with state := if (unitsOut s o).contains (fin 256 u) then .offline else .standby }) s

theorem unitsTested_set (o : ResetTest) :
    UnitsSet s (fun u => if (unitsOut s o).contains (fin 256 u) then .offline else .standby) 43 (unitsTested s o) :=
  foldl_range_keeps UnitsSet.start fun _ _ hi ht => ht.onUnit hi fun _ => rfl

theorem unitsTested_free (o : ResetTest) : (unitsTested s o).free = s.free :=
  foldl_range_keeps (P := fun _ (t : State) => t.free = s.free) rfl fun _ _ _ (h : State.free _ = s.free) => h

/-- The outcome of the reset test goes to the Assay's registers. -/
def testRecorded (s : State) (o : ResetTest) (w : State) : State :=
  onAssay w fun a =>
    { a with
      bootResult := img (flag o.millerA 31 + flag o.millerB 30 + flag o.critical 29 + flag (w.granary.quadDead.any id) 28
        + ((List.range 16).map fun m => flag ((unitsOut s o).contains (fin 256 m)) m).sum)
      bootTestUs := o.us
      repairsSoft := bump a.repairsSoft o.repairs
      held := (o.millerA && o.millerB) || o.critical }

/-- The state after a reset test that names no bank and no Quern, before BOOT_T_2. -/
def resetTested (s : State) (o : ResetTest) : State := testRecorded s o (unitsTested s o)

theorem resetTest_eq {o : ResetTest} (h : inPhase s 2 = true) (hq : o.querns = []) (hb : o.banks = []) :
    resetTest s o = if (o.millerA && o.millerB) || o.critical then resetTested s o else bootStep (resetTested s o) 2 := by
  unfold resetTest
  rw [hq, hb, if_neg (by simp [h])]
  rfl

theorem onAssay_of_units {w : State} {f : Assay → Assay} (h : w = { s with service := { s.service with units := w.service.units } }) :
    onAssay w f = { s with service := { s.service with units := w.service.units }, assay := f s.assay } :=
  (congrArg (fun w => onAssay w f) h).trans rfl

theorem testRecorded_unit (o : ResetTest) (w : State) (u : Nat) : unitState (testRecorded s o w) u = unitState w u := rfl

theorem testRecorded_rest {o : ResetTest} {w : State} (h : w = { s with service := { s.service with units := w.service.units } }) : testRecorded s o w =
    { s with
      service := { s.service with units := (testRecorded s o w).service.units }
      assay := { s.assay with
        bootResult := (testRecorded s o w).assay.bootResult, bootTestUs := o.us, repairsSoft := bump s.assay.repairsSoft o.repairs
        held := (testRecorded s o w).assay.held } } :=
  onAssay_of_units h

theorem unitsTested_rest (o : ResetTest) : unitsTested s o = { s with service := { s.service with units := (unitsTested s o).service.units } } := by
  have hrest := (unitsTested_set (s := s) o).rest
  rwa [unitsTested_free] at hrest

theorem bankDead_used {b : BankId} (h : (s.granary.spares[(quadOf b).val]).used = true) :
    bankDead s b = onGran s fun g => { g with quadDead := vmod g.quadDead (quadOf b) fun _ => true } :=
  congrArg (fun g => { s with granary := g }) (if_pos h)

theorem bankDead_free {b : BankId} (h : (s.granary.spares[(quadOf b).val]).used = false) :
    bankDead s b = onGran s fun g =>
      { g with spares := vmod g.spares (quadOf b) fun x => { x with used := true, lbank := inQuad b, progress := 6144 } } :=
  congrArg (fun g => { s with granary := g }) (if_neg (ne_true_of_eq_false h))

end

/-! ### Steps 3 to 6: the Granary, the NAND, the firmware image, FIRMWARE_INIT (16 R392, R393; 18 R428) -/

section
variable {s : State}

theorem bootClear_ends (h : inPhase s 3 = true) : bootClear s = bootStep (zeroMem s 0 granTop) 3 := if_pos h

theorem nandInit_ends {g : NandGeom} (h : inPhase s 4 = true) : nandInit s g = bootStep (onVault s fun v => { v with nand := g }) 4 := if_pos h

/-- 16 R392: the bytes verify as an image, in a lifecycle state that boots firmware. -/
def ImageFits (s : State) (bs : List Byte) : Prop :=
  s.assay.lcState ≠ 0 ∧ s.assay.lcState ≠ 5 ∧ (imageSlot s.assay.fuses bs).isSome = true

theorem imageFits_iff {bs : List Byte} : (bootsFirmware s.assay.lcState && (imageSlot s.assay.fuses bs).isSome) = true ↔ ImageFits s bs := by
  rw [ImageFits, bootsFirmware, Bool.and_eq_true, Bool.and_eq_true, decide_eq_true_eq, decide_eq_true_eq, and_assoc]

/-- The anchor copy was read and verifies. -/
def anchorGood (s : State) (r : Vector Bool 16) (i : Fin 16) : Bool :=
  r[i.val] && bootsFirmware s.assay.lcState && (imageSlot s.assay.fuses (anchorImage s.vault i)).isSome

theorem anchorGood_iff {r : Vector Bool 16} {i : Fin 16} : anchorGood s r i = true ↔ r[i.val] = true ∧ ImageFits s (anchorImage s.vault i) := by
  rw [anchorGood, Bool.and_assoc, Bool.and_eq_true, imageFits_iff]

theorem firmwareVerify_boots {r : Vector Bool 16} {i : Fin 16} (h : inPhase s 5 = true) (hi : anchorGood s r i = true)
    (hl : ∀ k, k < i → anchorGood s r k = false) : firmwareVerify s r = bootImage s (anchorImage s.vault i) := by
  refine (if_neg (by simp [h])).trans ?_
  show (match (List.finRange 16).find? (anchorGood s r) with
    | some i => bootImage s (anchorImage s.vault i)
    | none => onAssay s fun a => { a with held := true, bootFail := true }) = _
  rw [find_finRange hi hl]

theorem firmwareVerify_fails {r : Vector Bool 16} (h : inPhase s 5 = true) (hn : ∀ i, anchorGood s r i = false) :
    firmwareVerify s r = onAssay s fun a => { a with held := true, bootFail := true } := by
  refine (if_neg (by simp [h])).trans ?_
  show (match (List.finRange 16).find? (anchorGood s r) with
    | some i => bootImage s (anchorImage s.vault i)
    | none => onAssay s fun a => { a with held := true, bootFail := true }) = _
  rw [List.find?_eq_none.mpr fun i _ => by simp [hn]]

/-- The ROM waits for an image at BAR2 offset 0, and the doorbell rings. -/
def RomWaits (s : State) (v : Word) : Prop := bitOf v 0 = true ∧ s.assay.bootFail = true ∧ s.service.bootPhase = 5

theorem bootDoorbell_ignored {v : Word} (h : ¬ RomWaits s v) : bootDoorbell s v = s :=
  if_neg (by simpa [RomWaits, and_assoc] using h)

/-- The bytes of the image that the ROM reads at BAR2 offset 0. -/
def doorbellImage (s : State) : List Byte := readBytes s.mem 0 (0x1000 + min 2048 (readLe s.mem 8 4) * 4096)

section
variable {v : Word} (h : RomWaits s v) (hr : rowsOk s none 0 (0x1000 + min 2048 (readLe s.mem 8 4) * 4096))
include h hr

theorem bootDoorbell_read : bootDoorbell s v =
    if bootsFirmware s.assay.lcState && (imageSlot s.assay.fuses (doorbellImage s)).isSome then bootImage s (doorbellImage s) else s := by
  obtain ⟨hv, hf, hp⟩ := h
  refine (if_pos (by simp [hv, hf, hp])).trans ?_
  dsimp only
  rw [stopAt_eq_min, readRange_ok hr]
  dsimp only
  rw [decide_eq_true (rfl : NetStatus.ok = .ok), Bool.true_and]
  rfl

theorem bootDoorbell_boots (hf : ImageFits s (doorbellImage s)) : bootDoorbell s v = bootImage s (doorbellImage s) := by
  rw [bootDoorbell_read h hr]
  exact if_pos (imageFits_iff.mpr hf)

theorem bootDoorbell_refuses (hf : ¬ ImageFits s (doorbellImage s)) : bootDoorbell s v = s := by
  rw [bootDoorbell_read h hr]
  exact if_neg (mt imageFits_iff.mp hf)

end

/-- FIRMWARE_INIT puts one unit that passed the reset test into service. -/
def serveUnit (spare : Nat) (t : State) (u : Nat) : State :=
  if u = spare || unitState t u ≠ .standby then t
  else if 16 ≤ u && u < 20 && t.granary.quadDead[(fin 4 (u - 16)).val] then
    onUnit (draw t 8).2 u fun r => { r with state := .degraded, cause := (draw t 8).1 }
  else onUnit t u fun r => { r with state := .online }

/-- A quad whose plots are refused. -/
def quadHurt (s : State) (u : Nat) : Bool := 16 ≤ u && u < 20 && s.granary.quadDead[(fin 4 (u - 16)).val]

/-- The state of a unit once FIRMWARE_INIT has put units into service. -/
def servedState (s : State) (spare u : Nat) : UnitState :=
  if u = spare || unitState s u ≠ .standby then unitState s u else if quadHurt s u then .degraded else .online

theorem serveUnit_set {spare n : Nat} {t : State} (h : UnitsSet s (servedState s spare) n t) (hn : n < 43) :
    UnitsSet s (servedState s spare) (n + 1) (serveUnit spare t n) := by
  have hstate : unitState t n = unitState s n := h.later n (Nat.le_refl n)
  have hgran : t.granary = s.granary := by rw [h.rest]
  unfold serveUnit
  rw [hstate]
  split
  · next hskip => exact h.skip (if_pos hskip).symm
  · next hskip =>
    rw [hgran]
    split
    · next hhurt => exact h.drawn.onUnit hn fun _ => ((if_neg hskip).trans (if_pos hhurt)).symm
    · next hhurt => exact h.onUnit hn fun _ => ((if_neg hskip).trans (if_neg hhurt)).symm

theorem quadHurt_iff {u : Nat} : quadHurt s u = true ↔ ∃ q : QuadId, u = 16 + q.val ∧ s.granary.quadDead[q.val] = true := by
  rw [quadHurt, Bool.and_eq_true, Bool.and_eq_true, decide_eq_true_eq, decide_eq_true_eq]
  refine ⟨fun ⟨⟨hlo, hhi⟩, hd⟩ => ⟨fin 4 (u - 16), ?_, hd⟩, fun ⟨q, hq, hd⟩ => ⟨⟨by omega, by omega⟩, ?_⟩⟩
  · show u = 16 + (u - 16) % 4
    omega
  · have he : fin 4 (u - 16) = q := Fin.ext (by show (u - 16) % 4 = q.val; omega)
    have hany (p : QuadId) (hp : p = q) : s.granary.quadDead[p.val] = true := hp ▸ hd
    exact hany _ he

/-- The fuses after the SVN of the booted image has been burned. -/
def svnBurned (s : State) : State :=
  match imageSlot s.assay.fuses s.service.firmware with
  | some i => onAssay s fun a => { a with fuses := a.fuses.burnSvn i s.service.firmware }
  | none => s

theorem svnBurned_rest : svnBurned s = { s with assay := { s.assay with fuses := (svnBurned s).assay.fuses } } := by
  unfold svnBurned
  split <;> rfl

/-- The pair that passed is active. -/
def pairActive (s : State) : State := onService (svnBurned s) fun x => { x with millerB := unitState (svnBurned s) 34 ≠ .standby }

/-- The other pair starts if it passed too. -/
def pairChosen (s : State) : State :=
  onService (pairActive s) fun x => { x with booting := unitState (pairActive s) (otherPair (pairActive s)) = .standby }

/-- The units that passed are in service. -/
def unitsServing (s : State) : State := (List.range 43).foldl (serveUnit (otherPair (pairActive s))) (pairChosen s)

theorem firmwareInit_ends (h : inPhase s 6 = true) : firmwareInit s = bootStep ((List.range 43).foldl forceView (unitsServing s)) 6 :=
  (if_neg (by simp [h])).trans rfl

theorem svnBurned_unit (u : Nat) : unitState (svnBurned s) u = unitState s u := by
  rw [svnBurned_rest]
  rfl

theorem pairActive_unit (u : Nat) : unitState (pairActive s) u = unitState s u := svnBurned_unit u

theorem pairChosen_unit (u : Nat) : unitState (pairChosen s) u = unitState s u := svnBurned_unit u

theorem pairActive_millerB : (pairActive s).service.millerB = true ↔ unitState s 34 ≠ .standby := by
  rw [← svnBurned_unit]
  exact decide_eq_true_iff

theorem pairChosen_booting : (pairChosen s).service.booting = true ↔ unitState s (otherPair (pairActive s)) = .standby := by
  rw [← pairActive_unit]
  exact decide_eq_true_iff

theorem pairChosen_rest : pairChosen s =
    { s with
      service := { s.service with millerB := (pairActive s).service.millerB, booting := (pairChosen s).service.booting }
      assay := { s.assay with fuses := (svnBurned s).assay.fuses } } :=
  (congrArg (fun w => onService w fun x =>
    { x with millerB := (pairActive s).service.millerB, booting := (pairChosen s).service.booting }) svnBurned_rest :)

theorem servedState_pairChosen (spare u : Nat) : servedState (pairChosen s) spare u = servedState s spare u := by
  have hgran : (pairChosen s).granary = s.granary := by rw [pairChosen_rest]
  unfold servedState quadHurt
  rw [pairChosen_unit, hgran]

theorem unitsServing_set : UnitsSet (pairChosen s) (servedState (pairChosen s) (otherPair (pairActive s))) 43 (unitsServing s) :=
  foldl_range_keeps UnitsSet.start fun _ _ hi ht => serveUnit_set ht hi

theorem unitsServing_rest : unitsServing s =
    { s with
      service := { s.service with
        units := (unitsServing s).service.units, millerB := (pairActive s).service.millerB, booting := (pairChosen s).service.booting }
      assay := { s.assay with fuses := (svnBurned s).assay.fuses }
      free := (unitsServing s).free } :=
  unitsServing_set.rest.trans (congrArg (fun w : State =>
    { w with service := { w.service with units := (unitsServing s).service.units }, free := (unitsServing s).free }) pairChosen_rest)

theorem unitsServing_unit {u : Nat} (hu : u < 43) : unitState (unitsServing s) u = servedState s (otherPair (pairActive s)) u :=
  (unitsServing_set.set u hu).trans (servedState_pairChosen ..)

end

/-! ### Steps 7 to 10 (14 R341; 18 R429, R430) -/

section
variable {s : State}

theorem vaultMount_ends (h : inPhase s 7 = true) : vaultMount s = bootStep (onVault s fun v => { v with en := true }.mount) 7 := if_pos h

theorem gristSelect_none (h : inPhase s 8 = true) (hn : s.vault.mounted = false ∨ gristChoice s.vault s.assay.fuses = none) :
    gristSelect s = bootStep (onVault s fun v => { v with booted := false, noImage := true, sections := [] }) 8 := by
  have hchoice : (if s.vault.mounted then gristChoice s.vault s.assay.fuses else none) = none := by
    split
    · next hm => exact hn.resolve_left (by simp [hm])
    · rfl
  refine (if_neg (by simp [h])).trans ?_
  dsimp only
  rw [hchoice]

theorem gristSelect_some {b : Bool} {gen : Word} {secs : List Section} (h : inPhase s 8 = true) (hm : s.vault.mounted = true)
    (hc : gristChoice s.vault s.assay.fuses = some (b, gen, secs)) :
    gristSelect s = bootStep (onVault s fun v =>
      { v with booted := true, bootedB := b, noImage := false, generation := gen, sections := secs }) 8 := by
  refine (if_neg (by simp [h])).trans ?_
  dsimp only
  rw [if_pos hm, hc]

theorem sluiceNeeds_iff {m : MillId} : sluiceNeeds s m = true ↔
    s.vault.booted = true ∧ ∃ x, s.vault.sections.find? (fun x => x.type = 2 && x.mills.getLsbD m.val) = some x ∧
      ((s.mills[m.val]).sluice.usable = false ∨
        ¬ ((s.vault.sluRecords[m.val]).present = true ∧ (s.vault.sluRecords[m.val]).generation = s.vault.generation ∧
          (s.vault.sluRecords[m.val]).digests = digestList s.vault x)) := by
  unfold sluiceNeeds sluiceSection
  cases hb : s.vault.booted with
  | false => simp
  | true =>
    rw [if_pos rfl]
    cases hx : s.vault.sections.find? fun x => x.type = 2 && x.mills.getLsbD m.val with
    | none => simp
    | some x => simp [Classical.or_iff_not_imp_left]

/-- The bits of a sum of flags. -/
theorem sum_flags_testBit {n : Nat} (b : Fin n → Bool) :
    ((List.finRange n).map fun m => flag (b m) m.val).sum < 2 ^ n ∧
      ∀ i : Fin n, ((List.finRange n).map fun m => flag (b m) m.val).sum.testBit i.val = b i := by
  induction n with
  | zero => exact ⟨by simp, fun i => i.elim0⟩
  | succ n ih =>
    obtain ⟨hlt, hbits⟩ := ih fun m => b m.castSucc
    have hsum : ((List.finRange (n + 1)).map fun m => flag (b m) m.val).sum =
        ((List.finRange n).map fun m => flag (b m.castSucc) m.val).sum + flag (b (Fin.last n)) n := by
      rw [List.finRange_succ_last, List.map_append, List.sum_append, List.map_map]
      simp [Function.comp_def]
    rw [hsum]
    have hpow : 2 ^ (n + 1) = 2 ^ n + 2 ^ n := by rw [Nat.pow_succ, Nat.mul_two]
    cases hlast : b (Fin.last n) with
    | false =>
      rw [show flag false n = 0 from rfl, Nat.add_zero]
      refine ⟨by omega, fun i => ?_⟩
      refine Fin.lastCases ?_ (fun j => ?_) i
      · rw [hlast]
        exact Nat.testBit_lt_two_pow hlt
      · exact hbits j
    | true =>
      rw [show flag true n = 2 ^ n from rfl, Nat.add_comm]
      refine ⟨by omega, fun i => ?_⟩
      refine Fin.lastCases ?_ (fun j => ?_) i
      · rw [hlast, Fin.val_last, Nat.testBit_two_pow_add_eq, Nat.testBit_lt_two_pow hlt]
        rfl
      · rw [Fin.val_castSucc, Nat.testBit_two_pow_add_gt j.isLt]
        exact hbits j

theorem sluiceCheck_ends (h : inPhase s 9 = true) : sluiceCheck s =
    bootStep (onService s fun x => { x with sluNeeds := BitVec.ofNat 16 ((List.finRange 16).map fun m => flag (sluiceNeeds s m) m.val).sum }) 9 :=
  if_neg (by simp [h])

theorem sluNeeds_bit (b : MillId → Bool) (m : MillId) :
    (BitVec.ofNat 16 ((List.finRange 16).map fun m => flag (b m) m.val).sum).getLsbD m.val = b m := by
  rw [BitVec.getLsbD_ofNat, decide_eq_true m.isLt, Bool.true_and]
  exact (sum_flags_testBit b).2 m

/-- Streaming begins. -/
def streaming (s : State) : State :=
  onVault s fun v => { v with streams := streamList v.sections s.service.sluNeeds, streamFrom := now s }

theorem bootStream_busy (hs : s.vault.streams ≠ []) : bootStream s = s := if_pos (by simp [hs])

theorem bootStream_starts (h : inPhase s 10 = true) (hs : s.vault.streams = []) (hl : streamList s.vault.sections s.service.sluNeeds ≠ []) :
    bootStream s = streaming s :=
  (if_neg (by simp [h, hs])).trans (if_neg (by simp [hl]))

theorem bootStream_over (h : inPhase s 10 = true) (hs : s.vault.streams = []) (hl : streamList s.vault.sections s.service.sluNeeds = []) :
    bootStream s = bootStep (onVault (streaming s) fun v => { v with fillTime := 0 }) 10 := by
  have hphase : s.service.bootPhase = 10 := by
    rw [inPhase, Bool.and_eq_true, Bool.and_eq_true, decide_eq_true_eq] at h
    exact BitVec.eq_of_toNat_eq h.1.1
  refine (if_neg (by simp [h, hs])).trans ((if_pos (by simp [hl])).trans ?_)
  show streamsEnd (streaming s) = _
  have htime : (now (streaming s)).toNat - (streaming s).vault.streamFrom.toNat = 0 := Nat.sub_self _
  unfold streamsEnd bootStep
  rw [htime]
  refine congrArg (fun x => { (onVault (streaming s) fun v => { v with fillTime := 0 }) with service := x }) ?_
  exact (if_pos hphase).trans rfl

end

/-! ### The Sluice dockets of firmware (18 R429 to R431) -/

section
variable {s : State}

theorem foldl_keeps {α β γ : Type} {p : α → γ} {f : α → β → α} (h : ∀ a b, p (f a b) = p a) (l : List β) (a : α) : p (l.foldl f a) = p a := by
  induction l generalizing a with
  | nil => rfl
  | cons b l ih => exact (ih _).trans (h a b)

theorem refuse_service (s : State) (r : Packet) : (refuse s r).service = s.service := by
  unfold refuse respond
  dsimp only
  split
  · rfl
  · split <;> rfl

theorem flushNi_service (n : NiId) : (flushNi s n).service = s.service :=
  foldl_keeps (p := State.service) (f := refuse) refuse_service _ s

theorem forceView_service (u : Nat) : (forceView s u).service = s.service := by
  refine foldl_keeps (p := State.service) (fun t n => ?_) _ s
  unfold forceNi
  dsimp only
  split
  · exact flushNi_service n
  · rfl

theorem raiseBell_service (b : BellId) : (raiseBell s b).service = s.service := by rw [(raiseBell_reported s b).rest]

/-- The Sluice docket of firmware on a Mill has not ended. -/
def SluiceOpen (s : State) (m : MillId) : Prop := ∀ x : FwSluice, s.service.sluBoot[m.val] = some x → x.result = none

theorem concludeSluice_open {m : MillId} (h : SluiceOpen s m) : concludeSluice s m = s := by
  unfold concludeSluice
  split
  · next hx => exact nomatch h _ hx
  · rfl

theorem bootSluice_still (hr : s.vault.sluReady = []) (h : ∀ m, SluiceOpen s m) : bootSluice s = s := by
  unfold bootSluice
  rw [hr]
  exact foldl_still fun m => concludeSluice_open (h m)

section
variable {m : MillId} {i : Nat} {st : Byte} (hend : s.service.sluBoot[m.val] = some { id := i, refresh := false, result := some st })

/-- The programming docket of a Mill is over, and no longer outstanding. -/
def programOver (s : State) (m : MillId) : State :=
  onService s fun x => { x with sluBoot := vmod x.sluBoot m fun _ => none, sluNeeds := x.sluNeeds &&& ~~~(BitVec.twoPow 16 m.val) }

/-- 18 R430: it ended well, all fields VALID. -/
def ProgrammedWell (s : State) (m : MillId) (st : Byte) : Prop :=
  okStatus st = true ∧ ∀ f : Fin 128, ((s.mills[m.val]).sluice.fields[f.val]).state = .valid

include hend

theorem concludeSluice_ended : concludeSluice s m =
    if okStatus st && (s.mills[m.val]).sluice.fields.all fun f => f.state = .valid then
      match sluiceSection s.vault m with
      | some x => onVault (programOver s m) fun v =>
          { v with sluRecords := vmod v.sluRecords m fun _ => { present := true, generation := v.generation, digests := digestList v x } }
      | none => programOver s m
    else
      raiseBell (forceView (onUnit (programOver s m) m.val fun r => { r with state := .standby, cause := 0x01 }) m.val)
        (onUnit (programOver s m) m.val fun r => { r with state := .standby, cause := 0x01 }).service.bootBell := by
  unfold concludeSluice
  rw [hend]
  rfl

omit hend in
theorem programmedWell_iff : (okStatus st && (s.mills[m.val]).sluice.fields.all fun f => f.state = .valid) = true ↔ ProgrammedWell s m st := by
  rw [Bool.and_eq_true, Vector.all_eq_true, ProgrammedWell]
  exact and_congr_right fun _ => ⟨fun h f => of_decide_eq_true (h f.val f.isLt), fun h i hi => decide_eq_true (h ⟨i, hi⟩)⟩

theorem concludeSluice_failed (hw : ¬ ProgrammedWell s m st) : concludeSluice s m =
    raiseBell (forceView (onUnit (programOver s m) m.val fun r => { r with state := .standby, cause := 0x01 }) m.val) s.service.bootBell := by
  rw [concludeSluice_ended hend, if_neg (mt programmedWell_iff.mp hw), onUnit_service]
  rfl

theorem concludeSluice_well {x : Section} (hw : ProgrammedWell s m st) (hx : sluiceSection s.vault m = some x) :
    concludeSluice s m = onVault (programOver s m) fun v =>
      { v with sluRecords := vmod v.sluRecords m fun _ => { present := true, generation := v.generation, digests := digestList v x } } := by
  rw [concludeSluice_ended hend, if_pos (programmedWell_iff.mpr hw), hx]

theorem concludeSluice_sluBoot : (concludeSluice s m).service.sluBoot = vmod s.service.sluBoot m fun _ => none := by
  rw [concludeSluice_ended hend]
  split
  · split <;> rfl
  · rw [raiseBell_service, forceView_service, onUnit_service]
    rfl

theorem bootSluice_concludes (hr : s.vault.sluReady = []) (h : ∀ n, n ≠ m → SluiceOpen s n) : bootSluice s = concludeSluice s m := by
  unfold bootSluice
  rw [hr]
  refine foldl_once (P := fun t => ∀ n, n ≠ m → SluiceOpen t n) (fun t ht n hn => concludeSluice_open (ht n hn)) (List.nodup_finRange 16)
    (List.mem_finRange m) s h fun n hn x hx => h n hn x ?_
  rwa [concludeSluice_sluBoot hend, vmod_other _ _ _ _ n.isLt (Fin.val_ne_of_ne hn)] at hx

end

/-! What firmware issues. -/

section
variable {m : MillId} {op : Nat} {g : Word} {descs : List (Nat × Desc)}

theorem issueSluice_no_slot (h : slotFor s.control m 0 = none) : issueSluice s m op g descs = s := by
  unfold issueSluice
  rw [h]

theorem issueSluice_busy (h : (s.mills[m.val]).running ≠ none ∨ s.service.sluBoot[m.val] ≠ none) : issueSluice s m op g descs = s := by
  unfold issueSluice
  split
  · rfl
  · refine if_pos ?_
    rcases h with h | h
    · rw [Option.isSome_iff_ne_none.mpr h]
      rfl
    · rw [Option.isSome_iff_ne_none.mpr h, Bool.or_true]

/-- A Sluice docket as firmware hands it to a Mill. -/
def sluiceHandout (m : MillId) (op : Nat) (g : Word) (slot : Fin 8) : HandoutMsg :=
  { docket := sluiceDocket op m g, granBase := 0, granBound := 0xC0000, hop := 0, cls := 0, chute := 0, tenant := 0, slot := slot }

/-- The state with a Sluice docket issued in a slot of a Mill. -/
def sluiceIssued (s : State) (m : MillId) (op : Nat) (g : Word) (descs : List (Nat × Desc)) (slot : Fin 8) : State :=
  onService (onMill (onControl s fun k =>
      { k with nextId := s.control.nextId + 1, credits := vmod k.credits m fun v => vmod v slot fun _ => some s.control.nextId }) m fun x =>
    { x with
      slots := vmod x.slots slot fun _ => some { msg := sluiceHandout m op g slot, order := x.arrivals }
      arrivals := x.arrivals + 1
      running := some { newRun s (sluiceHandout m op g slot) with descs := descs } }) fun y =>
    { y with sluBoot := vmod y.sluBoot m fun _ => some { id := s.control.nextId, refresh := op = 0x13, result := none } }

theorem issueSluice_issues {slot : Fin 8} (hs : slotFor s.control m 0 = some slot) (hr : (s.mills[m.val]).running = none)
    (hi : (s.mills[m.val]).mayIssue = true) (hb : s.service.sluBoot[m.val] = none) : issueSluice s m op g descs = sluiceIssued s m op g descs slot := by
  unfold issueSluice
  rw [hs]
  exact if_neg (by simp [hr, hi, hb])

theorem issueSluice_cases : issueSluice s m op g descs = s ∨ ∃ slot, issueSluice s m op g descs = sluiceIssued s m op g descs slot := by
  unfold issueSluice
  split
  · exact .inl rfl
  · next slot _ =>
    by_cases hc : ((s.mills[m.val]).running.isSome || !(s.mills[m.val]).mayIssue || (s.service.sluBoot[m.val]).isSome) = true
    · exact .inl (if_pos hc)
    · exact .inr ⟨slot, if_neg hc⟩

theorem issueSluice_open (h : ∀ n, SluiceOpen s n) (n : MillId) : SluiceOpen (issueSluice s m op g descs) n := by
  rcases issueSluice_cases (s := s) (m := m) (op := op) (g := g) (descs := descs) with he | ⟨slot, he⟩
  · rw [he]
    exact h n
  · intro x hx
    rw [he] at hx
    change (vmod s.service.sluBoot m fun _ => some { id := s.control.nextId, refresh := op = 0x13, result := none })[n.val] = some x at hx
    rw [vmod_get] at hx
    split at hx
    · rw [← Option.some.inj hx]
    · exact h n x hx

theorem issueSluice_sluNeeds : (issueSluice s m op g descs).service.sluNeeds = s.service.sluNeeds := by
  rcases issueSluice_cases (s := s) (m := m) (op := op) (g := g) (descs := descs) with he | ⟨slot, he⟩
  · rw [he]
  · rw [he]
    rfl

end

theorem issueSluice_granary {m : MillId} {op : Nat} {g : Word} {descs : List (Nat × Desc)} : (issueSluice s m op g descs).granary = s.granary := by
  rcases issueSluice_cases (s := s) (m := m) (op := op) (g := g) (descs := descs) with he | ⟨slot, he⟩
  · rw [he]
  · rw [he]
    rfl

theorem bootSluice_programs {i : Nat} {x : Section} {m : MillId} (hr : s.vault.sluReady = [i]) (hx : s.vault.sections[i]? = some x)
    (honly : ∀ n : MillId, (x.mills.getLsbD n.val = true ∧ s.service.sluNeeds.getLsbD n.val = true) ↔ n = m) (h : ∀ n, SluiceOpen s n) :
    bootSluice s = programMill x s m := by
  have hfold : (List.finRange 16).foldl (programMill x) s = programMill x s m := by
    refine foldl_once (P := fun t => t.service.sluNeeds = s.service.sluNeeds) (fun t ht n hn => if_neg ?_) (List.nodup_finRange 16)
      (List.mem_finRange m) s rfl ?_
    · rw [ht, Bool.and_eq_true, honly]
      exact hn
    · show (programMill x s m).service.sluNeeds = s.service.sluNeeds
      unfold programMill
      split
      · exact issueSluice_sluNeeds
      · rfl
  have hopen (n : MillId) : SluiceOpen (programMill x s m) n := by
    unfold programMill
    split
    · exact issueSluice_open h n
    · exact h n
  unfold bootSluice
  rw [hr, List.foldl_cons, List.foldl_nil]
  dsimp only
  rw [hx]
  dsimp only
  rw [hfold]
  exact foldl_still fun n => concludeSluice_open (hopen n)

theorem programMill_issues {x : Section} {m : MillId} (h : x.mills.getLsbD m.val = true ∧ s.service.sluNeeds.getLsbD m.val = true) :
    programMill x s m = issueSluice s m 0x11
      (img (bitsOf (readByte s.mem (x.dest + 2 * m.val)) 2 0 + bitsOf (readByte s.mem (x.dest + 2 * m.val + 1)) 2 0 * 16))
      [(0, sluiceDesc (x.dest + 512 + 524288 * ((maskMills x.mills).takeWhile (· ≠ m)).length))] :=
  if_pos (by simp [h])

end

/-- Settles O56: each step runs in its own phase only; the walks over units, anchors and Mills are followed by their invariants. -/
theorem bootStepsRunInOrder : Obligations.BootStepsRunInOrder := by
  unfold Obligations.BootStepsRunInOrder
  intro s hup ready ends f fits boots standby
  have hphase (k : Nat) : inPhase s k = true ↔ ready k := inPhase_iff hup
  have hends {c : Instr} {k : Fin 11} {op : State → State} {w : State} (hc : exec c s = live s op) (h : op s = bootStep w k) : ends c k w :=
    hc.trans ((live_next hup op).trans (congrArg _ h))
  have hsame {c : Instr} {op : State → State} {w : State} (hc : exec c s = live s op) (h : op s = w) : exec c s = .next w :=
    hc.trans ((live_next hup op).trans (congrArg _ h))
  have hrows {c : Instr} {op : State → State} {w : State} (hc : exec c s = liveRows s op) (h : op s = w) : exec c s = .next (settleErr w) :=
    hc.trans ((liveRows_next hup op).trans (congrArg _ (congrArg settleErr h)))
  have hquiet {c : Instr} {op : State → State} {w : State} (hc : exec c s = liveRows s op) (h : op s = w) (hq : w.granary.errPend = false) : exec c s = .next w :=
    (hrows hc h).trans (congrArg _ (settleErr_quiet hq))
  have hrowsEnd {c : Instr} {k : Fin 11} {op : State → State} {w : State} (hc : exec c s = liveRows s op) (h : op s = bootStep w k)
      (hq : w.granary.errPend = false) : ends c k w :=
    hquiet hc h hq
  refine ⟨fun k c o g r hc hk => ?shut, fun h => ⟨fusesLoaded s, hends (op := fuseLoad) rfl (fuseLoad_ends ((hphase 1).mpr h)), rfl, fusesLoaded_mill,
      fun q => ⟨fun hn => ?_, fun l hl => ?_⟩⟩, fun o h hq hb => ?test, fun b => ⟨bankDead_used, bankDead_free⟩,
    fun h => ⟨_, hends (op := bootClear) rfl (bootClear_ends ((hphase 3).mpr h)), rfl, fun a => ?bytes, fun r hr => ?poison⟩,
    fun g h => hends (op := fun s => nandInit s g) rfl (nandInit_ends ((hphase 4).mpr h)), fun r h => ?verify, fun v he => ?bell, fun h => ?serve,
    fun h => hends (op := vaultMount) rfl (vaultMount_ends ((hphase 7).mpr h)),
    fun h => ⟨fun hn => hends (op := gristSelect) rfl (gristSelect_none ((hphase 8).mpr h) hn),
      fun b gen secs hm hc => hends (op := gristSelect) rfl (gristSelect_some ((hphase 8).mpr h) hm hc)⟩,
    fun h => ⟨_, hends (op := sluiceCheck) rfl (sluiceCheck_ends ((hphase 9).mpr h)), fun m => ?_⟩,
    fun h => ⟨fun hs => hsame (op := bootStream) rfl (bootStream_busy hs), fun hs hl => hsame (op := bootStream) rfl (bootStream_starts ((hphase 10).mpr h) hs hl),
      fun hs hl => hends (op := bootStream) rfl (bootStream_over ((hphase 10).mpr h) hs hl)⟩,
    fun he hr => ⟨fun h => hquiet (op := bootSluice) rfl (bootSluice_still hr h) he, fun m st hst h => ?conclude⟩, fun i x m he hr hx honly hopen => ?program,
    fun m he => ⟨fun hp => hquiet (op := fun s => bootRefresh s m) rfl (if_neg hp) he, fun hp hb => ?refresh⟩,
    fun m op g descs => ⟨fun h => ?_, fun slot hs hr hi hb => ?issue⟩⟩
  case shut =>
    have hshut : inPhase s k = false := Bool.eq_false_iff.mpr (mt (hphase k).mp hk)
    simp only [List.mem_cons, Prod.mk.injEq, List.not_mem_nil, or_false] at hc
    rcases hc with ⟨rfl, rfl⟩ | ⟨rfl, rfl⟩ | ⟨rfl, rfl⟩ | ⟨rfl, rfl⟩ | ⟨rfl, rfl⟩ | ⟨rfl, rfl⟩ | ⟨rfl, rfl⟩ | ⟨rfl, rfl⟩ | ⟨rfl, rfl⟩ | ⟨rfl, rfl⟩
    · exact hsame (op := fuseLoad) rfl (phase_early hshut)
    · exact hsame (op := fun s => resetTest s o) rfl (phase_early hshut)
    · exact hsame (op := bootClear) rfl (phase_shut hshut)
    · exact hsame (op := fun s => nandInit s g) rfl (phase_shut hshut)
    · exact hsame (op := fun s => firmwareVerify s r) rfl (phase_early hshut)
    · exact hsame (op := firmwareInit) rfl (phase_early hshut)
    · exact hsame (op := vaultMount) rfl (phase_shut hshut)
    · exact hsame (op := gristSelect) rfl (phase_early hshut)
    · exact hsame (op := sluiceCheck) rfl (phase_early hshut)
    · exact hsame (op := bootStream) rfl (if_pos (by simp [hshut]))
  · rw [fusesLoaded_spare, show s.assay.fuses.spare q = none from hn]
  · rw [fusesLoaded_spare, show s.assay.fuses.spare q = some l from hl]
  case test =>
    intro out stays
    have hset := unitsTested_set (s := s) o
    have hstays : ((o.millerA && o.millerB) || o.critical) = true ↔ stays := by
      rw [Bool.or_eq_true, Bool.and_eq_true]
    have heq := resetTest_eq ((hphase 2).mpr h) hq hb
    refine ⟨resetTested s o, testRecorded_rest (unitsTested_rest o), fun u hu => ⟨fun ho => ?_, fun ho => ?_⟩, fun hst => ⟨hstays.mpr hst, ?_⟩, fun hst => ⟨?_, ?_⟩⟩
    · exact (testRecorded_unit o _ u).trans ((hset.set u hu).trans (if_pos ((unitsOut_iff hu).mpr ho)))
    · exact (testRecorded_unit o _ u).trans ((hset.set u hu).trans (if_neg (mt (unitsOut_iff hu).mp ho)))
    · exact hsame (op := fun s => resetTest s o) rfl (heq.trans (if_pos (hstays.mpr hst)))
    · exact Bool.eq_false_iff.mpr (mt hstays.mp hst)
    · exact hends (op := fun s => resetTest s o) rfl (heq.trans (if_neg (mt hstays.mp hst)))
  case bytes =>
    split
    · next ha => exact zeroMem_zero s ⟨Nat.zero_le a, by omega⟩
    · next ha => exact zeroMem_other s (.inr (by omega))
  case poison =>
    obtain ⟨hmem, hout⟩ := List.mem_filter.mp hr
    refine ⟨hmem, ?_⟩
    simpa using hout
  case verify =>
    intro image good
    have himage (i : Fin 16) : anchorImage s.vault i = image i := by
      unfold anchorImage
      dsimp only
      rw [stopAt_eq_min]
    have hgood (i : Fin 16) : anchorGood s r i = true ↔ good i := by
      rw [anchorGood_iff, himage]
      rfl
    refine ⟨fun i hi hl => ?_, fun hn => ?_⟩
    · have hboot := firmwareVerify_boots ((hphase 5).mpr h) ((hgood i).mpr hi) fun k hk => Bool.eq_false_iff.mpr (mt (hgood k).mp (hl k hk))
      rw [himage] at hboot
      exact hends (op := fun s => firmwareVerify s r) rfl hboot
    · exact hsame (op := fun s => firmwareVerify s r) rfl
        (firmwareVerify_fails ((hphase 5).mpr h) fun k => Bool.eq_false_iff.mpr (mt (hgood k).mp (hn k)))
  case bell =>
    intro waits n
    have himage : readBytes s.mem 0 n = doorbellImage s := rfl
    have hboots (bs : List Byte) : (boots bs).granary.errPend = false := he
    rw [himage]
    refine ⟨fun hw => hquiet (op := fun s => bootDoorbell s v) rfl (bootDoorbell_ignored hw) he, fun hw hr hf => ?_, fun hw hr hf => ?_⟩
    · exact hrowsEnd (op := fun s => bootDoorbell s v) rfl (bootDoorbell_boots hw hr hf) (hboots _)
    · exact hquiet (op := fun s => bootDoorbell s v) rfl (bootDoorbell_refuses hw hr hf) he
  case serve =>
    have hrest := unitsServing_rest (s := s)
    have hbooting : (unitsServing s).service.booting = (pairChosen s).service.booting := by rw [hrest]
    have hfuses : (unitsServing s).assay.fuses = (svnBurned s).assay.fuses := by rw [hrest]
    refine ⟨unitsServing s, (pairActive s).service.millerB, hends (op := firmwareInit) rfl (firmwareInit_ends ((hphase 6).mpr h)), ?_, pairActive_millerB, ?_,
      fun u hu => ?_, fun hi => ?_, fun i hi => ?_⟩
    · rw [hbooting, hfuses]
      exact hrest
    · rw [hbooting]
      exact pairChosen_booting
    · rw [unitsServing_unit hu]
      have hskip : (decide (u = otherPair (pairActive s)) || decide (unitState s u ≠ .standby)) = true ↔ u = otherPair (pairActive s) ∨ unitState s u ≠ .standby := by
        rw [Bool.or_eq_true, decide_eq_true_eq, decide_eq_true_eq]
      refine ⟨fun h => if_pos (hskip.mpr h), fun hs hstand => ⟨fun hhurt => ?_, fun hhurt => ?_⟩⟩
      · exact (if_neg (mt hskip.mp (not_or.mpr ⟨hs, not_not_intro hstand⟩))).trans (if_pos (quadHurt_iff.mpr hhurt))
      · exact (if_neg (mt hskip.mp (not_or.mpr ⟨hs, not_not_intro hstand⟩))).trans (if_neg (mt quadHurt_iff.mp hhurt))
    · rw [hfuses, svnBurned, show imageSlot s.assay.fuses s.service.firmware = none from hi]
    · rw [hfuses, svnBurned, show imageSlot s.assay.fuses s.service.firmware = some i from hi]
      rfl
  · rw [sluNeeds_bit]
    exact sluiceNeeds_iff
  case conclude =>
    intro u well
    obtain ⟨i, hi⟩ := hst
    have hone := bootSluice_concludes hi hr fun n hn x hx => h n x hn hx
    refine ⟨fun hw => hrows (op := bootSluice) rfl (hone.trans (concludeSluice_failed hi hw)), fun x hw hx => ?_⟩
    exact hquiet (op := bootSluice) rfl (hone.trans (concludeSluice_well hi hw hx)) he
  case program =>
    intro k g
    have hone := (bootSluice_programs hr hx honly hopen).trans (programMill_issues ((honly m).mpr rfl))
    exact hquiet (op := bootSluice) rfl hone ((congrArg Granary.errPend issueSluice_granary).trans he)
  case refresh =>
    have hopen : SluiceOpen s m := fun x hx => nomatch hb.symm.trans hx
    refine hquiet (op := fun s => bootRefresh s m) rfl ((if_pos hp).trans ?_) ((congrArg Granary.errPend issueSluice_granary).trans he)
    rw [concludeSluice_open hopen]
  · rcases h with h | h | h
    · exact issueSluice_busy (.inl h)
    · exact issueSluice_busy (.inr h)
    · exact issueSluice_no_slot h
  case issue =>
    intro t
    have ht : t = sluiceIssued s m op g descs slot := issueSluice_issues hs hr hi hb
    clear_value t
    subst ht
    refine ⟨rfl, vmod_self .., { newRun s (sluiceHandout m op g slot) with descs := descs }, ?_, rfl, rfl, rfl⟩
    exact congrArg Mill.running (vmod_self ..)

end Sys2Proof.Machine
end

section
open Sys2Proof.Laws
namespace Sys2Proof.Machine

/-! ### Reset values (00 R4, 18 R426 and the register tables) -/

theorem reset_storesOk : storesOk State.reset = true := by decide +kernel

/-- The registers of the units that stand once, as their tables state them at reset. -/
theorem reset_reads : ∀ x ∈
    [(Block.spindle, 0x0, (0x4D481640 : Word)), (.spindle, 0x4, 0x4101), (.spindle, 0x1008, 0x1), (.spindle, 0x1010, 0x8273), (.spindle, 0x4004, 0x800003E8),
     (.spindle, 0x5000, 0x80000000), (.spindle, 0x5004, 0x7D0), (.spindle, 0x6100, 0x3E8), (.spindle, 0x8004, 0x14),
     (.control, 0x0, 0x04300000), (.control, 0x2C, 0x10), (.control, 0xA000, 0x64), (.gauge, 0x1C, 0x000A0A02),
     (.spigot, 0x0, 0x00320007), (.spigot, 0x10, 0x00640000), (.spigot, 0x14, 0x88B5), (.mac 0, 0x10, 0xFAC688),
     (.vault, 0x8, 0x4B0), (.vault, 0xC, 0x1F4), (.vault, 0x10, 0x002800C8), (.vault, 0x14, 0x001E6010),
     (.clapper, 0x8, 0x01800200), (.clapper, 0xC, 0x7800000C), (.clapper, 0x14, 0x02000008),
     (.assay, 0xC, 0x4), (.assay, 0x10, 0x3C), (.assay, 0x14, 0xFFFF), (.assay, 0x18, 0x1FFF)],
    (blockRead State.reset x.1 x.2.1 0).1 = x.2.2 := by decide

/-- The registers of a Mill, its Sluice and its boundary. -/
theorem reset_reads_mill : ∀ m : MillId, ∀ x ∈
    [(0x600, (0x2C688 : Word)), (0x604, 0x401001), (0x808, 0x3E840), (0xA00, 0x1), (0xC00, 0xFA0), (0x2000, 0x4D424101), (0x2004, 0x33)],
    (blockRead State.reset (.mill m) x.1 0).1 = x.2 := by decide

theorem reset_reads_weir : ∀ w : WeirId,
    (blockRead State.reset (.weir w) 0 0).1 = 0x40000000 ∧ (blockRead State.reset (.weir w) 4 0).1 = 0x7F800000 := by decide

theorem reset_reads_flume : ∀ p : FlumeId, (blockRead State.reset (.flume p) 0 0).1 = 0x170003E8 := by decide

/-- Settles O58, by evaluating each block's registers on the reset state. -/
theorem resetLeavesTheStatedValues : Obligations.ResetLeavesTheStatedValues := by
  unfold Obligations.ResetLeavesTheStatedValues
  exact ⟨rfl, reset_storesOk, rfl, fun b off v h => reset_reads (b, off, v) h, fun m off v h => reset_reads_mill m (off, v) h, reset_reads_weir, reset_reads_flume⟩

end Sys2Proof.Machine
end

section
open Sys2Proof.Laws
namespace Sys2Proof.Machine

/-! ### What every command keeps: the queue, and stores in canonical form

The rules of this layer speak of a state that a command has reached from another: `Tidy p b s` says that the queue is `p` and,
given `b`, that every store is canonical. One rule per operation of the model says that the operation keeps this; its proof is
the composition of the rules of the operations that it is made of. Few of them write a store at all. -/

/-- The queue is `p` and, given `b`, every store is in canonical form. -/
structure Tidy (p : List Instr) (b : Prop) (s : State) : Prop where
  queue : s.pending = p
  stores : b → storesOk s = true

theorem storesOk_iff {s : State} : storesOk s = true ↔ Memory.wf s.mem = true ∧ (∀ m : MillId, (s.mills[m.val]).stored = true) ∧
    (Memory.wf s.vault.boot = true ∧ Memory.wf s.vault.dataPart = true ∧ s.vault.anchors.all Memory.wf = true) ∧ Memory.wf s.clapper.library = true ∧
    Memory.wf s.net.msixTable = true ∧ sWf s.ledger.store = true := by
  unfold storesOk
  simp only [Bool.and_eq_true, Vector.all_eq_true (xs := s.mills), and_assoc]
  exact and_congr_right fun _ => and_congr_left fun _ => ⟨fun h m => h m.val m.isLt, fun h i hi => h ⟨i, hi⟩⟩

section
variable {p : List Instr} {b : Prop} {s t : State}

/-- Nothing but parts that hold no store has changed. -/
theorem Tidy.same (h : Tidy p b s) (hq : t.pending = s.pending) (hs : storesOk t = storesOk s) : Tidy p b t :=
  ⟨hq.trans h.queue, fun hb => hs.trans (h.stores hb)⟩

/-- What reporting does to the stores is a receipt, which it writes in canonical form. -/
theorem Reported.tidy (hr : Reported s t) (h : Tidy p b s) : Tidy p b t := by
  refine ⟨?_, fun hb => ?_⟩
  · rw [hr.rest]
    exact h.queue
  · obtain ⟨hmem, hmills, hvault, hlib, hmsix, hstore⟩ := storesOk_iff.mp (h.stores hb)
    refine storesOk_iff.mpr ⟨hr.canonical hmem, fun m => ?_, ?_⟩
    · rw [hr.mills m]
      exact hmills m
    · rw [hr.rest]
      exact ⟨hvault, hlib, hmsix, hstore⟩

theorem ite_tidy {c : Prop} [Decidable c] (hs : Tidy p b s) (ht : Tidy p b t) : Tidy p b (if c then s else t) := by
  split
  · exact hs
  · exact ht

theorem foldl_tidy {α : Type} {f : State → α → State} {l : List α} (h : Tidy p b s) (hf : ∀ t x, Tidy p b t → Tidy p b (f t x)) : Tidy p b (l.foldl f s) := by
  induction l generalizing s with
  | nil => exact h
  | cons x l ih => exact ih (hf s x h)

end

/-! #### The parts of the state -/

section
variable {p : List Instr} {b : Prop} {s : State} (h : Tidy p b s)
include h

theorem onControl_tidy {f} : Tidy p b (onControl s f) := h.same rfl rfl
theorem onChute_tidy {c f} : Tidy p b (onChute s c f) := h.same rfl rfl
theorem onGran_tidy {f} : Tidy p b (onGran s f) := h.same rfl rfl
theorem onNi_tidy {n f} : Tidy p b (onNi s n f) := h.same rfl rfl
theorem onSpigot_tidy {f} : Tidy p b (onSpigot s f) := h.same rfl rfl
theorem onGauge_tidy {f} : Tidy p b (onGauge s f) := h.same rfl rfl
theorem onWeir_tidy {w f} : Tidy p b (onWeir s w f) := h.same rfl rfl
theorem onService_tidy {f} : Tidy p b (onService s f) := h.same rfl rfl
theorem onAssay_tidy {f} : Tidy p b (onAssay s f) := h.same rfl rfl
theorem onFlume_tidy {f} : Tidy p b (onFlume s f) := h.same rfl rfl
theorem onPort_tidy {i f} : Tidy p b (onPort s i f) := h.same rfl rfl
theorem onBank_tidy {i f} : Tidy p b (onBank s i f) := onGran_tidy h
theorem onUnit_tidy {u f} : Tidy p b (onUnit s u f) := onService_tidy h
theorem onSeq_tidy {u f} : Tidy p b (onSeq s u f) := onService_tidy h
theorem onMac_tidy {m f} : Tidy p b (onMac s m f) := onSpigot_tidy h
theorem onCan_tidy {m f} : Tidy p b (onCan s m f) := onSpigot_tidy h
theorem onCam_tidy {c f} : Tidy p b (onCam s c f) := onGauge_tidy h
theorem onBand_tidy {c f} : Tidy p b (onBand s c f) := onCam_tidy h
theorem onRouter_tidy {q f} : Tidy p b (onRouter s q f) := h.same rfl rfl
theorem free_tidy {n : Nat} : Tidy p b { s with free := n } := h.same rfl rfl
theorem draw_tidy {w} : Tidy p b (draw s w).2 := h.same rfl rfl

/-- A Mill whose stores stay canonical. -/
theorem onMill_tidy {m : MillId} {f : Mill → Mill} (hf : ∀ x, x.stored = true → (f x).stored = true) : Tidy p b (onMill s m f) := by
  refine ⟨h.queue, fun hb => ?_⟩
  obtain ⟨hmem, hmills, hrest⟩ := storesOk_iff.mp (h.stores hb)
  refine storesOk_iff.mpr ⟨hmem, fun n => ?_, hrest⟩
  show ((vmod s.mills m f)[n.val]).stored = true
  rw [vmod_get]
  split
  · exact hf _ (hmills n)
  · exact hmills n

theorem onRegs_tidy {m f} : Tidy p b (onRegs s m f) := onMill_tidy h fun _ hx => hx
theorem onSluice_tidy {m f} : Tidy p b (onSluice s m f) := onMill_tidy h fun _ hx => hx
theorem onRun_tidy {m f} : Tidy p b (onRun s m f) := onMill_tidy h fun _ hx => hx

theorem onNet_tidy {f : Net → Net} (hf : ∀ n, Memory.wf n.msixTable = true → Memory.wf (f n).msixTable = true) : Tidy p b (onNet s f) := by
  refine ⟨h.queue, fun hb => ?_⟩
  obtain ⟨hmem, hmills, hvault, hlib, hmsix, hstore⟩ := storesOk_iff.mp (h.stores hb)
  exact storesOk_iff.mpr ⟨hmem, hmills, hvault, hlib, hf _ hmsix, hstore⟩

theorem onLedger_tidy {f : Ledger → Ledger} (hf : ∀ l, sWf l.store = true → sWf (f l).store = true) : Tidy p b (onLedger s f) := by
  refine ⟨h.queue, fun hb => ?_⟩
  obtain ⟨hmem, hmills, hvault, hlib, hmsix, hstore⟩ := storesOk_iff.mp (h.stores hb)
  exact storesOk_iff.mpr ⟨hmem, hmills, hvault, hlib, hmsix, hf _ hstore⟩

theorem onClapper_tidy {f : Clapper → Clapper} (hf : ∀ x, Memory.wf x.library = true → Memory.wf (f x).library = true) : Tidy p b (onClapper s f) := by
  refine ⟨h.queue, fun hb => ?_⟩
  obtain ⟨hmem, hmills, hvault, hlib, hmsix, hstore⟩ := storesOk_iff.mp (h.stores hb)
  exact storesOk_iff.mpr ⟨hmem, hmills, hvault, hf _ hlib, hmsix, hstore⟩

end

/-- The NAND's stores are canonical. -/
def Vault.stored (v : Vault) : Bool := Memory.wf v.boot && Memory.wf v.dataPart && v.anchors.all Memory.wf

theorem setVault_tidy {p : List Instr} {b : Prop} {s : State} {v : Vault} (h : Tidy p b s) (hv : s.vault.stored = true → v.stored = true) :
    Tidy p b { s with vault := v } := by
  refine ⟨h.queue, fun hb => ?_⟩
  obtain ⟨hmem, hmills, ⟨hboot, hdata, hanchors⟩, hrest⟩ := storesOk_iff.mp (h.stores hb)
  have hw := hv (by rw [Vault.stored, hboot, hdata, hanchors]; rfl)
  rw [Vault.stored, Bool.and_eq_true, Bool.and_eq_true] at hw
  exact storesOk_iff.mpr ⟨hmem, hmills, ⟨hw.1.1, hw.1.2, hw.2⟩, hrest⟩

theorem onVault_tidy {p : List Instr} {b : Prop} {s : State} {f : Vault → Vault} (h : Tidy p b s) (hf : ∀ v, v.stored = true → (f v).stored = true) :
    Tidy p b (onVault s f) := setVault_tidy h (hf _)

theorem mem_tidy {p : List Instr} {b : Prop} {s : State} {m : Memory} (h : Tidy p b s) (hm : Memory.wf s.mem = true → Memory.wf m = true) :
    Tidy p b { s with mem := m } := by
  refine ⟨h.queue, fun hb => ?_⟩
  obtain ⟨hmem, hrest⟩ := storesOk_iff.mp (h.stores hb)
  exact storesOk_iff.mpr ⟨hm hmem, hrest⟩

theorem writeMem_tidy {p : List Instr} {b : Prop} {s : State} {a : Nat} {bs : List Byte} (h : Tidy p b s) :
    Tidy p b { s with mem := writeBytes s.mem a bs } := mem_tidy h (writeBytes_wf _ _)

theorem zeroMem_tidy {p : List Instr} {b : Prop} {s : State} {a n : Nat} (h : Tidy p b s) : Tidy p b (zeroMem s a n) :=
  onGran_tidy (mem_tidy h (zeroRange_wf _ _))

/-! #### Operations on the parts that hold stores -/

section
variable {x : Mill}

theorem dropFills_stored : x.dropFills.stored = x.stored := rfl
theorem onQuern_stored {i f} : (onQuern x i f).stored = x.stored := rfl
theorem onSet_stored {set f} : (onSet x set f).stored = x.stored := by
  have hstep (y : Mill) (q : FillReq) : (onQuern y (physOf y q.quern) f).stored = y.stored := onQuern_stored
  unfold onSet
  exact foldl_keeps hstep set x
theorem afterReset_stored {m q} (h : x.stored = true) : (x.afterReset m q).stored = true := by
  rw [Mill.stored, Bool.and_eq_true] at h ⊢
  exact ⟨rfl, h.2⟩

end

section
variable {v : Vault}

theorem stats_stored : v.stats.stored = v.stored := rfl
theorem onBlock_stored {i f} : (v.onBlock i f).stored = v.stored := rfl
theorem vaultCount_stored {i n} : (v.count i n).stored = v.stored := rfl
theorem moveBlock_stored {i j} : (v.moveBlock i j).stored = v.stored := rfl
theorem decode_stored {c} : (v.decode c).stored = v.stored := by cases c <;> rfl
theorem decodeAll_stored {cws} : (decodeAll v cws).stored = v.stored := foldl_keeps (p := Vault.stored) (fun _ _ => decode_stored) cws v
theorem retire_stored {i} : (v.retire i).stored = v.stored := by
  unfold Vault.retire
  dsimp only
  split <;> rfl
theorem mount_stored : v.mount.stored = v.stored := by
  unfold Vault.mount
  split
  · rfl
  · split
    · rfl
    · exact stats_stored
theorem relocate_stored {i c} : (v.relocate i c).stored = v.stored := by
  unfold Vault.relocate
  split
  · rfl
  · exact stats_stored.trans (vaultCount_stored.trans moveBlock_stored)
theorem openNew_stored {boot i w} (h : v.openNew boot = some (i, w)) : w.stored = v.stored := by
  obtain ⟨j, _, hj⟩ := Option.map_eq_some_iff.mp h
  cases boot <;> rw [← (Prod.mk.inj hj).2] <;> rfl
theorem target_stored {boot i w} (h : v.target boot = some (i, w)) : w.stored = v.stored := by
  unfold Vault.target at h
  split at h
  · split at h
    · rw [(Prod.mk.inj (Option.some.inj h)).2]
    · exact openNew_stored h
  · exact openNew_stored h
theorem readUnit_stored {boot u c} : (v.readUnit boot u c).2.stored = v.stored := by
  unfold Vault.readUnit
  split
  · rfl
  · exact decode_stored

end

section
variable {x : Clapper}

theorem ite_library {c : Prop} [Decidable c] {y z : Clapper} (hy : Memory.wf y.library = true) (hz : Memory.wf z.library = true) :
    Memory.wf (if c then y else z).library = true := by
  split
  · exact hy
  · exact hz
theorem count_library {i} : (x.count i).library = x.library := rfl
theorem onChan_library {c f} : (x.onChan c f).library = x.library := rfl
theorem brakeFrom_library {c t} : (x.brakeFrom c t).library = x.library := rfl
theorem brakeOver_library {c n t} : (x.brakeOver c n t).library = x.library := by
  unfold Clapper.brakeOver
  split <;> rfl
theorem stop_library {c t} : (x.stop c t).library = x.library := by
  unfold Clapper.stop
  dsimp only
  split <;> rfl
theorem trigger_library {fx r d t} : (x.trigger fx r d t).library = x.library := by
  unfold Clapper.trigger Clapper.play
  grind [count_library, onChan_library]

end

section
variable {l : Ledger}

theorem send_store {m} : (l.send m).store = l.store := rfl
theorem take_store {me k lm line} : (l.take me k lm line).store = l.store := by
  unfold Ledger.take
  split <;> rfl
theorem setEntry_store {e} : (l.setEntry e).store = l.store := rfl
theorem dropNode_store {a n} : (l.dropNode a n).store = l.store := rfl
theorem slotDone_store {k st r} : (l.slotDone k st r).store = l.store := rfl
theorem perform_store {c k} : (l.perform c k).store = l.store := rfl
theorem ledgerCount_store {i n} : (l.count i n).store = l.store := rfl
theorem makeRoom_store {a w} (h : l.makeRoom a = some w) : w.store = l.store := by
  unfold Ledger.makeRoom at h
  grind [send_store]
theorem launch_store : l.launch.store = l.store := by
  refine foldl_keeps (p := Ledger.store) (fun m r => ?_) _ l
  grind [send_store, makeRoom_store]
theorem goneLine_store {d a} : (goneLine d l a).store = l.store := by
  unfold goneLine
  grind [setEntry_store, ledgerCount_store]
theorem goneDir_store {d} : (goneDir l d).store = l.store := foldl_keeps (p := Ledger.store) (fun _ _ => goneLine_store) _ l
theorem goneCache_store {d} : (goneCache l d).store = l.store := by
  refine (foldl_keeps (p := Ledger.store) (fun m r => ?_) _ _ : _)
  grind [slotDone_store]

end

/-! #### Reporting -/

section
variable {p : List Instr} {b : Prop} {s : State} (h : Tidy p b s)
include h

theorem logError_tidy {a u x r w} : Tidy p b (logError s a u x r w) := (logError_reported ..).tidy h
theorem rowWritten_tidy {a} : Tidy p b (rowWritten s a) := (rowWritten_reported ..).tidy h
theorem drainReceipts_tidy {c n} : Tidy p b (drainReceipts s c n) := (drainReceipts_reported ..).tidy h
theorem release_tidy {c} : Tidy p b (release s c) := (release_reported ..).tidy h
theorem checkWaits_tidy : Tidy p b (checkWaits s) := (checkWaits_reported ..).tidy h
theorem raiseBells_tidy {x} : Tidy p b (raiseBells s x) := (raiseBells_reported ..).tidy h
theorem raiseBell_tidy {x} : Tidy p b (raiseBell s x) := (raiseBell_reported ..).tidy h
theorem clearBells_tidy {x} : Tidy p b (clearBells s x) := (clearBells_reported ..).tidy h
theorem settleErr_tidy : Tidy p b (settleErr s) := (settleErr_reported ..).tidy h
theorem complete_tidy {c o} : Tidy p b (complete s c o) := (complete_reported ..).tidy h
theorem unitDone_tidy {c i r} : Tidy p b (unitDone s c i r) := (unitDone_reported ..).tidy h
theorem finishJob_tidy {j st sub mid low start tiles sat} : Tidy p b (finishJob s j st sub mid low start tiles sat) := (finishJob_reported ..).tidy h
theorem fwDone_tidy {j st sub mid low tiles} : Tidy p b (fwDone s j st sub mid low tiles) := (fwDone_reported ..).tidy h

end

end Sys2Proof.Machine
end

section
open Sys2Proof.Laws
namespace Sys2Proof.Machine

section
variable {p : List Instr} {b : Prop} {s : State} (h : Tidy p b s)
include h

/-! #### Row ranges and program runs -/

theorem readRange_tidy {own a len} : Tidy p b (readRange s own a len).2.2 := by grind [readRange, logError_tidy]

theorem writeRowPart_tidy {own a bs} : Tidy p b (writeRowPart s own a bs).2 := by
  unfold writeRowPart
  dsimp only
  split
  · exact rowWritten_tidy (writeMem_tidy h)
  · exact logError_tidy h
  · exact h

theorem writeRows_tidy {own a bs n} : Tidy p b (writeRows s own a bs n).2 := by
  induction n generalizing s a bs with
  | zero => exact h
  | succ n ih =>
    cases bs with
    | nil => exact h
    | cons x bs => exact ih (writeRowPart_tidy h)

theorem writeRange_tidy {own a bs} : Tidy p b (writeRange s own a bs).2 := writeRows_tidy h
theorem startInstance_tidy {c} : Tidy p b (startInstance s c) := onChute_tidy h
theorem fwJob_tidy {o f} (hf : ∀ t j, Tidy p b t → Tidy p b (f t j)) : Tidy p b (fwJob s o f) := by grind [fwJob, onControl_tidy]

/-! #### Chutes and dockets -/

theorem dbTailWrite_tidy {c v} : Tidy p b (dbTailWrite s c v) := onChute_tidy h
theorem dbRcptWrite_tidy {c v} : Tidy p b (dbRcptWrite s c v) := by grind [dbRcptWrite, drainReceipts_tidy, onChute_tidy]
theorem advanceHead_tidy {c} : Tidy p b (advanceHead s c) := by grind [advanceHead, onChute_tidy, onLedger_tidy]
theorem popHead_tidy {c} : Tidy p b (popHead s c) := by grind [popHead, onChute_tidy, advanceHead_tidy]
theorem controllerDone_tidy {c p' st sub} : Tidy p b (controllerDone s c p' st sub) := complete_tidy (onControl_tidy h)

theorem settleFaults_tidy {c n} : Tidy p b (settleFaults s c n) := by
  induction n generalizing s with
  | zero => exact h
  | succ n ih =>
    unfold settleFaults
    split
    · exact h
    · split
      · exact h
      · exact ih (controllerDone_tidy (popHead_tidy h))

theorem settleHead_tidy {c} : Tidy p b (settleHead s c) := checkWaits_tidy (settleFaults_tidy h)
theorem readDocket_tidy {c net} : Tidy p b (readDocket s c net) := by grind [readDocket, readRange_tidy, onChute_tidy, settleHead_tidy]
theorem recordOut_tidy {c p' mills others} : Tidy p b (recordOut s c p' mills others) := onChute_tidy (popHead_tidy (onControl_tidy h))
theorem sendHandout_tidy {c id j m} : Tidy p b (sendHandout c id j s m) := by grind [sendHandout, onControl_tidy]

theorem handOutAt_tidy {c} : ∀ t, handOutAt s c = some t → Tidy p b t := by
  have hmills (id j q) (ms : List MillId) : Tidy p b (ms.foldl (sendHandout c id j) (recordOut s c q ms 0)) :=
    foldl_tidy (recordOut_tidy h) fun _ _ h => sendHandout_tidy h
  intro t ht
  unfold handOutAt at ht
  dsimp only at ht
  cases hp : (s.control.chutes[c.val]).pending with
  | nil =>
    rw [hp] at ht
    cases ht
  | cons q rest =>
    rw [hp] at ht
    dsimp only at ht
    cases hd : docketCheck s c q.words with
    | some f =>
      rw [hd] at ht
      grind [settleHead_tidy, controllerDone_tidy, popHead_tidy]
    | none =>
      rw [hd] at ht
      dsimp only at ht
      cases ho : wOpcode q.words with
      | none =>
        rw [ho] at ht
        grind
      | some o =>
        rw [ho] at ht
        dsimp only at ht
        grind [settleHead_tidy, recordOut_tidy, onControl_tidy, onGran_tidy, onGauge_tidy, onWeir_tidy]

theorem rotate_tidy {c} : Tidy p b (rotate s c) := by grind [rotate, onControl_tidy]

theorem handOut_tidy : Tidy p b (handOut s) := by
  unfold handOut
  split
  · next t ht =>
    obtain ⟨c, _, hc⟩ := List.exists_of_findSome?_eq_some ht
    obtain ⟨w, hw, rfl⟩ := Option.map_eq_some_iff.mp hc
    exact rotate_tidy (handOutAt_tidy h w hw)
  · exact h

theorem controllerOp_tidy {c o ready act} (hf : ∀ t w, Tidy p b t → Tidy p b (act t w)) : Tidy p b (controllerOp s c o ready act) := by
  grind [controllerOp, settleHead_tidy, controllerDone_tidy, popHead_tidy]
theorem expireWait_tidy {c} : Tidy p b (expireWait s c) := by grind [expireWait, settleHead_tidy, controllerDone_tidy, popHead_tidy]
theorem enableChute_tidy {c v} : Tidy p b (enableChute s c v) := writeRange_tidy (onChute_tidy h)

theorem disableChute_tidy {c v} : Tidy p b (disableChute s c v) := by
  unfold disableChute
  exact foldl_tidy (onChute_tidy h) fun _ _ h => controllerDone_tidy (popHead_tidy h)

theorem chCfgWrite_tidy {c v} : Tidy p b (chCfgWrite s c v) := by grind [chCfgWrite, onChute_tidy, enableChute_tidy, disableChute_tidy]
theorem phaseHi_tidy {c v} : Tidy p b (phaseHi s c v) := onChute_tidy h
theorem periodWrite_tidy {c v} : Tidy p b (periodWrite s c v) := onChute_tidy h
theorem timerFire_tidy {c} : Tidy p b (timerFire s c) := by grind [timerFire, onChute_tidy, checkWaits_tidy, release_tidy]
theorem heldStart_tidy {c} : Tidy p b (heldStart s c) := by grind [heldStart, startInstance_tidy, onChute_tidy]

theorem clearMill_tidy {m} : Tidy p b (clearMill s m) := by
  unfold clearMill
  have hmill := onMill_tidy h (m := m) (f := fun x =>
    { x with regs := { x.regs with hopClearing := true }, querns := x.querns.map Quern.zeroed, purses := [], purseCeWrite := [] })
    fun x hx => by
      rw [Mill.stored, Bool.and_eq_true] at hx ⊢
      exact ⟨rfl, hx.2⟩
  dsimp only
  split
  · exact hmill
  · exact onGran_tidy (mem_tidy hmill (zeroRange_wf _ _))

theorem settleTenant_tidy : Tidy p b (settleTenant s) := by grind [settleTenant, onControl_tidy, fwDone_tidy]

theorem tenantStart_tidy : Tidy p b (tenantStart s) := by
  unfold tenantStart
  split
  · exact h
  · dsimp only
    split
    · exact settleTenant_tidy (foldl_tidy (onControl_tidy h) fun _ _ h => clearMill_tidy h)
    · exact h

theorem tenantCleared_tidy {m} : Tidy p b (tenantCleared s m) := settleTenant_tidy (onRegs_tidy h)

/-! #### Network interfaces -/

theorem logNi_tidy {n st p' peer} : Tidy p b (logNi s n st p' peer) := onNi_tidy h
theorem takePacket_tidy {p'} : Tidy p b (takePacket s p') := onNet_tidy h fun _ hx => hx
theorem toEgress_tidy {p' x} : Tidy p b (toEgress s p' x) := onPort_tidy h
theorem respondRemote_tidy {origin p' st} : Tidy p b (respondRemote s origin p' st) := by grind [respondRemote, toEgress_tidy]
theorem deliver_tidy {n o p' st} : Tidy p b (deliver s n o p' st) := by grind [deliver, onNi_tidy, respondRemote_tidy]
theorem respond_tidy {req st data} : Tidy p b (respond s req st data) := by grind [respond, onNi_tidy, onNet_tidy, logNi_tidy]
theorem refuse_tidy {req} : Tidy p b (refuse s req) := respond_tidy (onNi_tidy h)

theorem looseRow_tidy {a} : Tidy p b (looseRow s a) := by
  unfold looseRow
  split
  · exact writeMem_tidy (draw_tidy h (w := 4096))
  · exact h

theorem selfAnswer_tidy {p' st} : Tidy p b (selfAnswer s p' st) := logNi_tidy (onNi_tidy h)
theorem issue_tidy {p'} : Tidy p b (issue s p').2 := by grind [issue, selfAnswer_tidy, onNi_tidy]
theorem accept_tidy {p'} : Tidy p b (accept s p') := onNi_tidy h
theorem takeResponse_tidy {p' ecc} : Tidy p b (takeResponse s p' ecc) := by grind [takeResponse, takePacket_tidy, onNi_tidy, deliver_tidy]

/-! #### Granary banks -/

theorem rowArrives_tidy {p'} : Tidy p b (rowArrives s p') := by grind [rowArrives, refuse_tidy, accept_tidy, respond_tidy, onBank_tidy]
theorem rowPacket_tidy {x f} (hf : ∀ t, Tidy p b t → Tidy p b (f t)) : Tidy p b (rowPacket s x f) := by
  grind [rowPacket, issue_tidy, takePacket_tidy, logNi_tidy]
theorem readOutcome_tidy {a ecc} : Tidy p b (readOutcome s a ecc).2 := by
  unfold readOutcome
  split <;> grind [logError_tidy, onBank_tidy]

theorem serve_tidy {r q ecc} : Tidy p b (serve s r q ecc) := by
  unfold serve
  split
  · split
    · exact h
    · exact readOutcome_tidy h
  · dsimp only
    split
    · exact respond_tidy h
    · split
      · exact respond_tidy (readOutcome_tidy h)
      · split
        · exact respond_tidy (rowWritten_tidy (looseRow_tidy h))
        · exact respond_tidy (rowWritten_tidy (writeMem_tidy h))

theorem migrateRow_tidy {i row ecc} : Tidy p b (migrateRow s i row ecc) := by grind [migrateRow, readOutcome_tidy, onGran_tidy]
theorem slotGrant_tidy {b' ecc} : Tidy p b (slotGrant s b' ecc) := by
  unfold slotGrant
  split <;> grind [onBank_tidy, serve_tidy, migrateRow_tidy, onGran_tidy]
theorem ceWriteback_tidy {b'} : Tidy p b (ceWriteback s b') := onBank_tidy h
theorem patrolRead_tidy {i ecc} : Tidy p b (patrolRead s i ecc) := by grind [patrolRead, readOutcome_tidy, onBank_tidy]
theorem engineNext_tidy {q} : Tidy p b (engineNext s q) := by grind [engineNext, onGran_tidy]
theorem engineRun_tidy {q o f} (hf : ∀ t e, Tidy p b t → Tidy p b (f t e)) : Tidy p b (engineRun s q o f) := by
  grind [engineRun, onGran_tidy]
theorem engineDone_tidy {e st sub rows} : Tidy p b (engineDone s e st sub rows) := finishJob_tidy h

omit h in
theorem engineReport_tidy {e r} (h : Tidy p b r.2.2) : Tidy p b (engineReport e r) := engineDone_tidy h

theorem fillGo_tidy {dst row n k} : Tidy p b (fillGo dst row n k s).2.2 := by
  induction n generalizing s k with
  | zero => exact h
  | succ n ih =>
    have hpart := writeRowPart_tidy h (own := none) (a := dst + 512 * k) (bs := row)
    unfold fillGo
    grind

theorem fillJob_tidy {e} : Tidy p b (fillJob s e) := by
  unfold fillJob
  split
  · exact engineDone_tidy h
  · split
    · exact engineDone_tidy h
    · split
      · exact engineDone_tidy h
      · exact engineReport_tidy (fillGo_tidy h)

theorem copyGo_tidy {src dst n k} : Tidy p b (copyGo src dst n k s).2.2 := by
  induction n generalizing s k with
  | zero => exact h
  | succ n ih =>
    have hread := readRange_tidy h (own := none) (a := src + 512 * k) (len := 512)
    have hpart {bs} := writeRowPart_tidy hread (own := none) (a := dst + 512 * k) (bs := bs)
    unfold copyGo
    grind [onGran_tidy]

theorem remoteRows_tidy {dst n k} : Tidy p b (remoteRows dst n k s).2.2 := by
  induction n generalizing s k with
  | zero => exact h
  | succ n ih =>
    have hpart {bs} := writeRowPart_tidy (draw_tidy h (w := 4096)) (own := none) (a := dst + 512 * k) (bs := bs)
    unfold remoteRows
    grind

theorem copyHere_tidy {e a b'} : Tidy p b (copyHere s e a b') := by
  unfold copyHere
  grind [engineDone_tidy, engineReport_tidy, copyGo_tidy]

theorem copyAway_tidy {e a net} : Tidy p b (copyAway s e a net) := by
  unfold copyAway
  split
  · exact engineDone_tidy h
  · exact engineReport_tidy (readRange_tidy h)

theorem copyFrom_tidy {e b' net} : Tidy p b (copyFrom s e b' net) := by
  unfold copyFrom
  split
  · exact engineDone_tidy h
  · split
    · exact engineReport_tidy h
    · exact engineReport_tidy (remoteRows_tidy h)

theorem copyJob_tidy {e net} : Tidy p b (copyJob s e net) := by
  unfold copyJob
  split
  · exact engineDone_tidy h
  · split
    · exact engineDone_tidy h
    · split
      · exact engineDone_tidy h
      · exact copyHere_tidy h
      · exact copyAway_tidy h
      · exact copyFrom_tidy h

theorem plotCfg_tidy {p' v} : Tidy p b (plotCfg s p' v) := by grind [plotCfg, zeroMem_tidy, onGran_tidy]
theorem plotCleared_tidy {q} : Tidy p b (plotCleared s q) := by grind [plotCleared, onGran_tidy]
theorem granMode_tidy {v} : Tidy p b (granMode s v) := by grind [granMode, onGran_tidy, zeroMem_tidy]

theorem mapMills_tidy {f : Mill → Mill} (hf : ∀ x, x.stored = true → (f x).stored = true) : Tidy p b { s with mills := s.mills.map f } := by
  refine ⟨h.queue, fun hb => ?_⟩
  obtain ⟨hmem, hmills, hrest⟩ := storesOk_iff.mp (h.stores hb)
  refine storesOk_iff.mpr ⟨hmem, fun m => ?_, hrest⟩
  rw [Vector.getElem_map]
  exact hf _ (hmills m)

theorem modeDone_tidy : Tidy p b (modeDone s) := by
  unfold modeDone
  split
  · exact mapMills_tidy (onGran_tidy h) fun _ hx => by exact hx
  · exact h

theorem spareWrite_tidy {q v} : Tidy p b (spareWrite s q v) := onGran_tidy h
theorem migrationDone_tidy {q ecc} : Tidy p b (migrationDone s q ecc) := by grind [migrationDone, migrateRow_tidy, onGran_tidy]

/-! #### Clapper channels -/

theorem attackEnd_tidy {c} : Tidy p b (attackEnd s c) := by grind [attackEnd, onClapper_tidy, onChan_library, brakeFrom_library]
theorem sustainEnd_tidy {c} : Tidy p b (sustainEnd s c) := by grind [sustainEnd, onClapper_tidy, brakeFrom_library]
theorem brakingEnd_tidy {c} : Tidy p b (brakingEnd s c) := by grind [brakingEnd, onClapper_tidy, brakeOver_library]
theorem brakeEmf_tidy {v} : Tidy p b (brakeEmf s v) := by grind [brakeEmf, onClapper_tidy, onChan_library, brakeOver_library]
theorem pinEdge_tidy {p'} : Tidy p b (pinEdge s p') := by grind [pinEdge, onClapper_tidy, trigger_library]
theorem trigWrite_tidy {c} : Tidy p b (trigWrite s c) := by grind [trigWrite, onClapper_tidy, trigger_library]

omit h in
/-- The copy of a library with its length left open: with its value in it the kernel, comparing the two sides of an unfolding, would read
262,144 bytes. -/
theorem loadLibrary_length_open : ∃ G : Nat → State → Job → List Job → Nat → State, (∀ n, 262144 = n → loadLibrary = G n) ∧
    ∀ n s j rest a, Tidy p b s → Tidy p b (G n s j rest a) := by
  refine ⟨?G, fun n hn => ?read, fun n s j rest a h => ?copy⟩
  case read =>
    delta loadLibrary
    rw [hn]
  case copy =>
    have hread := onClapper_tidy (readRange_tidy (onControl_tidy h (f := fun k => { k with fwQueue := rest })) (own := none) (a := a) (len := n))
      (f := fun x => { x with loading := false }) fun _ hx => hx
    have hwf (bs : List Byte) : Memory.wf (writeBytes [] 0 bs) = true := writeBytes_wf _ _ rfl
    dsimp only
    split
    · exact fwDone_tidy hread
    · exact fwDone_tidy (onClapper_tidy hread fun _ _ => hwf _)

theorem loadLibrary_tidy {j rest a} : Tidy p b (loadLibrary s j rest a) := by
  obtain ⟨G, hG, htidy⟩ := loadLibrary_length_open (p := p) (b := b)
  rw [hG _ rfl]
  exact htidy _ s j rest a h

theorem clapGo_tidy {j rest a} : Tidy p b (clapGo s j rest a) := by
  have hstop : Tidy p b (onClapper s fun x => (({ x with loading := true } : Clapper).stop 0 (now s)).stop 1 (now s)) :=
    onClapper_tidy h fun x hx => by rwa [stop_library, stop_library]
  have hstands : Tidy p b (onClapper s fun x => x) := onClapper_tidy h fun _ hx => by exact hx
  unfold clapGo
  dsimp only
  split
  · split
    · exact loadLibrary_tidy hstands
    · exact hstands
  · split
    · exact loadLibrary_tidy hstop
    · exact hstop

theorem clapLoad_tidy : Tidy p b (clapLoad s) := by
  unfold clapLoad
  dsimp only
  repeat' split
  all_goals grind [refuse_tidy, fwDone_tidy, onControl_tidy, clapGo_tidy]
theorem postTouch_tidy {e} : Tidy p b (postTouch s e) := by grind [postTouch, raiseBell_tidy, onClapper_tidy, count_library]

theorem press_tidy {d} : Tidy p b (press s d) := by
  have hposted := onClapper_tidy (postTouch_tidy (draw_tidy h (w := 16))
    (e := { time := now (draw s 16).2, force := (draw s 16).1, rel := (draw s 16).2.clapper.relative, type := 0 }))
    (f := fun x => { x with tstate := .touched, t0 := now (postTouch (draw s 16).2 { time := now (draw s 16).2, force := (draw s 16).1, rel := (draw s 16).2.clapper.relative, type := 0 }), run := 0, force := d }) fun _ hx => by exact hx
  unfold press
  dsimp only
  split
  · exact onClapper_tidy hposted fun x hx => by rwa [trigger_library]
  · exact hposted

theorem touchOver_tidy {type} : Tidy p b (touchOver s type) := by grind [touchOver, draw_tidy, postTouch_tidy]

theorem readIdle_tidy {r} : Tidy p b (readIdle s r) := by
  unfold readIdle
  dsimp only
  split
  · exact press_tidy h
  · split
    · exact onClapper_tidy (onClapper_tidy h fun _ hx => by exact hx) fun _ hx => by exact hx
    · exact onClapper_tidy (onClapper_tidy h fun _ hx => by exact hx) fun _ hx => by exact hx

theorem readTouched_tidy {r} : Tidy p b (readTouched s r) := by
  have hforce := onClapper_tidy h (f := fun x =>
    { x with force := if (x.force.toNat : Int) < r.toNat - s.clapper.baseline.toNat then BitVec.ofInt 16 (r.toNat - s.clapper.baseline.toNat) else x.force }) fun _ hx => by exact hx
  unfold readTouched
  refine ite_tidy (onClapper_tidy (touchOver_tidy hforce) fun _ hx => by exact hx) (ite_tidy ?_ (onClapper_tidy hforce fun _ hx => by exact hx))
  exact onClapper_tidy (touchOver_tidy (onClapper_tidy hforce fun _ hx => by exact hx)) fun _ hx => by exact hx

theorem touchReading_tidy {r} : Tidy p b (touchReading s r) := by
  have hread := onClapper_tidy h (f := fun x => { x with reading := r }) fun _ hx => by exact hx
  unfold touchReading
  dsimp only
  split
  · exact h
  · split
    · exact onClapper_tidy hread fun _ hx => ite_library hx hx
    · exact onClapper_tidy hread fun _ hx => ite_library hx (ite_library hx hx)
    · exact onClapper_tidy hread fun _ hx => ite_library hx hx
    · exact readIdle_tidy hread
    · exact readTouched_tidy hread

theorem clpCtl_tidy {v} : Tidy p b (clpCtl s v) := by grind [clpCtl, onClapper_tidy]

end

end Sys2Proof.Machine
end

section
open Sys2Proof.Laws
namespace Sys2Proof.Machine

section
variable {p : List Instr} {b : Prop} {s : State} (h : Tidy p b s)
include h

/-! #### Service sequences -/

theorem seqEnd_tidy {q} : Tidy p b (seqEnd s q) := by grind [seqEnd, onUnit_tidy, onService_tidy, finishJob_tidy]
theorem stepBegin_tidy {u} : Tidy p b (stepBegin s u) := by
  unfold stepBegin
  split <;> grind [seqEnd_tidy, onSeq_tidy, onUnit_tidy, onAssay_tidy]
theorem stepEnd_tidy {u} : Tidy p b (stepEnd s u) := stepBegin_tidy (onSeq_tidy h)
theorem seqStart_tidy {u job todo target qmap slice} : Tidy p b (seqStart s u job todo target qmap slice) := stepBegin_tidy (onService_tidy h)
theorem writeReport_tidy {t' e} : Tidy p b (writeReport s t' e) := by grind [writeReport, writeRange_tidy, onAssay_tidy]
theorem endTest_tidy {t' e} : Tidy p b (endTest s t' e) := by grind [endTest, writeReport_tidy, onAssay_tidy, onUnit_tidy, finishJob_tidy]
theorem abortTest_tidy {t'} : Tidy p b (abortTest s t') := by grind [abortTest, endTest_tidy, stepEnd_tidy]
theorem abortPrbs_tidy {p'} : Tidy p b (abortPrbs s p') := by grind [abortPrbs, abortTest_tidy]

/-! #### Flume ports -/

theorem answerBack_tidy {x st data} : Tidy p b (answerBack s x st data) := by grind [answerBack, toEgress_tidy]
theorem handBack_tidy {p' x st} : Tidy p b (handBack s p' x st) := by grind [handBack, onNet_tidy]
theorem linkDown_tidy {p' x} : Tidy p b (linkDown p' s x) := by grind [linkDown, handBack_tidy, answerBack_tidy]

theorem portDown_tidy {p' st fail} : Tidy p b (portDown s p' st fail) := by
  unfold portDown
  dsimp only
  split
  · exact foldl_tidy (onPort_tidy h) fun _ _ h => linkDown_tidy h
  · exact onPort_tidy h

theorem beginSwap_tidy {p' lane immediate} : Tidy p b (beginSwap s p' lane immediate) := by
  grind [beginSwap, draw_tidy, abortPrbs_tidy, onPort_tidy]
theorem portCtl_tidy {p' v} : Tidy p b (portCtl s p' v) := by grind [portCtl, onPort_tidy, portDown_tidy, beginSwap_tidy]
theorem train_tidy {p' at_ f} : Tidy p b (train s p' at_ f) := onPort_tidy h
theorem paramDone_tidy {p' group node port} : Tidy p b (paramDone s p' group node port) := by grind [paramDone, onPort_tidy, portDown_tidy]
theorem trainExpired_tidy {p'} : Tidy p b (trainExpired s p') := by grind [trainExpired, portDown_tidy, onPort_tidy]
theorem retrain_tidy {p'} : Tidy p b (retrain s p') := onPort_tidy h
theorem recovered_tidy {p' width8 ok} : Tidy p b (recovered s p' width8 ok) := by grind [recovered, onPort_tidy, portDown_tidy]
theorem nakTo_tidy {p' ack} : Tidy p b (nakTo s p' ack) := onPort_tidy h
theorem flitIn_tidy {p' x} : Tidy p b (flitIn s p' x) := by grind [flitIn, onPort_tidy, nakTo_tidy]
theorem swapAsked_tidy {p' lane immediate seq} : Tidy p b (swapAsked s p' lane immediate seq) := by
  grind [swapAsked, onPort_tidy, abortPrbs_tidy]
theorem swapAcked_tidy {p' lane immediate seq} : Tidy p b (swapAcked s p' lane immediate seq) := onPort_tidy h
theorem swapDone_tidy {p'} : Tidy p b (swapDone s p') := onPort_tidy h
theorem swapThresh_tidy {p' lane errors} : Tidy p b (swapThresh s p' lane errors) := by grind [swapThresh, onPort_tidy, beginSwap_tidy]
theorem swapNow_tidy {p' lane} : Tidy p b (swapNow s p' lane) := by grind [swapNow, beginSwap_tidy, onPort_tidy]
theorem egressPacket_tidy {p' k} : Tidy p b (egressPacket s p' k) := by
  grind [egressPacket, issue_tidy, takePacket_tidy, respond_tidy, onPort_tidy, toEgress_tidy, linkDown_tidy]
theorem deliverRemote_tidy {p' x} : Tidy p b (deliverRemote s p' x) := by
  grind [deliverRemote, onPort_tidy, answerBack_tidy, dbRcptWrite_tidy, dbTailWrite_tidy]

theorem ingressPacket_tidy {p' y} : Tidy p b (ingressPacket s p' y) := by
  have hports (t : State) (ht : Tidy p b t) (f : FlumePort → FlumePort) :
      Tidy p b { t with flume := { t.flume with ports := t.flume.ports.map f } } := onFlume_tidy ht (f := fun x => { x with ports := x.ports.map f })
  unfold ingressPacket
  dsimp only
  split
  · split
    · exact onPort_tidy (onPort_tidy h)
    · split
      · exact onPort_tidy (onPort_tidy h)
      · exact onPort_tidy (onPort_tidy h)
      · exact onPort_tidy (linkDown_tidy h)
  · split
    · exact onPort_tidy (onPort_tidy h)
    · split
      · exact onPort_tidy (handBack_tidy (hports s h _))
      · exact deliverRemote_tidy (onPort_tidy h)

theorem ingressIssue_tidy {p'} : Tidy p b (ingressIssue s p') := by
  grind [ingressIssue, onPort_tidy, answerBack_tidy, logNi_tidy, onNi_tidy, onNet_tidy]
theorem groupCfg_tidy {v} : Tidy p b (groupCfg s v) := onFlume_tidy h
theorem flumeRoute_tidy {n v} : Tidy p b (flumeRoute s n v) := onFlume_tidy h
theorem openWindow_tidy {j} : Tidy p b (openWindow s j) := by grind [openWindow, fwDone_tidy, onFlume_tidy]

/-! #### A Mill at its boundary -/

theorem sendDone_tidy {m h' st detail start tiles sat} : Tidy p b (sendDone s m h' st detail start tiles sat) := by
  grind [sendDone, onMill_tidy, onControl_tidy, Mill.stored]
theorem endRun_tidy {m r st sub mid low} : Tidy p b (endRun s m r st sub mid low) := by
  grind [endRun, onMill_tidy, sendDone_tidy, dropFills_stored, Mill.stored]
theorem endCounted_tidy {m r st sub mid} : Tidy p b (endCounted s m r st sub mid) := endRun_tidy h
theorem endWith_tidy {m r e} : Tidy p b (endWith s m r e) := endCounted_tidy h
theorem endAborted_tidy {m r a} : Tidy p b (endAborted s m r a) := endCounted_tidy h
theorem resetMill_tidy {m qmap} : Tidy p b (resetMill s m qmap) := by
  grind [resetMill, clearMill_tidy, onMill_tidy, afterReset_stored, Mill.stored]

/-! #### Messages of a Millblock -/

theorem protoErr_tidy {m} : Tidy p b (protoErr s m) := onMill_tidy h fun _ hx => hx
theorem refuseOffline_tidy {n} : Tidy p b (refuseOffline s n) := onNi_tidy h
theorem firmwareDone_tidy {m id r} : Tidy p b (firmwareDone s m id r) := by grind [firmwareDone, onControl_tidy, onService_tidy]
theorem partDone_tidy {m r} : Tidy p b (partDone s m r) := by
  grind [partDone, firmwareDone_tidy, onControl_tidy, complete_tidy, onChute_tidy]
theorem handoutRefused_tidy {m h' st} : Tidy p b (handoutRefused s m h' st) := partDone_tidy h
theorem handoutArrives_tidy {m src h'} : Tidy p b (handoutArrives s m src h') := by
  grind [handoutArrives, onControl_tidy, handoutRefused_tidy, refuseOffline_tidy, protoErr_tidy, onMill_tidy, Mill.stored]
theorem doneArrives_tidy {m r} : Tidy p b (doneArrives s m r) := partDone_tidy (onControl_tidy h)
theorem stopHeld_tidy {m a h'} : Tidy p b (stopHeld s m a h') := by
  grind [stopHeld, onMill_tidy, sendDone_tidy, onRun_tidy, endAborted_tidy, Mill.stored]
theorem abortArrives_tidy {m src tag c a} : Tidy p b (abortArrives s m src tag c a) := by
  grind [abortArrives, onControl_tidy, refuseOffline_tidy, protoErr_tidy, stopHeld_tidy]
theorem edgesArrive_tidy {m c slot es} : Tidy p b (edgesArrive s m c slot es) := onSpigot_tidy h

theorem porstFall_tidy {m} : Tidy p b (porstFall s m) := by
  unfold porstFall
  exact onNi_tidy (onMill_tidy (resetMill_tidy h) fun x hx => by
    rw [Mill.stored, Bool.and_eq_true] at hx ⊢
    exact ⟨hx.1, rfl⟩)

theorem porstRise_tidy {m strap flat} : Tidy p b (porstRise s m strap flat) := onMill_tidy h fun _ hx => hx
theorem rstFall_tidy {m} : Tidy p b (rstFall s m) := onMill_tidy (resetMill_tidy h) fun _ hx => hx
theorem rstRise_tidy {m flat} : Tidy p b (rstRise s m flat) := onMill_tidy h fun _ hx => hx
theorem rowResponse_tidy {m tag st parityOk} : Tidy p b (rowResponse s m tag st parityOk) := by
  grind [rowResponse, onMill_tidy, onRun_tidy, Mill.stored]

/-! #### Packets on the Millrace -/

theorem routerPacket_tidy {q p' side} : Tidy p b (routerPacket s q p' side) := by
  grind [routerPacket, issue_tidy, takePacket_tidy, onRouter_tidy, onNet_tidy]
theorem niTimeout_tidy {n slot} : Tidy p b (niTimeout s n slot) := by grind [niTimeout, looseRow_tidy, deliver_tidy, onNi_tidy]
theorem flushNi_tidy {n} : Tidy p b (flushNi s n) := onNi_tidy (foldl_tidy h fun _ _ h => refuse_tidy h)
theorem rejoinNi_tidy {n} : Tidy p b (rejoinNi s n) := by grind [rejoinNi, onNet_tidy, onNi_tidy]
theorem niCtl_tidy {n v} : Tidy p b (niCtl s n v) := by grind [niCtl, onNi_tidy, flushNi_tidy, rejoinNi_tidy]

theorem applyRoute_tidy {n d} : Tidy p b (applyRoute s n d) := by
  have hsend (t : State) (x : Packet) (ht : Tidy p b t) :
      Tidy p b (match issue t x with | (sent, t) => if sent then onNet t fun y => { y with sent := y.sent ++ [x] } else t) := by
    have hissue : Tidy p b (issue t x).2 := issue_tidy ht
    revert hissue
    rcases issue t x with ⟨sent, w⟩
    intro hw
    dsimp only
    split
    · exact onNet_tidy hw fun _ hn => hn
    · exact hw
  unfold applyRoute
  dsimp only
  split
  · exact h
  · split
    · exact h
    · exact foldl_tidy (onNi_tidy h) fun t x ht => hsend t x ht

theorem routeWrite_tidy {n d v} : Tidy p b (routeWrite s n d v) := by grind [routeWrite, onNi_tidy, applyRoute_tidy]

/-! #### The Mill dispatcher -/

theorem dispatchFault_tidy {m h' f} : Tidy p b (dispatchFault s m h' f) := by
  grind [dispatchFault, logError_tidy, onRegs_tidy, sendDone_tidy]
theorem preemptNow_tidy {m} : Tidy p b (preemptNow s m) := by grind [preemptNow, onMill_tidy, dropFills_stored, Mill.stored]
theorem setBound_tidy {m t'} : Tidy p b (setBound s m t') := by
  unfold setBound
  split <;> grind [onRegs_tidy]
theorem startHeld_tidy {m h'} : Tidy p b (startHeld s m h') := by
  grind [startHeld, dispatchFault_tidy, setBound_tidy, onMill_tidy, Mill.stored]
theorem dispatch_tidy {m} : Tidy p b (dispatch s m) := by grind [dispatch, dispatchFault_tidy, preemptNow_tidy, startHeld_tidy]
theorem resume_tidy {m} : Tidy p b (resume s m) := by grind [resume, onMill_tidy, Mill.stored]

/-! #### Tally histograms -/

theorem windowEnd_tidy {m b'} : Tidy p b (windowEnd s m b') := by grind [windowEnd, onMill_tidy, raiseBell_tidy, Mill.stored]
theorem tallySample_tidy {m h' v} : Tidy p b (tallySample m h' s v) := by
  grind [tallySample, foldl_tidy, windowEnd_tidy, onMill_tidy, Mill.stored]
theorem histCfg_tidy {m h' v samples} : Tidy p b (histCfg s m h' v samples) := by
  grind [histCfg, onMill_tidy, foldl_tidy, tallySample_tidy, Mill.stored]

/-! #### Tile sequencing -/

theorem noteRead_tidy {st} : Tidy p b (noteRead s st) := by
  unfold noteRead
  split <;> grind [logError_tidy]
theorem countWr_tidy {m n} : Tidy p b (countWr s m n) := onRegs_tidy h
theorem millWrite_tidy {m a bs} : Tidy p b (millWrite s m a bs).2 := writeRange_tidy (countWr_tidy h)
theorem scramble_tidy {m w start rows} : Tidy p b (scramble s m w start rows) := by grind [scramble, draw_tidy, writeRange_tidy]
theorem stopOn_tidy {m r e} : Tidy p b (stopOn s m r e) := by grind [stopOn, onRun_tidy, endWith_tidy]
theorem stageL2_tidy {m} : Tidy p b (stageL2 s m) := by
  unfold stageL2
  dsimp only
  repeat' split
  all_goals grind [stopOn_tidy, noteRead_tidy, scramble_tidy, onRun_tidy, onGran_tidy, onMill_tidy, Mill.stored]
theorem startTile_tidy {m r t'} : Tidy p b (startTile s m r t') := by
  grind [startTile, endWith_tidy, noteRead_tidy, onMill_tidy, Mill.stored]
theorem queueFirst_tidy {m r t'} : Tidy p b (queueFirst s m r t') := onMill_tidy h fun _ hx => hx

theorem zeroSkipped_tidy {m r} : Tidy p b (zeroSkipped s m r) := by
  unfold zeroSkipped
  split
  · exact h
  · exact foldl_tidy h fun _ _ h => millWrite_tidy h

theorem finishWalk_tidy {m r} : Tidy p b (finishWalk s m r) := endCounted_tidy (zeroSkipped_tidy h)
theorem boundary_tidy {m} : Tidy p b (boundary s m) := by
  grind [boundary, endWith_tidy, endAborted_tidy, finishWalk_tidy, preemptNow_tidy, startTile_tidy]
theorem issueTile_tidy {m} : Tidy p b (issueTile s m) := by
  unfold issueTile
  dsimp only
  repeat' split
  all_goals grind [boundary_tidy, onRegs_tidy, stopOn_tidy, preemptNow_tidy, queueFirst_tidy, startTile_tidy, onRun_tidy]

omit h in
theorem writeOut_tidy {m d bt hd row col acc res} (h : Tidy p b acc.2) : Tidy p b (writeOut m d bt hd row col acc res).2 := by
  have hfold {α : Type} (t : State) (l : List α) (f : α → Word × Bool) (g : Fin 4) (ht : Tidy p b t) : Tidy p b ((l.map f).foldl (tallySample m g) t) :=
    foldl_tidy ht fun _ _ h => tallySample_tidy h
  obtain ⟨st, t⟩ := acc
  have hwrite (a : Nat) (bs : List Byte) : Tidy p b (millWrite t m a bs).2 := millWrite_tidy h
  unfold writeOut
  dsimp only
  split
  · exact h
  · split
    · exact hwrite _ _
    · split
      · exact hfold _ _ _ _ (onRun_tidy (onRegs_tidy (hwrite _ _)))
      · exact onRun_tidy (onRegs_tidy (hwrite _ _))

theorem histTile_tidy {m r t'} : Tidy p b (histTile s m r t') := foldl_tidy h fun _ _ h => tallySample_tidy h

theorem tileWrites_tidy {m r c} : Tidy p b (tileWrites s m r c).2 := by
  have hrows (f : Nat → OutRow) (col : Nat) : Tidy p b ((List.range c.tile.rows).foldl
      (fun acc i => writeOut m r.out c.tile.b c.tile.h (c.tile.row0 + i) col acc (f i)) ((NetStatus.ok, s) : NetStatus × State)).2 := by
    generalize List.range c.tile.rows = l
    suffices hall : ∀ acc : NetStatus × State, Tidy p b acc.2 →
        Tidy p b (l.foldl (fun acc i => writeOut m r.out c.tile.b c.tile.h (c.tile.row0 + i) col acc (f i)) acc).2 from hall _ h
    intro acc hacc
    induction l generalizing acc with
    | nil => exact hacc
    | cons i l ih => exact ih _ (writeOut_tidy hacc)
  unfold tileWrites
  dsimp only
  split
  · exact histTile_tidy h
  · exact hrows _ _
  · split
    · exact hrows _ _
    · exact millWrite_tidy h
  · split
    · exact hrows _ _
    · exact millWrite_tidy h
  · exact h

theorem completeTile_tidy {m} : Tidy p b (completeTile s m) := by
  grind [completeTile, noteRead_tidy, tileWrites_tidy, onRun_tidy, boundary_tidy]
theorem beginWalk_tidy {m o tiles} : Tidy p b (beginWalk s m o tiles) := by grind [beginWalk, onRun_tidy, boundary_tidy]

/-! #### Querns -/

theorem fillStart_tidy {m} : Tidy p b (fillStart s m) := by grind [fillStart, onMill_tidy, onQuern_stored, Mill.stored]
theorem fillRows_tidy {mem off g mint wb} : Tidy p b (fillRows s mem off g mint wb).2 := by grind [fillRows, draw_tidy]
theorem fillDone_tidy {m} : Tidy p b (fillDone s m) := by
  grind [fillDone, mem_tidy, noteRead_tidy, onMill_tidy, endWith_tidy, stopOn_tidy, fillRows_tidy, endCounted_tidy, onQuern_stored, Mill.stored]
theorem loadw_tidy {m} : Tidy p b (loadw s m) := by grind [loadw, onMill_tidy, endCounted_tidy, Mill.stored]
theorem bankSwap_tidy {m} : Tidy p b (bankSwap s m) := by grind [bankSwap, onMill_tidy, onSet_stored, Mill.stored]
theorem countInputs_tidy {m bs} : Tidy p b (countInputs s m bs) := onRun_tidy (onRegs_tidy h)
theorem quernVector_tidy {m q} : Tidy p b (quernVector s m q) := by
  unfold quernVector
  dsimp only
  repeat' split
  all_goals grind [onMill_tidy, endWith_tidy, noteRead_tidy, mem_tidy, countInputs_tidy, onRun_tidy, onQuern_stored, Mill.stored]
theorem partialsOut_tidy {m} : Tidy p b (partialsOut s m) := by grind [partialsOut, onRun_tidy, onRegs_tidy]
theorem weightAction_tidy {m p' bankB row} : Tidy p b (weightAction s m p' bankB row) := by
  grind [weightAction, onMill_tidy, onRun_tidy, endWith_tidy, onQuern_stored, Mill.stored]
theorem scrubRead_tidy {m p' bankB find} : Tidy p b (scrubRead s m p' bankB find) := by
  unfold scrubRead
  split <;> grind [onMill_tidy, weightAction_tidy, raiseBell_tidy, onQuern_stored, Mill.stored]
theorem repairDone_tidy {m p' bankB} : Tidy p b (repairDone s m p' bankB) := by grind [repairDone, onMill_tidy, onQuern_stored, Mill.stored]
theorem qmapWrite_tidy {m v} : Tidy p b (qmapWrite s m v) := by grind [qmapWrite, onMill_tidy, Mill.stored]
theorem remapDone_tidy {m} : Tidy p b (remapDone s m) := by grind [remapDone, onMill_tidy, Mill.stored]

end

end Sys2Proof.Machine
end

section
open Sys2Proof.Laws
namespace Sys2Proof.Machine

section
variable {p : List Instr} {b : Prop} {s : State} (h : Tidy p b s)
include h

/-! #### The Vault -/

theorem settleSpare_tidy {boot} : Tidy p b (settleSpare s boot) := by
  grind [settleSpare, onVault_tidy, raiseBell_tidy, stats_stored, Vault.stored]

omit h in
theorem replicate_stored {x : Memory} (hx : Memory.wf x = true) : (Vector.replicate 16 x).all Memory.wf = true := by
  rw [Vector.all_eq_true]
  intro i hi
  rw [Vector.getElem_replicate]
  exact hx

/-- The Vault with the bytes of a unit written in the partition. -/
def unitWritten (boot : Bool) (u : Nat) (bs : List Byte) (v : Vault) : Vault :=
  if boot then { v with boot := writeBytes v.boot (4096 * u) bs } else { v with dataPart := writeBytes v.dataPart (4096 * u) bs }

omit h in
theorem unitWritten_stored {boot u bs v} (hv : Vault.stored v = true) : (unitWritten boot u bs v).stored = true := by
  rw [Vault.stored, Bool.and_eq_true, Bool.and_eq_true] at hv
  obtain ⟨⟨hboot, hdata⟩, hanchors⟩ := hv
  unfold unitWritten
  split
  · rw [Vault.stored, writeBytes_wf _ _ hboot, hdata, hanchors]
    rfl
  · rw [Vault.stored, writeBytes_wf _ _ hdata, hboot, hanchors]
    rfl

/-- The Vault with a unit programmed in block `i`, whose bytes the partition then reads. -/
def unitPlaced (boot : Bool) (u : Nat) (bs : List Byte) (v : Vault) (i : Nat) : Vault :=
  let v := match v.holder boot u with
    | some old => v.onBlock old fun b => { b with live := b.live - 1 }
    | none => v
  let v := v.onBlock i fun b => { b with used := b.used + 1, live := b.live + 1 }
  (unitWritten boot u bs { v with map := sSet v.map (mapKey boot u) (BitVec.ofNat 32 (i + 1)) }).stats

omit h in
theorem writeUnit_eq {boot u bs c} : writeUnit s boot u bs c =
    match s.vault.target boot with
    | none => none
    | some (i, v) =>
      if c ≠ .uncorr then some { s with vault := unitPlaced boot u bs v i }
      else match (v.retire i).openNew boot with
        | none => none
        | some (j, w) => some { settleSpare { s with vault := w.moveBlock i j } boot with
            vault := unitPlaced boot u bs (settleSpare { s with vault := w.moveBlock i j } boot).vault j } := rfl

omit h in
theorem unitPlaced_stored {boot u bs v i} (hv : Vault.stored v = true) : (unitPlaced boot u bs v i).stored = true := by
  unfold unitPlaced
  dsimp only
  rw [stats_stored]
  refine unitWritten_stored ?_
  split
  · exact hv
  · exact hv

theorem writeUnit_tidy {boot u bs c} : ∀ t, writeUnit s boot u bs c = some t → Tidy p b t := by
  intro t ht
  rw [writeUnit_eq] at ht
  split at ht
  · cases ht
  · next i v htarget =>
    have hv : v.stored = s.vault.stored := target_stored htarget
    split at ht
    · rw [← Option.some.inj ht]
      exact setVault_tidy h fun hs => unitPlaced_stored (hv.trans hs)
    · split at ht
      · cases ht
      · next j w hopen =>
        have hw : w.stored = s.vault.stored := (openNew_stored hopen).trans (retire_stored.trans hv)
        rw [← Option.some.inj ht]
        exact setVault_tidy (settleSpare_tidy (setVault_tidy h fun hs => moveBlock_stored.trans (hw.trans hs))) fun hs => unitPlaced_stored hs

theorem vaultCtl_tidy {w} : Tidy p b (vaultCtl s w) := by grind [vaultCtl, onVault_tidy, mount_stored, Vault.stored]

theorem vaultFormat_tidy {w bad} : Tidy p b (vaultFormat s w bad) := by
  have hrej (t : State) (ht : Tidy p b t) (f : Vault → Bool) (g : Vault → BitVec 16) :
      Tidy p b (onVault t fun v => { v with fmtRej := f v, fmtSlotMb := g v }) := onVault_tidy ht fun _ hv => by exact hv
  unfold vaultFormat
  dsimp only
  refine ite_tidy (hrej s h _ _) (ite_tidy ?_ (onVault_tidy (hrej s h _ _) fun _ hv => by exact hv))
  refine raiseBell_tidy (onVault_tidy (onVault_tidy (hrej s h _ _) fun v hv => ?_) fun v hv => by rwa [mount_stored])
  rw [Vault.stored, replicate_stored (writeBytes_wf _ _ rfl)]
  rfl

theorem readUnits_tidy {op a cws n k} : Tidy p b (readUnits s op a cws n k).2.2 := by
  induction n generalizing s cws k with
  | zero => exact h
  | succ n ih =>
    unfold readUnits
    dsimp only
    generalize hx : (if op.part = 2 then (some (readBytes s.vault.anchors[0] (4096 * (op.unit + k)) 4096), s.vault.decode ((cws.head?).getD (.hard 0)))
      else s.vault.readUnit (op.part = 0) (op.unit + k) ((cws.head?).getD (.hard 0))) = x
    have hv : x.2.stored = s.vault.stored := by
      rw [← hx]
      split
      · exact decode_stored
      · exact readUnit_stored
    have ht : Tidy p b { s with vault := x.2 } := setVault_tidy h hv.trans
    generalize (if (decide (op.part = 2) && decide ((cws.head?).getD (.hard 0) = .uncorr)) = true then none else x.1) = bs
    split
    · exact ht
    · next bs =>
      have hwrite : Tidy p b (writeRange { s with vault := x.2 } none (a + 4096 * k) bs).2 := writeRange_tidy ht
      revert hwrite
      rcases writeRange { s with vault := x.2 } none (a + 4096 * k) bs with ⟨st, w⟩
      intro hw
      dsimp only
      split
      · exact hw
      · exact ih hw

theorem writeUnits_tidy {op a cws n k} : Tidy p b (writeUnits s op a cws n k).2.2 := by
  induction n generalizing s cws k with
  | zero => exact h
  | succ n ih =>
    have hread : Tidy p b (readRange s none (a + 4096 * k) 4096).2.2 := readRange_tidy h
    unfold writeUnits
    revert hread
    rcases readRange s none (a + 4096 * k) 4096 with ⟨st, bs, t⟩
    intro ht
    dsimp only
    split
    · exact ht
    · split
      · dsimp only
        exact onVault_tidy ht fun _ hv => by exact hv
      · next w hw => exact ih (writeUnit_tidy ht _ hw)

omit h in
theorem vaultEnd_tidy {j start r} (h : Tidy p b r.2.2) : Tidy p b (vaultEnd j start r) := finishJob_tidy h

theorem anchorWrite_tidy {j op a} : Tidy p b (anchorWrite s j op a) := by
  have hread : Tidy p b (readRange s none a (4096 * op.units)).2.2 := readRange_tidy h
  unfold anchorWrite
  revert hread
  rcases readRange s none a (4096 * op.units) with ⟨st, bs, t⟩
  intro ht
  dsimp only
  refine ite_tidy (fwDone_tidy ht) (ite_tidy (fwDone_tidy ht) (finishJob_tidy (onVault_tidy ht fun v hv => ?_)))
  rw [Vault.stored, Bool.and_eq_true] at hv ⊢
  exact ⟨hv.1, replicate_stored (writeBytes_wf _ _ rfl)⟩

theorem vaultRun_tidy {j wr va loc cws} : Tidy p b (vaultRun s j wr va loc cws) := by
  unfold vaultRun
  split
  · exact ite_tidy (fwDone_tidy h) (fwDone_tidy h)
  · refine ite_tidy (fwDone_tidy h) (ite_tidy (fwDone_tidy h) ?_)
    split
    · exact fwDone_tidy h
    · exact ite_tidy (ite_tidy (anchorWrite_tidy h) (vaultEnd_tidy (writeUnits_tidy h))) (vaultEnd_tidy (readUnits_tidy h))

theorem vaultRead_tidy {cws} : Tidy p b (vaultRead s cws) := fwJob_tidy h fun _ _ h => vaultRun_tidy h
theorem vaultWrite_tidy {cws} : Tidy p b (vaultWrite s cws) := fwJob_tidy h fun _ _ h => vaultRun_tidy h
theorem wearMove_tidy {boot} : Tidy p b (wearMove s boot) := by grind [wearMove, onVault_tidy, stats_stored, moveBlock_stored, Vault.stored]
theorem readDisturb_tidy {i} : Tidy p b (readDisturb s i) := by grind [readDisturb, onVault_tidy, relocate_stored, Vault.stored]
theorem retention_tidy {i c} : Tidy p b (retention s i c) := by
  grind [retention, onVault_tidy, onBlock_stored, decode_stored, relocate_stored, Vault.stored]
theorem streamsEnd_tidy : Tidy p b (streamsEnd s) := by grind [streamsEnd, onVault_tidy, onService_tidy, Vault.stored]
theorem sectionOver_tidy : Tidy p b (sectionOver s) := by grind [sectionOver, onVault_tidy, streamsEnd_tidy, Vault.stored]

theorem chunkVerify_tidy {sec chunk cws} : Tidy p b (chunkVerify s sec chunk cws) := by
  have hput (t : State) (a : Nat) (bs : List Byte) (ht : Tidy p b t) : Tidy p b (writeRange t none a bs).2 := writeRange_tidy ht
  have hdecoded : Tidy p b (onVault s fun v => decodeAll v cws) := onVault_tidy h fun v hv => decodeAll_stored.trans hv
  have hgood (x : Section) (t : State) (ht : Tidy p b t) : Tidy p b (if chunk + 1 < x.chunks then
        onVault t fun v => { v with streams := match v.streams with | y :: r => { y with chunk := chunk + 1 } :: r | [] => [] }
      else raiseBell (sectionOver (if x.type = 2 then onVault t fun v => { v with sluReady := v.sluReady ++ [sec] } else t)) x.bell) :=
    ite_tidy (onVault_tidy ht fun _ hv => by exact hv)
      (raiseBell_tidy (sectionOver_tidy (ite_tidy (onVault_tidy ht fun _ hv => by exact hv) ht)))
  unfold chunkVerify
  split
  · exact h
  · split
    · exact h
    · refine ite_tidy h (ite_tidy (hgood _ _ (hput _ _ _ hdecoded)) ?_)
      split
      · exact hgood _ _ (hput _ _ _ (hput _ _ _ hdecoded))
      · exact raiseBell_tidy (sectionOver_tidy (onVault_tidy (hput _ _ _ hdecoded) fun _ hv => by exact hv))

/-! #### Weirs -/

theorem assemble_tidy {w} : Tidy p b (assemble s w) := by grind [assemble, onWeir_tidy, onGauge_tidy]
theorem takeRecord_tidy {w r} : Tidy p b (takeRecord s w r) := by grind [takeRecord, onGauge_tidy, assemble_tidy, onWeir_tidy]
theorem weirFail_tidy {j f} : Tidy p b (weirFail s j f) := by grind [weirFail, logError_tidy, finishJob_tidy]
theorem weirTake_tidy {w o f} (hf : ∀ t j, Tidy p b t → Tidy p b (f t j)) : Tidy p b (weirTake s w o f) := by
  grind [weirTake, onWeir_tidy, finishJob_tidy]

theorem bindStart_tidy {w} : Tidy p b (bindStart s w) := by
  unfold bindStart
  dsimp only
  refine ite_tidy h ?_
  split
  · exact h
  · split
    · exact weirTake_tidy h fun _ _ h => weirFail_tidy h
    · exact ite_tidy h (weirTake_tidy h fun _ _ h => onWeir_tidy (free_tidy h))

theorem bindDone_tidy {w} : Tidy p b (bindDone s w) := by grind [bindDone, onWeir_tidy, assemble_tidy, finishJob_tidy]

theorem solveRun_tidy {w j p'} : Tidy p b (solveRun s w j p') := by
  unfold solveRun
  exact assemble_tidy (onWeir_tidy (free_tidy h))

theorem solveStart_tidy {w delta} : Tidy p b (solveStart s w delta) := by grind [solveStart, weirTake_tidy, weirFail_tidy, solveRun_tidy]
theorem writeSolution_tidy {r st solves} : Tidy p b (writeSolution s r st solves).2 := by
  grind [writeSolution, writeRange_tidy, writeRowPart_tidy]
theorem solveDone_tidy {w} : Tidy p b (solveDone s w) := by grind [solveDone, draw_tidy, finishJob_tidy, onWeir_tidy, writeSolution_tidy]
theorem weirCfg_tidy {w v} : Tidy p b (weirCfg s w v) := onWeir_tidy h

/-! #### What a service step does to a unit -/

theorem forceNi_tidy {admits epoch n} : Tidy p b (forceNi admits epoch s n) := by grind [forceNi, onNi_tidy, onNet_tidy, flushNi_tidy]
theorem forceView_tidy {u} : Tidy p b (forceView s u) := foldl_tidy h fun _ _ h => forceNi_tidy h
theorem mgmtWrite_tidy {master u v} : Tidy p b (mgmtWrite s master u v) := by grind [mgmtWrite, onUnit_tidy, forceView_tidy]
theorem auditUnit_tidy {u} : Tidy p b (auditUnit s u) := by grind [auditUnit, onService_tidy, forceView_tidy, raiseBell_tidy]
theorem stateAudit_tidy : Tidy p b (stateAudit s) := by grind [stateAudit, foldl_tidy, auditUnit_tidy]
theorem stopWeir_tidy {w} : Tidy p b (stopWeir s w).2 := foldl_tidy (onWeir_tidy h) fun _ _ h => finishJob_tidy h

theorem stopUnit_tidy {u} : Tidy p b (stopUnit s u).2 := by
  unfold stopUnit
  split
  · exact foldl_tidy h fun _ _ h => stopHeld_tidy h
  · split
    · exact stopWeir_tidy h
    · exact h

theorem unitReset_tidy {u} : Tidy p b (unitReset s u) := by
  grind [unitReset, resetMill_tidy, onWeir_tidy, onPort_tidy, portDown_tidy, onVault_tidy, onSpigot_tidy, Vault.stored]
theorem restoreUnit_tidy {u shadow qmap} : Tidy p b (restoreUnit s u shadow qmap) := by
  unfold restoreUnit
  split <;> grind [onMill_tidy, qmapWrite_tidy, onWeir_tidy, portCtl_tidy, onSpigot_tidy, onVault_tidy, mount_stored, Mill.stored, Vault.stored]
theorem drainDone_tidy {u} : Tidy p b (drainDone s u) := by grind [drainDone, stepEnd_tidy]
theorem drainExpired_tidy {u} : Tidy p b (drainExpired s u) := by grind [drainExpired, stopUnit_tidy, stepEnd_tidy, onSeq_tidy]
theorem isolateStep_tidy {u} : Tidy p b (isolateStep s u) := by grind [isolateStep, stepEnd_tidy, forceView_tidy]
theorem clearLbist_tidy {u} : Tidy p b (clearLbist s u) := onAssay_tidy h
theorem resetStep_tidy {u} : Tidy p b (resetStep s u) := by
  unfold resetStep
  split <;> grind [onClapper_tidy, onSeq_tidy, stepEnd_tidy, clearLbist_tidy, unitReset_tidy, stop_library]
theorem reinitStep_tidy {u} : Tidy p b (reinitStep s u) := by grind [reinitStep, onSeq_tidy, restoreUnit_tidy, stepEnd_tidy, onUnit_tidy]
theorem rejoinStep_tidy {u} : Tidy p b (rejoinStep s u) := by grind [rejoinStep, onUnit_tidy, stepEnd_tidy, forceView_tidy]
theorem svcDone_tidy {j st sub tiles} : Tidy p b (svcDone s j st sub tiles) := fwDone_tidy h

theorem powerDown_tidy {u} : Tidy p b (powerDown s u) := by
  unfold powerDown
  exact forceView_tidy (ite_tidy (onClapper_tidy (onUnit_tidy (unitReset_tidy h)) fun _ _ => rfl) (onUnit_tidy (unitReset_tidy h)))

theorem powerUp_tidy {u} : Tidy p b (powerUp s u) := by grind [powerUp, forceView_tidy, onUnit_tidy, clearLbist_tidy, unitReset_tidy]
theorem handover_tidy : Tidy p b (handover s) := by grind [handover, draw_tidy, onService_tidy, onUnit_tidy]
theorem svcDocket_tidy {j reset} : ∀ t, svcDocket s j reset = some t → Tidy p b t := by
  grind [svcDocket, refuse_tidy, svcDone_tidy, fwDone_tidy, handover_tidy, forceView_tidy, onUnit_tidy, powerDown_tidy, powerUp_tidy, seqStart_tidy]

theorem svcRun_tidy {o reset} : Tidy p b (svcRun s o reset) := by
  unfold svcRun
  split
  · exact h
  · next j rest hj =>
    cases hd : svcDocket (onControl s fun k => { k with fwQueue := rest }) j reset with
    | none => exact h
    | some t => exact svcDocket_tidy (onControl_tidy h) t hd

omit h in
theorem stageImage_tidy {j r} (h : Tidy p b r.2.2) : Tidy p b (stageImage j r) :=
  ite_tidy (fwDone_tidy h) (ite_tidy (fwDone_tidy h) (fwDone_tidy (onService_tidy h)))

theorem fwStage_tidy : Tidy p b (fwStage s) := by
  refine fwJob_tidy h fun t j ht => ite_tidy (fwDone_tidy ht) ?_
  split
  · exact fwDone_tidy ht
  · exact stageImage_tidy (readRange_tidy ht)

theorem standbyIsReady_tidy : Tidy p b (standbyIsReady s) := by grind [standbyIsReady, onUnit_tidy, onService_tidy]
theorem failRunning_tidy : Tidy p b (failRunning s) := by
  unfold failRunning
  split <;> grind [fwDone_tidy, onControl_tidy, clapLoad_tidy, onClapper_tidy, onAssay_tidy]

theorem millerFail_tidy : Tidy p b (millerFail s) := by
  unfold millerFail
  dsimp only
  refine ite_tidy h (ite_tidy (raiseBell_tidy (failRunning_tidy (onUnit_tidy (onUnit_tidy (onService_tidy (draw_tidy h (w := 32))))))) ?_)
  exact foldl_tidy (onAssay_tidy (onService_tidy (onControl_tidy (onUnit_tidy (onService_tidy h))))) fun _ _ h => fwDone_tidy h

/-! #### The Assay and the lifecycle -/

theorem assayRun_tidy : Tidy p b (assayRun s) := by grind [assayRun, refuse_tidy, fwDone_tidy, onControl_tidy, onUnit_tidy, onAssay_tidy]

theorem burnEntry_tidy {data n} : Tidy p b (burnEntry s data n).2 := by
  induction n generalizing s with
  | zero => exact h
  | succ n ih =>
    unfold burnEntry
    split
    · exact h
    · dsimp only
      split
      · dsimp only
        exact onAssay_tidy (draw_tidy h (w := 1))
      · exact ih (onAssay_tidy (draw_tidy h (w := 1)))

theorem burnAll_tidy {l} : Tidy p b (burnAll s l).2.2 := by
  induction l generalizing s with
  | nil => exact h
  | cons d l ih =>
    have hd : Tidy p b (burnEntry s d 1024).2 := burnEntry_tidy h
    unfold burnAll
    revert hd
    rcases burnEntry s d 1024 with ⟨ok, t⟩
    intro ht
    dsimp only
    split
    · exact ht
    · exact ih ht

theorem fieldOver_tidy {t' failed quern} : Tidy p b (fieldOver s t' failed quern) := by
  unfold fieldOver
  split <;> grind [onUnit_tidy, onService_tidy, stepEnd_tidy, onSeq_tidy, raiseBell_tidy]
theorem finishTest_tidy {t' e quern} : Tidy p b (finishTest s t' e quern) := by grind [finishTest, endTest_tidy, fieldOver_tidy]
theorem lbistDone_tidy {sig want} : Tidy p b (lbistDone s sig want) := by grind [lbistDone, onAssay_tidy, finishTest_tidy, draw_tidy]
theorem zeroQuad_tidy {q} : Tidy p b (zeroQuad s q) := onGran_tidy (zeroMem_tidy h)

theorem zeroUnit_tidy {u} : Tidy p b (zeroUnit s u) := by
  unfold zeroUnit
  split
  · exact onRegs_tidy (clearMill_tidy h)
  · exact ite_tidy (zeroQuad_tidy h) (ite_tidy (onWeir_tidy h) (ite_tidy (onClapper_tidy h fun _ _ => rfl) h))

theorem mbistDone_tidy {o} : Tidy p b (mbistDone s o) := by grind [mbistDone, zeroUnit_tidy, burnAll_tidy, finishTest_tidy]
theorem prbsDone_tidy {errors bits} : Tidy p b (prbsDone s errors bits) := by grind [prbsDone, finishTest_tidy, draw_tidy]

theorem nextSlice_tidy {n} : Tidy p b (nextSlice s n).2 := by
  induction n generalizing s with
  | zero => exact h
  | succ n ih =>
    unfold nextSlice
    dsimp only
    split
    · exact ih (onAssay_tidy h)
    · split
      · exact ih (onAssay_tidy (onAssay_tidy h))
      · dsimp only
        exact onAssay_tidy h

theorem fieldSlice_tidy : Tidy p b (fieldSlice s) := by grind [fieldSlice, nextSlice_tidy, onAssay_tidy, seqStart_tidy]
theorem urgentWrite_tidy {v} : Tidy p b (urgentWrite s v) := by grind [urgentWrite, onControl_tidy, foldl_tidy, abortTest_tidy, onSeq_tidy]
theorem lcCtl_tidy {v random} : Tidy p b (lcCtl s v random) := onAssay_tidy h
theorem lcWrite_tidy {v} : Tidy p b (lcWrite s v) := by grind [lcWrite, draw_tidy, lcCtl_tidy]
theorem tokenDone_tidy : Tidy p b (tokenDone s) := onAssay_tidy h
theorem tapSelect_tidy {i f} : Tidy p b (tapSelect i s f) := onAssay_tidy h

/-! #### Boot -/

theorem fullReset_tidy {cause} : Tidy p b (fullReset s cause) := by
  refine ⟨h.queue, fun hb => ?_⟩
  obtain ⟨_, _, hvault, _⟩ := storesOk_iff.mp (h.stores hb)
  refine storesOk_iff.mpr ⟨rfl, fun m => ?_, hvault, rfl, rfl, rfl⟩
  rw [fullReset_mill]
  rfl

theorem holdReset_tidy : Tidy p b (holdReset s) := onService_tidy h
theorem porAssert_tidy : Tidy p b (porAssert s) := onService_tidy (holdReset_tidy (fullReset_tidy h))
theorem porRelease_tidy : Tidy p b (porRelease s) := by grind [porRelease, onService_tidy]
theorem bootStep_tidy {k} : Tidy p b (bootStep s k) := onService_tidy h
theorem spindleLock_tidy : Tidy p b (spindleLock s) := by grind [spindleLock, onService_tidy, bootStep_tidy]
theorem softReset_tidy {v} : Tidy p b (softReset s v) := by grind [softReset, fullReset_tidy]
theorem lockLost_tidy : Tidy p b (lockLost s) := by grind [lockLost, holdReset_tidy, fullReset_tidy]
theorem reportTemp_tidy {tj} : Tidy p b (reportTemp s tj) := by grind [reportTemp, onService_tidy, raiseBell_tidy]
theorem thermalTrip_tidy {tj} : Tidy p b (thermalTrip s tj) := by
  grind [thermalTrip, onService_tidy, holdReset_tidy, fullReset_tidy, settleErr_tidy, reportTemp_tidy]

theorem perstFall_tidy : Tidy p b (perstFall s) := by
  unfold perstFall
  exact onNet_tidy (onService_tidy h) fun _ _ => rfl

theorem fuseLoad_tidy : Tidy p b (fuseLoad s) := by
  have hloaded : Tidy p b (fusesLoaded s) := by
    refine ⟨h.queue, fun hb => ?_⟩
    obtain ⟨hmem, hmills, hrest⟩ := storesOk_iff.mp (h.stores hb)
    refine storesOk_iff.mpr ⟨hmem, fun m => ?_, hrest⟩
    rw [fusesLoaded_mill]
    exact hmills m
  exact ite_tidy h (bootStep_tidy hloaded)

theorem bankDead_tidy {b'} : Tidy p b (bankDead s b') := by grind [bankDead, onGran_tidy]

omit h in
theorem quernDead_tidy {acc x} (h : Tidy p b acc.1) : Tidy p b (quernDead acc x).1 := by
  unfold quernDead
  dsimp only
  split
  · exact h
  · dsimp only
    exact onRegs_tidy h

theorem resetTest_tidy {o} : Tidy p b (resetTest s o) := by
  have hquerns (l : List (MillId × QuernId)) (acc : State × List MillId × List UnitId) (ha : Tidy p b acc.1) : Tidy p b (l.foldl quernDead acc).1 := by
    induction l generalizing acc with
    | nil => exact ha
    | cons x l ih => exact ih _ (quernDead_tidy ha)
  have hdead := hquerns o.querns (o.banks.foldl bankDead s, [], []) (foldl_tidy h fun _ _ h => bankDead_tidy h)
  unfold resetTest
  refine ite_tidy h ?_
  have hunits {g : Nat → UnitRec → UnitRec} := foldl_tidy (f := fun s u => onUnit s u (g u)) (l := List.range 43) hdead fun _ _ h => onUnit_tidy h
  exact ite_tidy (onAssay_tidy hunits) (bootStep_tidy (onAssay_tidy hunits))

theorem bootClear_tidy : Tidy p b (bootClear s) := by grind [bootClear, bootStep_tidy, zeroMem_tidy]
theorem nandInit_tidy {g} : Tidy p b (nandInit s g) := by grind [nandInit, bootStep_tidy, onVault_tidy, Vault.stored]
theorem bootImage_tidy {bs} : Tidy p b (bootImage s bs) := bootStep_tidy (onAssay_tidy (onService_tidy h))
theorem firmwareVerify_tidy {readable} : Tidy p b (firmwareVerify s readable) := by grind [firmwareVerify, bootImage_tidy, onAssay_tidy]
theorem bootDoorbell_tidy {v} : Tidy p b (bootDoorbell s v) := by grind [bootDoorbell, readRange_tidy, bootImage_tidy]
theorem firmwareInit_tidy : Tidy p b (firmwareInit s) := by
  grind [firmwareInit, onAssay_tidy, onService_tidy, foldl_tidy, draw_tidy, onUnit_tidy, bootStep_tidy, forceView_tidy]
theorem vaultMount_tidy : Tidy p b (vaultMount s) := by grind [vaultMount, bootStep_tidy, onVault_tidy, mount_stored, Vault.stored]
theorem gristSelect_tidy : Tidy p b (gristSelect s) := by grind [gristSelect, bootStep_tidy, onVault_tidy, Vault.stored]
theorem sluiceCheck_tidy : Tidy p b (sluiceCheck s) := by grind [sluiceCheck, bootStep_tidy, onService_tidy]
theorem bootStream_tidy : Tidy p b (bootStream s) := by grind [bootStream, onVault_tidy, streamsEnd_tidy, Vault.stored]
theorem issueSluice_tidy {m op g descs} : Tidy p b (issueSluice s m op g descs) := by
  grind [issueSluice, onControl_tidy, onMill_tidy, onService_tidy, Mill.stored]
theorem programMill_tidy {x m} : Tidy p b (programMill x s m) := by grind [programMill, issueSluice_tidy]
theorem concludeSluice_tidy {m} : Tidy p b (concludeSluice s m) := by
  grind [concludeSluice, onService_tidy, onVault_tidy, onUnit_tidy, raiseBell_tidy, forceView_tidy, Vault.stored]
theorem bootSluice_tidy : Tidy p b (bootSluice s) := by grind [bootSluice, foldl_tidy, programMill_tidy, concludeSluice_tidy]
theorem bootRefresh_tidy {m} : Tidy p b (bootRefresh s m) := by grind [bootRefresh, issueSluice_tidy, concludeSluice_tidy]

/-! #### The Spigot -/

theorem joinSpigot_tidy {c id} : Tidy p b (joinSpigot s c id) := onChute_tidy h

theorem spigotSchedule_tidy {m} : Tidy p b (spigotSchedule s m) := by
  unfold spigotSchedule
  split
  · exact h
  · dsimp only
    split
    · exact endAborted_tidy h
    · refine ite_tidy (endRun_tidy h) ?_
      split
      · split
        · exact endRun_tidy (logError_tidy h)
        · exact endRun_tidy h
      · exact ite_tidy h (endRun_tidy (joinSpigot_tidy (onSpigot_tidy (free_tidy h))))

theorem schedDone_tidy {j st} : Tidy p b (schedDone s j st) := unitDone_tidy (onSpigot_tidy h)

theorem edgeAccept_tidy : Tidy p b (edgeAccept s) := by
  unfold edgeAccept
  split
  · exact h
  · split
    · exact ite_tidy (schedDone_tidy h) h
    · split
      · exact ite_tidy (schedDone_tidy h) h
      · dsimp only
        refine ite_tidy h (ite_tidy (schedDone_tidy (ite_tidy (raiseBell_tidy (onSpigot_tidy h)) (onSpigot_tidy h))) (ite_tidy (raiseBell_tidy (onSpigot_tidy h)) (onSpigot_tidy h)))

theorem edgeDue_tidy {ch} : Tidy p b (edgeDue s ch) := by grind [edgeDue, onSpigot_tidy]
theorem hitEnd_tidy {ch} : Tidy p b (hitEnd s ch) := onSpigot_tidy h
theorem periodStart_tidy {ch} : Tidy p b (periodStart s ch) := onSpigot_tidy h
theorem holdLimit_tidy {ch} : Tidy p b (holdLimit s ch) := by grind [holdLimit, onSpigot_tidy]
theorem spigotCtl_tidy {v} : Tidy p b (spigotCtl s v) := onSpigot_tidy h
theorem heartbeat_tidy {k} : Tidy p b (heartbeat s k) := by grind [heartbeat, onSpigot_tidy]

/-! #### Field networks -/

theorem ethBack_tidy {a len vlan t'} : Tidy p b (ethBack s a len vlan t') := by grind [ethBack, draw_tidy, writeRange_tidy]
theorem dropBoom_tidy {k edges} : Tidy p b (dropBoom s k edges) := by grind [dropBoom, onSpigot_tidy, raiseBell_tidy]
theorem sendFrame_tidy {m y2} : Tidy p b (sendFrame s m y2) := by
  unfold sendFrame
  split <;> grind [onSpigot_tidy, readRange_tidy, onMac_tidy]

theorem sendClass_tidy {m tc n t} : Tidy p b (sendClass s m tc n t).2 := by
  induction n generalizing s t with
  | zero => exact h
  | succ n ih =>
    unfold sendClass
    dsimp only
    split
    · exact h
    · next f rest _ =>
      have hpop : Tidy p b (onMac s m fun x => { x with queues := vmod x.queues tc fun _ => rest }) := onMac_tidy h
      have hsend (t' : Nat) : Tidy p b (sendClass (sendFrame (onMac s m fun x => { x with queues := vmod x.queues tc fun _ => rest }) m f) m tc n t').2 :=
        ih (sendFrame_tidy hpop)
      have hhold (g : Mac → Mac) : Tidy p b (onMac s m g) := onMac_tidy h
      cases f with
      | boom k es late => grind [dropBoom_tidy]
      | ring r i late => grind

theorem sendAll_tidy {m} : Tidy p b (sendAll s m) := by
  unfold sendAll
  dsimp only
  generalize [(7 : Fin 8), 6, 5, 4, 3, 2, 1, 0] = l
  suffices hall : ∀ acc : Nat × State, Tidy p b acc.2 →
      Tidy p b (l.foldl (fun (q : Nat × State) tc => sendClass q.2 m tc (2 * ((s.spigot.macs[m.val]).queues[tc.val]).length + 8) q.1) acc).2 from hall _ h
  intro acc hacc
  induction l generalizing acc with
  | nil => exact hacc
  | cons i l ih => exact ih _ (sendClass_tidy hacc)

theorem gateStart_tidy {m} : Tidy p b (gateStart s m) := by grind [gateStart, sendAll_tidy, onMac_tidy]
theorem gateChange_tidy {m v} : Tidy p b (gateChange s m v) := onMac_tidy h
theorem adminSwitch_tidy {m} : Tidy p b (adminSwitch s m) := onMac_tidy h
theorem txDoorbell_tidy {m r tail} : Tidy p b (txDoorbell s m r tail) := onMac_tidy h
theorem txDone_tidy {m r} : Tidy p b (txDone s m r) := by grind [txDone, onMac_tidy, ethBack_tidy]
theorem rxFrame_tidy {m f} : Tidy p b (rxFrame s m f) := by grind [rxFrame, writeRange_tidy, ethBack_tidy, onMac_tidy]
theorem canRx_tidy {n c} : Tidy p b (canRx s n c) := by grind [canRx, onCan_tidy, writeRange_tidy]
theorem canDoorbell_tidy {n r tail} : Tidy p b (canDoorbell s n r tail) := onCan_tidy h
theorem canTxDone_tidy {n} : Tidy p b (canTxDone s n) := by grind [canTxDone, writeRange_tidy, readRange_tidy, onCan_tidy]
theorem canOff_tidy {n} : Tidy p b (canOff s n) := onCan_tidy h
theorem canCtl_tidy {n v} : Tidy p b (canCtl s n v) := onCan_tidy h
theorem canRecovered_tidy {n} : Tidy p b (canRecovered s n) := onCan_tidy h

end

end Sys2Proof.Machine
end

section
open Sys2Proof.Laws
namespace Sys2Proof.Machine

section
variable {p : List Instr} {b : Prop} {s : State} (h : Tidy p b s)
include h

/-! #### The Gauge and time -/

theorem sendRecord_tidy {route no r} : Tidy p b (sendRecord s route no r) := onGauge_tidy h
theorem takeNo_tidy : Tidy p b (takeNo s).2 := by grind [takeNo, onGauge_tidy]
theorem encoderVals_tidy {e} : Tidy p b (encoderVals s e).2 := by grind [encoderVals, draw_tidy, onGauge_tidy]
theorem sourceVals_tidy {src} : Tidy p b (sourceVals s src).2.2 := by grind [sourceVals, encoderVals_tidy]
theorem startBurst_tidy {src no} : Tidy p b (startBurst s src no) := by grind [startBurst, onGauge_tidy]
theorem formRecord_tidy {src no} : Tidy p b (formRecord s src no) := by
  grind [formRecord, startBurst_tidy, sourceVals_tidy, sendRecord_tidy]
theorem trigger_tidy {src} : Tidy p b (trigger s src).2 := by grind [trigger, onGauge_tidy, takeNo_tidy, formRecord_tidy]
theorem servePending_tidy : Tidy p b (servePending s) := by
  grind [servePending, formRecord_tidy, onGauge_tidy, takeNo_tidy, sendRecord_tidy]
theorem injectRecord_tidy {w7} : Tidy p b (injectRecord s w7) := by grind [injectRecord, onGauge_tidy, takeNo_tidy, sendRecord_tidy]

theorem writeBand_tidy {a bs n} : Tidy p b (writeBand s a bs n).2 := by
  induction n generalizing s a bs with
  | zero => exact h
  | succ n ih => exact ih (writeRowPart_tidy h)

theorem openBand_tidy {c j} : Tidy p b (openBand s c j) := onCam_tidy h
theorem writeLine_tidy {c pixels} : Tidy p b (writeLine s c pixels) := by grind [writeLine, writeBand_tidy, onBand_tidy, onCam_tidy]
theorem bandVals_tidy {b'} : Tidy p b (bandVals s b').2 := by grind [bandVals, draw_tidy]

theorem triggerAll_tidy {l} : Tidy p b (triggerAll s l).2 := by
  induction l generalizing s with
  | nil => exact h
  | cons x l ih => exact ih (trigger_tidy h)

theorem endBand_tidy {c} : Tidy p b (endBand s c) := by
  unfold endBand
  dsimp only
  repeat' split
  all_goals grind [onCam_tidy, raiseBell_tidy, triggerAll_tidy, writeBand_tidy, bandVals_tidy]
theorem nextLine_tidy {c} : Tidy p b (nextLine s c) := by grind [nextLine, endBand_tidy, onBand_tidy]

theorem fillBand_tidy {c n} : Tidy p b (fillBand s c n) := by
  induction n generalizing s with
  | zero => exact h
  | succ n ih => exact ite_tidy (ih (nextLine_tidy (writeLine_tidy h))) h

theorem closeFrame_tidy {c flags} : Tidy p b (closeFrame s c flags) := fillBand_tidy (onBand_tidy h)
theorem takeLine_tidy {c pixels crc} : Tidy p b (takeLine s c pixels crc) := by
  grind [takeLine, onCam_tidy, openBand_tidy, onBand_tidy, nextLine_tidy, writeLine_tidy]
theorem longPacket_tidy {c k} : Tidy p b (longPacket s c k) := by grind [longPacket, onCam_tidy, takeLine_tidy]
theorem bandBell_tidy {c} : Tidy p b (bandBell s c) := by grind [bandBell, raiseBell_tidy, onCam_tidy]
theorem frameBegin_tidy {c vc no} : Tidy p b (frameBegin s c vc no) := by grind [frameBegin, onCam_tidy, closeFrame_tidy]
theorem frameFinish_tidy {c vc} : Tidy p b (frameFinish s c vc) := by grind [frameFinish, onCam_tidy, closeFrame_tidy]
theorem gaugeArmOp_tidy : Tidy p b (gaugeArmOp s) := by
  unfold gaugeArmOp
  split <;> grind [onGauge_tidy, finishJob_tidy, weirFail_tidy, onCam_tidy]
theorem slewSet_tidy {v} : Tidy p b (slewSet s v) := onGauge_tidy h
theorem timeLoadHi_tidy {hi} : Tidy p b (timeLoadHi s hi) := onGauge_tidy h
theorem timeLo_tidy : Tidy p b (timeLo s).2 := by grind [timeLo, onGauge_tidy]
theorem ppsRise_tidy {p'} : Tidy p b (ppsRise s p') := by grind [ppsRise, onGauge_tidy, draw_tidy, trigger_tidy]
theorem holdoverStart_tidy : Tidy p b (holdoverStart s) := by grind [holdoverStart, raiseBell_tidy, onGauge_tidy]
theorem encoderStep_tidy {e k} : Tidy p b (encoderStep s e k) := onGauge_tidy h
theorem imuTrigger_tidy {i timer} : Tidy p b (imuTrigger s i timer) := by grind [imuTrigger, trigger_tidy]
theorem imuField_tidy {x burst k} : Tidy p b (imuField s x burst k).2 := by grind [imuField, draw_tidy]

theorem imuRecord_tidy {i k burst} : Tidy p b (imuRecord s i k burst) := by
  unfold imuRecord
  dsimp only
  split
  · exact h
  · exact sendRecord_tidy (onGauge_tidy (imuField_tidy (imuField_tidy (imuField_tidy (imuField_tidy h)))))

theorem burstsDone_tidy {i b'} : Tidy p b (burstsDone s i b') := by grind [burstsDone, imuRecord_tidy]
theorem sluTick_tidy : Tidy p b (sluTick s) := by grind [sluTick, onGauge_tidy, onSpigot_tidy]

/-! #### The ledger -/

theorem fromNode_tidy {n kind lm line f} (hf : ∀ t, Tidy p b t → Tidy p b (f t)) : Tidy p b (fromNode s n kind lm line f) := by
  grind [fromNode, onLedger_tidy, take_store]

theorem watchWord_tidy {idx} : Tidy p b (watchWord s idx) := by
  unfold watchWord
  exact foldl_tidy h fun _ _ h => ite_tidy (raiseBell_tidy h) h

theorem tailWord_tidy {idx v} : Tidy p b (tailWord s idx v) := by grind [tailWord, foldl_tidy, dbTailWrite_tidy]

theorem setWord_tidy {line w v} : Tidy p b (setWord s line w v) := by
  unfold setWord
  exact ite_tidy h (watchWord_tidy (onLedger_tidy h fun _ hl => sSet_wf _ _ hl))

theorem setLine_tidy {line data} : Tidy p b (setLine s line data) := foldl_tidy h fun _ _ h => setWord_tidy h
theorem homeExec_tidy {line op w operand compare} : Tidy p b (homeExec s line op w operand compare).2.2 := by
  grind [homeExec, setLine_tidy, onLedger_tidy, foldl_tidy, tailWord_tidy, setEntry_store]

theorem finishTxn_tidy {t} : Tidy p b (finishTxn s t) := by
  have htaken : Tidy p b (onLedger s fun l => { l with txns := l.txns.filter (·.line ≠ t.line) }) := onLedger_tidy h fun _ hl => by exact hl
  unfold finishTxn
  refine ite_tidy (onLedger_tidy htaken fun l hl => ?_) ?_
  · dsimp only
    split
    · split
      · exact hl
      · exact hl
    · exact hl
    · exact hl
  · split
    · exact ite_tidy (onLedger_tidy htaken fun _ hl => by exact hl) (onLedger_tidy htaken fun _ hl => by exact hl)
    · exact ite_tidy (onLedger_tidy htaken fun _ hl => by exact hl) (onLedger_tidy htaken fun _ hl => by exact hl)
    · exact onLedger_tidy (homeExec_tidy (onLedger_tidy htaken fun _ hl => by exact hl)) fun _ hl => by exact hl

theorem startTxn_tidy {line n req} : Tidy p b (startTxn s line n req) := by
  have hsends (l : Ledger) (xs : List NodeId) (f : NodeId → LedgerMsg) : (xs.foldl (fun l o => l.send (f o)) l).store = l.store :=
    foldl_keeps (p := Ledger.store) (fun _ _ => send_store) xs l
  unfold startTxn
  dsimp only
  refine ite_tidy (finishTxn_tidy (onLedger_tidy h fun l hl => ?_)) (onLedger_tidy h fun l hl => ?_)
  · rwa [hsends]
  · rwa [hsends]

theorem homeRequest_tidy {line n req} : Tidy p b (homeRequest s line n req) := by grind [homeRequest, onLedger_tidy, startTxn_tidy]
theorem nextTxn_tidy {line} : Tidy p b (nextTxn s line) := by grind [nextTxn, startTxn_tidy, onLedger_tidy]
theorem snoopAnswer_tidy {n line crossed data} : Tidy p b (snoopAnswer s n line crossed data) := by
  unfold snoopAnswer
  split <;> grind [setLine_tidy, onLedger_tidy, finishTxn_tidy, ledgerCount_store, dropNode_store]
theorem evictIn_tidy {n line data} : Tidy p b (evictIn s n line data) := by
  unfold evictIn
  split <;> grind [onLedger_tidy, setLine_tidy, ledgerCount_store, send_store, dropNode_store]
theorem snoopIn_tidy {home line inv} : Tidy p b (snoopIn s home line inv) := by grind [snoopIn, onLedger_tidy, send_store]
theorem grantIn_tidy {home line st d} : Tidy p b (grantIn s home line st d) := by
  grind [grantIn, onLedger_tidy, perform_store, launch_store]
theorem evictAcked_tidy {home line} : Tidy p b (evictAcked s home line) := by grind [evictAcked, onLedger_tidy, launch_store]
theorem resultIn_tidy {home line old st} : Tidy p b (resultIn s home line old st) := by
  grind [resultIn, onLedger_tidy, slotDone_store, launch_store]

theorem slotGo_tidy {k v} : Tidy p b (slotGo s k v) := by
  have hop (op : BitVec 4) : Tidy p b (onLedger s fun l => { l with slots := vmod l.slots k fun x => { x with op := op } }) := onLedger_tidy h fun _ hl => by exact hl
  unfold slotGo
  refine ite_tidy h (ite_tidy (hop _) (ite_tidy (onLedger_tidy (hop _) fun _ hl => by exact hl) (ite_tidy (onLedger_tidy (hop _) fun _ hl => by exact hl)
    (ite_tidy (onLedger_tidy (hop _) fun _ hl => by exact hl) (onLedger_tidy (hop _) fun l hl => ?_)))))
  dsimp only
  split
  · rwa [launch_store]
  · split
    · split
      · exact hl
      · rwa [launch_store]
    · rwa [launch_store]

theorem slotTimeout_tidy {k} : Tidy p b (slotTimeout s k) := by
  grind [slotTimeout, onLedger_tidy, raiseBell_tidy, ledgerCount_store, slotDone_store]
theorem goneSet_tidy {v} : Tidy p b (goneSet s v) := by grind [goneSet, onLedger_tidy]

theorem goneNode_tidy {d} : Tidy p b (goneNode s d) := by
  unfold goneNode
  refine onLedger_tidy (foldl_tidy (onLedger_tidy h fun l hl => ?_) fun _ _ h => snoopAnswer_tidy h) fun l hl => by rwa [launch_store, goneCache_store]
  show sWf (goneDir l d).store = true
  rwa [goneDir_store]

theorem goneFinish_tidy : Tidy p b (goneFinish s) := by grind [goneFinish, onLedger_tidy, foldl_tidy, goneNode_tidy]

/-! #### The Sluice -/

theorem sluiceVector_tidy {m} : Tidy p b (sluiceVector s m) := by
  unfold sluiceVector
  dsimp only
  split
  · exact h
  · split
    · exact h
    · exact ite_tidy h (ite_tidy (endWith_tidy (noteRead_tidy h)) (onRun_tidy (countInputs_tidy (onSluice_tidy (free_tidy h)))))

theorem sluiceOut_tidy {m} : Tidy p b (sluiceOut s m) := by
  unfold sluiceOut
  dsimp only
  repeat' split
  all_goals grind [onRegs_tidy, onRun_tidy]
theorem endSluice_tidy {m r st sub j} : Tidy p b (endSluice s m r st sub j) := by grind [endSluice, endRun_tidy]
theorem progNext_tidy {m r j} : Tidy p b (progNext s m r j) := by grind [progNext, endSluice_tidy, onRun_tidy, onSluice_tidy]
theorem sluProg_tidy {m} : Tidy p b (sluProg s m) := by grind [sluProg, endSluice_tidy, noteRead_tidy, progNext_tidy]
theorem fieldDone_tidy {m o} : Tidy p b (fieldDone s m o) := by
  unfold fieldDone
  split <;> grind [sluProg_tidy, progNext_tidy, onSluice_tidy]
theorem sluVerify_tidy {m scans} : Tidy p b (sluVerify s m scans) := by grind [sluVerify, endSluice_tidy, onSluice_tidy, onRun_tidy]
theorem sluRefresh_tidy {m scan} : Tidy p b (sluRefresh s m scan) := by grind [sluRefresh, endSluice_tidy, onSluice_tidy, onRun_tidy]
theorem sensorPoll_tidy {m t'} : Tidy p b (sensorPoll s m t') := onSluice_tidy h
theorem compUpdate_tidy {m resid} : Tidy p b (compUpdate s m resid) := by grind [compUpdate, onSluice_tidy, raiseBell_tidy]
theorem vppLost_tidy {m} : Tidy p b (vppLost s m) := by grind [vppLost, onSluice_tidy, endSluice_tidy]

theorem setVpp_tidy {ok} : Tidy p b (setVpp s ok) := mapMills_tidy h fun _ hx => hx

/-! #### Registers -/

theorem ro_tidy {n} : Tidy p b (ro s n).2 := h

/-! #### Registers of the controller -/

theorem chuteRead_tidy {c r incs} : Tidy p b (chuteRead s c r incs).2 := by
  unfold chuteRead
  split <;> grind [onChute_tidy, ro, rc]
theorem slotRead_tidy {k r} : Tidy p b (slotRead s k r).2 := by
  unfold slotRead
  split <;> grind [ro]
theorem pairRead_tidy {p' r} : Tidy p b (pairRead s p' r).2 := by grind [pairRead, ro_tidy]
theorem ledgerRead_tidy {off incs} : Tidy p b (ledgerRead s off incs).2 := by
  unfold ledgerRead
  split <;> grind [onLedger_tidy, slotRead_tidy, pairRead_tidy, ro, rc]
theorem contextRead_tidy {t' r} : Tidy p b (contextRead s t' r).2 := by
  unfold contextRead
  split <;> grind [ro]
theorem controlRegRead_tidy {off incs} : Tidy p b (controlRegRead s off incs).2 := by
  unfold controlRegRead
  split <;> grind [onControl_tidy, contextRead_tidy, ro, rc]
theorem controlRead_tidy {off incs} : Tidy p b (controlRead s off incs).2 := by
  grind [controlRead, ledgerRead_tidy, chuteRead_tidy, controlRegRead_tidy]
theorem chuteWrite_tidy {c r v} : Tidy p b (chuteWrite s c r v) := by
  unfold chuteWrite
  split <;> grind [chCfgWrite_tidy, onChute_tidy, periodWrite_tidy, phaseHi_tidy, dbTailWrite_tidy, dbRcptWrite_tidy]
theorem slotWrite_tidy {k r v} : Tidy p b (slotWrite s k r v) := by
  unfold slotWrite
  split <;> grind [onLedger_tidy, slotGo_tidy]
theorem ledgerWrite_tidy {off v} : Tidy p b (ledgerWrite s off v) := by
  unfold ledgerWrite
  split <;> grind [onLedger_tidy, goneSet_tidy, slotWrite_tidy]
theorem contextWrite_tidy {t' r v} : Tidy p b (contextWrite s t' r v) := by
  unfold contextWrite
  split <;> grind [onControl_tidy]
theorem controlRegWrite_tidy {off v} : Tidy p b (controlRegWrite s off v) := by
  grind [controlRegWrite, urgentWrite_tidy, raiseBells_tidy, clearBells_tidy, contextWrite_tidy, onControl_tidy]
theorem controlWrite_tidy {off v} : Tidy p b (controlWrite s off v) := by
  grind [controlWrite, ledgerWrite_tidy, chuteWrite_tidy, controlRegWrite_tidy]

/-! #### Registers of a Mill -/

theorem quernRead_tidy {m p' r incs} : Tidy p b (quernRead s m p' r incs).2 := by
  unfold quernRead
  split <;> grind [onMill_tidy, Mill.stored, ro, rc]
theorem sluiceRead_tidy {m off incs} : Tidy p b (sluiceRead s m off incs).2 := by
  unfold sluiceRead
  split <;> grind [onMill_tidy, Mill.stored, ro, rc]
theorem histRead_tidy {m h' r} : Tidy p b (histRead s m h' r).2 := by
  unfold histRead
  split <;> grind [ro]
theorem bandRead_tidy {m b' r incs} : Tidy p b (bandRead s m b' r incs).2 := by
  unfold bandRead
  split <;> grind [onMill_tidy, Mill.stored, ro, rc]
theorem millRegRead_tidy {m off incs} : Tidy p b (millRegRead s m off incs).2 := by
  unfold millRegRead
  split <;> grind [onRegs_tidy, onMill_tidy, protoErr_tidy, Mill.stored, ro, rc]
theorem millRead_tidy {m off incs} : Tidy p b (millRead s m off incs).2 := by
  grind [millRead, sluiceRead_tidy, quernRead_tidy, histRead_tidy, bandRead_tidy, millRegRead_tidy]
theorem histWrite_tidy {m h' r v} : Tidy p b (histWrite s m h' r v) := by
  unfold histWrite
  split <;> grind [onMill_tidy, histCfg_tidy, Mill.stored]
theorem bandWrite_tidy {m b' r v} : Tidy p b (bandWrite s m b' r v) := by
  unfold bandWrite
  split <;> grind [onMill_tidy, Mill.stored]
theorem millRegWrite_tidy {m off v} : Tidy p b (millRegWrite s m off v) := by
  unfold millRegWrite
  split <;> grind [onMill_tidy, qmapWrite_tidy, onRegs_tidy, clearMill_tidy, Mill.stored]
theorem millWriteReg_tidy {m off v} : Tidy p b (millWriteReg s m off v) := by
  grind [millWriteReg, onMill_tidy, histWrite_tidy, bandWrite_tidy, millRegWrite_tidy, Mill.stored]

/-! #### Registers of the Spindle -/

theorem clockRead_tidy {off incs} : Tidy p b (clockRead s off incs).2 := by
  unfold clockRead
  split <;> grind [onService_tidy, ro, rc]
theorem clockWrite_tidy {off v} : Tidy p b (clockWrite s off v) := by
  unfold clockWrite
  split <;> grind [softReset_tidy, onService_tidy]
theorem granRead_tidy {off incs} : Tidy p b (granRead s off incs).2 := by
  unfold granRead
  split <;> grind [onGran_tidy, ro, rc]
theorem granWrite_tidy {off v} : Tidy p b (granWrite s off v) := by
  unfold granWrite
  split <;> grind [granMode_tidy, onGran_tidy, spareWrite_tidy, plotCfg_tidy]
theorem serviceRead_tidy {off incs} : Tidy p b (serviceRead s off incs).2 := by
  unfold serviceRead
  split <;> grind [onService_tidy, ro, rc]
theorem serviceWrite_tidy {master off v} : Tidy p b (serviceWrite s master off v) := by
  unfold serviceWrite
  split <;> grind [onService_tidy, mgmtWrite_tidy]
theorem treeRegRead_tidy {off incs} : Tidy p b (treeRegRead s off incs).2 := by
  unfold treeRegRead
  split <;> grind [onNet_tidy, ro, rc]
theorem niRead_tidy {n r incs} : Tidy p b (niRead s n r incs).2 := by
  unfold niRead
  split <;> grind [onNi_tidy, ro, rc]
theorem niWrite_tidy {n r v} : Tidy p b (niWrite s n r v) := by
  unfold niWrite
  split <;> grind [niCtl_tidy, onNi_tidy, routeWrite_tidy]
theorem spindleRead_tidy {off incs} : Tidy p b (spindleRead s off incs).2 := by
  grind [spindleRead, clockRead_tidy, granRead_tidy, serviceRead_tidy, niRead_tidy, treeRegRead_tidy]
theorem spindleWrite_tidy {master off v} : Tidy p b (spindleWrite s master off v) := by
  grind [spindleWrite, clockWrite_tidy, granWrite_tidy, serviceWrite_tidy, niWrite_tidy, onNet_tidy]

/-! #### Registers of the other units -/

theorem weirRegRead_tidy {w off incs} : Tidy p b (weirRegRead s w off incs).2 := by
  unfold weirRegRead
  split <;> grind [onWeir_tidy, ro, rc]
theorem weirRegWrite_tidy {w off v} : Tidy p b (weirRegWrite s w off v) := by
  unfold weirRegWrite
  split <;> grind [weirCfg_tidy, onWeir_tidy]
theorem camRead_tidy {c r incs} : Tidy p b (camRead s c r incs).2 := by
  unfold camRead
  split <;> grind [onCam_tidy, ro, rc]
theorem imuRead_tidy {i r} : Tidy p b (imuRead s i r).2 := by grind [imuRead, ro_tidy]
theorem encRead_tidy {e r incs} : Tidy p b (encRead s e r incs).2 := by
  unfold encRead
  split <;> grind [onGauge_tidy, ro, rc]
theorem timeRead_tidy {off incs} : Tidy p b (timeRead s off incs).2 := by
  unfold timeRead
  split <;> grind [timeLo_tidy, onGauge_tidy, ro, rc]
theorem gaugeRead_tidy {off incs} : Tidy p b (gaugeRead s off incs).2 := by
  grind [gaugeRead, camRead_tidy, encRead_tidy, imuRead_tidy, timeRead_tidy]
theorem camWrite_tidy {c r v} : Tidy p b (camWrite s c r v) := by
  unfold camWrite
  split <;> grind [onCam_tidy]
theorem imuWrite_tidy {i r v} : Tidy p b (imuWrite s i r v) := by grind [imuWrite, onGauge_tidy]
theorem timeWrite_tidy {off v} : Tidy p b (timeWrite s off v) := by
  unfold timeWrite
  split <;> grind [onGauge_tidy, slewSet_tidy, timeLoadHi_tidy, injectRecord_tidy]
theorem gaugeWrite_tidy {off v} : Tidy p b (gaugeWrite s off v) := by
  grind [gaugeWrite, camWrite_tidy, onGauge_tidy, imuWrite_tidy, timeWrite_tidy]
theorem nodeRead_tidy {k r} : Tidy p b (nodeRead s k r).2 := by
  unfold nodeRead
  split <;> grind [ro]
theorem chanRead_tidy {ch r} : Tidy p b (chanRead s ch r).2 := by
  unfold chanRead
  split <;> grind [ro]
theorem spigotRead_tidy {off incs} : Tidy p b (spigotRead s off incs).2 := by
  unfold spigotRead
  split <;> grind [onSpigot_tidy, nodeRead_tidy, chanRead_tidy, ro, rc]
theorem nodeWrite_tidy {k r v} : Tidy p b (nodeWrite s k r v) := by
  unfold nodeWrite
  split <;> grind [onSpigot_tidy]
theorem chanWrite_tidy {ch r v} : Tidy p b (chanWrite s ch r v) := by
  unfold chanWrite
  split <;> grind [onSpigot_tidy]
theorem spigotWrite_tidy {off v} : Tidy p b (spigotWrite s off v) := by
  unfold spigotWrite
  split <;> grind [spigotCtl_tidy, onSpigot_tidy, nodeWrite_tidy, chanWrite_tidy]
theorem ringRead_tidy {q r} : Tidy p b (ringRead s q r).2 := by
  unfold ringRead
  split <;> grind [ro]
theorem macRead_tidy {m off incs} : Tidy p b (macRead s m off incs).2 := by
  unfold macRead
  split <;> grind [onMac_tidy, ringRead_tidy, ro, rc]
theorem macWrite_tidy {m off v} : Tidy p b (macWrite s m off v) := by
  unfold macWrite
  split <;> grind [onMac_tidy, gateChange_tidy, txDoorbell_tidy]
theorem canRead_tidy {n off incs} : Tidy p b (canRead s n off incs).2 := by
  unfold canRead
  split <;> grind [onCan_tidy, ringRead_tidy, ro, rc]
theorem canWrite_tidy {n off v} : Tidy p b (canWrite s n off v) := by
  unfold canWrite
  split <;> grind [canCtl_tidy, onCan_tidy, canDoorbell_tidy]
theorem groupRead_tidy {off} : Tidy p b (groupRead s off).2 := by grind [groupRead, ro_tidy]
theorem flumeRead_tidy {p' off incs} : Tidy p b (flumeRead s p' off incs).2 := by
  unfold flumeRead
  split <;> grind [onPort_tidy, groupRead_tidy, ro, rc]
theorem groupWrite_tidy {off v} : Tidy p b (groupWrite s off v) := by grind [groupWrite, groupCfg_tidy, flumeRoute_tidy, onFlume_tidy]
theorem flumeWrite_tidy {p' off v} : Tidy p b (flumeWrite s p' off v) := by grind [flumeWrite, portCtl_tidy, groupWrite_tidy]
theorem vaultRegRead_tidy {off incs} : Tidy p b (vaultRegRead s off incs).2 := by
  unfold vaultRegRead
  split <;> grind [onVault_tidy, Vault.stored, ro, rc]
theorem fmtWrite_tidy {v} : Tidy p b (fmtWrite s v) := by grind [fmtWrite, draw_tidy, vaultFormat_tidy]
theorem vaultRegWrite_tidy {off w} : Tidy p b (vaultRegWrite s off w) := by
  unfold vaultRegWrite
  split <;> grind [vaultCtl_tidy, onVault_tidy, fmtWrite_tidy, Vault.stored]
theorem clapChanRead_tidy {c r} : Tidy p b (clapChanRead s c r).2 := by
  unfold clapChanRead
  split <;> grind [ro]
theorem clapperRead_tidy {off incs} : Tidy p b (clapperRead s off incs).2 := by
  unfold clapperRead
  split <;> grind [onClapper_tidy, clapChanRead_tidy, ro, rc]

theorem clapChanCtl_tidy {c v} : Tidy p b (clapChanCtl s c v) := by
  unfold clapChanCtl
  have hset : Tidy p b (onClapper s fun x => { x with chans := vmod x.chans c fun ch => { ch with trigFx := fin 64 (bitsOf v 5 0) } }) :=
    onClapper_tidy h fun _ hx => hx
  have hgo := ite_tidy (c := bitOf v 31 = true) (trigWrite_tidy hset (c := c)) hset
  exact ite_tidy (onClapper_tidy hgo fun _ hx => by rwa [stop_library]) hgo

theorem clapperWrite_tidy {off v} : Tidy p b (clapperWrite s off v) := by
  unfold clapperWrite
  split <;> grind [clpCtl_tidy, onClapper_tidy, clapChanCtl_tidy]
theorem assayRead_tidy {off incs} : Tidy p b (assayRead s off incs).2 := by
  unfold assayRead
  split <;> grind [onAssay_tidy, ro, rc]
theorem reportWrite_tidy {v} : Tidy p b (reportWrite s v) := onAssay_tidy h
theorem assayWrite_tidy {off v} : Tidy p b (assayWrite s off v) := by
  unfold assayWrite
  split <;> grind [onAssay_tidy, reportWrite_tidy]
theorem lifecycleRead_tidy {off} : Tidy p b (lifecycleRead s off).2 := by
  unfold lifecycleRead
  split <;> grind [ro]
theorem lifecycleWrite_tidy {off v} : Tidy p b (lifecycleWrite s off v) := by
  unfold lifecycleWrite
  split <;> grind [lcWrite_tidy, bootDoorbell_tidy, onAssay_tidy]

/-! #### The Tally tree -/

theorem blockRead_tidy {b' off incs} : Tidy p b (blockRead s b' off incs).2 := by
  unfold blockRead
  split <;> grind [spindleRead_tidy, controlRead_tidy, millRead_tidy, flumeRead_tidy, gaugeRead_tidy, spigotRead_tidy, weirRegRead_tidy, vaultRegRead_tidy,
      clapperRead_tidy, assayRead_tidy, lifecycleRead_tidy, macRead_tidy, canRead_tidy, ro]
theorem blockWrite_tidy {master b' off v} : Tidy p b (blockWrite s master b' off v) := by
  unfold blockWrite
  split <;> grind [spindleWrite_tidy, controlWrite_tidy, millWriteReg_tidy, flumeWrite_tidy, gaugeWrite_tidy, spigotWrite_tidy, weirRegWrite_tidy,
      vaultRegWrite_tidy, clapperWrite_tidy, assayWrite_tidy, lifecycleWrite_tidy, macWrite_tidy, canWrite_tidy]
theorem decodeErr_tidy : Tidy p b (decodeErr s) := onNet_tidy h fun _ hx => hx
theorem answer_tidy {m err data} : Tidy p b (answer s m err data) := onNet_tidy h fun _ hx => hx

theorem endTxn_tidy {m t err data} : Tidy p b (endTxn s m t err data) := by
  have hend : Tidy p b (onNet (answer s m err data) fun n => { n with txns := vmod n.txns m fun _ => none }) := onNet_tidy (answer_tidy h) fun _ hn => hn
  exact ite_tidy h (ite_tidy (onNet_tidy hend fun _ hn => hn) hend)

theorem leafAct_tidy {m t'} : Tidy p b (leafAct s m t').2 := by grind [leafAct, blockWrite_tidy, blockRead_tidy]
theorem portTakes_tidy {t'} : Tidy p b (portTakes s t').2 := by grind [portTakes, onMill_tidy, protoErr_tidy, Mill.stored]
theorem portFree_tidy {t'} : Tidy p b (portFree s t') := by grind [portFree, onMill_tidy, Mill.stored]
theorem grantTxn_tidy {m t'} : Tidy p b (grantTxn s m t') := by
  grind [grantTxn, endTxn_tidy, decodeErr_tidy, portTakes_tidy, leafAct_tidy, onNet_tidy]
theorem feedBar0_tidy : Tidy p b (feedBar0 s) := by grind [feedBar0, onNet_tidy]

theorem serveTree_tidy {k} : Tidy p b (serveTree k s) := by
  induction k generalizing s with
  | zero => exact h
  | succ k ih =>
    unfold serveTree
    dsimp only
    split
    · exact feedBar0_tidy h
    · exact ih (grantTxn_tidy (onNet_tidy (feedBar0_tidy h) fun _ hn => by exact hn))

theorem serveAll_tidy : Tidy p b (serveAll s) := serveTree_tidy h
theorem sendTxn_tidy {master addr write v prompt} : Tidy p b (sendTxn s master addr write v prompt) := by
  grind [sendTxn, serveAll_tidy, onNet_tidy]
theorem txnTimeout_tidy {m} : Tidy p b (txnTimeout s m) := by grind [txnTimeout, onNet_tidy, serveAll_tidy, endTxn_tidy]
theorem answered_tidy {m t'} : Tidy p b (answered s m t').2 := by grind [answered, leafAct_tidy, portFree_tidy]
theorem txnAnswer_tidy {m} : Tidy p b (txnAnswer s m) := by grind [txnAnswer, answered_tidy, serveAll_tidy, endTxn_tidy]

theorem txnLate_tidy {m} : Tidy p b (txnLate s m) := by
  unfold txnLate
  split
  · exact h
  · exact onNet_tidy (answered_tidy (onNet_tidy h fun _ hn => by exact hn)) fun _ hn => by exact hn

theorem csrWrite_tidy {master addr v} : Tidy p b (csrWrite s master addr v) := by grind [csrWrite, decodeErr_tidy, blockWrite_tidy]
theorem csrRead_tidy {master addr incs} : Tidy p b (csrRead s master addr incs) := by
  grind [csrRead, answer_tidy, decodeErr_tidy, blockRead_tidy]
theorem bar0Read_tidy {off dws be prompt} : Tidy p b (bar0Read s off dws be prompt) := by grind [bar0Read, onNet_tidy, serveAll_tidy]

theorem bar0Write_tidy {off dws be v prompt} : Tidy p b (bar0Write s off dws be v prompt) := by
  unfold bar0Write
  refine ite_tidy h (ite_tidy (onNet_tidy h fun _ hn => hn) (ite_tidy h ?_))
  split
  · refine onNet_tidy h fun n hn => ?_
    split
    · exact writeBytes_wf _ _ hn
    · exact hn
  · exact ite_tidy h (serveAll_tidy (onNet_tidy h fun _ hn => by exact hn))

theorem logAer_tidy : Tidy p b (logAer s) := onNet_tidy h fun _ hx => hx
theorem bar2Read_tidy {off len} : Tidy p b (bar2Read s off len) := by grind [bar2Read, logAer_tidy, onNet_tidy, readRange_tidy]
theorem bar2Write_tidy {off bs} : Tidy p b (bar2Write s off bs) := by grind [bar2Write, logAer_tidy, writeRange_tidy]

end

end Sys2Proof.Machine
end

section
open Sys2Proof.Laws
namespace Sys2Proof.Machine

section
variable {p : List Instr} {b : Prop} {s : State}

/-- The command goes on, and keeps the queue and the canonical form. -/
def Goes (p : List Instr) (b : Prop) (r : Result) : Prop := ∃ t, r = .next t ∧ Tidy p b t

theorem next_goes {t : State} (h : Tidy p b t) : Goes p b (.next t) := ⟨t, rfl, h⟩

theorem live_goes {f : State → State} (h : Tidy p b s) (hf : Tidy p b (f s)) :
    Goes p b (live s f) := ⟨_, rfl, ite_tidy h hf⟩

theorem liveRows_goes {f : State → State} (h : Tidy p b s) (hf : Tidy p b (f s)) :
    Goes p b (liveRows s f) := live_goes h (settleErr_tidy hf)

theorem vppRise_goes {mv : Nat} (h : Tidy p b s) (hm : mv ≤ 3800) : Goes p b (vppRise s mv) := by
  unfold vppRise
  rw [if_neg (Nat.not_lt.mpr hm)]
  exact next_goes (ite_tidy (setVpp_tidy h) h)

theorem vppFall_goes {mv : Nat} (h : Tidy p b s) (hm : mv ≤ 3800) : Goes p b (vppFall s mv) := by
  unfold vppFall
  rw [if_neg (Nat.not_lt.mpr hm)]
  exact next_goes (ite_tidy (setVpp_tidy (foldl_tidy h fun _ _ h => ite_tidy (vppLost_tidy h) h)) h)

theorem recordRam_tidy {m : MillId} {a : Nat} {bs : List Byte} (h : Tidy p b s) :
    Tidy p b (onMill s m fun x => if x.mb.rstN then { x with mb := { x.mb with ttErr := true } }
      else { x with mb := { x.mb with recordRam := writeBytes x.mb.recordRam a bs, ttErr := false } }) := by
  refine onMill_tidy h fun x hx => ?_
  split
  · exact hx
  · rw [Mill.stored, Bool.and_eq_true] at hx ⊢
    exact ⟨hx.1, writeBytes_wf _ _ hx.2⟩

/-- Every command within the ratings goes on and keeps the state tidy: one rule of the model's
operations for each command. -/
theorem exec_goes (c : Instr) (hr : withinRating c = true) (h : Tidy p b s) : Goes p b (exec c s) := by
  cases c with
  | csrWrite master addr value =>
    exact show Goes p b (execCsrWrite master addr value s) from liveRows_goes h (csrWrite_tidy h)
  | rcRead master addr incs =>
    exact show Goes p b (execRcRead master addr incs s) from liveRows_goes h (csrRead_tidy h)
  | dbTail c v => exact show Goes p b (execDbTail c v s) from live_goes h (dbTailWrite_tidy h)
  | dbRcpt c v => exact show Goes p b (execDbRcpt c v s) from liveRows_goes h (dbRcptWrite_tidy h)
  | docketRead c net =>
    exact show Goes p b (execDocketRead c net s) from liveRows_goes h (readDocket_tidy h)
  | handOut => exact show Goes p b (execHandOut s) from liveRows_goes h (handOut_tidy h)
  | waitTimeoutExpire c =>
    exact show Goes p b (execWaitTimeoutExpire c s) from liveRows_goes h (expireWait_tidy h)
  | chuteEnable c v =>
    exact show Goes p b (execChuteEnable c v s) from liveRows_goes h (chCfgWrite_tidy h)
  | chuteDisable c v =>
    exact show Goes p b (execChuteDisable c v s) from liveRows_goes h (chCfgWrite_tidy h)
  | chuteReconfigure c v =>
    exact show Goes p b (execChuteReconfigure c v s) from liveRows_goes h (chCfgWrite_tidy h)
  | phaseHiWrite c v =>
    exact show Goes p b (execPhaseHiWrite c v s) from live_goes h (phaseHi_tidy h)
  | periodNsWrite c v =>
    exact show Goes p b (execPeriodNsWrite c v s) from live_goes h (periodWrite_tidy h)
  | timerRelease c =>
    exact show Goes p b (execTimerRelease c s) from liveRows_goes h (timerFire_tidy h)
  | heldReleaseStart c =>
    exact show Goes p b (execHeldReleaseStart c s) from live_goes h (heldStart_tidy h)
  | bellSetWrite g v =>
    exact show Goes p b (execBellSetWrite g v s) from liveRows_goes h (raiseBells_tidy h)
  | bellClrWrite g v =>
    exact show Goes p b (execBellClrWrite g v s) from live_goes h (clearBells_tidy h)
  | fence c =>
    exact show Goes p b (execFence c s) from liveRows_goes h (controllerOp_tidy h fun _ _ h => h)
  | waitEvent c =>
    exact show Goes p b (execWaitEvent c s) from
      liveRows_goes h (controllerOp_tidy h fun _ _ h => h)
  | signal c =>
    exact show Goes p b (execSignal c s) from
      liveRows_goes h (controllerOp_tidy h fun _ h => by grind [clearBells_tidy, raiseBells_tidy])
  | tenantSwitch =>
    exact show Goes p b (execTenantSwitch s) from liveRows_goes h (tenantStart_tidy h)
  | tenantClearDone m =>
    exact show Goes p b (execTenantClearDone m s) from liveRows_goes h (tenantCleared_tidy h)
  | handout m src msg =>
    exact show Goes p b (execHandout m src msg s) from liveRows_goes h (handoutArrives_tidy h)
  | done m msg => exact show Goes p b (execDone m msg s) from liveRows_goes h (doneArrives_tidy h)
  | abort m src tag chute reason =>
    exact show Goes p b (execAbort m src tag chute reason s) from live_goes h (abortArrives_tidy h)
  | bell m b' => exact show Goes p b (execBell m b' s) from liveRows_goes h (raiseBell_tidy h)
  | edges m chute slot es =>
    exact show Goes p b (execEdges m chute slot es s) from live_goes h (edgesArrive_tidy h)
  | dispatch m => exact show Goes p b (execDispatch m s) from liveRows_goes h (dispatch_tidy h)
  | docketResume m => exact show Goes p b (execDocketResume m s) from live_goes h (resume_tidy h)
  | l2Stage m => exact show Goes p b (execL2Stage m s) from liveRows_goes h (stageL2_tidy h)
  | tileIssue m => exact show Goes p b (execTileIssue m s) from liveRows_goes h (issueTile_tidy h)
  | tileComplete m =>
    exact show Goes p b (execTileComplete m s) from liveRows_goes h (completeTile_tidy h)
  | matmul m => exact show Goes p b (execMatmul m s) from liveRows_goes h (beginWalk_tidy h)
  | matmulAcc m => exact show Goes p b (execMatmulAcc m s) from liveRows_goes h (beginWalk_tidy h)
  | fuse2 m => exact show Goes p b (execFuse2 m s) from liveRows_goes h (beginWalk_tidy h)
  | winnow m => exact show Goes p b (execWinnow m s) from liveRows_goes h (beginWalk_tidy h)
  | hist m => exact show Goes p b (execHist m s) from liveRows_goes h (beginWalk_tidy h)
  | loadw m => exact show Goes p b (execLoadw m s) from liveRows_goes h (loadw_tidy h)
  | bankFillStart m =>
    exact show Goes p b (execBankFillStart m s) from live_goes h (fillStart_tidy h)
  | bankFillDone m =>
    exact show Goes p b (execBankFillDone m s) from liveRows_goes h (fillDone_tidy h)
  | bankSwap m => exact show Goes p b (execBankSwap m s) from live_goes h (bankSwap_tidy h)
  | quernVector m q =>
    exact show Goes p b (execQuernVector m q s) from liveRows_goes h (quernVector_tidy h)
  | quernPartialsOut m =>
    exact show Goes p b (execQuernPartialsOut m s) from live_goes h (partialsOut_tidy h)
  | scrubRead m p' bankB find =>
    exact show Goes p b (execScrubRead m p' bankB find s) from liveRows_goes h (scrubRead_tidy h)
  | rowRepairDone m p' bankB =>
    exact show Goes p b (execRowRepairDone m p' bankB s) from live_goes h (repairDone_tidy h)
  | qmapWrite m v => exact show Goes p b (execQmapWrite m v s) from live_goes h (qmapWrite_tidy h)
  | remapDone m => exact show Goes p b (execRemapDone m s) from live_goes h (remapDone_tidy h)
  | sluiceVector m =>
    exact show Goes p b (execSluiceVector m s) from liveRows_goes h (sluiceVector_tidy h)
  | sluicePartialsOut m =>
    exact show Goes p b (execSluicePartialsOut m s) from live_goes h (sluiceOut_tidy h)
  | sluProg m => exact show Goes p b (execSluProg m s) from liveRows_goes h (sluProg_tidy h)
  | sluFieldDone m o =>
    exact show Goes p b (execSluFieldDone m o s) from live_goes h (fieldDone_tidy h)
  | sluVerify m scans =>
    exact show Goes p b (execSluVerify m scans s) from live_goes h (sluVerify_tidy h)
  | sluRefresh m scan =>
    exact show Goes p b (execSluRefresh m scan s) from live_goes h (sluRefresh_tidy h)
  | sensorPoll m t =>
    exact show Goes p b (execSensorPoll m t s) from live_goes h (sensorPoll_tidy h)
  | compUpdate m resid =>
    exact show Goes p b (execCompUpdate m resid s) from liveRows_goes h (compUpdate_tidy h)
  | histClear m h' v samples =>
    exact show Goes p b (execHistClear m h' v samples s) from liveRows_goes h (histCfg_tidy h)
  | sigWindowEnd m b' =>
    exact show Goes p b (execSigWindowEnd m b' s) from liveRows_goes h (windowEnd_tidy h)
  | vppSluRise mv =>
    exact show Goes p b (execVppSluRise mv s) from vppRise_goes h (of_decide_eq_true hr)
  | vppSluFall mv =>
    exact show Goes p b (execVppSluFall mv s) from vppFall_goes h (of_decide_eq_true hr)
  | rdRow pkt =>
    exact show Goes p b (execRdRow pkt s) from
      liveRows_goes h (rowPacket_tidy h fun _ h => rowArrives_tidy h)
  | wrRow pkt ecc =>
    exact show Goes p b (execWrRow pkt ecc s) from
      liveRows_goes h (rowPacket_tidy h fun _ h => by grind [respond_tidy, onNi_tidy, rowArrives_tidy])
  | bankSlotGrant bank ecc =>
    exact show Goes p b (execBankSlotGrant bank ecc s) from liveRows_goes h (slotGrant_tidy h)
  | ceWriteback bank =>
    exact show Goes p b (execCeWriteback bank s) from live_goes h (ceWriteback_tidy h)
  | patrolScrubRead bank ecc =>
    exact show Goes p b (execPatrolScrubRead bank ecc s) from liveRows_goes h (patrolRead_tidy h)
  | fill q =>
    exact show Goes p b (execFill q s) from
      liveRows_goes h (engineRun_tidy h fun _ _ h => fillJob_tidy h)
  | copy q net =>
    exact show Goes p b (execCopy q net s) from
      liveRows_goes h (engineRun_tidy h fun _ _ h => copyJob_tidy h)
  | bankEngineNext q =>
    exact show Goes p b (execBankEngineNext q s) from live_goes h (engineNext_tidy h)
  | plotCfgWrite p' v =>
    exact show Goes p b (execPlotCfgWrite p' v s) from live_goes h (plotCfg_tidy h)
  | plotClearDone q =>
    exact show Goes p b (execPlotClearDone q s) from live_goes h (plotCleared_tidy h)
  | granModeWrite v =>
    exact show Goes p b (execGranModeWrite v s) from live_goes h (granMode_tidy h)
  | modeSwitchDone => exact show Goes p b (execModeSwitchDone s) from live_goes h (modeDone_tidy h)
  | spareGo q v => exact show Goes p b (execSpareGo q v s) from live_goes h (spareWrite_tidy h)
  | migrationDone q ecc =>
    exact show Goes p b (execMigrationDone q ecc s) from liveRows_goes h (migrationDone_tidy h)
  | weirBind w => exact show Goes p b (execWeirBind w s) from liveRows_goes h (bindStart_tidy h)
  | bindComplete w =>
    exact show Goes p b (execBindComplete w s) from liveRows_goes h (bindDone_tidy h)
  | measurementRecord w r =>
    exact show Goes p b (execMeasurementRecord w r s) from live_goes h (takeRecord_tidy h)
  | solve w => exact show Goes p b (execSolve w s) from liveRows_goes h (solveStart_tidy h)
  | solveDelta w =>
    exact show Goes p b (execSolveDelta w s) from liveRows_goes h (solveStart_tidy h)
  | solveComplete w =>
    exact show Goes p b (execSolveComplete w s) from liveRows_goes h (solveDone_tidy h)
  | weirTenantWrite w v =>
    exact show Goes p b (execWeirTenantWrite w v s) from live_goes h (weirCfg_tidy h)
  | csiLongPacket c p' =>
    exact show Goes p b (execCsiLongPacket c p' s) from liveRows_goes h (longPacket_tidy h)
  | bandComplete c =>
    exact show Goes p b (execBandComplete c s) from liveRows_goes h (bandBell_tidy h)
  | frameStart c vc frame =>
    exact show Goes p b (execFrameStart c vc frame s) from liveRows_goes h (frameBegin_tidy h)
  | frameEnd c vc =>
    exact show Goes p b (execFrameEnd c vc s) from liveRows_goes h (frameFinish_tidy h)
  | gaugeArm => exact show Goes p b (execGaugeArm s) from liveRows_goes h (gaugeArmOp_tidy h)
  | relAddWrite c v => exact show Goes p b (execRelAddWrite c v s) from live_goes h (onCam_tidy h)
  | slewWrite v => exact show Goes p b (execSlewWrite v s) from live_goes h (slewSet_tidy h)
  | timeLoad hi => exact show Goes p b (execTimeLoad hi s) from live_goes h (timeLoadHi_tidy h)
  | timeLoRead master =>
    exact show Goes p b (execTimeLoRead master s) from live_goes h (timeLo_tidy (answer_tidy h))
  | ppsEdge p' => exact show Goes p b (execPpsEdge p' s) from live_goes h (ppsRise_tidy h)
  | ppsHoldover =>
    exact show Goes p b (execPpsHoldover s) from liveRows_goes h (holdoverStart_tidy h)
  | encoderEdge e step =>
    exact show Goes p b (execEncoderEdge e step s) from live_goes h (encoderStep_tidy h)
  | imuDrdyEdge idx =>
    exact show Goes p b (execImuDrdyEdge idx s) from live_goes h (imuTrigger_tidy h)
  | imuTimer idx => exact show Goes p b (execImuTimer idx s) from live_goes h (imuTrigger_tidy h)
  | imuBurstDone idx bursts =>
    exact show Goes p b (execImuBurstDone idx bursts s) from live_goes h (burstsDone_tidy h)
  | recordPendingServe =>
    exact show Goes p b (execRecordPendingServe s) from live_goes h (servePending_tidy h)
  | recInjWrite w7 =>
    exact show Goes p b (execRecInjWrite w7 s) from live_goes h (injectRecord_tidy h)
  | spigotSchedule m =>
    exact show Goes p b (execSpigotSchedule m s) from liveRows_goes h (spigotSchedule_tidy h)
  | edgeAccept => exact show Goes p b (execEdgeAccept s) from liveRows_goes h (edgeAccept_tidy h)
  | edgeDue ch => exact show Goes p b (execEdgeDue ch s) from live_goes h (edgeDue_tidy h)
  | pwmHitEnd ch => exact show Goes p b (execPwmHitEnd ch s) from live_goes h (hitEnd_tidy h)
  | pwmPeriodStart ch =>
    exact show Goes p b (execPwmPeriodStart ch s) from live_goes h (periodStart_tidy h)
  | safePinFall => exact show Goes p b (execSafePinFall s) from live_goes h (onSpigot_tidy h)
  | safePinRise => exact show Goes p b (execSafePinRise s) from live_goes h (onSpigot_tidy h)
  | forceSafeWrite v =>
    exact show Goes p b (execForceSafeWrite v s) from live_goes h (spigotCtl_tidy h)
  | holdLimitExpire ch =>
    exact show Goes p b (execHoldLimitExpire ch s) from live_goes h (holdLimit_tidy h)
  | gateEntryStart mac =>
    exact show Goes p b (execGateEntryStart mac s) from liveRows_goes h (gateStart_tidy h)
  | heartbeatTimer k =>
    exact show Goes p b (execHeartbeatTimer k s) from live_goes h (heartbeat_tidy h)
  | gateListChange mac v =>
    exact show Goes p b (execGateListChange mac v s) from live_goes h (gateChange_tidy h)
  | adminListSwitch mac =>
    exact show Goes p b (execAdminListSwitch mac s) from live_goes h (adminSwitch_tidy h)
  | ethTxDoorbell mac r tail =>
    exact show Goes p b (execEthTxDoorbell mac r tail s) from live_goes h (txDoorbell_tidy h)
  | ethTxDone mac r =>
    exact show Goes p b (execEthTxDone mac r s) from liveRows_goes h (txDone_tidy h)
  | ethRxFrame mac f =>
    exact show Goes p b (execEthRxFrame mac f s) from liveRows_goes h (rxFrame_tidy h)
  | canRxFrame n f => exact show Goes p b (execCanRxFrame n f s) from liveRows_goes h (canRx_tidy h)
  | canTxDoorbell n r tail =>
    exact show Goes p b (execCanTxDoorbell n r tail s) from live_goes h (canDoorbell_tidy h)
  | canTxDone n => exact show Goes p b (execCanTxDone n s) from liveRows_goes h (canTxDone_tidy h)
  | canBusOff n => exact show Goes p b (execCanBusOff n s) from live_goes h (canOff_tidy h)
  | canRecover n v => exact show Goes p b (execCanRecover n v s) from live_goes h (canCtl_tidy h)
  | routerPacket q pkt sideband =>
    exact show Goes p b (execRouterPacket q pkt sideband s) from live_goes h (routerPacket_tidy h)
  | rdResp pkt ecc =>
    exact show Goes p b (execRdResp pkt ecc s) from live_goes h (takeResponse_tidy h)
  | wrResp pkt => exact show Goes p b (execWrResp pkt s) from live_goes h (takeResponse_tidy h)
  | msgResp pkt => exact show Goes p b (execMsgResp pkt s) from live_goes h (takeResponse_tidy h)
  | niTimeout n slot =>
    exact show Goes p b (execNiTimeout n slot s) from live_goes h (niTimeout_tidy h)
  | rejoin n => exact show Goes p b (execRejoin n s) from live_goes h (rejoinNi_tidy h)
  | flush n => exact show Goes p b (execFlush n s) from live_goes h (flushNi_tidy h)
  | routeWrite n d v =>
    exact show Goes p b (execRouteWrite n d v s) from live_goes h (routeWrite_tidy h)
  | routeTakeEffect n d =>
    exact show Goes p b (execRouteTakeEffect n d s) from live_goes h (applyRoute_tidy h)
  | treeRead master addr prompt =>
    exact show Goes p b (execTreeRead master addr prompt s) from liveRows_goes h (sendTxn_tidy h)
  | treeWrite master addr v prompt =>
    exact show Goes p b (execTreeWrite master addr v prompt s) from liveRows_goes h (sendTxn_tidy h)
  | treeTimeout master =>
    exact show Goes p b (execTreeTimeout master s) from liveRows_goes h (txnTimeout_tidy h)
  | treeAnswer master late =>
    exact show Goes p b (execTreeAnswer master late s) from
      liveRows_goes h (ite_tidy (txnLate_tidy h) (txnAnswer_tidy h))
  | flumePortEnable p' v =>
    exact show Goes p b (execFlumePortEnable p' v s) from liveRows_goes h (portCtl_tidy h)
  | flumePortDisable p' v =>
    exact show Goes p b (execFlumePortDisable p' v s) from liveRows_goes h (portCtl_tidy h)
  | peerDetect p' => exact show Goes p b (execPeerDetect p' s) from live_goes h (train_tidy h)
  | adaptDone p' => exact show Goes p b (execAdaptDone p' s) from live_goes h (train_tidy h)
  | alignDone p' map => exact show Goes p b (execAlignDone p' map s) from live_goes h (train_tidy h)
  | param p' group node port =>
    exact show Goes p b (execParam p' group node port s) from live_goes h (paramDone_tidy h)
  | trainTimeout p' =>
    exact show Goes p b (execTrainTimeout p' s) from live_goes h (trainExpired_tidy h)
  | retrainTimer p' => exact show Goes p b (execRetrainTimer p' s) from live_goes h (retrain_tidy h)
  | recoverDone p' width8 ok =>
    exact show Goes p b (execRecoverDone p' width8 ok s) from live_goes h (recovered_tidy h)
  | flitReceive p' f =>
    exact show Goes p b (execFlitReceive p' f s) from live_goes h (flitIn_tidy h)
  | nak p' ack => exact show Goes p b (execNak p' ack s) from live_goes h (nakTo_tidy h)
  | idleTimer p' => exact show Goes p b (execIdleTimer p' s) from live_goes h (train_tidy h)
  | laneSwap p' lane immediate seq =>
    exact show Goes p b (execLaneSwap p' lane immediate seq s) from
      liveRows_goes h (swapAsked_tidy h)
  | swapAck p' lane immediate seq =>
    exact show Goes p b (execSwapAck p' lane immediate seq s) from live_goes h (swapAcked_tidy h)
  | disable p' =>
    exact show Goes p b (execDisable p' s) from live_goes h (ite_tidy (portDown_tidy h) h)
  | swapThreshold p' lane errors =>
    exact show Goes p b (execSwapThreshold p' lane errors s) from
      liveRows_goes h (swapThresh_tidy h)
  | swapReq p' v => exact show Goes p b (execSwapReq p' v s) from liveRows_goes h (portCtl_tidy h)
  | immediateSwapTrigger p' lane =>
    exact show Goes p b (execImmediateSwapTrigger p' lane s) from liveRows_goes h (swapNow_tidy h)
  | swapSwitch p' => exact show Goes p b (execSwapSwitch p' s) from live_goes h (swapDone_tidy h)
  | flumeEgressPacket p' pkt =>
    exact show Goes p b (execFlumeEgressPacket p' pkt s) from live_goes h (egressPacket_tidy h)
  | flumeIngressPacket p' pkt =>
    exact show Goes p b (execFlumeIngressPacket p' pkt s) from
      liveRows_goes h (ingressPacket_tidy h)
  | ingressIssue p' =>
    exact show Goes p b (execIngressIssue p' s) from live_goes h (ingressIssue_tidy h)
  | groupCfgWrite v =>
    exact show Goes p b (execGroupCfgWrite v s) from live_goes h (groupCfg_tidy h)
  | flumeRouteWrite n v =>
    exact show Goes p b (execFlumeRouteWrite n v s) from live_goes h (flumeRoute_tidy h)
  | windowOpen =>
    exact show Goes p b (execWindowOpen s) from
      liveRows_goes h (fwJob_tidy h fun _ _ h => openWindow_tidy h)
  | getS node line =>
    exact show Goes p b (execGetS node line s) from
      liveRows_goes h (fromNode_tidy h fun _ h => homeRequest_tidy h)
  | getM node line =>
    exact show Goes p b (execGetM node line s) from
      liveRows_goes h (fromNode_tidy h fun _ h => homeRequest_tidy h)
  | evictClean node line =>
    exact show Goes p b (execEvictClean node line s) from
      liveRows_goes h (fromNode_tidy h fun _ h => evictIn_tidy h)
  | evictDirty node line data =>
    exact show Goes p b (execEvictDirty node line data s) from
      liveRows_goes h (fromNode_tidy h fun _ h => evictIn_tidy h)
  | homeOp node line op word operand compare =>
    exact show Goes p b (execHomeOp node line op word operand compare s) from
      liveRows_goes h (fromNode_tidy h fun _ h => homeRequest_tidy h)
  | homeTxnStart line =>
    exact show Goes p b (execHomeTxnStart line s) from liveRows_goes h (nextTxn_tidy h)
  | snpShare home line =>
    exact show Goes p b (execSnpShare home line s) from
      live_goes h (fromNode_tidy h fun _ h => snoopIn_tidy h)
  | snpInv home line =>
    exact show Goes p b (execSnpInv home line s) from
      live_goes h (fromNode_tidy h fun _ h => snoopIn_tidy h)
  | snpAck node line crossed =>
    exact show Goes p b (execSnpAck node line crossed s) from
      liveRows_goes h (fromNode_tidy h fun _ h => snoopAnswer_tidy h)
  | snpData node line crossed data =>
    exact show Goes p b (execSnpData node line crossed data s) from
      liveRows_goes h (fromNode_tidy h fun _ h => snoopAnswer_tidy h)
  | dataS home line data =>
    exact show Goes p b (execDataS home line data s) from
      live_goes h (fromNode_tidy h fun _ h => grantIn_tidy h)
  | dataM home line data =>
    exact show Goes p b (execDataM home line data s) from
      live_goes h (fromNode_tidy h fun _ h => grantIn_tidy h)
  | evictAck home line =>
    exact show Goes p b (execEvictAck home line s) from
      live_goes h (fromNode_tidy h fun _ h => evictAcked_tidy h)
  | homeResult home line old status =>
    exact show Goes p b (execHomeResult home line old status s) from
      live_goes h (fromNode_tidy h fun _ h => resultIn_tidy h)
  | ledgerOpGo slot v =>
    exact show Goes p b (execLedgerOpGo slot v s) from live_goes h (slotGo_tidy h)
  | ledgerOpTimeout slot =>
    exact show Goes p b (execLedgerOpTimeout slot s) from liveRows_goes h (slotTimeout_tidy h)
  | nodeGoneSet v => exact show Goes p b (execNodeGoneSet v s) from live_goes h (goneSet_tidy h)
  | goneDone => exact show Goes p b (execGoneDone s) from liveRows_goes h (goneFinish_tidy h)
  | vaultRead cws =>
    exact show Goes p b (execVaultRead cws s) from liveRows_goes h (vaultRead_tidy h)
  | vaultWrite cws =>
    exact show Goes p b (execVaultWrite cws s) from liveRows_goes h (vaultWrite_tidy h)
  | vaultFormat v factoryBad =>
    exact show Goes p b (execVaultFormat v factoryBad s) from liveRows_goes h (vaultFormat_tidy h)
  | vaultEnable v => exact show Goes p b (execVaultEnable v s) from live_goes h (vaultCtl_tidy h)
  | wearLevelMove boot =>
    exact show Goes p b (execWearLevelMove boot s) from live_goes h (wearMove_tidy h)
  | readDisturbReloc block =>
    exact show Goes p b (execReadDisturbReloc block s) from live_goes h (readDisturb_tidy h)
  | retentionPatrol block cw =>
    exact show Goes p b (execRetentionPatrol block cw s) from live_goes h (retention_tidy h)
  | chunkVerify section_ chunk cws =>
    exact show Goes p b (execChunkVerify section_ chunk cws s) from
      liveRows_goes h (chunkVerify_tidy h)
  | porAssert => exact show Goes p b (execPorAssert s) from next_goes (porAssert_tidy h)
  | porRelease => exact show Goes p b (execPorRelease s) from next_goes (porRelease_tidy h)
  | spindleLock => exact show Goes p b (execSpindleLock s) from next_goes (spindleLock_tidy h)
  | fuseLoad => exact show Goes p b (execFuseLoad s) from live_goes h (fuseLoad_tidy h)
  | resetTest o => exact show Goes p b (execResetTest o s) from live_goes h (resetTest_tidy h)
  | granaryBootClear =>
    exact show Goes p b (execGranaryBootClear s) from live_goes h (bootClear_tidy h)
  | bootRomNandInit g =>
    exact show Goes p b (execBootRomNandInit g s) from live_goes h (nandInit_tidy h)
  | firmwareVerify cws =>
    exact show Goes p b (execFirmwareVerify cws s) from live_goes h (firmwareVerify_tidy h)
  | firmwareInit => exact show Goes p b (execFirmwareInit s) from live_goes h (firmwareInit_tidy h)
  | vaultMount => exact show Goes p b (execVaultMount s) from live_goes h (vaultMount_tidy h)
  | gristSelect => exact show Goes p b (execGristSelect s) from live_goes h (gristSelect_tidy h)
  | sluiceCheck => exact show Goes p b (execSluiceCheck s) from live_goes h (sluiceCheck_tidy h)
  | bootStream => exact show Goes p b (execBootStream s) from live_goes h (bootStream_tidy h)
  | bootSluiceProgram =>
    exact show Goes p b (execBootSluiceProgram s) from liveRows_goes h (bootSluice_tidy h)
  | bootSluiceRefresh m =>
    exact show Goes p b (execBootSluiceRefresh m s) from liveRows_goes h (bootRefresh_tidy h)
  | softReset v => exact show Goes p b (execSoftReset v s) from live_goes h (softReset_tidy h)
  | lockLost => exact show Goes p b (execLockLost s) from next_goes (lockLost_tidy h)
  | thermalTrip tj => exact show Goes p b (execThermalTrip tj s) from next_goes (thermalTrip_tidy h)
  | thermWarn tj =>
    exact show Goes p b (execThermWarn tj s) from liveRows_goes h (reportTemp_tidy h)
  | perst => exact show Goes p b (execPerst s) from next_goes (perstFall_tidy h)
  | clpTrigEdge p' => exact show Goes p b (execClpTrigEdge p' s) from live_goes h (pinEdge_tidy h)
  | trig c => exact show Goes p b (execTrig c s) from live_goes h (trigWrite_tidy h)
  | stop c =>
    exact show Goes p b (execStop c s) from
      live_goes h (onClapper_tidy h fun _ hx => by rwa [stop_library])
  | attackEnd c => exact show Goes p b (execAttackEnd c s) from live_goes h (attackEnd_tidy h)
  | sustainEnd c => exact show Goes p b (execSustainEnd c s) from live_goes h (sustainEnd_tidy h)
  | brakeEmfSample v =>
    exact show Goes p b (execBrakeEmfSample v s) from live_goes h (brakeEmf_tidy h)
  | brakingEnd c => exact show Goes p b (execBrakingEnd c s) from live_goes h (brakingEnd_tidy h)
  | clapLoad => exact show Goes p b (execClapLoad s) from liveRows_goes h (clapLoad_tidy h)
  | touchReading r =>
    exact show Goes p b (execTouchReading r s) from liveRows_goes h (touchReading_tidy h)
  | evtPop => exact show Goes p b (execEvtPop s) from live_goes h (onClapper_tidy h fun _ hx => hx)
  | assayRun => exact show Goes p b (execAssayRun s) from liveRows_goes h (assayRun_tidy h)
  | lbistComplete signature expected =>
    exact show Goes p b (execLbistComplete signature expected s) from
      liveRows_goes h (lbistDone_tidy h)
  | mbistComplete o =>
    exact show Goes p b (execMbistComplete o s) from liveRows_goes h (mbistDone_tidy h)
  | prbsComplete errors bits =>
    exact show Goes p b (execPrbsComplete errors bits s) from liveRows_goes h (prbsDone_tidy h)
  | fieldSliceTimer =>
    exact show Goes p b (execFieldSliceTimer s) from liveRows_goes h (fieldSlice_tidy h)
  | urgentMillsWrite v =>
    exact show Goes p b (execUrgentMillsWrite v s) from liveRows_goes h (urgentWrite_tidy h)
  | advance v => exact show Goes p b (execAdvance v s) from live_goes h (lcWrite_tidy h)
  | newNonce v random =>
    exact show Goes p b (execNewNonce v random s) from live_goes h (lcCtl_tidy h)
  | tokenGo v => exact show Goes p b (execTokenGo v s) from live_goes h (lcWrite_tidy h)
  | tokenVerifyDone =>
    exact show Goes p b (execTokenVerifyDone s) from live_goes h (tokenDone_tidy h)
  | bootDoorbell v =>
    exact show Goes p b (execBootDoorbell v s) from liveRows_goes h (bootDoorbell_tidy h)
  | idcode => exact show Goes p b (execIdcode s) from next_goes (tapSelect_tidy h)
  | samplePreload pins preload =>
    exact show Goes p b (execSamplePreload pins preload s) from next_goes (tapSelect_tidy h)
  | extest pins preload =>
    exact show Goes p b (execExtest pins preload s) from next_goes (tapSelect_tidy h)
  | extestPulse pins preload =>
    exact show Goes p b (execExtestPulse pins preload s) from next_goes (tapSelect_tidy h)
  | extestTrain pins preload =>
    exact show Goes p b (execExtestTrain pins preload s) from next_goes (tapSelect_tidy h)
  | clamp => exact show Goes p b (execClamp s) from next_goes (tapSelect_tidy h)
  | highz => exact show Goes p b (execHighz s) from next_goes (tapSelect_tidy h)
  | assayAccess => exact show Goes p b (execAssayAccess s) from next_goes (tapSelect_tidy h)
  | lcAdvance target =>
    exact show Goes p b (execLcAdvance target s) from next_goes (tapSelect_tidy h)
  | bypass code => exact show Goes p b (execBypass code s) from next_goes (tapSelect_tidy h)
  | unitState => exact show Goes p b (execUnitState s) from liveRows_goes h (svcRun_tidy h)
  | resetUnit => exact show Goes p b (execResetUnit s) from liveRows_goes h (svcRun_tidy h)
  | drainComplete u =>
    exact show Goes p b (execDrainComplete u s) from liveRows_goes h (drainDone_tidy h)
  | drainTimeout u =>
    exact show Goes p b (execDrainTimeout u s) from liveRows_goes h (drainExpired_tidy h)
  | svcIsolate u =>
    exact show Goes p b (execSvcIsolate u s) from liveRows_goes h (isolateStep_tidy h)
  | svcReset u => exact show Goes p b (execSvcReset u s) from liveRows_goes h (resetStep_tidy h)
  | svcReinit u => exact show Goes p b (execSvcReinit u s) from liveRows_goes h (reinitStep_tidy h)
  | svcRejoin u => exact show Goes p b (execSvcRejoin u s) from liveRows_goes h (rejoinStep_tidy h)
  | unitMgmtForce master u v =>
    exact show Goes p b (execUnitMgmtForce master u v s) from live_goes h (mgmtWrite_tidy h)
  | stateAudit => exact show Goes p b (execStateAudit s) from liveRows_goes h (stateAudit_tidy h)
  | fwStage => exact show Goes p b (execFwStage s) from liveRows_goes h (fwStage_tidy h)
  | millerFailover =>
    exact show Goes p b (execMillerFailover s) from liveRows_goes h (millerFail_tidy h)
  | mbPorstRelease m strap flat =>
    exact show Goes p b (execMbPorstRelease m strap flat s) from live_goes h (porstRise_tidy h)
  | mbRstAssert m => exact show Goes p b (execMbRstAssert m s) from live_goes h (rstFall_tidy h)
  | mbRstRelease m flat =>
    exact show Goes p b (execMbRstRelease m flat s) from live_goes h (rstRise_tidy h)
  | mbIso m level =>
    exact show Goes p b (execMbIso m level s) from live_goes h (onMill_tidy h fun _ hx => hx)
  | mbClear m v =>
    exact show Goes p b (execMbClear m v s) from live_goes h (ite_tidy (clearMill_tidy h) h)
  | grResponse m tag st row parityOk =>
    exact show Goes p b (execGrResponse m tag st row parityOk s) from
      live_goes h (rowResponse_tidy h)
  | recordRamWrite m off v =>
    exact show Goes p b (execRecordRamWrite m off v s) from live_goes h (recordRam_tidy h)
  | bar0Read off dws be prompt =>
    exact show Goes p b (execBar0Read off dws be prompt s) from liveRows_goes h (bar0Read_tidy h)
  | bar0Write off dws be v prompt =>
    exact show Goes p b (execBar0Write off dws be v prompt s) from
      liveRows_goes h (bar0Write_tidy h)
  | bar2Read off len =>
    exact show Goes p b (execBar2Read off len s) from liveRows_goes h (bar2Read_tidy h)
  | bar2Write off data =>
    exact show Goes p b (execBar2Write off data s) from liveRows_goes h (bar2Write_tidy h)
  | conv2d m => exact show Goes p b (execConv2d m s) from liveRows_goes h (beginWalk_tidy h)
  | mbPorstAssert m =>
    exact show Goes p b (execMbPorstAssert m s) from live_goes h (porstFall_tidy h)
  | ckSluTick => exact show Goes p b (execCkSluTick s) from live_goes h (sluTick_tidy h)
  | busOffRecoveryDone n =>
    exact show Goes p b (execBusOffRecoveryDone n s) from live_goes h (canRecovered_tidy h)
  | standbyReady =>
    exact show Goes p b (execStandbyReady s) from live_goes h (standbyIsReady_tidy h)
  | perstRelease =>
    exact show Goes p b (execPerstRelease s) from next_goes (onNet_tidy h fun _ hx => hx)

end

theorem vppRise_fault {mv : Nat} (s : State) (hm : 3800 < mv) :
    exec (.vppSluRise mv) s = .fault .ratingExceeded := if_pos hm

theorem vppFall_fault {mv : Nat} (s : State) (hm : 3800 < mv) :
    exec (.vppSluFall mv) s = .fault .ratingExceeded := if_pos hm

/-- Only the rail of the Sluices has a rating, and a level beyond it gives no next state (20 R461). -/
theorem withinRating_of_exec_next {c : Instr} {s t : State} (h : exec c s = .next t) :
    withinRating c = true := by
  refine Classical.byContradiction fun hc => ?_
  unfold withinRating at hc
  split at hc
  · rw [vppRise_fault s (by simpa using hc)] at h
    cases h
  · rw [vppFall_fault s (by simpa using hc)] at h
    cases h
  · exact hc rfl

theorem tidy_withQueue (s : State) (q : List Instr) :
    Tidy q (storesOk s = true) { s with pending := q } := ⟨rfl, id⟩

/-- Settles O59: each operation of the model keeps the stores it writes canonical, so the command
at the front of the queue does. -/
theorem storageStaysCanonical : Obligations.StorageStaysCanonical := by
  intro s t hs hstep
  unfold step at hstep
  split at hstep
  · cases hstep
    exact hs
  · next c rest _ =>
    obtain ⟨u, hu, htidy⟩ :=
      exec_goes c (withinRating_of_exec_next hstep) (tidy_withQueue s rest)
    rw [hu] at hstep
    cases hstep
    exact htidy.stores hs

theorem exec_keeps_queue (c : Instr) (s : State) (hr : withinRating c = true) :
    ∃ t, exec c s = .next t ∧ t.pending = s.pending := by
  obtain ⟨t, ht, htidy⟩ := exec_goes c hr (tidy_withQueue s s.pending)
  exact ⟨t, ht, htidy.queue⟩

/-- A queue of commands within the ratings runs to its end, by induction on the queue. -/
theorem runSteps_ends : ∀ (q : List Instr) (s : State), s.pending = q → q.all withinRating = true →
    ∃ t, runSteps q.length s = .next t ∧ t.pending = []
  | [], s, hq, _ => ⟨s, rfl, hq⟩
  | c :: rest, s, hq, hall => by
    rw [List.all_cons, Bool.and_eq_true] at hall
    obtain ⟨u, hu, hrest⟩ := exec_keeps_queue c { s with pending := rest } hall.1
    have hstep : step s = .next u := by
      unfold step
      rw [hq]
      exact hu
    obtain ⟨t, ht, hend⟩ := runSteps_ends rest u hrest hall.2
    refine ⟨t, ?_, hend⟩
    rw [List.length_cons, runSteps, hstep]
    exact ht

/-- Settles O60: each operation of the model goes on and leaves the queue alone, so the queue runs
to its end one command at a time. -/
theorem ratedCommandsRunTheQueueToItsEnd : Obligations.RatedCommandsRunTheQueueToItsEnd :=
  ⟨exec_keeps_queue, fun _ s hm => ⟨vppRise_fault s hm, vppFall_fault s hm⟩,
    fun s hr => runSteps_ends s.pending s rfl hr⟩

end Sys2Proof.Machine
end
